-- ==== Sys2Proof/Word.lean ====
section
/-! DEFINITION. The word types of the Lumuri X4 and the sparse store used for every array of equal words. -/

namespace Sys2Proof

/-- One byte of memory. -/
abbrev Byte := BitVec 8

/-- A 32-bit lane-register value (03 R53). -/
abbrev Word := BitVec 32

/-- A 64-bit group-register value or address (03 R53, 05 R97). -/
abbrev Dword := BitVec 64

/-- A program counter: line address plus slot number (07 R135). -/
abbrev Pc := BitVec 64

/-- A set of the 32 lanes of a band, bit `l` for lane `l`. -/
abbrev LaneMask := BitVec 32

/-- An array of `w`-bit words of which only the non-zero ones are listed, by rising index. -/
abbrev Sparse (w : Nat) := List (Nat × BitVec w)

/-- Byte memory by address, in the form of `Sparse` (the pairs are the host's cells). -/
abbrev Mem := Sparse 8

end Sys2Proof
end

