-- ==== Sys2Proof/Syntax.lean ====
section
/-! DEFINITION. The instructions of the Ixniotte instruction set and the steps of the machine's other agents: one
constructor for each row of the opcode table. An instruction carries every field of its format, the fields that must
be zero among them, so that a word and its instruction determine each other. -/

namespace Sys2Proof

/-- The sixteen type codes (07 R137). -/
inductive Ty where
  | b32 | s32 | n32 | b64 | s64 | n64 | f32 | f64 | f16 | bf16 | f16x2 | bf16x2 | s16x2 | n16x2 | s8x4 | n8x4
  deriving DecidableEq, Repr, Inhabited

/-- A register specifier (07 R139). -/
structure Spec where
  /-- last use; sources only -/
  kill : Bool
  /-- false: lane register; true: group register -/
  bank : Bool
  /-- register index -/
  idx : BitVec 10
  deriving DecidableEq, Repr, Inhabited

/-- The guard of an instruction: bits [79] and [78:76] (07 R137, R138). -/
structure Guard where
  neg : Bool
  mask : BitVec 3
  deriving DecidableEq, Repr, Inhabited

/-- The R form (07 R141): type, guard, four specifiers and bits [27:0]. -/
structure RForm where
  ty : Ty
  g : Guard
  d : Spec
  a : Spec
  b : Spec
  c : Spec
  /-- bits [27:20], which must be zero -/
  hi : BitVec 8
  rnd : BitVec 3
  sat : Bool
  ftz : Bool
  negA : Bool
  negB : Bool
  negC : Bool
  /-- bits [11:0]; only [10:8] may be SEG (09 R185) -/
  low : BitVec 12
  deriving DecidableEq, Repr, Inhabited

/-- The I form (07 R141): IMM32 stands for operand B. -/
structure IForm where
  ty : Ty
  g : Guard
  d : Spec
  a : Spec
  imm : BitVec 32
  rnd : BitVec 3
  sat : Bool
  ftz : Bool
  negA : Bool
  /-- bits [13:0]; only [10:8] may be SEG in OP 0x64 -/
  low : BitVec 14
  deriving DecidableEq, Repr, Inhabited

/-- An instruction with an I-form twin (07 R146, R150). -/
inductive AForm where
  | r (f : RForm)
  | i (f : IForm)
  deriving DecidableEq, Repr, Inhabited

/-- The M form (07 R142). -/
structure MForm where
  ty : Ty
  g : Guard
  d : Spec
  a : Spec
  b : Spec
  c : Spec
  disp : BitVec 20
  scope : BitVec 3
  order : BitVec 2
  hint : BitVec 2
  idx : Bool
  deriving DecidableEq, Repr, Inhabited

/-- The B form (07 R143). -/
structure BForm where
  ty : Ty
  g : Guard
  d : Spec
  a : Spec
  loff : BitVec 28
  slot : BitVec 3
  wsh : BitVec 9
  /-- bits [11:0], which must be zero -/
  low : BitVec 12
  deriving DecidableEq, Repr, Inhabited

/-- The E form (07 R144); the EFN code is the constructor's. -/
structure EForm where
  ty : Ty
  g : Guard
  d : Spec
  a : Spec
  b : Spec
  /-- bits [39:28], which must be zero -/
  mid : BitVec 12
  reply : Bool
  /-- bits [19:0], which must be zero -/
  low : BitVec 20
  deriving DecidableEq, Repr, Inhabited

/-- The T form (07 R145). -/
structure TForm where
  ty : Ty
  g : Guard
  d : Spec
  tidA : BitVec 8
  tidB : BitVec 8
  tidC : BitVec 8
  crd : Spec
  tile : BitVec 5
  wslot : BitVec 4
  shd : Bool
  rnd : BitVec 3
  /-- bits [14:0], which must be zero -/
  low : BitVec 15
  deriving DecidableEq, Repr, Inhabited

/-- Conditions of `ICMP` (08 R169). -/
inductive ICond where
  | eq | ne | lt | le | gt | ge
  deriving DecidableEq, Repr, Inhabited

/-- Conditions of `FCMP` (08 R177). -/
inductive FCond where
  | eq | ne | lt | le | gt | ge | num | nan
  deriving DecidableEq, Repr, Inhabited

/-- Narrow formats of `CVTQ` and `CVTW` (08 R180). -/
inductive NarrowFmt where
  | e4m3 | e5m2 | e2m1
  deriving DecidableEq, Repr, Inhabited

/-- Operations of `LFOLD` (09 R190). -/
inductive FoldOp where
  | add | min | max | and | or | xor
  deriving DecidableEq, Repr, Inhabited

/-- Operations of `LPFX` (09 R191). -/
inductive PfxOp where
  | add | min | max
  deriving DecidableEq, Repr, Inhabited

/-- Operations of `ATOM` and `RED` (09 R197, R199). -/
inductive AtomOp where
  | add | min | max | and | or | xor | exch | cas | inc | dec
  deriving DecidableEq, Repr, Inhabited

/-- Conditions of `WAITF` (09 R203). -/
inductive WCond where
  | eq | ne | ge | lt
  deriving DecidableEq, Repr, Inhabited

/-- Fields of `RSVGET` and `RSVPUT` (11 R253). -/
inductive RsvField where
  | payload | wsum | phat | w | m | dctr
  deriving DecidableEq, Repr, Inhabited

/-- The part of a group that issues on its own (20 R341, UNIT). -/
inductive Who where
  /-- lanes of a band that share one PC: a band, or a fragment of it -/
  | lanes (band : Nat) (mask : LaneMask)
  /-- the lead stream -/
  | lead
  /-- an affine stream -/
  | stream (n : Nat)
  deriving DecidableEq, Repr, Inhabited

/-- A unit of a resident group: physical core, resident group slot and part. -/
structure UnitRef where
  core : Nat
  rgs : Nat
  who : Who
  deriving DecidableEq, Repr, Inhabited

/-- Where an uncorrectable error strikes (23 R419): a memory line, or on-chip state of a unit. -/
inductive ErrorSite where
  | line (pa : Nat)
  | unit (u : UnitRef)
  deriving DecidableEq, Repr, Inhabited

/-- The arrays of a core whose corrected errors are counted apart (23 R419). -/
inductive CoreArray where
  | regs | scratch | acc | weights
  deriving DecidableEq, Repr, Inhabited

/-- The regions of the error unit (23 R419): an array of a core, a slice of a die's L2 or of the LLC, or a memory channel. -/
inductive Region where
  | array (core : Nat) (a : CoreArray)
  | l2 (die slice : Nat)
  | llc (slice : Nat)
  | channel (n : Nat)
  deriving DecidableEq, Repr, Inhabited

/-- Requests on the host link that time out (24 R422): those of the accesses of the next step, or a texture page's. -/
inductive LinkRequest where
  | access
  | texture (n : Nat)
  deriving DecidableEq, Repr, Inhabited

/-- Where the host reads (24 R420): in BAR0, the control space, by offset, or in memory by physical address. -/
inductive HostAddr where
  | control (off : Nat)
  | memory (pa : Nat)
  deriving DecidableEq, Repr, Inhabited

/-- The bytes that an access of the host to BAR0 takes in (24 R423). -/
structure BarAccess where
  off : Nat
  width : Nat
  deriving DecidableEq, Repr, Inhabited

/-- Power domains (24 R427). -/
inductive PowerDomain where
  | core (n : Nat)
  | die (n : Nat)
  | encoder (n : Nat)
  | channel (n : Nat)
  deriving DecidableEq, Repr, Inhabited

/-- AtomicOps the device completes for the host (24 R420). -/
inductive HostAtomicOp where
  | fetchAdd | swap | cas
  deriving DecidableEq, Repr, Inhabited

/-- Every row of the opcode table: the instructions of 07 R146 to R149 with all fields of their format, the words
that are no instruction (07 R153), and the steps of the other agents (spec/95). -/
inductive Instr where
  /-- `NOP`, R219. -/
  | nop (f : RForm)
  /-- `BRA`, R215. -/
  | bra (f : BForm)
  /-- `JMP`, R215. -/
  | jmp (f : BForm)
  /-- `BRX`, R215. -/
  | brx (f : BForm)
  /-- `CALL`, R216. -/
  | call (f : BForm)
  /-- `CALLI`, R216. -/
  | calli (f : BForm)
  /-- `RET`, R217. -/
  | ret (f : RForm)
  /-- `EXIT`, R218. -/
  | exit (f : RForm)
  /-- `ALLOC`, R220. -/
  | alloc (f : IForm)
  /-- `SPLIT`, R221. -/
  | split (f : RForm)
  /-- `REJOIN`, R221. -/
  | rejoin (f : RForm)
  /-- `REPEAT_IMM`, R222. -/
  | repeatImm (f : IForm)
  /-- `REPEAT_REG`, R222. -/
  | repeatReg (f : IForm)
  /-- `IADD`, R162. -/
  | iadd (f : AForm)
  /-- `ISUB`, R162. -/
  | isub (f : AForm)
  /-- `IMUL`, R162. -/
  | imul (f : AForm)
  /-- `IMULHI`, R162. -/
  | imulhi (f : AForm)
  /-- `IMAD`, R162. -/
  | imad (f : RForm)
  /-- `IADD3`, R162. -/
  | iadd3 (f : RForm)
  /-- `ADDMIN`, R163. -/
  | addmin (f : RForm)
  /-- `ADDMAX`, R163. -/
  | addmax (f : RForm)
  /-- `IMIN`, R164. -/
  | imin (f : AForm)
  /-- `IMAX`, R164. -/
  | imax (f : AForm)
  /-- `MIN3`, R164. -/
  | min3 (f : RForm)
  /-- `MAX3`, R164. -/
  | max3 (f : RForm)
  /-- `IABS`, R164. -/
  | iabs (f : RForm)
  /-- `INEG`, R164. -/
  | ineg (f : RForm)
  /-- `ISAD`, R164. -/
  | isad (f : RForm)
  /-- `IDIV`, R165. -/
  | idiv (f : AForm)
  /-- `IREM`, R165. -/
  | irem (f : AForm)
  /-- `AND`, R166. -/
  | land (f : AForm)
  /-- `OR`, R166. -/
  | lor (f : AForm)
  /-- `XOR`, R166. -/
  | lxor (f : AForm)
  /-- `ANDN`, R166. -/
  | landn (f : AForm)
  /-- `ORN`, R166. -/
  | lorn (f : AForm)
  /-- `NOT`, R166. -/
  | lnot (f : RForm)
  /-- `SHL`, R167. -/
  | shl (f : AForm)
  /-- `SHR`, R167. -/
  | shr (f : AForm)
  /-- `SAR`, R167. -/
  | sar (f : AForm)
  /-- `ROL`, R167. -/
  | rol (f : AForm)
  /-- `ROR`, R167. -/
  | ror (f : AForm)
  /-- `FSHL`, R167. -/
  | fshl (f : RForm)
  /-- `FSHR`, R167. -/
  | fshr (f : RForm)
  /-- `BFX`, R168. -/
  | bfx (f : AForm)
  /-- `BFI`, R168. -/
  | bfi (f : RForm)
  /-- `POPC`, R168. -/
  | popc (f : RForm)
  /-- `CLZ`, R168. -/
  | clz (f : RForm)
  /-- `CTZ`, R168. -/
  | ctz (f : RForm)
  /-- `BREV`, R168. -/
  | brev (f : RForm)
  /-- `ICMP`, R169. -/
  | icmp (x : ICond) (f : AForm)
  /-- `MOV`, R170. -/
  | mov (f : AForm)
  /-- `SEL`, R170. -/
  | sel (f : RForm)
  /-- `KAND`, R171. -/
  | kand (f : AForm)
  /-- `KOR`, R171. -/
  | kor (f : AForm)
  /-- `KXOR`, R171. -/
  | kxor (f : AForm)
  /-- `KANDN`, R171. -/
  | kandn (f : AForm)
  /-- `KNOT`, R171. -/
  | knot (f : AForm)
  /-- `KGET`, R171. -/
  | kget (f : AForm)
  /-- `KSET`, R171. -/
  | kset (f : AForm)
  /-- `LEA`, R172. -/
  | lea (f : AForm)
  /-- `FADD`, R173. -/
  | fadd (f : AForm)
  /-- `FSUB`, R173. -/
  | fsub (f : AForm)
  /-- `FMUL`, R173. -/
  | fmul (f : AForm)
  /-- `FFMA`, R173. -/
  | ffma (f : RForm)
  /-- `FMIN`, R174. -/
  | fmin (f : AForm)
  /-- `FMAX`, R174. -/
  | fmax (f : AForm)
  /-- `FABS`, R174. -/
  | fabs (f : RForm)
  /-- `FDIV`, R175. -/
  | fdiv (f : RForm)
  /-- `FSQRT`, R175. -/
  | fsqrt (f : RForm)
  /-- `FRCP`, R175. -/
  | frcp (f : RForm)
  /-- `FRSQ`, R175. -/
  | frsq (f : RForm)
  /-- `FEXP2`, R176. -/
  | fexp2 (f : RForm)
  /-- `FLOG2`, R176. -/
  | flog2 (f : RForm)
  /-- `FSIN`, R176. -/
  | fsin (f : RForm)
  /-- `FCOS`, R176. -/
  | fcos (f : RForm)
  /-- `FTANH`, R176. -/
  | ftanh (f : RForm)
  /-- `FCMP`, R177. -/
  | fcmp (x : FCond) (f : AForm)
  /-- `FCLASS`, R178. -/
  | fclass (f : RForm)
  /-- `CVT`, R179. -/
  | cvt (x : Ty) (f : RForm)
  /-- `CVTQ`, R180. -/
  | cvtq (x : NarrowFmt) (f : RForm)
  /-- `CVTW`, R181. -/
  | cvtw (x : NarrowFmt) (f : RForm)
  /-- `DOT2`, R182. -/
  | dot2 (f : RForm)
  /-- `DOT4`, R182. -/
  | dot4 (f : RForm)
  /-- `PACK`, R183. -/
  | pack (f : RForm)
  /-- `BSEL`, R184. -/
  | bsel (f : RForm)
  /-- `LGET_AT`, R186. -/
  | lgetAt (f : AForm)
  /-- `LGET_FLIP`, R186. -/
  | lgetFlip (f : AForm)
  /-- `LSHUP`, R187. -/
  | lshup (f : RForm)
  /-- `LSHDN`, R187. -/
  | lshdn (f : RForm)
  /-- `KPOLL_ALL`, R188. -/
  | kpollAll (f : RForm)
  /-- `KPOLL_ANY`, R188. -/
  | kpollAny (f : RForm)
  /-- `KPOLL_WORD`, R188. -/
  | kpollWord (f : RForm)
  /-- `LPEER_EQ`, R189. -/
  | lpeerEq (f : RForm)
  /-- `LPEER_UNI`, R189. -/
  | lpeerUni (f : RForm)
  /-- `LFOLD`, R190. -/
  | lfold (x : FoldOp) (f : RForm)
  /-- `LPFX`, R191. -/
  | lpfx (x : PfxOp) (f : RForm)
  /-- `LD`, R193. -/
  | ld (f : MForm)
  /-- `LD_N8`, R193. -/
  | ldN8 (f : MForm)
  /-- `LD_S8`, R193. -/
  | ldS8 (f : MForm)
  /-- `LD_N16`, R193. -/
  | ldN16 (f : MForm)
  /-- `LD_S16`, R193. -/
  | ldS16 (f : MForm)
  /-- `ST`, R194. -/
  | st (f : MForm)
  /-- `ST_B8`, R194. -/
  | stB8 (f : MForm)
  /-- `ST_B16`, R194. -/
  | stB16 (f : MForm)
  /-- `PREF`, R195. -/
  | pref (f : MForm)
  /-- `ATOM`, R197. -/
  | atom (x : AtomOp) (f : MForm)
  /-- `RED`, R199. -/
  | red (x : AtomOp) (f : MForm)
  /-- `FENCE`, R201. -/
  | fence (f : MForm)
  /-- `FENCE_UN`, R202. -/
  | fenceUn (f : MForm)
  /-- `WAITF`, R203. -/
  | waitf (x : WCond) (f : MForm)
  /-- `BAR_GRP`, R204. -/
  | barGrp (f : RForm)
  /-- `BAR_CLU`, R204. -/
  | barClu (f : RForm)
  /-- `XBEGIN`, R206. -/
  | xbegin (f : BForm)
  /-- `XEND`, R209. -/
  | xend (f : RForm)
  /-- `XABORT`, R210. -/
  | xabort (f : RForm)
  /-- `XTEST`, R211. -/
  | xtest (f : RForm)
  /-- `PUSHF`, R223. -/
  | pushf (f : RForm)
  /-- `PUSHF_ROW`, R223. -/
  | pushfRow (f : RForm)
  /-- `PUSHF_ALL`, R223. -/
  | pushfAll (f : RForm)
  /-- `PUSHF_ALL_ROW`, R223. -/
  | pushfAllRow (f : RForm)
  /-- `POPF`, R223. -/
  | popf (f : RForm)
  /-- `PUSHB`, R223. -/
  | pushb (f : RForm)
  /-- `POPB`, R223. -/
  | popb (f : RForm)
  /-- `STREAM_CFG`, R225. -/
  | streamCfg (f : RForm)
  /-- `STREAM_GO`, R225. -/
  | streamGo (f : RForm)
  /-- `ENG_COPY`, R229. -/
  | engCopy (f : EForm)
  /-- `ENG_FILL`, R229. -/
  | engFill (f : EForm)
  /-- `ENG_GSUBMIT`, R230. -/
  | engGsubmit (f : EForm)
  /-- `ENG_GSIGNAL`, R230. -/
  | engGsignal (f : EForm)
  /-- `ENG_GWATCH`, R230. -/
  | engGwatch (f : EForm)
  /-- `ENG_DAPPEND`, R231. -/
  | engDappend (f : EForm)
  /-- `ENG_DDRAIN`, R231. -/
  | engDdrain (f : EForm)
  /-- `ENG_ALLREDUCE`, R232. -/
  | engAllreduce (f : EForm)
  /-- `ENG_ALLGATHER`, R232. -/
  | engAllgather (f : EForm)
  /-- `ENG_BCAST`, R232. -/
  | engBcast (f : EForm)
  /-- `MLOADB`, R236. -/
  | mloadb (f : TForm)
  /-- `MMA`, R238. -/
  | mma (f : TForm)
  /-- `MCOMMIT`, R241. -/
  | mcommit (f : TForm)
  /-- `MDISCARD`, R241. -/
  | mdiscard (f : TForm)
  /-- `MZERO`, R242. -/
  | mzero (f : TForm)
  /-- `MDRAIN`, R243. -/
  | mdrain (f : TForm)
  /-- `TTLD`, R246. -/
  | ttld (f : RForm)
  /-- `TTST`, R246. -/
  | ttst (f : RForm)
  /-- `TTINV`, R246. -/
  | ttinv (f : RForm)
  /-- `RSVINIT`, R248. -/
  | rsvinit (f : RForm)
  /-- `RSVUPD`, R250. -/
  | rsvupd (f : RForm)
  /-- `RSVMRG`, R251. -/
  | rsvmrg (f : RForm)
  /-- `RSVFIN`, R252. -/
  | rsvfin (f : RForm)
  /-- `RSVGET`, R253. -/
  | rsvget (x : RsvField) (f : RForm)
  /-- `RSVPUT`, R253. -/
  | rsvput (x : RsvField) (f : RForm)
  /-- `RSVSEED`, R249. -/
  | rsvseed (f : RForm)
  /-- `CAINIT`, R258. -/
  | cainit (f : RForm)
  /-- `CAADD`, R259. -/
  | caadd (f : RForm)
  /-- `CAFLUSH`, R260. -/
  | caflush (f : RForm)
  /-- `CARESOLVE`, R260. -/
  | caresolve (f : RForm)
  /-- `CAREPLAY`, R261. -/
  | careplay (f : RForm)
  /-- `CASTAT`, R262. -/
  | castat (f : RForm)
  /-- `FETCHWK`, R266. -/
  | fetchwk (f : MForm)
  /-- `PQPUSH`, R267. -/
  | pqpush (f : RForm)
  /-- `PQPOP`, R268. -/
  | pqpop (f : RForm)
  /-- `WLPUSH`, R270. -/
  | wlpush (f : RForm)
  /-- `WLPOP`, R270. -/
  | wlpop (f : RForm)
  /-- `QUIESCE`, R271. -/
  | quiesce (f : RForm)
  /-- `TEX`, R273. -/
  | tex (f : RForm)
  /-- `TEX_WAIT`, R273. -/
  | texWait (f : RForm)
  /-- `TLD`, R274. -/
  | tld (f : RForm)
  /-- `RAYQ`, R275. -/
  | rayq (f : RForm)
  /-- `RAYRES`, R276. -/
  | rayres (f : RForm)
  /-- `ATLASREQ`, R277. -/
  | atlasreq (f : RForm)
  /-- `EMIT`, R278. -/
  | emit (f : RForm)
  /-- `TRAP`, R279. -/
  | trap (f : IForm)
  /-- `BRKPT`, R279. -/
  | brkpt (f : RForm)
  /-- `RDSR`, R280. -/
  | rdsr (f : IForm)
  /-- `WRSR`, R281. -/
  | wrsr (f : IForm)
  /-- `TRET`, R283. -/
  | tret (f : RForm)
  /-- `TLBINV`, R284. -/
  | tlbinv (f : RForm)
  /-- `FORK`, R377. -/
  | fork (f : RForm)
  /-- `CFLUSH`, R286. -/
  | cflush (f : RForm)
  /-- `RUN_START`, 02 R41, 01 R25: a free issue slot starts a run. -/
  | runStart (core slot : Nat)
  /-- `RESULT_ARRIVAL`, 02 R43: an awaited result arrives, or the block on a queue lifts. -/
  | resultArrival (u : UnitRef)
  /-- `SPILL_TRANSFER_DONE`, 03 R57, R59: a spill-engine transfer finishes. -/
  | spillTransferDone (core rgs band lane : Nat)
  /-- `QUEUE_PROTOCOL_DETECT`, 01 R22: the queues of a group can no longer progress. -/
  | queueProtocolDetect (core rgs : Nat)
  /-- `PLACE_GROUP`, 02 R35: the distributor places the head group. -/
  | placeGroup (session : Nat)
  /-- `PLACE_CLUSTER`, 02 R39: the distributor places a whole cluster. -/
  | placeCluster (session : Nat)
  /-- `FETCHWK_SERVE`, 02 R49, R50: the distributor answers the oldest FETCHWK request. -/
  | fetchwkServe (session : Nat)
  /-- `GROUP_FINISH`, 01 R15: a finished group enters RETIRING. -/
  | groupFinish (core rgs : Nat)
  /-- `RETIRING_END`, 01 R15: the scrub ends and the granules return. -/
  | retiringEnd (core gid : Nat)
  /-- `STREAM_PUSH`, 10 R225: an affine stream forms and pushes one row. -/
  | streamPush (core rgs stream : Nat)
  /-- `REJOIN_RELEASE`, 01 R27: parked lanes are released together. -/
  | rejoinRelease (core rgs band : Nat)
  /-- `BARRIER_COMPLETE`, 09 R204: a barrier instance completes. -/
  | barrierComplete (core rgs : Nat) (cluster : Bool)
  /-- `WAITF_SATISFY`, 09 R203: one read of a waiting lane meets its condition. -/
  | waitfSatisfy (u : UnitRef) (lane : Nat)
  /-- `TRANSACTION_CONFLICT`, 09 R208: another party writes a line of an open transaction. -/
  | transactionConflict (core rgs band lane : Nat)
  /-- `COMMIT_TOKEN_GRANT`, 09 R213: the commit token goes to the first waiting XBEGIN. -/
  | commitTokenGrant (session : Nat)
  /-- `MATRIX_ENGINE_START`, 13 R288: the engine starts its next instruction. -/
  | matrixEngineStart (core : Nat)
  /-- `MATRIX_ENGINE_END`, 13 R288: the running instruction ends and its tile is written. -/
  | matrixEngineEnd (core : Nat)
  /-- `SLOT_LOAD_COMPLETE`, 13 R290: the slot-load port fills the slot at its head. -/
  | slotLoadComplete (core : Nat)
  /-- `SLOT_RELOAD`, 11 R237: the reload that a waiting MMA asks for. -/
  | slotReload (core rgs band : Nat)
  /-- `PQ_POP_SERVE`, 12 R269: the die priority queue serves up to 8 pops. -/
  | pqPopServe (die : Nat)
  /-- `LIST_REQUEST_SERVE`, 13 R296: Delphinium serves the oldest request to a list. -/
  | listRequestServe (session launch list : Nat)
  /-- `QUIESCENCE_VERDICT`, 13 R297, R298: the detector reports quiescence. -/
  | quiescenceVerdict (session launch : Nat)
  /-- `COPY_COMPLETE`, 10 R229: the copy engine finishes a command. -/
  | copyComplete (cmd : Nat)
  /-- `NODE_FINISH`, 05 R111: a graph node finishes. -/
  | nodeFinish (session : Nat) (node : BitVec 64)
  /-- `COLLECTIVE_COMPLETE`, 10 R232: all members have joined a collective. -/
  | collectiveComplete (session cluster : Nat)
  /-- `HELD_ENGINE_WRITE`, 10 R228: a held engine write is performed. -/
  | heldEngineWrite (cmd : Nat)
  /-- `TEXTURE_STREAM_COMPLETE`, 14 R308: a page has been decoded and written. -/
  | textureStreamComplete (stream : Nat)
  /-- `TEXTURE_STREAM_FAIL`, 14 R309: a page stream fails. -/
  | textureStreamFail (stream : Nat)
  /-- `RAY_TRAVERSED`, 14 R312: a ray has been traversed. -/
  | rayTraversed (core rgs band lane handle : Nat)
  /-- `TRIANGLE_RECORD`, 14 R304: the rasteriser consumes a record. -/
  | triangleRecord (ring : Nat)
  /-- `BIN_COMMIT`, 14 R315: a bin commits. -/
  | binCommit (bin : Nat)
  /-- `BIN_REPLAY`, 14 R315: a bin is replayed. -/
  | binReplay (bin : Nat)
  /-- `SPLAT_RECORD`, 14 R316: the blender consumes a splat record. -/
  | splatRecord (ring : Nat)
  /-- `FLUSH_RECORD`, 14 R316: the blender consumes a flush record. -/
  | flushRecord (ring : Nat)
  /-- `FRAME_RECORD`, 14 R317: an encoder consumes a frame record. -/
  | frameRecord (ring : Nat)
  /-- `ENCODE_DONE`, 14 R317: an encoder writes its temporal unit and DONE. -/
  | encodeDone (engine : Nat)
  /-- `ATLAS_RECORD_ACCEPT`, 14 R314: a waiting shading record is accepted. -/
  | atlasRecordAccept (core rgs band lane : Nat)
  /-- `VERSION_COMMIT`, 20 R351, R352: Columbine judges the next retiring task. -/
  | versionCommit (session launch : Nat)
  /-- `SERIAL_TOKEN_GRANT`, 20 R356: the serial token goes to the first waiting task. -/
  | serialTokenGrant (session launch : Nat)
  /-- `TRAP_RECORD_WRITE`, 20 R341: a trap held by a full ring writes its record. -/
  | trapRecordWrite (u : UnitRef)
  /-- `FAULT_SERVICE_RESULT`, 21 R369: the service has answered a batch. -/
  | faultServiceResult (session batch : Nat)
  /-- `TLB_WALK`, 21 R367: the walker fills the TLBs after a miss. -/
  | tlbWalk (core session : Nat) (va : BitVec 64)
  /-- `COPY_ON_WRITE`, 21 R374: the copy-on-write unit serves one page. -/
  | copyOnWrite (session : Nat) (va : BitVec 64) (subs : BitVec 8)
  /-- `SLICE_END`, 22 R396, 20 R360: the slice count of a core expires. -/
  | sliceEnd (core : Nat)
  /-- `SLICE_HALFWAY`, 22 R396: the core names its candidate. -/
  | sliceHalfway (core : Nat)
  /-- `GRACE_EXPIRE`, 20 R361: the grace ends. -/
  | graceExpire (core : Nat)
  /-- `CONTEXT_QUIESCE`, 20 R357: issue stops and work in flight settles. -/
  | contextQuiesce (core : Nat)
  /-- `CONTEXT_EXCHANGE`, 20 R357: active and shadow banks exchange. -/
  | contextExchange (core : Nat)
  /-- `CONTEXT_SPILL`, 20 R358: the outgoing context reaches the save area. -/
  | contextSpill (core : Nat)
  /-- `CONTEXT_PRELOAD`, 20 R358: the named context reaches the shadow bank. -/
  | contextPreload (core : Nat)
  /-- `CORE_GRANT`, 22 R396: an empty core chooses a session. -/
  | coreGrant (core : Nat)
  /-- `WAIT_BUDGET_EXPIRE`, 22 R399: the waiting count passes WAITBUDGET. -/
  | waitBudgetExpire (core : Nat)
  /-- `WATCHDOG_FIRE`, 22 R400: a watchdog counter reaches its limit. -/
  | watchdogFire (queue : Nat)
  /-- `RESET_COMPLETE`, 22 R401, R402: the last step of a reset. -/
  | resetComplete (session : Nat)
  /-- `LAUNCH_COMPLETE`, 22 R393: a launch completes. -/
  | launchComplete (session launch : Nat)
  /-- `ERROR_CORRECTED`, 23 R419: a corrected error. -/
  | errorCorrected (region : Region)
  /-- `ERROR_UNCORRECTED`, 23 R419: an uncorrectable error. -/
  | errorUncorrected (site : ErrorSite)
  /-- `REGISTER_WRITE`, 24 R423: a write of a number of bytes to a control-space register. -/
  | registerWrite (off : BarAccess) (value : BitVec 64)
  /-- `HOST_WRITE`, 23 R436: a host write. -/
  | hostWrite (pa : Nat) (data : List Byte)
  /-- `HOST_READ`, 23 R436, 24 R423: a host read of memory or of the control space. -/
  | hostRead (pa : HostAddr) (len : Nat)
  /-- `LINK_REQUEST_TIMEOUT`, 24 R422: a link request times out. -/
  | linkRequestTimeout (req : LinkRequest)
  /-- `POWER_GATE`, 24 R427: an idle domain is gated. -/
  | powerGate (d : PowerDomain)
  /-- `POWER_WAKE`, 24 R427: a gated domain wakes. -/
  | powerWake (d : PowerDomain)
  /-- `UNASSIGNED_OPCODE`, 07 R151, R153: a word with an unassigned OP, FN or EFN. -/
  | unassignedOpcode (word : BitVec 96)
  /-- `HOST_ATOMIC`, 24 R420: a host AtomicOp. -/
  | hostAtomic (op : HostAtomicOp) (pa : Nat) (wide : Bool) (operand compare : BitVec 64)
  /-- `FAULT_RECORD_WRITE`, 21 R368: a batch held by a full fault ring writes its records. -/
  | faultRecordWrite (u : UnitRef)
  /-- `MERGE_PAGE`, 21 R372: the merge engine visits its next page. -/
  | mergePage
  /-- `DOORBELL`, 22 R388: a doorbell write. -/
  | doorbell
  /-- `QUEUE_MAP`, 22 R389: the best ready queue takes the lowest free slot. -/
  | queueMap
  /-- `QUEUE_UNMAP_IDLE`, 22 R389: an idle queue is unmapped. -/
  | queueUnmapIdle
  /-- `CP_NOP`, 22 R390: command NOP. -/
  | cpNop
  /-- `LAUNCH`, 22 R390, R392: command LAUNCH. -/
  | launch
  /-- `LAUNCHI`, 22 R390: command LAUNCHI. -/
  | launchi
  /-- `CP_COPY`, 22 R390: command COPY. -/
  | cpCopy
  /-- `CP_WAIT`, 22 R390: command WAIT. -/
  | cpWait
  /-- `SIGNAL`, 22 R390: command SIGNAL. -/
  | signal
  /-- `LOOP`, 22 R390: command LOOP. -/
  | loop
  /-- `ENDLOOP`, 22 R390: command ENDLOOP. -/
  | endloop
  /-- `COND`, 22 R390: command COND. -/
  | cond
  /-- `GRAPH`, 22 R390: command GRAPH. -/
  | graph
  /-- `SNAPSHOT_OPEN`, 21 R379: snapshot open. -/
  | snapshotOpen
  /-- `SNAPSHOT_PUBLISH`, 21 R379: snapshot publish. -/
  | snapshotPublish
  /-- `SNAPSHOT_CLOSE`, 21 R379: snapshot close. -/
  | snapshotClose
  /-- `RESUME`, 22 R390, 20 R344: command RESUME. -/
  | resume
  /-- `WORLD_FREE`, 23 R411: a retired world index becomes free. -/
  | worldFree
  /-- `CREATE`, 22 R384, R385, R404: SCMD CREATE. -/
  | create
  /-- `DESTROY`, 22 R384, R404: SCMD DESTROY. -/
  | destroy
  /-- `FREEZE`, 22 R384, R404: SCMD FREEZE. -/
  | freeze
  /-- `THAW`, 22 R384, R404: SCMD THAW. -/
  | thaw
  /-- `SCMD_RESET`, 22 R401: SCMD RESET. -/
  | scmdReset
  /-- `PROVISION`, 23 R407, R408: VB_CMD PROVISION. -/
  | provision
  /-- `ACTIVATE`, 23 R407: VB_CMD ACTIVATE. -/
  | activate
  /-- `BIND`, 23 R407, 25 R431: VB_CMD BIND. -/
  | bind
  /-- `RETIRE`, 23 R407: VB_CMD RETIRE. -/
  | retire
  /-- `REVOKE`, 23 R407: VB_CMD REVOKE. -/
  | revoke
  /-- `CLEAR`, 23 R407: VB_CMD CLEAR. -/
  | clear
  /-- `EVIDENCE`, 23 R415: VB_CMD EVIDENCE. -/
  | evidence
  /-- `UNLOCK`, 23 R417: VB_CMD UNLOCK. -/
  | unlock
  /-- `DOMAIN`, 23 R407: VB_CMD DOMAIN. -/
  | domainKey
  /-- `KEY_SLOT_EMPTY`, 23 R407: a retiring slot empties. -/
  | keySlotEmpty
  /-- `ALARMPOL_WRITE`, 23 R418: a write to VB_ALARMPOL. -/
  | alarmpolWrite
  /-- `EU_WINDOW_END`, 23 R419: the counting window ends. -/
  | euWindowEnd
  /-- `LOCK`, 24 R426: CFG_CMD LOCK. -/
  | lock
  /-- `RUN`, 24 R426: CFG_CMD RUN. -/
  | run
  /-- `HL_SCRUB`, 24 R424: HL_SCRUB. -/
  | hlScrub
  /-- `HH_DROP`, 21 R373, R382: a write to HH_DROP. -/
  | hhDrop
  /-- `DBM_SWAP`, 21 R383: a write to DBM_SWAP. -/
  | dbmSwap
  /-- `DBM_SWAP_COMPLETE`, 21 R383: the old buffer is complete in memory. -/
  | dbmSwapComplete
  /-- `LINK_DOWN`, 24 R421, R422: the host link goes down, with or without an orderly shutdown. -/
  | linkDown
  /-- `MODULE_RESET`, 24 R425: module reset runs the boot steps. -/
  | moduleReset
  /-- `RELEASED_FRAME_PUSH`, 21 R375: a push held by the full released-frames ring proceeds. -/
  | releasedFramePush
  /-- `SENSOR_ALARM`, 23 R418: alarm source SENSOR. -/
  | sensorAlarm
  /-- `KEYSTORE_ALARM`, 23 R418: alarm source KEYSTORE. -/
  | keystoreAlarm
  /-- `LINK_UP`, 24 R424: the host link comes up. -/
  | linkUp
  deriving DecidableEq, Repr

end Sys2Proof
end

