-- ==== Sys2Proof/Machine/Bits.lean ====
section
/-! DEFINITION. Small helpers: bit fields, little-endian bytes, sparse arrays and association lists. -/

namespace Sys2Proof

/-- Bits `[hi:lo]` of a number (07 R158, `bits`). -/
def bitsOf (x hi lo : Nat) : Nat := (x >>> lo) % 2 ^ (hi + 1 - lo)

/-- Bit `i` of a number. -/
def bitOf (x i : Nat) : Bool := x.testBit i

/-- The value of a one-bit flag. -/
def b2n (b : Bool) : Nat := if b then 1 else 0

/-- The low `w` bits of a number read as two's complement. -/
def sextNat (w x : Nat) : Int :=
  let y := x % 2 ^ w
  if y < 2 ^ (w - 1) then (y : Int) else (y : Int) - (2 ^ w : Nat)

/-- An integer modulo `2 ^ w`. -/
def wrapInt (w : Nat) (x : Int) : Nat := (x % (2 ^ w : Nat)).toNat

/-- Little-endian value of a list of bytes. -/
def leNat : List Byte → Nat
  | [] => 0
  | b :: bs => b.toNat + 256 * leNat bs

/-- The `n` bytes of a number, lowest first. -/
def toLE : Nat → Nat → List Byte
  | 0, _ => []
  | n + 1, x => BitVec.ofNat 8 x :: toLE n (x / 256)

/-- Entry `i` of a sparse array. -/
def spGet {w : Nat} : Sparse w → Nat → BitVec w
  | [], _ => 0
  | (j, v) :: m, i => if i = j then v else if i < j then 0 else spGet m i

/-- A sparse array with entry `i` set; zero entries are not listed. -/
def spSet {w : Nat} : Sparse w → Nat → BitVec w → Sparse w
  | [], i, v => if v = 0 then [] else [(i, v)]
  | (j, u) :: m, i, v =>
    if i = j then (if v = 0 then m else (i, v) :: m)
    else if i < j then (if v = 0 then (j, u) :: m else (i, v) :: (j, u) :: m)
    else (j, u) :: spSet m i v

/-- Every key of the array is above `lo`, the keys rise, and no entry is zero. -/
def spAbove {w : Nat} : Nat → Sparse w → Bool
  | _, [] => true
  | lo, (j, v) :: m => decide (lo ≤ j) && decide (v ≠ 0) && spAbove (j + 1) m

/-- The canonical form of a sparse array: rising indices and no zero entry. -/
def spWf {w : Nat} (m : Sparse w) : Bool := spAbove 0 m

/-- The entries of a sparse array with `lo ≤ index < hi` dropped. -/
def spClear {w : Nat} (m : Sparse w) (lo hi : Nat) : Sparse w := m.filter fun e => e.1 < lo || hi ≤ e.1

/-- Successive entries set from a list. -/
def spSetList {w : Nat} : Sparse w → Nat → List (BitVec w) → Sparse w
  | m, _, [] => m
  | m, i, v :: vs => spSetList (spSet m i v) (i + 1) vs

/-- `n` successive entries. -/
def spGetList {w : Nat} (m : Sparse w) : Nat → Nat → List (BitVec w)
  | _, 0 => []
  | i, n + 1 => spGet m i :: spGetList m (i + 1) n

/-- The sparse array with entry `i` equal to `f i` for `i < n`. -/
def spOfFn {w : Nat} (n : Nat) (f : Nat → BitVec w) : Sparse w :=
  (List.range n).filterMap fun i => let v := f i; if v = 0 then none else some (i, v)

/-- Entries `[lo, lo + n)` of a sparse array replaced. -/
def spBlock {w : Nat} (m : Sparse w) (lo n : Nat) (f : Nat → BitVec w) : Sparse w :=
  (m.filter fun e => e.1 < lo) ++ ((spOfFn n f).map fun e => (lo + e.1, e.2)) ++ m.filter fun e => lo + n ≤ e.1

/-- The value listed for a key. -/
def alGet? {α : Type} : List (Nat × α) → Nat → Option α
  | [], _ => none
  | (j, v) :: m, i => if i = j then some v else alGet? m i

/-- The list with the value of a key set, by rising key. -/
def alSet {α : Type} : List (Nat × α) → Nat → α → List (Nat × α)
  | [], i, v => [(i, v)]
  | (j, u) :: m, i, v =>
    if i = j then (i, v) :: m else if i < j then (i, v) :: (j, u) :: m else (j, u) :: alSet m i v

/-- The list without a key. -/
def alDel {α : Type} (m : List (Nat × α)) (i : Nat) : List (Nat × α) := m.filter fun e => e.1 ≠ i

/-- A set of numbers kept as a rising list: insertion. -/
def insNat : List Nat → Nat → List Nat
  | [], i => [i]
  | j :: m, i => if i = j then j :: m else if i < j then i :: j :: m else j :: insNat m i

/-- Replaces the first element that satisfies `p`. -/
def updFirst {α : Type} (p : α → Bool) (f : α → α) : List α → List α
  | [] => []
  | x :: xs => if p x then f x :: xs else x :: updFirst p f xs

/-- Replaces the element at an index. -/
def updAt {α : Type} (f : α → α) : List α → Nat → List α
  | [], _ => []
  | x :: xs, 0 => f x :: xs
  | x :: xs, n + 1 => x :: updAt f xs n

/-- Runs a state change for each element, in order. -/
def foldE {α σ ε : Type} (f : σ → α → Except ε σ) : σ → List α → Except ε σ
  | s, [] => .ok s
  | s, x :: xs => match f s x with
    | .ok s' => foldE f s' xs
    | .error e => .error e

/-- Runs a check for each element, in order. -/
def eachE {α ε : Type} (f : α → Except ε Unit) : List α → Except ε Unit
  | [] => .ok ()
  | x :: xs => match f x with
    | .ok () => eachE f xs
    | .error e => .error e

/-- Maps with failure, in order. -/
def mapE {α β ε : Type} (f : α → Except ε β) : List α → Except ε (List β)
  | [] => .ok []
  | x :: xs => match f x with
    | .ok y => match mapE f xs with
      | .ok ys => .ok (y :: ys)
      | .error e => .error e
    | .error e => .error e

/-- The lanes of a mask, ascending. -/
def lanesOf (m : LaneMask) : List Nat := (List.range 32).filter fun l => m.getLsbD l

/-- The mask of the lanes that satisfy a test. -/
def maskOf (p : Nat → Bool) : LaneMask :=
  BitVec.ofNat 32 ((List.range 32).foldl (fun a l => if p l then a + 2 ^ l else a) 0)

/-- The number with the smallest key, the earliest among equals. -/
def argMin {α : Type} (key : α → Nat) : List α → Option α
  | [] => none
  | x :: xs => match argMin key xs with
    | none => some x
    | some y => if key y < key x then some y else some x

/-- The least number not in a list. -/
def leastFree (used : List Nat) : Nat → Nat → Option Nat
  | 0, _ => none
  | fuel + 1, i => if used.contains i then leastFree used fuel (i + 1) else some i

/-- Saturating increment. -/
def incSat (limit n : Nat) : Nat := if n < limit then n + 1 else limit

end Sys2Proof
end

