-- ==== Sys2Proof/Machine/Hash.lean ====
section
/-! DEFINITION. The standard functions the trust rules name: AES-256, its CMAC (21 R371, 23 R409, R410, R413) and SHA-512
(23 R415 to R417, 24 R425). Keys, messages and results are byte lists, first byte first; as numbers they are little-endian
(entry 8). -/

namespace Sys2Proof.Machine

open Sys2Proof

/-! ### AES-256 -/

/-- Multiplication by x in AES's field. -/
def aesX (a : Nat) : Nat := if a < 128 then 2 * a else (2 * a) ^^^ 0x11B

/-- Product in AES's field, over the low `n` bits of `b`. -/
def aesMul (a : Nat) : Nat → Nat → Nat
  | 0, _ => 0
  | n + 1, b => (if b % 2 == 1 then a else 0) ^^^ aesX (aesMul a n (b / 2))

/-- The substitution box: the inverse in the field, then an affine map. -/
def aesSub (a : Nat) : Nat :=
  let m (x y : Nat) : Nat := aesMul x 8 y
  let a2 := m a a
  let a4 := m a2 a2
  let a8 := m a4 a4
  let a16 := m a8 a8
  let a32 := m a16 a16
  let a64 := m a32 a32
  let v := m (m (m a2 a4) (m a8 a16)) (m (m a32 a64) (m a64 a64))
  let rot (k : Nat) : Nat := v * 2 ^ k % 256 + v / 2 ^ (8 - k)
  v ^^^ rot 1 ^^^ rot 2 ^^^ rot 3 ^^^ rot 4 ^^^ 0x63

def aesBox : Array Nat := ((List.range 256).map aesSub).toArray
def aesS (b : Nat) : Nat := aesBox.getD b 0

def xorList (a b : List Nat) : List Nat := (a.zip b).map fun e => e.1 ^^^ e.2

/-- The 60 words of the key schedule, oldest first; `w` holds those formed so far. -/
def aesWords : Nat → Nat → List (List Nat) → List (List Nat)
  | 0, _, w => w
  | n + 1, rcon, w =>
    let i := w.length
    let last := w.getD (i - 1) []
    let t := if i % 8 == 0 then
        match (last.drop 1 ++ last.take 1).map aesS with
        | a :: r => (a ^^^ rcon) :: r
        | [] => []
      else if i % 8 == 4 then last.map aesS else last
    aesWords n (if i % 8 == 0 then aesX rcon else rcon) (w ++ [xorList (w.getD (i - 8) []) t])

/-- The 15 round keys of 16 bytes. -/
def aesKeys (key : List Nat) : List (List Nat) :=
  let w := aesWords 52 1 ((List.range 8).map fun k => (key.drop (4 * k)).take 4)
  (List.range 15).map fun r => ((w.drop (4 * r)).take 4).flatten

/-- Row `r` of every column moves `r` columns. -/
def aesShift (b : List Nat) : List Nat := (List.range 16).map fun k => b.getD ((k + 4 * (k % 4)) % 16) 0

def aesMix (b : List Nat) : List Nat :=
  (List.range 16).map fun k =>
    let c (j : Nat) : Nat := b.getD (k / 4 * 4 + (k + j) % 4) 0
    aesX (c 0) ^^^ (aesX (c 1) ^^^ c 1) ^^^ c 2 ^^^ c 3

/-- One block of 16 bytes under round keys. -/
def aesBlock (ks : List (List Nat)) (b : List Nat) : List Nat :=
  let mid := (ks.drop 1).dropLast.foldl (fun s k => xorList (aesMix (aesShift (s.map aesS))) k) (xorList b (ks.headD []))
  xorList (aesShift (mid.map aesS)) (ks.getLastD [])

/-! ### CMAC -/

/-- A block doubled in the field of 128 bits, first byte most significant. -/
def cmacDouble (b : List Nat) : List Nat :=
  let v := b.foldl (fun a x => 256 * a + x) 0
  let d := 2 * v % 2 ^ 128 ^^^ (if 2 ^ 127 ≤ v then 0x87 else 0)
  (List.range 16).map fun k => d / 2 ^ (8 * (15 - k)) % 256

/-- The chaining of every block but the last. -/
def cmacChain (ks : List (List Nat)) : Nat → List Nat → List Nat → List Nat × List Nat
  | 0, acc, m => (acc, m)
  | n + 1, acc, m => cmacChain ks n (aesBlock ks (xorList acc (m.take 16))) (m.drop 16)

/-- The 16 bytes of CMAC-AES-256. -/
def cmacBytes (key msg : List Nat) : List Nat :=
  let ks := aesKeys key
  let k1 := cmacDouble (aesBlock ks (List.replicate 16 0))
  let (acc, last) := cmacChain ks ((msg.length + 15) / 16 - 1) (List.replicate 16 0) msg
  let full := last.length == 16
  let block := if full then last else last ++ 0x80 :: List.replicate (15 - last.length) 0
  aesBlock ks (xorList acc (xorList block (if full then k1 else cmacDouble k1)))

/-- CMAC-AES-256 of bytes under a key. -/
def cmac (key : BitVec 256) (msg : List Byte) : BitVec 128 :=
  BitVec.ofNat 128 (leNat ((cmacBytes ((toLE 32 key.toNat).map (·.toNat)) (msg.map (·.toNat))).map (BitVec.ofNat 8)))

/-! ### SHA-512

The working words a to h of a round are held as two histories: a to d are the last four values of a, and e to h those of e. -/

/-- The first eighty primes. -/
def shaPrimes : List Nat := (List.range 410).filter fun n => decide (2 ≤ n) && (List.range n).all fun d => decide (d < 2) || n % d != 0

/-- The first 64 bits of the fraction of the `k`-th root of a number below 512, found bit by bit. -/
def rootBits (k p : Nat) : Nat :=
  (List.range 69).foldl (fun r j => if (r + 2 ^ (68 - j)) ^ k ≤ p * 2 ^ (64 * k) then r + 2 ^ (68 - j) else r) 0 % 2 ^ 64

/-- The round constants and the first hash value: of cube roots and of square roots of primes. -/
def shaRounds : List Nat := shaPrimes.map (rootBits 3)
def shaStart : List Nat := (shaPrimes.take 8).map (rootBits 2)

/-- A word of 64 bits turned right by the sum of the turns given, each xored. -/
def shaTurns (ks : List Nat) (x : Nat) : Nat := ks.foldl (fun y k => y ^^^ (x / 2 ^ k + x * 2 ^ (64 - k) % 2 ^ 64)) 0

/-- The next word of the message schedule. -/
def shaNext (w : List Nat) : Nat :=
  let back (k : Nat) : Nat := w.getD (w.length - k) 0
  (back 16 + back 7 + (shaTurns [1, 8] (back 15) ^^^ back 15 / 128) + (shaTurns [19, 61] (back 2) ^^^ back 2 / 64)) % 2 ^ 64

/-- The histories after a round whose constant and message word have the sum `kw`. -/
def shaStep (v : List Nat × List Nat) (kw : Nat) : List Nat × List Nat :=
  let x (k : Nat) : Nat := v.1.getD k 0
  let y (k : Nat) : Nat := v.2.getD k 0
  let choice := (List.range 64).foldl (fun n j => n + (if (y 0).testBit j then bitsOf (y 1) j j else bitsOf (y 2) j j) * 2 ^ j) 0
  let new := y 3 + shaTurns [14, 18, 41] (y 0) + choice + kw
  let old := shaTurns [28, 34, 39] (x 0) + ((x 0 &&& (x 1 ||| x 2)) ||| (x 1 &&& x 2))
  ((new + old) % 2 ^ 64 :: v.1.take 3, (x 3 + new) % 2 ^ 64 :: v.2.take 3)

/-- Big-endian bytes as a number, and a number as `n` such bytes. -/
def beNat (bs : List Nat) : Nat := bs.foldl (fun a b => 256 * a + b) 0
def toBE (n v : Nat) : List Nat := ((List.range n).map fun k => v / 256 ^ k % 256).reverse

/-- A block of 128 bytes taken into the hash value. -/
def shaMix (hash block : List Nat) : List Nat :=
  let words := (List.range 64).foldl (fun w _ => w ++ [shaNext w]) ((List.range 16).map fun k => beNat ((block.drop (8 * k)).take 8))
  let out := ((shaRounds.zip words).map fun e => e.1 + e.2).foldl shaStep (hash.take 4, hash.drop 4)
  (hash.zip (out.1 ++ out.2)).map fun e => (e.1 + e.2) % 2 ^ 64

/-- A message with its padding: to whole blocks, the last 16 bytes its length in bits. -/
def shaPadded (msg : List Nat) : List Nat :=
  msg ++ [128] ++ List.replicate ((2 * 128 - 17 - msg.length % 128) % 128) 0 ++ toBE 16 (8 * msg.length)

/-- SHA-512 of bytes. -/
def sha512 (msg : List Byte) : BitVec 512 :=
  let m := shaPadded (msg.map (·.toNat))
  let hash := (List.range (m.length / 128)).foldl (fun h k => shaMix h ((m.drop (128 * k)).take 128)) shaStart
  BitVec.ofNat 512 (leNat ((hash.flatMap (toBE 8)).map (BitVec.ofNat 8)))

end Sys2Proof.Machine
end

