-- ==== Sys2Proof/Config.lean ====
section
/-! DEFINITION. What one module fixes and the spec leaves open. An opaque constant has no value here: a statement
that holds, holds whatever it is. -/

namespace Sys2Proof.Config

open Sys2Proof

/-- Free values, drawn by number (entry 4). -/
opaque freeNat : Nat → Nat
opaque freeBool : Nat → Bool
opaque freeWord : Nat → Word
opaque freeByte : Nat → Byte

/-- Read after a kill mark: whether it returns the killed value (02 R47; entry 13); by draw number, lane and position. -/
opaque killRead : Nat → Nat → Nat → Bool

/-- Results of the approximate instructions where 08 R176 gives only a bound: operation 0 to 4 in the order of
`FEXP2`, `FLOG2`, `FSIN`, `FCOS`, `FTANH`, and the operand bits (entry 7). -/
opaque approx32 : Nat → BitVec 32 → BitVec 32
opaque approx16 : Nat → BitVec 16 → BitVec 16

/-- Whether `FRSQ` of these operand bits returns the higher of the two neighbours that 08 R175 allows (entry 7). -/
opaque rsqHigh : Nat → Bool

/-- RSAES-OAEP decryption under the module's import key (23 R408). -/
opaque oaep : List Byte → Option (List Byte)
/-- Whether a debug-unlock token's signature verifies (23 R417). -/
opaque tokenSig : List Byte → Bool
/-- RSASSA-PSS signature under the attestation key (23 R415). -/
opaque attest : List Byte → BitVec 4096
/-- The sealing key of a given number (23 R409, R417). -/
opaque sealKey : Nat → BitVec 256
/-- The module's device identifier and fused life-cycle state (23 R405, R408). -/
opaque deviceId : BitVec 64
opaque life : BitVec 2

/-- The memory channel pair that holds a physical address (24 R427). -/
opaque channelPair : Nat → Nat

/-- Whether flash copy `n` (0 or 1) of the image of a boot step verifies and meets the fused version, and its SHA-512
(24 R425). -/
opaque imageGood : Nat → Nat → Bool
opaque imageHash : Nat → Nat → BitVec 512

/-- Byte the host holds at an offset of the compressed tier, by draw number (14 R308). -/
opaque hostByte : Nat → Nat → Byte
/-- `n` bytes read over the link at an offset of the compressed tier. -/
def hostBytes (draw off n : Nat) : List Byte := (List.range n).map fun j => hostByte draw (off + j)
/-- The payload of a unit of an encoder's bitstream: 0 the sequence header, 1 the frame; for a frame record and its planes, after
the frames its engine has encoded; and whether the engine makes it a key frame of its own accord (14 R317, entry 9). -/
opaque av1 : Nat → List (List Byte) → List Byte → List Byte → List Byte
opaque av1Key : List (List Byte) → List Byte → Bool
/-- Whether the sample depth of a triangle at a sample position, in 1/256 pixel, is the higher of the two values next to the
interpolated one (14 R303, entry 81). -/
opaque depthHigh : List Word → Int → Int → Bool
/-- The same for a triangle with a vertex of infinite depth. -/
opaque depthOdd : List Word → Int → Int → Word
/-- Box test (14 R312), from the ray and the six bounds: whether a box is taken that the ray does not touch, and the entry
distance of such a box (entry 9). -/
opaque boxExtra : List Word → List Word → Bool
opaque boxEntry : List Word → List Word → Word
/-- Triangle test of operands among which one is a NaN or an infinity (14 R312, entry 9). -/
opaque triOdd : List Word → List Word → Option (Word × Word × Word)
/-- The t (0) and the barycentrics of V1 and V2 (1, 2) reported for a ray that meets a triangle at more than one point, as it lies in
the triangle's plane or the triangle has no area (14 R312, entry 9). -/
opaque triFlat : List Word → List Word → Nat → Word

/-- Instance index reported for a triangle outside every instance (14 R312). -/
opaque topInstance : Word

/-- The host answers an access that the link carries as an atomic (09 R200). -/
opaque linkAtomicOk : Nat → Bool
/-- Old value the target of a host-link atomic holds, by draw number. -/
opaque pooledReply : Nat → BitVec 64

end Sys2Proof.Config
end

