-- ==== Sys2Proof/Machine/State.lean ====
section
/-! DEFINITION. The state of the module: everything the spec lets an instruction, an engine, a scheduler or the host
change. All of it is plain data. Lists that stand for tables list only the entries that are in use. -/

namespace Sys2Proof.Machine

open Sys2Proof

/-- Why the model stops. Neither constructor is an effect the spec gives an instruction. -/
inductive Fault where
  /-- Raised by an instruction meaning when the state names no unit that issues it (`State.issuer` names none, or one
  that is not resident). `step` never does this. Safe: nothing executes without an issuer. -/
  | noIssuer
  deriving DecidableEq, Repr

/-- Instructions to which the model gives no meaning. -/
inductive Refusal where
  /-- Raised by an arm of `exec` that has no meaning yet, by mnemonic. Safe. -/
  | notModelled (mnemonic : String)
  deriving DecidableEq, Repr

/-- A trap before it is recorded (20 R340 to R342). -/
structure Trap where
  code : BitVec 8
  sub : BitVec 8
  /-- ADDR of the record -/
  addr : Dword
  /-- lowest failing lane, 255 when none is named -/
  lane : Nat
  /-- step of 07 R153 that failed, 0 for other traps -/
  field : Nat
  detail : BitVec 16
  reload : Bool
  /-- pages a recoverable fault asks for (20 R347), and whether for overlay frames (21 R375) -/
  pages : List (Dword × Bool)
  /-- LANES of the record: active, enabled lanes of the trapping instruction -/
  acted : LaneMask
  /-- CLOCK of the record: the core's clock at the trap -/
  clock : Dword
  /-- the physical line in which a `DATA_POISON` met poison or a tag that does not match (23 R413) -/
  line : Option Nat
  deriving DecidableEq, Repr

/-- State of an interrupted or running `REPEAT` (10 R222). -/
structure RepState where
  remain : BitVec 16
  iter : BitVec 16
  sd : BitVec 3
  sa : BitVec 3
  sb : BitVec 3
  sc : BitVec 3
  deriving DecidableEq, Repr

/-- What a lane or a stream waits for. -/
inductive Wait where
  | none
  /-- blocked popping its forward queue (01 R19) -/
  | fqPop
  /-- blocked pushing to the forward queues of the bands in the mask (01 R19) -/
  | fqPush (bands : LaneMask)
  /-- blocked pushing `n` entries to the back queue -/
  | bqPush (n : Nat)
  /-- blocked popping the back queue -/
  | bqPop
  /-- blocked on a running affine stream (10 R225) -/
  | streamBusy (n : Nat)
  /-- waits for results in flight (02 R43): of a lane, or of the lead stream where none is named, each a register-stack
  position, a g register, or 1024 + j for `kj`; and whether for the stores of the band's drains (11 R243) -/
  | result (rs : List (Option Nat × Nat)) (drain : Bool)
  /-- waits for `n` command places of the core (10 R226) -/
  | room (n : Nat)
  /-- waits on a bounded result, some tiles or a place of the engine queue: it holds its issue slot (02 R42, 13 R287, R288) -/
  | bounded (tiles : List Nat) (place : Bool)
  /-- waits for weight slots that are being loaded or read (13 R290) -/
  | slot (ks : List Nat)
  /-- arrived at a barrier instance (09 R204) -/
  | barrier (cluster : Bool) (inst : Nat)
  /-- `WAITF` of this lane (09 R203): condition, width, location, comparand, the participating lanes of the issue and d;
  whether it is `.acq`, and its scope; the value once the condition has been met -/
  | waitf (c : WCond) (wide : Bool) (ea : Dword) (cmp : Dword) (lanes : LaneMask) (d : Spec) (acq : Bool) (scope : Nat)
      (met : Option Dword)
  /-- in an issued `QUIESCE` of these lanes, with destination d (12 R271) -/
  | quiesce (d : Spec) (lanes : LaneMask)
  /-- waits for the session's commit token (09 R213) -/
  | token
  /-- in a texture instruction of whose lanes some wait for pages (12 R273) -/
  | texture
  /-- waits for rays of lanes of its unit, each a lane and a handle (12 R276) -/
  | ray (rs : List (Nat × Nat))
  /-- waits for room in the output of an atlas (14 R314): the output's descriptor, d, the state word and the record; and a
  lane of the instruction that has been answered -/
  | atlas (out : Dword) (d : Spec) (word : Dword) (rec : BitVec 128)
  | atlasDone
  /-- an `MMA` waits for a slot reload (11 R237) -/
  | reload (slot : Nat)
  /-- a serial task waits for its launch's token (20 R356) -/
  | serial
  /-- an access to lines of another lane's serial transaction waits for its end (09 R213) -/
  | txnHold (lines : List Nat)
  deriving DecidableEq, Repr

/-- Where a lane or a stream stands. -/
inductive Status where
  | running
  | exited
  /-- never started (01 R9) -/
  | tail
  /-- parked at `REJOIN` with its own copy of the mask (01 R27) -/
  | parked (mask : LaneMask)
  /-- parked on a recoverable page fault of this batch (20 R347); the trap and the index of its first record -/
  | faulted (batch : Nat) (t : Trap) (rec : Option Nat)
  /-- holds a trap whose record waits: the trap ring is full (20 R341), or this engine fault on the ring is pending -/
  | held (t : Trap) (batch : Option Nat)
  /-- holds a page fault that found the fault ring full (21 R368) -/
  | heldFault (t : Trap)
  /-- parked as TRAPPED (20 R343); the trap and the index of its record -/
  | trapped (t : Trap) (rec : Option Nat)
  deriving DecidableEq, Repr

/-- The trap frame of a handler (20 R344), with what resumption needs of the trap. -/
structure TrapFrame where
  k : BitVec 8
  fpflags : BitVec 5
  base : Nat
  size : Nat
  pc : Pc
  code : BitVec 8
  /-- active, enabled lanes of the trapping instruction -/
  lanes : LaneMask
  rep : Option RepState
  deriving DecidableEq, Repr

/-- A 64-byte line that an open transaction has touched: its virtual line and the physical line that holds it (the virtual one
again inside a task's version), whether it was read and written, and the leaf and the cache hint of its last store. -/
structure TxLine where
  vline : Nat
  pline : Nat
  rd : Bool
  wr : Bool
  leaf : BitVec 128
  hint : Nat
  deriving DecidableEq, Repr

/-- A lane's transaction and status word (09 R206 to R213). -/
structure Txn where
  active : Bool
  serial : Bool
  aborts : Nat
  detail : BitVec 8
  cause : BitVec 8
  /-- abort target -/
  target : Pc
  touched : List TxLine
  /-- bytes read, by virtual address, with the value read -/
  rvals : List (Nat × Byte)
  /-- buffered stores, by virtual address -/
  buf : List (Nat × Byte)
  /-- another party has written one of its lines; it aborts before the lane's next instruction -/
  doomed : Bool
  deriving DecidableEq, Repr

/-- What traversal found (14 R312, R313). -/
inductive RayResult where
  | miss
  | hit (t : Word) (prim : Word) (inst : Word) (b1 : Word) (b2 : Word)
  /-- the stack would have passed STKCAP -/
  | exhausted
  /-- a node, triangle or spill access failed; taken at the `RAYRES` -/
  | fault (t : Trap)
  deriving DecidableEq, Repr

/-- A ray a lane holds (12 R275). -/
structure Ray where
  handle : Nat
  query : List Word
  flags : Word
  root : Dword
  spill : Dword
  stkcap : Nat
  result : Option RayResult
  deriving DecidableEq, Repr

/-- One lane of a band (03 R53 to R62, R66). -/
structure Lane where
  pc : Pc
  status : Status
  wait : Wait
  /-- bit `j` is the lane's bit of `kj`; bit 0 is not used (`k0` reads as one) -/
  k : BitVec 8
  base : Nat
  size : Nat
  lo : Nat
  /-- groups of 8 positions that hold deposits (05 R102) -/
  marks : List Nat
  /-- links pushed and not popped -/
  nlinks : Nat
  /-- on-chip links, oldest first, in the layout of 03 R59 -/
  links : List Dword
  /-- register-stack positions -/
  regs : Sparse 32
  /-- the register banks, which lack a result that has not left the forwarding window; the window's positions, each with
  the instructions the band has issued since; and the positions read with a kill mark since they were written (02 R46, R47) -/
  banks : Sparse 32
  win : List (Nat × Nat)
  killed : List Nat
  /-- positions of results asked for from the slot the band still holds, each with the instructions issued since -/
  issued : List (Nat × Nat)
  rsv : Sparse 192
  ca : Sparse 576
  fpflags : BitVec 5
  dseed : Dword
  dcount : Word
  txn : Txn
  rays : List Ray
  /-- a texture instruction that waits: its descriptor and the lane's operands as read at issue, and the pages that the lane
  waits for (12 R272, R273) -/
  tex : Option (BitVec 512 × List Word × List Dword)
  priv : Bool
  trec : Dword
  frame : Option TrapFrame
  rep : Option RepState
  /-- barriers of each kind the lane has arrived at -/
  barGrp : Nat
  barClu : Nat
  /-- positions (and 1024 + j for `kj`) whose result is in flight -/
  pending : List Nat
  deriving DecidableEq, Repr

/-- A band (01 R6, 02 R36). -/
structure Band where
  slot : Nat
  /-- resident band position of the core, 0 to 47 -/
  pos : Nat
  /-- first register granule on the slot and how many -/
  granule : Nat
  granules : Nat
  /-- register-stack area index (22 R386) -/
  area : Nat
  lanes : List Lane
  /-- forward queue, oldest row first; a row is its 32 elements (01 R17) -/
  fq : List (List Dword)
  /-- lane sets of the fragments of a split band, none when it is whole (01 R28) -/
  frags : List LaneMask
  /-- its first instruction has not issued: the entry's TARGET bit is checked then (07 R136) -/
  fresh : Bool
  /-- the stores that placement makes before the band's first instruction have been made (03 R56) -/
  started : Bool
  /-- PC at which the band's previous run started (01 R25) -/
  lastRun : Pc
  /-- when the band's last run ended, or it was placed, in the module's order of such events (02 R41) -/
  lastEnd : Nat
  deriving DecidableEq, Repr

/-- The lead stream of a group (01 R13). -/
structure Lead where
  pc : Pc
  status : Status
  wait : Wait
  k : BitVec 8
  priv : Bool
  trec : Dword
  rep : Option RepState
  barGrp : Nat
  barClu : Nat
  fresh : Bool
  /-- g registers (and 1024 + j for `kj`) whose result is in flight -/
  pending : List Nat
  deriving DecidableEq, Repr

/-- An affine stream (10 R224, R225). -/
structure Stream where
  configured : Bool
  running : Bool
  base : Dword
  n0 : Nat
  n1 : Nat
  n2 : Nat
  n3 : Nat
  s0 : BitVec 32
  s1 : BitVec 32
  s2 : BitVec 32
  s3 : BitVec 32
  ctrl : BitVec 16
  /-- elements formed so far -/
  pos : Nat
  /-- elements of the unfinished row -/
  row : List Dword
  /-- PC of the `STREAM.go` -/
  goPc : Pc
  status : Status
  deriving DecidableEq, Repr

/-- A weight slot (03 R64, 11 R236): its element codes, its scales and its hidden record. -/
structure WSlot where
  /-- element `(k, j)` at index `64 * k + j` -/
  elems : Sparse 16
  /-- scale codes of column `j`, block `n`, at index `128 * j + n`; band scales at `16384 + 128 * j + n` -/
  scales : Sparse 16
  hasRecord : Bool
  fmt : BitVec 5
  entry : BitVec 512
  i0 : Nat
  i1 : Nat
  i2 : Nat
  i3 : Nat
  valid : Bool
  /-- a load of the slot is in flight -/
  loading : Bool
  deriving DecidableEq, Repr

/-- An operation a versioned task holds until its commit (12 R265). -/
inductive Held where
  | pq (die : Nat) (key value : Word)
  | wl (list : Nat) (item : List Word)
  | emit (out : Nat) (bytes : List Byte)
  deriving DecidableEq, Repr

/-- The version of a versioned task (20 R350 to R356). -/
structure Version where
  /-- bytes written, by session virtual address, and the virtual lines last stored to under a cache hint -/
  bytes : List (Nat × Byte)
  hints : List (Nat × Nat)
  rs : BitVec 1024
  ws : BitVec 1024
  /-- number of the launch's last commit when the task started -/
  base : Nat
  held : List Held
  /-- the task runs in serial mode; and holds the serial token -/
  serial : Bool
  token : Bool
  deriving DecidableEq, Repr

/-- Life of a resident group (01 R15). -/
inductive Phase where
  | running
  /-- its streams have ended; a versioned task waits for its commit (20 R352) -/
  | committing
  /-- a versioned task that restarts once the copies into its scratchpad have landed (20 R353); in serial mode -/
  | restarting (serial : Bool)
  /-- RETIRING: copies land and the scrub runs -/
  | retiring
  deriving DecidableEq, Repr

/-- A resident group. `gid` is the model's name for it, kept across swaps and core moves. -/
structure Group where
  gid : Nat
  rgs : Nat
  session : Nat
  launch : Nat
  /-- linear index G (01 R10) -/
  index : Nat
  /-- rank within its cluster and the cluster's size (01 R11) -/
  rank : Nat
  scratchAt : Nat
  scratchGran : Nat
  /-- accumulator granules: tiles first, then one per band for `.comp` -/
  accGran : List Nat
  slotPhys : List Nat
  phase : Phase
  lead : Lead
  bands : List Band
  g : Sparse 64
  /-- back queue, oldest first: value, band, lane (01 R18) -/
  bq : List (Dword × Nat × Nat)
  streams : List Stream
  /-- scratchpad bytes by offset -/
  scratch : Mem
  /-- tile words at index `2048 * tile + 64 * i + j` -/
  tiles : Sparse 32
  opens : BitVec 16
  slots : List WSlot
  /-- completed barrier instances -/
  barGrp : Nat
  barClu : Nat
  ver : Option Version
  /-- group indices it withdrew through `FETCHWK` (02 R49) -/
  withdrawn : List Nat
  /-- collective commands issued (10 R232) -/
  collectives : Nat
  /-- core cycles it has been resident since its placement or restart (20 R360) -/
  age : Nat
  deriving DecidableEq, Repr

/-- A load at the slot-load port (13 R290). -/
structure SlotLoad where
  gid : Nat
  band : Nat
  slot : Nat
  reload : Bool
  deriving DecidableEq, Repr

/-- A context: the resident groups of one session on one core (20 R357). -/
structure Context where
  session : Nat
  groups : List Group
  /-- `MLOADB`s in flight when the context was saved, in issue order (11 R245) -/
  loads : List SlotLoad := []
  deriving DecidableEq, Repr

/-- A row of a drain (11 R243): the row, and the checked pieces of its elements and of its scales, each a virtual address,
a physical address, a length and the leaf. -/
structure DrainRow where
  row : Nat
  elems : List (Dword × Nat × Nat × BitVec 128)
  scales : List (Dword × Nat × Nat × BitVec 128)
  deriving DecidableEq, Repr

/-- A matrix instruction that has reached the engine (13 R287). -/
inductive MatOp where
  /-- A rows and scale records as read at issue; the tile read and the tile written; the slot's contents at start -/
  | mma (gid : Nat) (fmt : BitVec 5) (a : List (List Byte)) (sc : List (List Byte)) (src dst slot : Nat)
  | copy (gid : Nat) (src dst : Nat)
  | none (gid : Nat)
  | zero (gid : Nat) (dst : Nat)
  | drain (gid band tile : Nat) (ent : BitVec 512) (i0 cols : Nat) (factor : Word) (rnd : BitVec 3)
      (seeds : List (Dword × Word)) (rows : List DrainRow)
  deriving DecidableEq, Repr

/-- A TLB entry: one whole leaf of one session slot (21 R367). -/
structure TlbEntry where
  session : Nat
  /-- virtual page: 4 KiB page number, or 2 MiB page number when `big` -/
  page : Nat
  big : Bool
  leaf : BitVec 128
  deriving DecidableEq, Repr

/-- A captured instruction of a loop buffer (01 R26). -/
structure LoopEntry where
  lane : Nat
  gid : Nat
  band : Nat
  pc : Pc
  word : BitVec 96
  deriving DecidableEq, Repr

/-- The run of an issue slot (02 R40): the band, the PC of the run and the instructions it has issued. -/
structure Run where
  gid : Nat
  band : Nat
  /-- broadcast PC of the next instruction -/
  pc : Pc
  count : Nat
  deriving DecidableEq, Repr

/-- One of the four issue slots of a core. -/
structure IssueSlot where
  run : Option Run
  loops : List LoopEntry
  deriving DecidableEq, Repr

/-- Progress of a core from one context to the next (20 R357, 22 R396). -/
inductive Swap where
  | none
  /-- a candidate has been named halfway through the slice -/
  | named (session : Nat)
  /-- the grace of 20 R360 before `next` is brought in; the clusters still draining, by the group ids of each -/
  | grace (next : Nat) (draining : List (List Nat))
  /-- ready to quiesce; then to exchange -/
  | quiesce (next : Nat)
  | exchange (next : Nat)
  deriving DecidableEq, Repr

/-- What the shadow bank holds. -/
inductive Shadow where
  | empty
  /-- an outgoing context not yet spilled -/
  | outgoing (c : Context)
  /-- a preloaded context -/
  | loaded (c : Context)
  deriving DecidableEq, Repr

/-- One compute core. -/
structure Core where
  /-- session that holds the core, and its session-relative index (22 R438) -/
  session : Option Nat
  rel : Nat
  active : Context
  shadow : Shadow
  swap : Swap
  /-- resident group slot whose lead stream has the next turn (01 R14) -/
  leadTurn : Nat
  /-- %clock since core reset and its value when the context was brought in (03 R66) -/
  clock : Dword
  clockBase : Dword
  /-- core cycles of the slice, or of the grace that follows it (22 R396, 20 R360), and of the waiting budget (22 R398) -/
  count : Nat
  waited : Nat
  runBreaks : Nat
  slots : List IssueSlot
  mqueue : List MatOp
  mrun : Option MatOp
  port : List SlotLoad
  tlb : List TlbEntry
  deriving DecidableEq, Repr

/-- States of a session (22 R384). -/
inductive SessState where
  | idle | runnable | running | resetting | frozen
  deriving DecidableEq, Repr

/-- A lane in the commit-token queue, by group id, band and lane. -/
structure LaneRef where
  gid : Nat
  band : Nat
  lane : Nat
  deriving DecidableEq, Repr

/-- A session in a slot that is not FREE. -/
structure Session where
  slot : Nat
  st : SessState
  gen : BitVec 16
  handle : BitVec 16
  weight : Nat
  cap : Nat
  boost : Nat
  waitBudget : Nat
  trec : Nat
  rsBase : Dword
  rsDepth : Nat
  rsBands : Nat
  lkBase : Dword
  save : Nat
  snap : Dword
  snapCap : Nat
  vt : Dword
  fragStall : Dword
  resets : BitVec 32
  incarnation : Nat
  tensors : Sparse 512
  tvec : Dword
  tdeleg : BitVec 32
  tring : Dword
  tringcap : BitVec 8
  launchNo : Nat
  batchNo : Nat
  saved : List Context
  tokenHolder : Option LaneRef
  tokenQueue : List LaneRef
  keySlot : Option Nat
  sessMeas : BitVec 512
  logCount : Dword
  streamFails : Nat
  malformed : Nat
  /-- a queue whose watchdog fired in the reset under way (22 R401) -/
  watchdogs : List Nat
  deriving DecidableEq, Repr

/-- The fields of a launch descriptor (22 R391). -/
structure LaunchDesc where
  lanePc : Pc
  leadPc : Pc
  gx : Nat
  gy : Nat
  gz : Nat
  tx : Nat
  ty : Nat
  tz : Nat
  cluster : Nat
  versioned : Bool
  idempotent : Bool
  priv : Bool
  workSource : Nat
  policy : Bool
  regs : Nat
  window : Nat
  scratch : Nat
  acc : Nat
  rsv : Nat
  slots : Nat
  comp : Bool
  compLog : Option Nat
  compThr : Word
  pcap : Nat
  params : List Dword
  outputs : Nat
  outBase : Dword
  groupCycles : Nat
  keyh : BitVec 32
  compl : Dword
  deriving DecidableEq, Repr

/-- A Delphinium list of a launch (13 R295). -/
structure WorkList where
  base : Dword
  cap : Nat
  head : Nat
  tail : Nat
  deriving DecidableEq, Repr

/-- A started launch that has not completed. -/
structure Launch where
  session : Nat
  number : Nat
  /-- queue whose command started it, or none for a graph node -/
  queue : Option Nat
  /-- graph node it is the body of -/
  node : Option Dword
  desc : LaunchDesc
  world : Option Nat
  /-- next group in launch order never placed or withdrawn -/
  nextGroup : Nat
  /-- groups that return to the head of placement (20 R361) -/
  returned : List Nat
  lists : List WorkList
  quiescent : Bool
  restarts : Nat
  pqDisc : Nat
  listDisc : Nat
  heldDrop : Nat
  ctrDrop : Nat
  commitNo : Nat
  /-- write signatures of the last 256 commits, newest first -/
  commits : List (Nat × BitVec 1024)
  serialQueue : List Nat
  /-- tasks that have entered RETIRING and wait for their verdict, in that order (20 R351) -/
  commitQueue : List Nat
  /-- completion status forced by a trap, a reset or a failed serial task -/
  ended : Option Nat
  /-- a trap was delivered in a serial task: the launch is reported as failed (20 R356) -/
  failed : Bool := false
  /-- the write of its completion record waits on an engine fault of this batch, or the record is lost (22 R437) -/
  complFault : Option Nat
  complLost : Bool
  deriving DecidableEq, Repr

/-- A successor of a graph node (05 R111, R112). -/
inductive Succ where
  | node (addr : Dword)
  | counter (gid off : Nat)
  deriving DecidableEq, Repr

/-- Life of a graph node. -/
inductive NodeState where
  | waiting
  | running
  /-- the body has ended; the node has not finished -/
  | ended
  | finished
  deriving DecidableEq, Repr

/-- A submitted graph node (22 R394). -/
structure Node where
  session : Nat
  addr : Dword
  handle : Dword
  launch : Bool
  pred : Nat
  succs : List Succ
  body : Dword
  st : NodeState
  /-- a predecessor ended with an error -/
  predError : Bool
  status : Nat
  /-- queue that submitted it, if a command did -/
  queue : Option Nat
  /-- its start waits on an engine fault of this batch; the service has declined one -/
  fault : Option Nat
  declined : Bool
  deriving DecidableEq, Repr

/-- Where a result goes: a lane's register position, or a g register of the lead stream (`band` none). -/
structure Dest where
  gid : Nat
  band : Option Nat
  lane : Nat
  reg : Nat
  deriving DecidableEq, Repr

/-- Kinds of command the engines carry out on their own. -/
inductive CmdKind where
  /-- copy or fill with the fields of its descriptor (10 R229) -/
  | copy (fill : Bool) (src dst : Dword) (len : Nat) (ctrl ctr : BitVec 32) (desc : Dword)
  /-- append or drain of a list (10 R231) -/
  | dappend (a : Dword) (list n : Nat)
  | ddrain (a : Dword) (list n : Nat)
  /-- one-item list requests of `WLPUSH` and `WLPOP` (12 R270) -/
  | wlpush (list : Nat) (item : List Word)
  | wlpop (list : Nat)
  /-- a member of a collective (10 R232) -/
  | collective (efn : Nat) (sbuf dbuf : Dword) (count : Nat) (ctrl : BitVec 32) (inst : Nat) (bad : Bool)
  /-- a record of `EMIT` whose acceptance waits (14 R301): output and bytes -/
  | emit (out : Nat) (bs : List Byte)
  /-- a copy that has ended and has yet to write STATUS to its descriptor, with the counter to decrement (10 R229) -/
  | status (desc : Dword) (ctr : Option Nat) (code : Nat)
  /-- a command of 10 R229, R230 or R232 that the engine has not read yet: OP, EFN and operands -/
  | start (op efn : Nat) (a : Dword) (b : Word)
  /-- a decrement of a local counter, held for a context that is swapped out (05 R112) -/
  | ctrDec (off : Nat)
  /-- a result held for a context that is swapped out: words, g registers and a mask bit (10 R228) -/
  | answer (ws : List Word) (gs : List Dword) (k : Option (Nat × Bool))
  deriving DecidableEq, Repr

/-- An engine command in flight. -/
structure Cmd where
  id : Nat
  session : Nat
  gen : BitVec 16
  /-- issuing group; 0 for a command of a queue, whose number is in `queue` -/
  gid : Nat
  queue : Option Nat
  node : Option Dword
  core : Nat
  launch : Nat
  /-- where the reply goes -/
  reply : Option Dest
  kind : CmdKind
  /-- the engine holds the command because its target context is swapped out (10 R228) -/
  held : Bool
  /-- bytes already moved -/
  done : Nat
  /-- parked on an engine fault of this batch; the service has declined one -/
  fault : Option Nat
  declined : Bool
  /-- issued in privileged state -/
  priv : Bool
  /-- its task has been discarded: no counter is decremented (20 R353) -/
  noCtr : Bool
  /-- first linear index of the issuing group's cluster, by which its members are found once the group has retired (10 R229) -/
  first : Nat
  deriving DecidableEq, Repr

/-- A `FETCHWK` request at the distributor (02 R49). -/
structure FetchReq where
  session : Nat
  gid : Nat
  off : Nat
  deriving DecidableEq, Repr

/-- An entry of a die priority queue (02 R51), in push order. -/
structure PqEntry where
  die : Nat
  session : Nat
  launch : Nat
  key : Word
  value : Word
  deriving DecidableEq, Repr

/-- A pop that waits to be served (12 R269). -/
structure PqPop where
  die : Nat
  session : Nat
  launch : Nat
  core : Nat
  dest : Dest
  mask : Nat
  /-- it has been passed over by a full cycle, and goes before newer pops (12 R269) -/
  carried : Bool
  deriving DecidableEq, Repr

/-- A world (23 R410): its launch, and whether it is in retirement. -/
structure World where
  index : Nat
  session : Nat
  launch : Nat
  /-- key slot its handle named -/
  key : Nat
  /-- slot key, session slot and incarnation number, from which its memory key is derived -/
  memKey : BitVec 256
  inc : Nat
  /-- scrambler key, drawn for the launch; none once it has been erased (23 R411) -/
  scrambler : Option (BitVec 64)
  retiring : Bool
  deriving DecidableEq, Repr

/-- States of a key slot (23 R407). -/
inductive KeyState where
  | empty | provisioned | active | retiring | revoked
  deriving DecidableEq, Repr

/-- A key slot (23 R406). -/
structure KeySlot where
  st : KeyState
  key : BitVec 256
  domainKind : Bool
  epoch : BitVec 32
  bindings : Nat
  domain : Nat
  deriving DecidableEq, Repr

/-- A frame entry of the Hollyhock directory (21 R370). -/
structure HhEntry where
  domain : Nat
  tag : BitVec 128
  frame : Nat
  count : BitVec 32
  deriving DecidableEq, Repr

/-- An open loop of a command stream: index of its LOOP and passes left (22 R390). -/
structure CpLoop where
  start : Nat
  left : Nat
  deriving DecidableEq, Repr

/-- A queue mapped to a hardware slot (22 R389, R390). -/
structure QueueCtx where
  slot : Nat
  queue : Nat
  session : Nat
  /-- index of the next command to start, and WPTR as last read (22 R388) -/
  next : Nat
  wptr : Nat
  loops : List CpLoop
  /-- commands still to skip (22 R390, COND) -/
  skip : Nat
  /-- launches, copies and nodes of the queue not completed: launch numbers, command ids and node addresses -/
  launches : List Nat
  cmds : List Nat
  nodes : List Dword
  /-- an access of its current command waits on an engine fault of this batch; the service has declined one -/
  fault : Option Nat
  declined : Bool
  /-- base-die cycles that its watchdog has counted (22 R400), and for which it has been idle (22 R389) -/
  wdog : Nat
  idleFor : Nat
  deriving DecidableEq, Repr

/-- A record ring of a node output (14 R301), by its launch and its descriptor's address. -/
structure Ring where
  session : Nat
  desc : Nat
  base : Dword
  head : Nat
  tail : Nat
  cap : Nat
  rsize : Nat
  kind : Nat
  consumer : Dword
  /-- for a shader node: the list of the consuming launch -/
  list : Nat
  /-- order of acceptance of the records still held -/
  order : List Nat
  launch : Nat
  deriving DecidableEq, Repr

/-- A bin of a rasteriser node with the triangles binned into it (14 R304, R315). -/
structure Bin where
  session : Nat
  node : Dword
  x : Nat
  y : Nat
  tris : List (List Byte)
  /-- quads accepted by the output before the bin ran out of room -/
  sent : Nat
  /-- replays so far, counted at its commit -/
  replays : Nat
  deriving DecidableEq, Repr

/-- A texture page being streamed (14 R308). -/
structure TexStream where
  session : Nat
  /-- page address and its number counted from BASE -/
  page : Dword
  index : Nat
  resmask : Dword
  ctier : Dword
  /-- base-die cycles its link request has been outstanding (24 R422) -/
  age : Nat
  deriving DecidableEq, Repr

/-- A page whose stream failed and lanes that have not been answered yet (12 R273). -/
structure TexFail where
  session : Nat
  page : Dword
  lanes : List LaneRef
  deriving DecidableEq, Repr

/-- An access of a unit beside the engines (0 streaming engine, 1 rasteriser, 2 blender, 3 encoder) that waits on an engine
fault of this batch, or whose fault has been declined (21 R368). -/
structure UnitFault where
  session : Nat
  unit : Nat
  batch : Option Nat
  deriving DecidableEq, Repr

/-- A frame an encoder works on (14 R317). -/
structure EncFrame where
  engine : Nat
  session : Nat
  record : List Byte
  deriving DecidableEq, Repr

/-- The memory key a line in LPDDR was last written under (23 R410, R413, R436), by what it is derived from. -/
inductive Owner where
  /-- a session incarnation's: slot key, session slot and incarnation number -/
  | session (key : BitVec 256) (slot inc : Nat)
  /-- a share domain's: the key of its slot, and the domain -/
  | domain (key : BitVec 256) (d : Nat)
  deriving DecidableEq, Repr

/-- The control registers of the base die (22 R404, 21 R382, 23 R405, 24 R424, R428). -/
structure Ctrl where
  bootStep : Nat
  bootResult : Nat
  cfgState : Nat
  cfgErr : BitVec 5
  cpPrivq : Dword
  poisoned : BitVec 32
  hostLoss : Bool
  linkUp : Bool
  schedEnable : Bool
  stabBase : Dword
  mqtBase : Dword
  slice : BitVec 32
  grace : BitVec 32
  sstatBusy : Bool
  sstatStatus : Nat
  mergeEn : Bool
  relBase : Dword
  relCap : Nat
  merges : BitVec 32
  collide : Nat
  full : Nat
  badDrop : Nat
  dbmBase0 : Dword
  dbmBase1 : Dword
  dbmActive : Bool
  dbmEnable : Bool
  dbmSwaps : Dword
  /-- swaps written whose count has not risen -/
  dbmPending : Nat
  vbParam : Dword
  vbReply : BitVec 32
  vbBusy : Bool
  vbStatus : Nat
  vbNonce : Dword
  debug : Bool
  alarmPol : BitVec 16
  alarms : BitVec 8
  euWindow : BitVec 32
  euLimit : BitVec 16
  pwrIdle : BitVec 32
  pwrChan : BitVec 6
  pwrEnc : BitVec 8
  pwrDie : BitVec 4
  pwrCores : BitVec 64
  /-- values last written to the write-only registers SCMD, VB_CMD, DOORBELL, HH_DROP and DBM_SWAP, and to
  VB_ALARMPOL, whose writes are steps of their own -/
  scmd : Dword
  vbCmd : Dword
  doorbell : Dword
  hhDrop : Dword
  dbmSwap : Dword
  polWrite : Dword
  deriving DecidableEq, Repr

/-- The Verbena store beside its registers (23 R406, R417). -/
structure Vault where
  keys : List KeySlot
  /-- number of the sealing key, which `UNLOCK` replaces -/
  sealNo : Nat
  unlockFails : Nat
  devMeas : BitVec 512
  deriving DecidableEq, Repr

/-- Position of the merge engine (21 R372), and the title-image regions of each session as it read them at the start of the
pass (21 R366): VBASE, NPAGES and WAFTER. -/
structure MergePos where
  session : Nat
  region : Nat
  page : Nat
  regions : List (Nat × List (Nat × Nat × Bool))
  deriving DecidableEq, Repr

/-- A page whose merge is under way (21 R372): its session, its address and frame, the leaf that was read and where it stands, the
frame of the content entry, and whether the engine made that entry. -/
structure Merging where
  session : Nat
  va : Nat
  old : Nat
  at_ : Nat
  leaf : BitVec 128
  wafter : Bool
  tag : BitVec 128
  frame : Nat
  made : Bool
  deriving DecidableEq, Repr

/-- A cache (05 R104): the L1 of a core, the L2 of a die, or the LLC. -/
inductive CacheAt where
  | l1 (core : Nat)
  | l2 (die : Nat)
  | llc
  deriving DecidableEq, Repr

/-- What a block is tagged by (05 R110): the share domain of a content frame, the world of a private or overlay block, or
none of them for a block that a base-die unit brought in. -/
inductive CacheTag where
  | content (domain : Nat)
  | world (session : Nat) (world : Option Nat)
  | device
  deriving DecidableEq, Repr

/-- A block of 512 bytes in a cache (05 R107). -/
structure CacheBlock where
  at_ : CacheAt
  /-- physical address / 512 -/
  block : Nat
  /-- valid 32-byte sectors -/
  valid : BitVec 16
  grain : Nat
  type : Nat
  tag : CacheTag
  /-- eviction priority (05 R105, R106) -/
  evict : Nat
  /-- bytes dirty here by physical address, each with the byte the next level holds under it -/
  dirty : List (Nat × Byte)
  deriving DecidableEq, Repr

/-- What a 64-byte line held before a write, and the launches (session and number) that ran then: their fetches may return it
still (01 R26, entry 45). -/
structure OldLine where
  line : Nat
  bytes : Nat
  launches : List (Nat × Nat)
  /-- the key it was held under -/
  owner : Option Owner
  deriving DecidableEq, Repr

/-- Memory and what is known of its lines. -/
structure Phys where
  /-- bytes by physical address; an unlisted address reads as zero (24 R425 step 3) -/
  bytes : Mem
  /-- lines held under a key; an unlisted line is plain -/
  owners : List (Nat × Owner)
  /-- poisoned lines, and those of them poisoned by host loss -/
  poison : List Nat
  hostPoison : List Nat
  /-- lines a host holds modified or exclusive -/
  hostOwned : List Nat
  /-- blocks that hold a valid sector or a dirty byte -/
  caches : List CacheBlock
  /-- lines written while launches ran, as they were -/
  old : List OldLine
  deriving DecidableEq, Repr

/-- The whole module. -/
structure State where
  phys : Phys
  ctrl : Ctrl
  vault : Vault
  worlds : List World
  hh : List HhEntry
  mergePos : MergePos
  /-- the page whose leaf the merge engine is about to swap -/
  merging : Option Merging
  /-- frames waiting for the full released-frames ring -/
  relPending : List Nat
  sessions : List Session
  /-- incarnation numbers of the slots (23 R409) -/
  incarnations : List (Nat × Nat)
  launches : List Launch
  nodes : List Node
  cores : List Core
  tlb2 : List (Nat × TlbEntry)
  cmds : List Cmd
  fetches : List FetchReq
  pq : List PqEntry
  pops : List PqPop
  queues : List QueueCtx
  /-- hardware queue slot whose command processor starts the next command; and of each command processor, the slot of its
  four that has the next turn (22 R390) -/
  cpTurn : Nat
  cpNext : List Nat
  /-- queues with a doorbell, in order of arrival, each with the WPTR read at its last doorbell (22 R388) -/
  doorbells : List (Nat × Nat)
  rings : List Ring
  bins : List Bin
  /-- blender nodes whose accumulators have been initialised: session, launch, node descriptor (14 R302) -/
  blended : List (Nat × Nat × Nat)
  textures : List TexStream
  texFails : List TexFail
  encoders : List EncFrame
  /-- what each encoder engine has encoded since module reset: its records and planes (14 R317) -/
  encDone : List (Nat × List Byte)
  unitFaults : List UnitFault
  /-- corrected-error counters of the regions (23 R419) -/
  errCount : List (Region × Nat)
  /-- error-unit cycles of the counting window -/
  euCount : Nat
  /-- regions marked as lasting faults; they stay in use (23 R419) -/
  lasting : List Region
  /-- cycles of its own clock for which each gateable unit has been idle (24 R428) -/
  idle : List (Nat × Nat)
  /-- interrupts raised to the host by alarms, oldest first -/
  irqs : List Nat
  /-- what alarms still have to do: erase every key slot, or reset the session named -/
  alarmTodo : List (Bool × Option Nat)
  /-- data of the last host read or old value of the last host AtomicOp; none when it was poisoned -/
  hostData : Option (List Byte)
  nextGid : Nat
  nextCmd : Nat
  /-- MODEL'S OWN: number of run ends and placements so far, the order of 02 R41 -/
  runCtr : Nat
  /-- MODEL'S OWN: counter of the free values -/
  freeCtr : Nat
  /-- MODEL'S OWN: a write met a line of a serial transaction of another party (09 R213), or a push a full ring (21 R375);
  `step` then leaves the whole step for later -/
  clash : Bool
  /-- MODEL'S OWN: the copy-on-write unit has run for the instruction under way, whose latency is then unbounded (21 R374) -/
  cowRan : Bool
  /-- MODEL'S OWN: 2 once link requests have been found to time out, 1 in the step whose accesses fail by it (24 R422) -/
  linkLate : Nat
  /-- MODEL'S OWN: the memory channel pairs that the step under way has reached (24 R427) -/
  reached : List Nat
  /-- MODEL'S OWN: the unit that issues the current instruction -/
  issuer : Option UnitRef
  /-- MODEL'S OWN: inputs and steps of other agents that come next, in order -/
  agenda : List Instr
  deriving DecidableEq, Repr

/-- A lane that has not been started (01 R9, 03 R67). -/
def Lane.init : Lane :=
  { pc := 0, status := .tail, wait := .none, k := 0, base := 0, size := 8, lo := 0, marks := [], nlinks := 0,
    links := [], regs := [], banks := [], win := [], killed := [], issued := [], rsv := [], ca := [], fpflags := 0, dseed := 0, dcount := 0,
    txn := { active := false, serial := false, aborts := 0, detail := 0, cause := 0, target := 0, touched := [],
             rvals := [], buf := [], doomed := false },
    rays := [], tex := none, priv := false, trec := 0, frame := none, rep := none, barGrp := 0, barClu := 0, pending := [] }

/-- A core after core reset: no context, nothing queued. -/
def Core.init : Core :=
  { session := none, rel := 0, active := { session := 0, groups := [] }, shadow := .empty, swap := .none, leadTurn := 0, clock := 0,
    clockBase := 0, count := 0, waited := 0, runBreaks := 0, slots := List.replicate 4 { run := none, loops := [] }, mqueue := [],
    mrun := none, port := [], tlb := [] }

/-- The control registers at module reset, as their tables give them. -/
def Ctrl.reset : Ctrl :=
  { bootStep := 0, bootResult := 0, cfgState := 0, cfgErr := 0, cpPrivq := 0, poisoned := 0, hostLoss := false,
    linkUp := false, schedEnable := false, stabBase := 0, mqtBase := 0, slice := 320000, grace := 32000,
    sstatBusy := false, sstatStatus := 0, mergeEn := false, relBase := 0, relCap := 6, merges := 0, collide := 0,
    full := 0, badDrop := 0, dbmBase0 := 0, dbmBase1 := 0, dbmActive := false, dbmEnable := false, dbmSwaps := 0,
    dbmPending := 0, vbParam := 0, vbReply := 0, vbBusy := false, vbStatus := 0, vbNonce := 0, debug := false,
    alarmPol := 0x0775, alarms := 0, euWindow := 0x80000000, euLimit := 16, pwrIdle := 0xFFFFFFFF, pwrChan := 0,
    pwrEnc := 0, pwrDie := 0, pwrCores := 0, scmd := 0, vbCmd := 0, doorbell := 0, hhDrop := 0, dbmSwap := 0,
    polWrite := 0 }

/-- The module right after module reset (24 R425): boot has not run its first step. -/
def State.reset : State :=
  { phys := { bytes := [], owners := [], poison := [], hostPoison := [], hostOwned := [], caches := [], old := [] },
    ctrl := Ctrl.reset,
    vault := { keys := List.replicate 64 { st := .empty, key := 0, domainKind := false, epoch := 0, bindings := 0,
                                           domain := 0 },
               sealNo := 0, unlockFails := 0, devMeas := 0 },
    worlds := [], hh := [], mergePos := { session := 0, region := 0, page := 0, regions := [] }, merging := none, relPending := [], sessions := [],
    incarnations := [], launches := [], nodes := [], cores := List.replicate 64 Core.init, tlb2 := [], cmds := [],
    fetches := [], pq := [], pops := [], queues := [], cpTurn := 0, cpNext := List.replicate 32 0, doorbells := [], rings := [], bins := [], blended := [], textures := [],
    texFails := [], encoders := [], encDone := [], unitFaults := [], errCount := [], euCount := 0, lasting := [], idle := [], irqs := [], alarmTodo := [], hostData := none, nextGid := 1,
    nextCmd := 0, runCtr := 0, freeCtr := 0, clash := false, cowRan := false, linkLate := 0, reached := [], issuer := none, agenda := [] }

end Sys2Proof.Machine
end

