-- ==== Sys2Proof/Machine/Select.lean ====
section
/-! DEFINITION. Reaching into the state: cores, groups, bands, lanes, sessions and launches, and changing one of them. -/

namespace Sys2Proof.Machine

open Sys2Proof

/-- A core by physical number (a core that does not exist reads as one after core reset). -/
def State.core (s : State) (c : Nat) : Core := s.cores.getD c Core.init

/-- Changes one core. -/
def State.modCore (s : State) (c : Nat) (f : Core → Core) : State := { s with cores := updAt f s.cores c }

/-- The die a core sits on (00 R1). -/
def dieOf (core : Nat) : Nat := core / 16

/-- A resident group of a core, by resident group slot; a group in RETIRING has given its slot back (02 R38). -/
def Core.groupAt? (c : Core) (rgs : Nat) : Option Group :=
  c.active.groups.find? fun g => g.rgs == rgs && g.phase != .retiring

def State.groupAt? (s : State) (core rgs : Nat) : Option Group := (s.core core).groupAt? rgs

/-- Every resident group with the core it is on. -/
def State.residents (s : State) : List (Nat × Group) :=
  (List.range 64).flatMap fun c => (s.core c).active.groups.map fun g => (c, g)

/-- Where a group is resident, by its name. -/
def State.find? (s : State) (gid : Nat) : Option (Nat × Group) := s.residents.find? fun x => x.2.gid == gid

/-- The groups of a context that is not active: saved or in a shadow bank. -/
def State.parked (s : State) : List Group :=
  (s.sessions.flatMap fun x => x.saved.flatMap fun c => c.groups) ++
  s.cores.flatMap fun c => match c.shadow with
    | .empty => []
    | .outgoing x => x.groups
    | .loaded x => x.groups

/-- Changes a group of one core, by its name. -/
def State.modGroupOn (s : State) (core gid : Nat) (f : Group → Group) : State :=
  s.modCore core fun c =>
    { c with active := { c.active with groups := updFirst (fun g => g.gid == gid) f c.active.groups } }

/-- Changes a resident group, wherever it is. -/
def State.modGroup (s : State) (gid : Nat) (f : Group → Group) : State :=
  match s.find? gid with
  | some (c, _) => s.modGroupOn c gid f
  | none => s

def Group.band (g : Group) (b : Nat) : Option Band := g.bands[b]?

/-- A band that does not exist. -/
def Band.absent : Band :=
  { slot := 0, pos := 0, granule := 0, granules := 0, area := 0, lanes := [], fq := [], frags := [], fresh := false,
    started := true, lastRun := 0, lastEnd := 0 }

def Band.lane (b : Band) (l : Nat) : Lane := b.lanes.getD l Lane.init

def Group.lane (g : Group) (b l : Nat) : Lane :=
  match g.bands[b]? with
  | some x => x.lane l
  | none => Lane.init

def Group.modBand (g : Group) (b : Nat) (f : Band → Band) : Group := { g with bands := updAt f g.bands b }

def Band.modLane (b : Band) (l : Nat) (f : Lane → Lane) : Band := { b with lanes := updAt f b.lanes l }

def Group.modLane (g : Group) (b l : Nat) (f : Lane → Lane) : Group := g.modBand b fun x => x.modLane l f

/-- A lane by its reference; an absent lane reads as one never started. -/
def State.laneOf (s : State) (r : LaneRef) : Lane :=
  match s.find? r.gid with
  | some (_, g) => g.lane r.band r.lane
  | none => Lane.init

def State.modLane (s : State) (gid band lane : Nat) (f : Lane → Lane) : State :=
  s.modGroup gid fun g => g.modLane band lane f

def State.session? (s : State) (slot : Nat) : Option Session := s.sessions.find? fun x => x.slot == slot

def State.modSession (s : State) (slot : Nat) (f : Session → Session) : State :=
  { s with sessions := updFirst (fun x => x.slot == slot) f s.sessions }

def State.launch? (s : State) (sess no : Nat) : Option Launch :=
  s.launches.find? fun l => l.session == sess && l.number == no

def State.modLaunch (s : State) (sess no : Nat) (f : Launch → Launch) : State :=
  { s with launches := updFirst (fun l => l.session == sess && l.number == no) f s.launches }

/-- The launch a group belongs to. -/
def State.launchOf? (s : State) (g : Group) : Option Launch := s.launch? g.session g.launch

/-- A lane that can execute: not exited, not a tail lane, not parked, trapped or waiting. -/
def Lane.ready (l : Lane) : Bool := l.status == .running && l.wait == .none

/-- A lane that has not ended. -/
def Lane.live (l : Lane) : Bool := l.status != .exited && l.status != .tail

/-- The cores a session holds. -/
def State.coresOf (s : State) (slot : Nat) : List Nat := (List.range 64).filter fun c => (s.core c).session == some slot

/-- The next free value's number, and the state that has used it (entry 4). -/
def State.fresh (s : State) : Nat × State := (s.freeCtr, { s with freeCtr := s.freeCtr + 1 })

/-- The resident groups of a launch. -/
def State.groupsOf (s : State) (sess no : Nat) : List (Nat × Group) :=
  s.residents.filter fun x => x.2.session == sess && x.2.launch == no

/-- Every group of a launch, resident or in a saved context. -/
def State.allGroupsOf (s : State) (sess no : Nat) : List Group :=
  ((s.groupsOf sess no).map (·.2)) ++ s.parked.filter fun g => g.session == sess && g.launch == no

/-- First linear index of a group's cluster. -/
def Group.clusterFirst (g : Group) : Nat := g.index - g.rank

/-- The resident members of a group's cluster, by ascending rank. -/
def State.cluster (s : State) (g : Group) : List (Nat × Group) :=
  (List.range 4).flatMap fun r =>
    (s.groupsOf g.session g.launch).filter fun x => x.2.clusterFirst == g.clusterFirst && x.2.rank == r

/-- A group by name, resident or in a context that is swapped out. -/
def State.anyGroup (s : State) (gid : Nat) : Option Group :=
  (s.residents.map (·.2) ++ s.parked).find? fun g => g.gid == gid

/-- One group of a context changed, by its name. -/
def Context.modGroup (c : Context) (gid : Nat) (f : Group → Group) : Context :=
  { c with groups := updFirst (fun g => g.gid == gid) f c.groups }

def Shadow.map (x : Shadow) (f : Context → Context) : Shadow :=
  match x with
  | .empty => .empty
  | .outgoing c => .outgoing (f c)
  | .loaded c => .loaded (f c)

/-- Changes a group, resident or in a context that is swapped out. -/
def State.modAny (s : State) (gid : Nat) (f : Group → Group) : State :=
  if (s.find? gid).isSome then s.modGroup gid f
  else
    { s with
      sessions := s.sessions.map fun x => { x with saved := x.saved.map fun c => c.modGroup gid f }
      cores := s.cores.map fun c => { c with shadow := c.shadow.map fun y => y.modGroup gid f } }

/-- Whether two groups belong to one cluster. -/
def Group.mates (g h : Group) : Bool := h.session == g.session && h.launch == g.launch && h.clusterFirst == g.clusterFirst

/-- The matrix instructions at a core's engine, the running one first. -/
def Core.matOps (c : Core) : List MatOp := c.mrun.toList ++ c.mqueue

/-- The group of a matrix instruction, the tiles it names, and the slot it reads. -/
def MatOp.gid : MatOp → Nat
  | .mma g _ _ _ _ _ _ => g
  | .copy g _ _ => g
  | .none g => g
  | .zero g _ => g
  | .drain g _ _ _ _ _ _ _ _ _ => g

def MatOp.tiles : MatOp → List Nat
  | .mma _ _ _ _ a b _ => [a, b]
  | .copy _ a b => [a, b]
  | .none _ => []
  | .zero _ a => [a]
  | .drain _ _ a _ _ _ _ _ _ _ => [a]

def MatOp.slot : MatOp → Option Nat
  | .mma _ _ _ _ _ _ k => Option.some k
  | .copy _ _ _ => Option.none
  | .none _ => Option.none
  | .zero _ _ => Option.none
  | .drain _ _ _ _ _ _ _ _ _ _ => Option.none

/-- A drain whose stores have not left: its group and band. -/
def MatOp.draining : MatOp → Option (Nat × Nat)
  | .mma _ _ _ _ _ _ _ => Option.none
  | .copy _ _ _ => Option.none
  | .none _ => Option.none
  | .zero _ _ => Option.none
  | .drain g b _ _ _ _ _ _ _ _ => Option.some (g, b)

/-- Whether a band has a drain in the engine queue: its later accesses wait for those stores (11 R243). -/
def Core.draining (c : Core) (gid band : Nat) : Bool := c.mqueue.any fun o => o.draining == some (gid, band)

/-- Whether a matrix instruction at the engine names a tile of a group (13 R288). -/
def Core.tileBusy (c : Core) (gid tile : Nat) : Bool := c.matOps.any fun o => o.gid == gid && o.tiles.contains tile

/-- The member of a rank in a cluster of a launch, resident or swapped out. -/
def State.memberOf (s : State) (session launch first rank : Nat) : Option Group :=
  (s.residents.map (·.2) ++ s.parked).find? fun h =>
    h.session == session && h.launch == launch && h.clusterFirst == first && h.rank == rank

/-- The member of a rank in a group's cluster. -/
def State.member (s : State) (g : Group) (rank : Nat) : Option Group := s.memberOf g.session g.launch g.clusterFirst rank

/-- The member of a rank in the cluster of the group that issued a command, whether or not that group has retired. -/
def Cmd.member (c : Cmd) (s : State) (rank : Nat) : Option Group :=
  if c.gid == 0 then none else s.memberOf c.session c.launch c.first rank

/-- The group whose scratchpad an address names for a command, if it names one. -/
def State.scratchOf (s : State) (c : Cmd) (a : Nat) : Option Group :=
  if a / 2 ^ 48 == 0x4000 then s.anyGroup c.gid
  else if a / 2 ^ 48 == 0x4001 && a / 2 ^ 20 % 2 ^ 28 == 0 then c.member s (a / 2 ^ 18 % 4)
  else none

/-- Whether a copy into a group's scratchpad is in flight (01 R15). Where a copy of a member of the cluster has not had its
descriptor read, its destination is not known, and it counts. -/
def State.copiesInto (s : State) (gid : Nat) : Bool :=
  s.cmds.any fun c => match c.kind with
    | .copy _ _ dst _ ctrl _ _ => !ctrl.getLsbD 8 && (s.scratchOf c dst.toNat).any fun g => g.gid == gid
    | .start 0xB0 _ _ _ => (s.anyGroup gid).any fun g => c.gid != 0 && g.session == c.session && g.launch == c.launch && g.clusterFirst == c.first
    | _ => false

end Sys2Proof.Machine
end

