-- ==== Sys2Proof/Machine/Contend.lean ====
section
/-! DEFINITION. Open lane transactions as the writes of other parties meet them (06 R126, R127, 09 R208, R213). -/

namespace Sys2Proof.Machine

open Sys2Proof

/-- The lines that `n` bytes from `a` touch. -/
def linesOf (a n : Nat) : List Nat :=
  if n = 0 then [] else (List.range ((a + n - 1) / 64 - a / 64 + 1)).map (a / 64 + ·)

/-- The physical lines an open transaction has read, and those it has stored to. -/
def Txn.rset (x : Txn) : List Nat := (x.touched.filter fun e => e.rd).map fun e => e.pline
def Txn.wset (x : Txn) : List Nat := (x.touched.filter fun e => e.wr).map fun e => e.pline

/-- Where a virtual byte that a transaction has touched lies. -/
def Txn.pa (x : Txn) (va : Nat) : Nat := match x.touched.find? fun e => e.vline == va / 64 with
  | some e => 64 * e.pline + va % 64
  | none => va

/-- A transaction that has ended: nothing is read, buffered or held any more. -/
def Txn.closed (x : Txn) : Txn := { x with active := false, serial := false, doomed := false, touched := [], rvals := [], buf := [] }

/-- Whether a touched line is one of `n` bytes at `src` that the `n` virtual bytes from `va` name. -/
def TxLine.through (va src n : Nat) (e : TxLine) : Bool :=
  decide (va ≤ 64 * e.vline % 2 ^ 48) && decide (64 * e.vline % 2 ^ 48 < va + n) &&
  decide (src ≤ 64 * e.pline) && decide (64 * e.pline < src + n)

/-- What a transaction has touched through `n` virtual bytes from `va`, followed from `src` to `dst`. -/
def Txn.follow (x : Txn) (va src dst n : Nat) : Txn :=
  { x with touched := x.touched.map fun e =>
      if e.through va src n then { e with pline := (dst + (64 * e.pline - src)) / 64 } else e }

/-- Another party's lane has an open transaction, no serial one, that holds one of the lines. -/
def Lane.holdsLine (x : Lane) (lines : List Nat) : Bool :=
  x.txn.active && lines.any fun l => x.txn.rset.contains l || x.txn.wset.contains l

/-- An open transaction through a page's bytes: `n` virtual bytes from `va` that lie at `src`. -/
def Lane.holdsPage (va src n : Nat) (x : Lane) : Bool := x.txn.active && x.txn.touched.any (·.through va src n)

/-- A transaction that `h` selects is doomed (09 R208), a serial one excepted. -/
def doomLane (h : Lane → Bool) (x : Lane) : Lane :=
  if h x && !x.txn.serial then { x with txn := { x.txn with doomed := true } } else x

/-- The transactions of a group that `h` selects, doomed, except the one of `self`. -/
def Group.doom (g : Group) (self : Option LaneRef) (h : Lane → Bool) : Group :=
  { g with
    bands := g.bands.mapIdx fun b y =>
      { y with
        lanes := y.lanes.mapIdx fun l x =>
          if self == some { gid := g.gid, band := b, lane := l } then x else doomLane h x } }

/-- Whether some resident transaction of a group that `p` selects, other than `self`, is one that `h` selects. -/
def State.anyTxn (s : State) (p : Group → Bool) (self : Option LaneRef) (h : Lane → Bool) : Bool :=
  s.cores.any fun c => c.active.groups.any fun g => p g && g.bands.zipIdx.any fun y => y.1.lanes.zipIdx.any fun x =>
    self != some { gid := g.gid, band := y.2, lane := x.2 } && h x.1

/-- Dooms every transaction of the groups `p` that `h` selects, except the one of `self`. -/
def State.doomBy (s : State) (p : Group → Bool) (self : Option LaneRef) (h : Lane → Bool) : State :=
  if s.anyTxn p self h then
    let one (g : Group) : Group := if p g then g.doom self h else g
    { s with cores := s.cores.map fun c => { c with active := { c.active with groups := c.active.groups.map one } } }
  else s

/-- Dooms every transaction of the groups `p` that has touched one of the lines, except the one of `self`. -/
def State.doom (s : State) (p : Group → Bool) (self : Option LaneRef) (lines : List Nat) : State :=
  s.doomBy p self fun x => x.holdsLine lines

/-- The session stores of a group go into a version now (20 R355, R356). -/
def Group.buffering (g : Group) : Bool := match g.ver with
  | some v => !v.serial
  | none => false

/-- Whether a serial transaction of another lane, `h` selecting it and `p` its group, is open (09 R213). -/
def State.serialBy (s : State) (p : Group → Bool) (self : Option LaneRef) (h : Lane → Bool) : Bool :=
  s.sessions.any fun y => match y.tokenHolder with
    | none => false
    | some r => self != some r && (match s.find? r.gid with
      | some (_, g) => p g && (g.lane r.band r.lane).txn.serial && h (g.lane r.band r.lane)
      | none => false)

/-- Whether a serial transaction of another lane holds one of the physical lines. -/
def State.serialHolds (s : State) (self : Option LaneRef) (lines : List Nat) : Bool :=
  s.serialBy (fun g => !g.buffering) self fun x => x.holdsLine lines

/-- Whether a serial transaction of another lane of a task holds one of the virtual lines: inside a version only parties that
act on the same version meet (09 R214). -/
def State.serialHoldsIn (s : State) (gid : Nat) (self : Option LaneRef) (lines : List Nat) : Bool :=
  s.serialBy (fun g => g.gid == gid && g.buffering) self fun x => x.holdsLine lines

/-- Whether a serial transaction of another lane holds some lines that a unit of a group is about to write: virtual lines where the
group's stores go into its version. -/
def State.heldFrom (s : State) (g : Group) (self : Option LaneRef) (lines : List Nat) : Bool :=
  if g.buffering then s.serialHoldsIn g.gid self lines else s.serialHolds self lines

/-- A party is about to write some virtual lines of a task's version (09 R214). -/
def State.contendIn (s : State) (gid : Nat) (self : Option LaneRef) (lines : List Nat) : State :=
  let t := s.doom (fun g => g.gid == gid) self lines
  if s.serialHoldsIn gid self lines then { t with clash := true } else t

/-- A party is about to write some lines: the transactions that hold them are doomed; a serial one holds the write back. -/
def State.contend (s : State) (self : Option LaneRef) (lines : List Nat) : State :=
  let t := s.doom (fun g => !g.buffering) self lines
  if s.serialHolds self lines then { t with clash := true } else t

end Sys2Proof.Machine
end

