-- ==== Sys2Proof/Machine/Caches.lean ====
section
/-! DEFINITION. The caches (05 R104 to R108, 12 R286): blocks of 512 bytes with a valid bit for each 32-byte sector, in the
L1 of a core, the L2 of a die and the LLC. There is one copy of memory (entry 3), so a block holds no data of its own: it
holds which sectors are cached, and of each dirty byte the byte that the next level holds under it. Sectors brought in under
another type, grain or tag lie in a block of their own (05 R109, R110; entry 73). -/

namespace Sys2Proof.Machine

open Sys2Proof

/-- How an access uses the caches: the requesting core, none for a unit of the base die; the highest level it may be held
in, 0 L1, 1 L2, 2 LLC, 3 none (05 R105); whether its stores are written through to the LLC; and what its blocks are marked
with. -/
structure CacheUse where
  core : Option Nat
  level : Nat
  through : Bool
  grain : Nat
  type : Nat
  evict : Nat
  tag : CacheTag
  deriving DecidableEq, Repr

/-- An access of a base-die unit, performed at the LLC. -/
def CacheUse.llc : CacheUse := { core := none, level := 2, through := true, grain := 0, type := 0, evict := 1, tag := .device }

/-- An access that bypasses every cache. -/
def CacheUse.past : CacheUse := { CacheUse.llc with level := 3 }

def CacheAt.isL2 : CacheAt → Bool
  | .l1 _ => false
  | .l2 _ => true
  | .llc => false

/-- Blocks that each cache holds (00 R2). -/
def CacheAt.blocks : CacheAt → Nat
  | .l1 _ => 256 * 1024 / 512
  | .l2 _ => 16 * 1024 * 1024 / 512
  | .llc => 256 * 1024 * 1024 / 512

/-- Whether a block is the one of a cache that an access uses: one that was brought in under its grain, type and tag. -/
def CacheBlock.is (b : CacheBlock) (c : CacheAt) (n : Nat) (u : CacheUse) : Bool :=
  b.at_ == c && b.block == n && b.grain == u.grain && b.type == u.type && b.tag == u.tag

/-- The use under which the LLC takes what an L2 block writes back. -/
def CacheBlock.use (b : CacheBlock) : CacheUse :=
  { core := none, level := 2, through := true, grain := b.grain, type := b.type, evict := b.evict, tag := b.tag }

/-- A block that holds nothing is not listed. -/
def CacheBlock.used (b : CacheBlock) : Bool := b.valid != 0 || !b.dirty.isEmpty

/-- The block numbers that `n` bytes from `a` touch. -/
def blocksOf (a n : Nat) : List Nat :=
  if n = 0 then [] else (List.range ((a + n - 1) / 512 - a / 512 + 1)).map (a / 512 + ·)

/-- Bytes `[a, a + n)` by the blocks they touch: each the first byte and the length of a part. -/
def blockParts (a n : Nat) : List (Nat × Nat) :=
  (blocksOf a n).map fun k => let lo := max a (512 * k)
    (lo, min (a + n) (512 * (k + 1)) - lo)

/-- The sectors of a block that bytes `[a, a + n)` touch, widened to whole units of a grain (05 R107). -/
def sectorMask (grain block a n : Nat) : BitVec 16 :=
  let size := if grain = 0 then 1 else if grain = 1 then 4 else 16
  BitVec.ofNat 16 (((List.range 16).filter fun k =>
    let lo := 512 * block + 32 * (k / size * size)
    decide (lo < a + n) && decide (a < lo + 32 * size)).foldl (fun m k => m + 2 ^ k) 0)

/-- The dirty bytes of `[a, a + n)` in the caches selected, each with the byte under it. -/
def Phys.dirtyIn (p : Phys) (sel : CacheAt → Bool) (a n : Nat) : List (Nat × Byte) :=
  (p.caches.filter fun b => sel b.at_ && decide (512 * b.block < a + n) && decide (a < 512 * (b.block + 1))).flatMap fun b =>
    b.dirty.filter fun e => decide (a ≤ e.1) && decide (e.1 < a + n)

/-- Changes a block of a cache, which is made where the cache does not hold it. -/
def Phys.modBlock (p : Phys) (c : CacheAt) (n : Nat) (u : CacheUse) (f : CacheBlock → CacheBlock) : Phys :=
  let new : CacheBlock := { at_ := c, block := n, valid := 0, grain := u.grain, type := u.type, tag := u.tag, evict := u.evict, dirty := [] }
  if p.caches.any (·.is c n u) then { p with caches := (updFirst (·.is c n u) f p.caches).filter (·.used) }
  else { p with caches := p.caches ++ [f new].filter (·.used) }

/-- Sectors filled by an access: the block takes its priority. -/
def Phys.fill (p : Phys) (c : CacheAt) (u : CacheUse) (a n : Nat) : Phys :=
  (blocksOf a n).foldl (fun q k => q.modBlock c k u fun b =>
    { b with valid := b.valid ||| sectorMask u.grain k a n, evict := u.evict }) p

/-- Bytes made dirty in a cache, each with the byte under it. -/
def Phys.soil (p : Phys) (c : CacheAt) (u : CacheUse) (ds : List (Nat × Byte)) : Phys :=
  ((ds.map fun e => e.1 / 512).dedup).foldl (fun q k => q.modBlock c k u fun b =>
    { b with dirty := b.dirty ++ ds.filter fun e => e.1 / 512 == k, evict := u.evict }) p

/-- The dirty bytes of `[a, a + n)` in the caches selected are dirty there no more. -/
def Phys.tidy (p : Phys) (sel : CacheAt → Bool) (a n : Nat) : Phys :=
  { p with caches := (p.caches.map fun b =>
      if sel b.at_ then { b with dirty := b.dirty.filter fun e => decide (e.1 < a) || decide (a + n ≤ e.1) } else b).filter (·.used) }

/-- Where a store is made (05 R105, R106): dirty in the L2 of the core's die, dirty in the LLC, or past the caches. -/
def CacheUse.home (u : CacheUse) : Option CacheAt :=
  match u.core with
  | none => if u.level ≤ 2 then some .llc else none
  | some c => if u.level ≤ 1 && !u.through then some (.l2 (dieOf c)) else if u.level ≤ 2 then some .llc else none

/-- The directory of SQ pages: the copies that other L2s hold of written bytes are invalidated, whole grain units (05 R107,
R108). -/
def Phys.sqInvalidated (p : Phys) (u : CacheUse) (a n : Nat) : Phys :=
  { p with caches := (p.caches.map fun b =>
      if b.type == 1 && b.at_.isL2 && u.home != some b.at_ then { b with valid := b.valid &&& ~~~ sectorMask b.grain b.block a n }
      else b).filter (·.used) }

/-- Bytes `[a, a + n)` are about to be written: which are dirty where afterwards (05 R107). -/
def Phys.soiled (p : Phys) (u : CacheUse) (a n : Nat) : Phys :=
  let l2 := p.dirtyIn CacheAt.isL2 a n
  let ll := p.dirtyIn (· == CacheAt.llc) a n
  let under (x : Nat) : Nat × Byte := (x, (alGet? l2 x).getD (spGet p.bytes x))
  let xs := (List.range n).map (a + ·)
  match u.home with
  | none => p.tidy (fun _ => true) a n
  | some .llc => (p.tidy CacheAt.isL2 a n).soil .llc u ((xs.filter fun x => (alGet? ll x).isNone).map under)
  | some c => (p.tidy CacheAt.isL2 a n).soil c u (xs.map under)

/-- Whether a write of `[a, a + n)` makes a line of a 64 KiB unit dirty in the LLC that was not, or reaches LPDDR without the
LLC (21 R381). -/
def Phys.marks (p : Phys) (u : CacheUse) (a n : Nat) : List Nat :=
  let ls := if n = 0 then [] else (List.range ((a + n - 1) / 64 - a / 64 + 1)).map (a / 64 + ·)
  ((match u.home with
    | none => ls
    | some .llc => ls.filter fun l => (p.dirtyIn (· == CacheAt.llc) (64 * l) 64).isEmpty
    | some _ => []).map (· / 1024)).dedup

/-- A block that holds nothing dirty any more. -/
def Phys.cleaned (p : Phys) (b : CacheBlock) : Phys :=
  { p with caches := (p.caches.map fun x => if x.is b.at_ b.block b.use then { x with dirty := [] } else x).filter (·.used) }

/-- The dirty bytes of an L2 block written back to the LLC, with their byte mask. -/
def Phys.writeBackL2 (p : Phys) (b : CacheBlock) : Phys :=
  let ll := p.dirtyIn (· == CacheAt.llc) (512 * b.block) 512
  (p.cleaned b).soil .llc b.use (b.dirty.filter fun e => (alGet? ll e.1).isNone)

/-- The units that a write-back of an L2 block marks. -/
def Phys.backMarks (p : Phys) (b : CacheBlock) : List Nat :=
  let ll := p.dirtyIn (· == CacheAt.llc) (512 * b.block) 512
  if b.dirty.any fun e => !ll.any fun d => d.1 / 64 == e.1 / 64 then [b.block / 128] else []

/-! ### Alarms (23 R418) -/

/-- POL of an alarm source. -/
def State.policy (s : State) (source : Nat) : Nat := bitsOf s.ctrl.alarmPol.toNat (2 * source + 1) (2 * source)

/-- Raises an alarm source: recorded and signalled at once; a reset or an erase is left for `alarmTodo`. -/
def State.raise (s : State) (source : Nat) (sess : Option Nat) : State :=
  { s with
    ctrl := { s.ctrl with alarms := s.ctrl.alarms ||| BitVec.ofNat 8 (2 ^ source) }
    irqs := if s.policy source == 0 then s.irqs else s.irqs ++ [source]
    alarmTodo := if s.policy source ≤ 1 then s.alarmTodo else s.alarmTodo ++ [(s.policy source == 3, sess)] }

def alarmTag : Nat := 0
def alarmFault : Nat := 1
def alarmSensor : Nat := 2
def alarmToken : Nat := 3
def alarmKeystore : Nat := 4
def alarmWorld : Nat := 5

/-! ### Lines under a key (23 R413, R436) -/

/-- The session that a line's key names. -/
def State.ownerOf (s : State) (line : Nat) : Option Nat :=
  match alGet? s.phys.owners line with
  | some (.session _ slot inc) => if (s.session? slot).any fun x => x.incarnation == inc then some slot else none
  | _ => none

def State.keyed (s : State) (line : Nat) : Bool := (alGet? s.phys.owners line).isSome

/-- A line is poisoned, and TAG raised. -/
def State.tagLine (s : State) (line : Nat) : State :=
  ({ s with phys := { s.phys with poison := insNat s.phys.poison line } }).raise alarmTag (s.ownerOf line)

/-! ### The dirty bitmap, and room (21 R381, 05 R105) -/

/-- Marks 64 KiB units of LPDDR in the active dirty bitmap (21 R381). A byte of the bitmap that changes is a device's write to part of its
line (entry 74). -/
def State.markUnits (s : State) (us : List Nat) : State :=
  if s.ctrl.dbmEnable then
    let base := (if s.ctrl.dbmActive then s.ctrl.dbmBase1 else s.ctrl.dbmBase0).toNat
    (us.filter fun u => decide (65536 * u < 0x6000000000)).foldl (fun t u =>
      let a := base + u / 8
      let v := spGet t.phys.bytes a ||| BitVec.ofNat 8 (2 ^ (u % 8))
      if v == spGet t.phys.bytes a then t
      else if t.keyed (a / 64) then t.tagLine (a / 64)
      else if t.phys.poison.contains (a / 64) then t
      else
        let t1 := t.contend none [a / 64]
        { t1 with phys := { t1.phys with bytes := spSet t1.phys.bytes a v } }) s
  else s

/-- The blocks of a cache that may be evicted first: those of the lowest priority it holds (05 R105). -/
def Phys.victims (p : Phys) (c : CacheAt) : List CacheBlock :=
  let bs := p.caches.filter fun b => b.at_ == c
  let least := bs.foldl (fun m b => min m b.evict) 3
  bs.filter fun b => b.evict == least

/-- Room in a cache for a block that an access uses: where it is full, one of the victims leaves by `out`, which the spec does
not name. -/
def State.room (s : State) (out : State → CacheBlock → State) (c : CacheAt) (n : Nat) (u : CacheUse) : State :=
  if s.phys.caches.any (·.is c n u) || decide ((s.phys.caches.filter fun b => b.at_ == c).length < c.blocks) then s
  else
    let vs := s.phys.victims c
    match vs[Config.freeNat s.freeCtr % vs.length]? with
    | none => s
    | some b => out s b

/-- Bytes `[a, a + n)` of LPDDR are read or written in memory: the channel pairs that hold them are in use (24 R427). -/
def State.reach (s : State) (a n : Nat) : State :=
  if 0x6000000000 ≤ a then s
  else { s with reached := (linesOf a n).foldl (fun m l => insNat m (Config.channelPair (64 * l) % 6)) s.reached }

/-- Whether the LLC holds every sector of a block's bytes that an access uses. -/
def Phys.inLlc (p : Phys) (u : CacheUse) (a n : Nat) : Bool :=
  p.caches.any fun b => b.is .llc (a / 512) u && sectorMask u.grain (a / 512) a n &&& ~~~ b.valid == 0

/-- A block no longer listed. -/
def State.drop (s : State) (b : CacheBlock) : State :=
  { s with phys := { s.phys with caches := s.phys.caches.filter fun x => !x.is b.at_ b.block b.use } }

/-- A block written back by its cache; an L1 block holds nothing dirty, and an LLC block goes to memory. An L2 block finds room
in the LLC. -/
def State.writeBack (s : State) (b : CacheBlock) : State :=
  match b.at_ with
  | .l1 _ => s
  | .l2 _ =>
    let t := if b.dirty.isEmpty then s else s.room State.drop .llc b.block b.use
    ({ t with phys := t.phys.writeBackL2 b } : State).markUnits (t.phys.backMarks b)
  | .llc => if b.dirty.isEmpty then s else { s.reach (512 * b.block) 512 with phys := s.phys.cleaned b }

/-- A block evicted: written back, then dropped. -/
def State.evict (s : State) (b : CacheBlock) : State := (s.writeBack b).drop b

/-- Room in a cache for the block of an access. -/
def State.cacheRoom (s : State) (c : CacheAt) (n : Nat) (u : CacheUse) : State := s.room State.evict c n u

/-- A read fills the caches it may be held in, block by block (05 R105, R107). -/
def State.cacheRead (s : State) (u : CacheUse) (a n : Nat) : State :=
  let cs := (match u.core with
    | none => []
    | some c => (if u.level = 0 then [CacheAt.l1 c] else []) ++ if u.level ≤ 1 then [CacheAt.l2 (dieOf c)] else []) ++
    if u.level ≤ 2 then [CacheAt.llc] else []
  let s1 := (blockParts a n).foldl (fun t e => if t.phys.inLlc u e.1 e.2 then t else t.reach e.1 e.2) s
  cs.foldl (fun t c => (blockParts a n).foldl (fun t e =>
    let t1 := t.cacheRoom c (e.1 / 512) u
    { t1 with phys := t1.phys.fill c u e.1 e.2 }) t) s1

/-- What a write does to the caches, before the bytes change. -/
def State.cacheWrite (s : State) (u : CacheUse) (a n : Nat) : State :=
  (blockParts a n).foldl (fun t e =>
    let t1 := match u.home with
      | none => t.reach e.1 e.2
      | some c => t.cacheRoom c (e.1 / 512) u
    ({ t1 with phys := (t1.phys.sqInvalidated u e.1 e.2).soiled u e.1 e.2 } : State).markUnits (t1.phys.marks u e.1 e.2)) s

/-! ### Actions of scopes (05 R108, 06 R120, R121) -/

/-- A block's clean sectors invalidated, whole grain units: those without a dirty byte (05 R107). -/
def CacheBlock.dropClean (b : CacheBlock) : CacheBlock :=
  { b with valid := b.valid &&& b.dirty.foldl (fun m e => m ||| sectorMask b.grain b.block e.1 1) 0 }

/-- Clean sectors of pages of a type invalidated in the L1 of a core, and as wider caches take part in the L2 of its die and,
outside LPDDR, in the LLC. -/
def State.dropType (s : State) (type core : Nat) (l2 llc : Bool) : State :=
  { s with phys := { s.phys with caches := (s.phys.caches.map fun b =>
      if b.type == type && (b.at_ == .l1 core || (l2 && b.at_ == .l2 (dieOf core)) ||
          (llc && b.at_ == .llc && decide (0x6000000000 ≤ 512 * b.block))) then b.dropClean else b).filter (·.used) } }

/-- The acquire action at a scope, 0 `.grp` to 4 `.sys`. -/
def State.acquire (s : State) (core scope : Nat) : State :=
  if scope = 0 then s else s.dropType 0 core (decide (3 ≤ scope)) (decide (4 ≤ scope))

/-- The dirty sectors of pages of a type written back from the L2 of a core's die to the LLC. -/
def State.writeType (s : State) (type core : Nat) : State :=
  (s.phys.caches.filter fun b => b.at_ == .l2 (dieOf core) && b.type == type && !b.dirty.isEmpty).foldl (fun t b => t.writeBack b) s

/-- The release action at a scope: from `.dev` on, the dirty RC sectors of the die's L2 are written back to the LLC. -/
def State.releaseAt (s : State) (core scope : Nat) : State := if scope < 3 then s else s.writeType 0 core

/-- The release action at a scope on several cores, and the acquire action. -/
def State.releaseOn (s : State) (cores : List Nat) (scope : Nat) : State := cores.foldl (fun t c => t.releaseAt c scope) s
def State.acquireOn (s : State) (cores : List Nat) (scope : Nat) : State := cores.foldl (fun t c => t.acquire c scope) s

/-- An acquire at a scope by a group, by its name; one that is swapped out makes one when it is restored (06 R132). -/
def State.acquireFor? (s : State) (gid scope : Nat) : State :=
  match s.find? gid with
  | some (c, _) => s.acquire c scope
  | none => s

/-! ### `CFLUSH` (12 R286) -/

/-- Whether a cache lies within a reach of a core. -/
def inReach (core reach : Nat) : CacheAt → Bool
  | .l1 c => c == core || reach == 2
  | .l2 d => reach == 2 || (reach == 1 && d == dieOf core)
  | .llc => reach == 2

/-- Dirty bytes of one block discarded: the byte the next level holds comes back. A sector may have been written back before,
which the spec leaves open (entry 18). -/
def State.discardBlock (s : State) (b : CacheBlock) : State :=
  let (n, t) := s.fresh
  let gone := b.dirty.filter fun e => !Config.freeBool (n + 70000 + e.1 / 32 % 16)
  let kept := b.dirty.filter fun e => Config.freeBool (n + 70000 + e.1 / 32 % 16)
  let t1 := t.writeBack { b with dirty := kept }
  { t1 with phys := { (t1.phys.cleaned b) with
      bytes := gone.foldl (fun m e => spSet m e.1 e.2) t1.phys.bytes } }

/-- One flush of a frame in the caches within the reach, the L2s first: 0 clean, 1 discard, 2 clean and invalidate. -/
def State.flush (s : State) (core op reach frame : Nat) : State :=
  let mine (b : CacheBlock) : Bool := inReach core reach b.at_ && b.block / 8 == frame
  let act (l2 : Bool) (t : State) : State :=
    (t.phys.caches.filter fun b => mine b && b.at_.isL2 == l2 && !b.dirty.isEmpty).foldl
      (fun u b => if op == 1 then u.discardBlock b else u.writeBack b) t
  let t := act false (act true s)
  if op == 0 then t else { t with phys := { t.phys with caches := t.phys.caches.filter fun b => !mine b } }

end Sys2Proof.Machine
end

