-- ==== Sys2Proof/Machine/Mem.lean ====
section
/-! DEFINITION. Memory: lines, the structures the device keeps, translation (21 R363 to R367), the access checks of
05 R103, copy-on-write (21 R374), and the one read and the one write of bytes that every party makes. -/

namespace Sys2Proof.Machine

open Sys2Proof

/-- A trap that names only its code and subcode (20 R340, R342). -/
def mkTrap (code sub : Nat) : Trap :=
  { code := BitVec.ofNat 8 code, sub := BitVec.ofNat 8 sub, addr := 0, lane := 255, field := 0, detail := 0,
    reload := false, pages := [], acted := 0, clock := 0, line := none }

def Trap.at (t : Trap) (a : Dword) : Trap := { t with addr := a }

/-- The trap codes of 20 R340 that instructions raise. -/
def illegalInstr : Nat := 0x01
def illegalOperand : Nat := 0x02
def illegalConvergence : Nat := 0x03
def illegalTarget : Nat := 0x04
def repeatBounds : Nat := 0x05
def misaligned : Nat := 0x06
def typeStraddle : Nat := 0x07
def pageFault : Nat := 0x08
def protection : Nat := 0x09
def stackLimit : Nat := 0x0A
def versionCapacity : Nat := 0x0B
def fetchParity : Nat := 0x0C
def dataPoison : Nat := 0x0D
def queueProtocol : Nat := 0x0E
def softTrap : Nat := 0x0F
def watchdogCode : Nat := 0x10
def waitBudgetCode : Nat := 0x11
def machineCheck : Nat := 0x12

/-- The one form of a memory: addresses strictly rising, and no byte listed that is zero, which an unlisted address reads
as. -/
abbrev Memory.wf (m : Mem) : Bool := spWf m

/-- Bytes `[a, a + n)` of physical memory. -/
def Phys.bytesAt (p : Phys) (a n : Nat) : List Byte := spGetList p.bytes a n

/-- Little-endian number of `n` bytes of physical memory. -/
def Phys.num (p : Phys) (a n : Nat) : Nat := leNat (p.bytesAt a n)

/-- Whether a line may be read as a plain line by a device unit (23 R436). -/
def Phys.plainAt (p : Phys) (a : Nat) : Bool := (alGet? p.owners (a / 64)).isNone && !p.poison.contains (a / 64)

/-- Bytes of LPDDR, 384 GiB (24 R420). -/
def lpddrSize : Nat := 0x6000000000

/-- The on-chip windows of 05 R101 occupy these physical addresses. -/
def onChip (pa : Nat) : Bool := decide (0xF000000000 ≤ pa) && decide (pa < 0xF000000000 + 64 * 0x1000000)

/-- An access that needs the host link while it is down, or whose request has been outstanding for too long (24 R422). -/
def State.linkLost (s : State) (pa : Nat) : Bool := (!s.ctrl.linkUp || s.linkLate == 1) && decide (lpddrSize ≤ pa) && !onChip pa

/-- A device read of a structure that software sets up: none where it finds a keyed or poisoned line (23 R436), or one behind a
link that is down (24 R422). -/
def State.dev (s : State) (a n : Nat) : Option Nat :=
  if (linesOf a n).all (fun l => s.phys.plainAt (64 * l) && !s.linkLost (64 * l)) then some (s.phys.num a n) else none

/-- A device read in which an unreadable field counts as zero. -/
def State.dev0 (s : State) (a n : Nat) : Nat := (s.dev a n).getD 0

/-- Bytes stored to physical memory; `own` gives the owner of every line touched. -/
def Phys.put (p : Phys) (own : Nat → Option Owner) (a : Nat) (bs : List Byte) : Phys :=
  { p with
    bytes := spSetList p.bytes a bs
    owners := (linesOf a bs.length).foldl (fun o l => match own l with
      | none => alDel o l
      | some w => alSet o l w) p.owners
    hostOwned := p.hostOwned.filter fun l => !(linesOf a bs.length).contains l }

/-- The lines that fetches of the running launches may still return, once `n` bytes from `a` have been written. -/
def State.oldLines (s : State) (a n : Nat) : List OldLine :=
  let now := s.launches.map fun l => (l.session, l.number)
  if now.isEmpty then []
  else (s.phys.old.filter fun e => e.launches.any now.contains) ++
    (linesOf a n).map fun l => { line := l, bytes := s.phys.num (64 * l) 64, launches := now, owner := alGet? s.phys.owners l }

/-- Bytes stored through the caches: the ONE write to memory behind every party's. -/
def State.store (s : State) (u : CacheUse) (own : Nat → Option Owner) (a : Nat) (bs : List Byte) : State :=
  let t := s.cacheWrite u a bs.length
  { t with phys := { t.phys.put own a bs with old := s.oldLines a bs.length } }

/-! ### Plain lines (23 R436) -/

/-- A write of bytes of one line by a writer without a key, the host or a device unit: a whole line is stored plain; part of a
plain line merges; part of a keyed line is discarded. A poisoned line takes only a whole line, and none while the host loss
that poisoned it stands. The rule of the device's partial write is the host's (entry 74). -/
def State.plainLine (s : State) (u : CacheUse) (a : Nat) (bs : List Byte) : State :=
  let line := a / 64
  let whole := a % 64 == 0 && bs.length == 64
  if !whole && s.keyed line then s.tagLine line
  else if s.phys.hostPoison.contains line || (!whole && s.phys.poison.contains line) then s
  else
    let t := (s.contend none [line]).store u (fun _ => none) a bs
    { t with phys := { t.phys with poison := t.phys.poison.filter fun l => l != line } }

/-- The parts of a range on each line. -/
def lineParts (a : Nat) (bs : List Byte) : List (Nat × List Byte) :=
  (linesOf a bs.length).map fun l =>
    let lo := max a (64 * l)
    (lo, (bs.drop (lo - a)).take (64 * l + 64 - lo))

/-- A plain write by a device unit, performed at the LLC (21 R374, R375, 23 R436). -/
def State.devPut (s : State) (a : Nat) (bs : List Byte) : State :=
  (lineParts a bs).foldl (fun t e => t.plainLine .llc e.1 e.2) s

def State.devPutNum (s : State) (a n v : Nat) : State := s.devPut a (toLE n v)

/-! ### Translation records and page tables -/

def State.ptRoot (s : State) (x : Session) : Nat := s.dev0 x.trec 8
def State.sdom (s : State) (x : Session) : Nat := s.dev0 (x.trec + 8) 1
def State.trecFlags (s : State) (x : Session) : Nat := s.dev0 (x.trec + 9) 1
def State.fring (s : State) (x : Session) : Nat := s.dev0 (x.trec + 16) 8
def State.fringCap (s : State) (x : Session) : Nat := s.dev0 (x.trec + 24) 1
def State.opool (s : State) (x : Session) : Nat := s.dev0 (x.trec + 32) 8
def State.opoolCap (s : State) (x : Session) : Nat := s.dev0 (x.trec + 40) 1

/-- A leaf entry and where it stands (21 R364). -/
structure Leaf where
  bits : Nat
  big : Bool
  /-- physical address of the entry; 0 when it came from a TLB -/
  at_ : Nat
  deriving DecidableEq, Repr

def Leaf.r (l : Leaf) : Bool := bitOf l.bits 3
def Leaf.w (l : Leaf) : Bool := bitOf l.bits 4
def Leaf.x (l : Leaf) : Bool := bitOf l.bits 5
def Leaf.sys (l : Leaf) : Bool := bitOf l.bits 1
def Leaf.type (l : Leaf) : Nat := bitsOf l.bits 10 8
def Leaf.content (l : Leaf) : Bool := bitOf l.bits 11
def Leaf.pfn (l : Leaf) : Nat := bitsOf l.bits 51 12
def Leaf.omask (l : Leaf) : Nat := bitsOf l.bits 87 80
def Leaf.ovl (l : Leaf) : Nat := bitsOf l.bits 127 88

/-- How an access through a leaf uses the caches (05 R104, R105): the attributes act on RC and UN pages, the grain on SQ pages
too, and only RC, SQ and UN pages are cached. `hint` is that of 05 R106, which RC and UN pages obey. -/
def Leaf.cacheUse (l : Leaf) (core : Option Nat) (hint : Nat) (tag : CacheTag) : CacheUse :=
  let plain := l.type == 0 || l.type == 2
  { core := core
    level := if plain then (if hint == 3 then max 2 (bitsOf l.bits 67 66) else bitsOf l.bits 67 66) else if l.type == 1 then 1 else 3
    through := plain && (bitOf l.bits 68 || hint == 3)
    grain := bitsOf l.bits 65 64, type := l.type
    evict := if plain then (if hint == 1 then 0 else if hint == 2 then 2 else bitsOf l.bits 71 70) else 1
    tag := tag }

/-- Whether a leaf at a level breaks step 2 of 21 R365. -/
def badLeaf (e level : Nat) : Bool :=
  bitsOf e 79 72 != 0 || bitsOf e 63 52 != 0 || bitsOf e 7 6 != 0 || bitsOf e 10 8 > 5 || bitsOf e 65 64 == 3 ||
  level < 2 || (bitsOf e 87 80 != 0 && !bitOf e 11) ||
  (level == 2 && (bitsOf e 20 12 != 0 || bitOf e 11 || bitsOf e 87 80 != 0))

/-- Whether a non-leaf entry at a level breaks step 2. -/
def badTable (e level : Nat) : Bool := level == 3 || e - b2n (bitOf e 0) != bitsOf e 51 13 * 2 ^ 13

inductive Walk where
  | leaf (l : Leaf)
  | absent
  | reserved

/-- The walk from a table at a level downwards (21 R363); `bad` carries a step 2 failure met on the way. -/
def State.walkFrom (s : State) (va : Nat) : List Nat → Nat → Bool → Walk
  | [], _, _ => .reserved
  | n :: ns, table, bad =>
    let at_ := table + 16 * bitsOf va (47 - 9 * n) (39 - 9 * n)
    match s.dev at_ 16 with
    | none => .reserved
    | some e =>
      if !bitOf e 0 then .absent
      else if bitOf e 2 then
        if bad || badLeaf e n then .reserved else .leaf { bits := e, big := n == 2, at_ := at_ }
      else if n == 3 then .reserved
      else s.walkFrom va ns (bitsOf e 51 13 * 2 ^ 13) (bad || badTable e n)

def State.walk (s : State) (x : Session) (va : Nat) : Walk := s.walkFrom va [0, 1, 2, 3] (s.ptRoot x) false

/-- The leaf a TLB holds for a page of a session. -/
def tlbFind (es : List TlbEntry) (slot va : Nat) : Option Leaf :=
  (es.find? fun e => e.session == slot && e.page == (if e.big then va / 2 ^ 21 else va / 4096)).map
    fun e => { bits := e.leaf.toNat, big := e.big, at_ := 0 }

/-- The translation an access from a core uses: its TLB, the die's, or a walk (21 R367). -/
def State.translate (s : State) (core : Nat) (x : Session) (va : Nat) : Walk :=
  match tlbFind (s.core core).tlb x.slot va with
  | some l => .leaf l
  | none =>
    match tlbFind ((s.tlb2.filter fun e => e.1 == dieOf core).map (·.2)) x.slot va with
    | some l => .leaf l
    | none => s.walk x va

/-- Kinds of access (20 R342). -/
inductive Access where
  | read | write | fetch | atomic
  deriving DecidableEq, Repr

def Access.code : Access → Nat
  | .read => 0
  | .write => 1
  | .fetch => 2
  | .atomic => 3

def Access.stores : Access → Bool
  | .read => false
  | .write => true
  | .fetch => false
  | .atomic => true

def Leaf.permits (l : Leaf) : Access → Bool
  | .read => l.r
  | .write => l.w
  | .fetch => l.x
  | .atomic => l.r && l.w

/-- A `PAGE_FAULT` on a page (20 R347). -/
def faultAt (acc : Access) (va : Dword) : Trap :=
  { mkTrap pageFault acc.code with addr := va, pages := [(BitVec.ofNat 64 (va.toNat / 4096 * 4096), false)] }

/-- Steps 1 to 4 of 21 R365 for one page. -/
def State.leafFor (s : State) (core : Nat) (x : Session) (priv : Bool) (acc : Access) (va : Dword) :
    Except Trap Leaf :=
  match s.translate core x (va.toNat % 2 ^ 48) with
  | .absent => .error (faultAt acc va)
  | .reserved => .error ((mkTrap protection 2).at va)
  | .leaf l =>
    if l.sys && !priv then .error ((mkTrap protection 5).at va)
    else if l.permits acc then .ok l else .error (faultAt acc va)

/-- Physical address of a virtual address under a leaf (21 R364, R374). -/
def Leaf.pa (l : Leaf) (va : Nat) : Nat :=
  if l.big then l.pfn * 4096 + va % 2 ^ 21
  else if bitOf l.omask (va % 4096 / 512) then l.ovl * 4096 + va % 4096
  else l.pfn * 4096 + va % 4096

/-! ### Places -/

/-- The part of an access that lies on one 4 KiB page. -/
structure Piece where
  va : Dword
  pa : Nat
  len : Nat
  leaf : Leaf
  deriving DecidableEq, Repr

/-- Where an access falls (05 R97). -/
inductive Place where
  | virt (ps : List Piece)
  /-- scratchpad of a group of the cluster, by name -/
  | scratch (gid off : Nat)
  /-- byte offset in the own group's tiles -/
  | tile (gid off : Nat)
  /-- a physical address, and how many bytes from it -/
  | phys (pa n : Nat)
  deriving DecidableEq, Repr

/-- The unit that issues an instruction, as the instruction finds it. -/
structure Iss where
  core : Nat
  who : Who
  /-- lead stream -/
  lead : Bool
  band : Nat
  active : LaneMask
  pc : Pc
  priv : Bool
  group : Group
  sess : Session
  launch : Launch
  deriving DecidableEq, Repr

/-- A lane as the party that makes an access; none for the lead stream. -/
def Iss.self (i : Iss) (l : Nat) : Option LaneRef := if i.lead then none else some { gid := i.group.gid, band := i.band, lane := l }

/-- Bytes of the scratchpad allotment (05 R98). -/
def Group.scratchBytes (g : Group) : Nat := 2048 * g.scratchGran

def sessionSpace (a : Nat) : Bool := bitsOf a 63 47 == 0 || bitsOf a 63 47 == 2 ^ 17 - 1

/-- Step 1 and 2 of 05 R103 for an access outside the session virtual space; none for an address inside it. A rank below the
cluster's size whose member is resident no more, having retired or been withdrawn, raises WINDOW: its scratchpad is no
part of the cluster's any longer (entry 76). -/
def spaceOf (s : State) (i : Iss) (ea : Dword) : Except Trap (Option Place) :=
  let a := ea.toNat
  if sessionSpace a then .ok none
  else
    let top := bitsOf a 63 48
    let addrErr := Except.error ((mkTrap protection 0).at ea)
    let winErr := Except.error ((mkTrap protection 1).at ea)
    if top == 0x4000 then
      if bitsOf a 47 18 != 0 then addrErr
      else if a % 2 ^ 18 < i.group.scratchBytes then .ok (some (.scratch i.group.gid (a % 2 ^ 18))) else winErr
    else if top == 0x4001 then
      if bitsOf a 47 20 != 0 then addrErr
      else if bitsOf a 19 18 ≥ i.launch.desc.cluster then winErr
      else
        match (s.cluster i.group).find? fun x => x.2.rank == bitsOf a 19 18 with
        | none => winErr
        | some (_, g) => if a % 2 ^ 18 < g.scratchBytes then .ok (some (.scratch g.gid (a % 2 ^ 18))) else winErr
    else if top == 0x4002 then
      if bitsOf a 47 18 != 0 then addrErr
      else if bitsOf a 17 13 < i.launch.desc.acc then .ok (some (.tile i.group.gid (a % 2 ^ 18)))
      else winErr
    else if top == 0x4010 then
      if i.priv && bitsOf a 47 40 == 0 then .ok (some (.phys (a % 2 ^ 40) 1)) else addrErr
    else addrErr

/-- The first byte past the 4 KiB page of an address. -/
def pageEnd (a : Nat) : Nat := (a / 4096 + 1) * 4096

/-- The pieces of `n` bytes on one page under its leaf: a page with overlay sub-pages is cut at each sub-page, which lies in
the overlay or in the content frame (21 R374). -/
def Leaf.pieces (l : Leaf) (ea : Dword) (n : Nat) : List Piece :=
  if l.big || l.omask == 0 then [{ va := ea, pa := l.pa (ea.toNat % 2 ^ 48), len := n, leaf := l }]
  else (blockParts ea.toNat n).map fun e => { va := BitVec.ofNat 64 e.1, pa := l.pa (e.1 % 2 ^ 48), len := e.2, leaf := l }

/-- Translation of the one or two pages of an access, the lower first (05 R103 step 3). An access that starts below
0x00007FFFFFFFFFFF and runs past it is translated as a whole by its low 48 bits; step 1 judges its first byte alone
(entry 61). -/
def pieces (s : State) (i : Iss) (acc : Access) (ea : Dword) (n : Nat) : Except Trap (List Piece) :=
  let a := ea.toNat
  match s.leafFor i.core i.sess i.priv acc ea with
  | .error t => .error t
  | .ok l =>
    let n1 := min n (pageEnd a - a)
    if n1 == n then .ok (l.pieces ea n1)
    else
      let eb := BitVec.ofNat 64 (a + n1)
      match s.leafFor i.core i.sess i.priv acc eb with
      | .error t => .error t
      | .ok m => .ok (l.pieces ea n1 ++ m.pieces eb (n - n1))

/-- What an access needs besides its place. -/
structure Need where
  acc : Access
  /-- natural alignment on every page type -/
  aligned : Bool
  /-- memory types allowed; another raises `PROTECTION` subcode TYPE -/
  types : List Nat
  deriving DecidableEq, Repr

/-- All types but WC and DV (09 R200, R203). -/
def atomTypes : List Nat := [0, 1, 2, 5]
/-- Types of matrix and tensor-table accesses (11 R233). -/
def matTypes : List Nat := [0, 1, 2]
def anyType : List Nat := [0, 1, 2, 3, 4, 5]

/-- The checks of 05 R103 for one lane's access, in order, and where the access falls. The restrictions on page types that
other rules add (06 R128, 09 R200, R203, 11 R233) come between translation and the straddle rule (entry 62). 05 R97 judges a
physical access by its address alone: one that starts below physical 2^40 and runs past it goes on to the bytes from 2^40 on
(entry 76). -/
def checkAccess (s : State) (i : Iss) (nd : Need) (ea : Dword) (n : Nat) : Except Trap Place :=
  let mis := if ea.toNat % n == 0 then none else some ((mkTrap misaligned 0).at ea)
  match spaceOf s i ea with
  | .error t => .error t
  | .ok (some (.phys pa _)) =>
    match nd.aligned, mis with
    | true, some t => .error t
    | _, _ => .ok (.phys pa n)
  | .ok (some p) => match mis with
    | some t => .error t
    | none => .ok p
  | .ok none =>
    match pieces s i nd.acc ea n with
    | .error t => .error t
    | .ok ps =>
      match ps.find? fun p => i.launch.desc.versioned && (p.leaf.type == 4 || p.leaf.type == 5) with
      | some p => .error ((mkTrap protection 3).at p.va)
      | none =>
        match ps.find? fun p => !nd.types.contains p.leaf.type with
        | some p => .error ((mkTrap protection 6).at p.va)
        | none =>
          if (ps.map fun p => p.leaf.type).dedup.length > 1 then .error ((mkTrap typeStraddle 0).at ea)
          else if nd.aligned || ps.any fun p => p.leaf.type == 4 || p.leaf.type == 5 then
            match mis with
            | some t => .error t
            | none => .ok (.virt ps)
          else .ok (.virt ps)

/-! ### Reading and writing -/

/-- The slot key of a session's binding (23 R407); a session without one has the key 0. -/
def State.slotKey (s : State) (x : Session) : BitVec 256 :=
  match x.keySlot.bind fun k => s.vault.keys[k]? with
  | some k => k.key
  | none => 0

/-- The memory key of a session incarnation (23 R410). -/
def State.memKey (s : State) (x : Session) : Owner := .session (s.slotKey x) x.slot x.incarnation

/-- The memory key of a share domain: that of the ACTIVE slot that is its key (23 R407, R413). -/
def State.domKey (s : State) (d : Nat) : Owner :=
  .domain (((s.vault.keys.find? fun k => k.domainKind && k.domain == d && k.st != .empty && k.st != .revoked).map (·.key)).getD 0) d

/-- Whether a session may read what is held under a key: plain, or under its own key or its share domain's (23 R413). -/
def State.ownerOpen (s : State) (x : Session) (o : Option Owner) : Bool :=
  match o with
  | none => true
  | some o => o == s.memKey x || (s.sdom x != 0 && o == s.domKey (s.sdom x))

def State.lineOpen (s : State) (x : Session) (line : Nat) : Bool := s.ownerOpen x (alGet? s.phys.owners line)

/-- Whether a write of `n` bytes at `pa` by a session meets poison, or a line under another key. -/
def State.poisonedW (s : State) (x : Session) (pa n : Nat) : Bool :=
  (linesOf pa n).any fun l => s.phys.poison.contains l || !s.lineOpen x l

/-- Of some lines the first that a session cannot read: it is poisoned, or its tag does not match. -/
def State.badIn (s : State) (x : Session) (lines : List Nat) : Option Nat :=
  lines.find? fun l => s.phys.poison.contains l || !s.lineOpen x l

/-- The trap of an access that meets poison (09 R192), with the line it met. -/
def poisonTrap (ea : Dword) (line : Option Nat) : Trap := { (mkTrap dataPoison 0).at ea with line := line }

/-- What a `DATA_POISON` leaves behind: a line whose tag did not match is poisoned and TAG is raised (23 R413). -/
def State.tagCheck (s : State) (x : Session) (t : Trap) : State :=
  match t.line with
  | none => s
  | some l =>
    if s.phys.poison.contains l then s
    else ({ s with phys := { s.phys with poison := insNat s.phys.poison l } }).raise alarmTag (some x.slot)

/-- Whether a read does; one that the link loses completes poisoned (24 R422). -/
def State.poisoned (s : State) (x : Session) (pa n : Nat) : Bool := s.linkLost pa || s.poisonedW x pa n

/-- A tile byte: byte `off % 4` of word `off / 4` (05 R99). -/
def tileByte (t : Sparse 32) (off : Nat) : Byte := (spGet t (off / 4)).extractLsb' (8 * (off % 4)) 8

def setTileByte (t : Sparse 32) (off : Nat) (b : Byte) : Sparse 32 :=
  let sh := 8 * (off % 4)
  spSet t (off / 4) ((spGet t (off / 4) &&& ~~~ (BitVec.ofNat 32 (255 * 2 ^ sh))) ||| BitVec.ofNat 32 (b.toNat * 2 ^ sh))

/-- What holds a byte of a core's window (05 R101). -/
inductive Chip where
  | hole
  /-- byte `byte` of weight slot `slot` of a group -/
  | weight (gid slot byte : Nat)
  | reg (gid band lane pos byte : Nat)
  /-- byte `byte` of a reservoir register -/
  | rsv (gid band lane q byte : Nat)
  | scratch (gid off : Nat)
  | tile (gid off : Nat)
  /-- byte `byte` of a compositing accumulator -/
  | comp (gid band lane j byte : Nat)
  | unused
  deriving DecidableEq, Repr

/-- The group whose array it is. -/
def Chip.gid? : Chip → Option Nat
  | .hole => none
  | .weight g _ _ => some g
  | .reg g _ _ _ _ => some g
  | .rsv g _ _ _ _ => some g
  | .scratch g _ => some g
  | .tile g _ => some g
  | .comp g _ _ _ _ => some g
  | .unused => none

/-- The band of a group whose register block covers a granule of a slot. -/
def bandAtGranule (g : Group) (slot gran : Nat) : Option Nat :=
  (List.range g.bands.length).find? fun b => match g.bands[b]? with
    | some x => x.slot == slot && decide (x.granule ≤ gran) && decide (gran < x.granule + x.granules)
    | none => false

/-- The groups of a shadow bank. -/
def Shadow.groups : Shadow → List Group
  | .empty => []
  | .outgoing x => x.groups
  | .loaded x => x.groups

/-- Whether an offset of a core's window lies in the shadow arrays. -/
def shadowOff (off : Nat) : Bool :=
  (decide (0x100000 ≤ off) && decide (off < 0x200000)) || (decide (0x240000 ≤ off) && decide (off < 0x280000)) ||
  (decide (0x2C0000 ≤ off) && decide (off < 0x300000))

/-- The groups whose data an offset of a core's window reaches: the active bank, or the shadow bank. -/
def chipBank (c : Core) (off : Nat) : List Group := if shadowOff off then c.shadow.groups else c.active.groups

/-- A byte of a band's register block: row `k` below A holds position LO + k of each lane, and row A + 6q + w word w of
reservoir q (03 R61), 128 bytes a row (entry 12). -/
def blockByte (g : Group) (b row lane byte : Nat) (x : Band) (rsv : Nat) : Chip :=
  let a := 8 * x.granules - 6 * rsv
  if row < a then .reg g.gid b lane ((g.lane b lane).lo + row) byte
  else .rsv g.gid b lane ((row - a) / 6) (4 * ((row - a) % 6) + byte)

/-- Byte `o` of an accumulator granule: a tile's, or the two accumulators of each lane of a band, 144 bytes a lane (03 R62,
entry 12). -/
def granuleByte (g : Group) (acc n o : Nat) : Chip :=
  if n < acc then .tile g.gid (8192 * n + o)
  else if o < 4608 then .comp g.gid (n - acc) (o / 144) (o % 144 / 72) (o % 72)
  else .unused

/-- What holds byte `off` of a core's window. -/
def State.chipAt (s : State) (core off : Nat) : Chip :=
  let gs := chipBank (s.core core) off
  let desc (g : Group) : Nat × Nat := ((s.launchOf? g).map fun l => (l.desc.rsv, l.desc.acc)).getD (0, 0)
  if off < 0x200000 then
    let o := off % 0x100000
    let slot := o / 0x40000
    let gran := o % 0x40000 / 1024
    match gs.find? fun g => (bandAtGranule g slot gran).isSome with
    | none => .unused
    | some g =>
      let b := (bandAtGranule g slot gran).getD 0
      match g.bands[b]? with
      | none => .unused
      | some x => blockByte g b ((o % 0x40000 - 1024 * x.granule) / 128) (o % 128 / 4) (o % 4) x (desc g).1
  else if off < 0x280000 then
    let o := off % 0x40000
    match gs.find? fun g => decide (2048 * g.scratchAt ≤ o) && decide (o < 2048 * (g.scratchAt + g.scratchGran)) with
    | none => .unused
    | some g => .scratch g.gid (o - 2048 * g.scratchAt)
  else if off < 0x300000 then
    let o := off % 0x40000
    match gs.find? fun g => g.accGran.contains (o / 8192) with
    | none => .unused
    | some g => granuleByte g (desc g).2 (g.accGran.idxOf (o / 8192)) (o % 8192)
  else if off < 0x320000 then
    let o := off - 0x300000
    match gs.find? fun g => g.slotPhys.contains (o / 8192) with
    | none => .unused
    | some g => .weight g.gid (g.slotPhys.idxOf (o / 8192)) (o % 8192)
  else .hole

/-- Whether a group, by name, belongs to the world of the launch that asks: the launch of group `by_` (05 R101). -/
def State.sameWorld (s : State) (x : Session) (by_ : Nat) (g : Group) : Bool :=
  g.session == x.slot && (g.gid == by_ || (s.anyGroup by_).any fun e => e.session == g.session && e.launch == g.launch)

/-- Core of a window's byte. -/
def chipCore (pa : Nat) : Nat := (pa - 0xF000000000) / 0x1000000

/-- What a physical address of the windows reaches. -/
def State.chipOf (s : State) (pa : Nat) : Chip := s.chipAt (chipCore pa) (pa % 0x1000000)

/-- The group whose array holds a byte of a window. -/
def State.chipGroup (s : State) (pa : Nat) : Option Group :=
  (s.chipOf pa).gid?.bind fun gid => (chipBank (s.core (chipCore pa)) (pa % 0x1000000)).find? fun g => g.gid == gid

/-- Byte `k` of a value. -/
def byteOf {w : Nat} (v : BitVec w) (k : Nat) : Byte := v.extractLsb' (8 * k) 8

/-- A value with byte `k` replaced. -/
def setByte {w : Nat} (v : BitVec w) (k : Nat) (b : Byte) : BitVec w :=
  (v &&& ~~~ (BitVec.ofNat w (255 * 2 ^ (8 * k)))) ||| BitVec.ofNat w (b.toNat * 2 ^ (8 * k))

/-- A byte of a weight slot: the low byte of element code (k, j) at 64·k + j; a slot that holds the second half of a BF16 or
FP16 tile shows the high bytes (entry 12). -/
def Group.weightByte (g : Group) (slot o : Nat) : Byte :=
  let x := g.slots.getD slot { elems := [], scales := [], hasRecord := false, fmt := 0, entry := 0, i0 := 0, i1 := 0, i2 := 0, i3 := 0, valid := false, loading := false }
  let y := g.slots.getD (slot - 1) x
  let wide (f : BitVec 5) : Bool := f == 10 || f == 11
  if slot % 2 == 1 && y.hasRecord && wide y.fmt then byteOf (spGet y.elems o) 1 else byteOf (spGet x.elems o) 0

/-- The status of an access to a byte of the windows (05 R101). The spec shows it in no register and in no reply: 10 R227 has no
code for it. It decides what the access does, and a mismatch raises the alarm of 23 R418. -/
inductive ChipStatus where
  | ok | worldMismatch | addressHole | readOnly
  deriving DecidableEq, Repr

/-- Array space that no group has been allotted is nobody's: it is accessed with status ok, reads as zero and keeps nothing
written to it (entry 75). -/
def State.chipStatus (s : State) (x : Session) (by_ pa : Nat) (wr : Bool) : ChipStatus :=
  match s.chipOf pa with
  | .hole => .addressHole
  | .weight _ _ _ => if !(s.chipGroup pa).all (s.sameWorld x by_) then .worldMismatch else if wr then .readOnly else .ok
  | _ => if (s.chipGroup pa).all (s.sameWorld x by_) then .ok else .worldMismatch

/-- The byte a window shows to a group of a session: zero but where the access has status ok. -/
def State.chipByte (s : State) (x : Session) (by_ pa : Nat) : Byte :=
  if s.chipStatus x by_ pa false != .ok then 0
  else match s.chipGroup pa, s.chipOf pa with
  | some g, .reg _ b l pos k => byteOf (spGet (g.lane b l).regs pos) k
  | some g, .rsv _ b l q k => byteOf (spGet (g.lane b l).rsv q) k
  | some g, .comp _ b l j k => byteOf (spGet (g.lane b l).ca j) k
  | some g, .scratch _ o => spGet g.scratch o
  | some g, .tile _ o => tileByte g.tiles o
  | some g, .weight _ k o => g.weightByte k o
  | _, _ => 0

/-- Changes a group of a core in its active or its shadow bank. -/
def State.modBank (s : State) (core : Nat) (shadow : Bool) (gid : Nat) (f : Group → Group) : State :=
  if shadow then s.modCore core fun c => { c with shadow := c.shadow.map fun y => y.modGroup gid f } else s.modGroupOn core gid f

/-- A byte written through a window; discarded but where the access has status ok. -/
def State.chipPut (s : State) (x : Session) (by_ pa : Nat) (v : Byte) : State :=
  let put (g : Group) (f : Group → Group) : State := s.modBank (chipCore pa) (shadowOff (pa % 0x1000000)) g.gid f
  if s.chipStatus x by_ pa true != .ok then s
  else match s.chipGroup pa, s.chipOf pa with
  | some g, .reg _ b l pos k => put g fun h => h.modLane b l fun y => { y with regs := spSet y.regs pos (setByte (spGet y.regs pos) k v) }
  | some g, .rsv _ b l q k => put g fun h => h.modLane b l fun y => { y with rsv := spSet y.rsv q (setByte (spGet y.rsv q) k v) }
  | some g, .comp _ b l j k => put g fun h => h.modLane b l fun y => { y with ca := spSet y.ca j (setByte (spGet y.ca j) k v) }
  | some g, .scratch _ o => put g fun h => { h with scratch := spSet h.scratch o v }
  | some g, .tile _ o => put g fun h => { h with tiles := setTileByte h.tiles o v }
  | _, _ => s

/-- The version bytes of a task that override memory at a virtual address. -/
def Version.byte? (v : Version) (va : Nat) : Option Byte := alGet? v.bytes va

/-- A byte of physical memory as a group of a session reads it: the windows of 05 R101 show the on-chip arrays. -/
def State.physByte (s : State) (x : Session) (gid a : Nat) : Byte :=
  if onChip a then s.chipByte x gid a else spGet s.phys.bytes a

/-- The bytes a unit reads at a place (no checks). A task reads its version first (06 R128). -/
def State.bytesAt (s : State) (x : Session) (gid : Nat) (p : Place) (n : Nat) : List Byte :=
  match p with
  | .virt ps =>
    let ver := (s.anyGroup gid).bind fun g => if g.buffering then g.ver else none
    ps.flatMap fun q => (List.range q.len).map fun j =>
      match ver.bind fun v => v.byte? (q.va.toNat + j) with
      | some b => b
      | none => s.physByte x gid (q.pa + j)
  | .scratch gid off => match s.find? gid with
    | some (_, g) => spGetList g.scratch off n
    | none => List.replicate n 0
  | .tile gid off => match s.find? gid with
    | some (_, g) => (List.range n).map fun j => tileByte g.tiles (off + j)
    | none => List.replicate n 0
  | .phys pa _ => (List.range n).map fun j => s.physByte x gid (pa + j)

/-- Whether reading a place meets poison (09 R192). -/
def State.placePoison (s : State) (x : Session) (p : Place) (n : Nat) : Bool :=
  match p with
  | .virt ps => ps.any fun q => s.poisoned x q.pa q.len
  | .phys pa _ => !onChip pa && s.poisoned x pa n
  | _ => false

/-- Whether writing a place does. -/
def State.placePoisonW (s : State) (x : Session) (p : Place) (n : Nat) : Bool :=
  match p with
  | .virt ps => ps.any fun q => s.poisonedW x q.pa q.len
  | .phys pa _ => !onChip pa && s.poisonedW x pa n
  | _ => false

/-- The trap of an access to a place that meets poison. -/
def State.poisonAt (s : State) (x : Session) (p : Place) (ea : Dword) : Trap :=
  poisonTrap ea (s.badIn x (match p with
    | .virt ps => ps.flatMap fun q => linesOf q.pa q.len
    | .phys pa k => linesOf pa k
    | _ => []))

/-- The address bits of a signature entry (20 R350). -/
def sigBits (va : Nat) : BitVec 1024 :=
  let l := bitsOf va 47 6
  let i0 := bitsOf l 9 0 ^^^ bitsOf l 19 10 ^^^ bitsOf l 29 20 ^^^ bitsOf l 39 30 ^^^ (bitsOf l 41 40 * 2 ^ 8)
  let i1 := bitsOf (l * 0x9E3779B97F4A7C15) 63 54
  BitVec.ofNat 1024 (2 ^ (i0 % 1024)) ||| BitVec.ofNat 1024 (2 ^ i1)

/-- Lines that a host holds are back-invalidated by an access of the device (24 R421). -/
def State.invalidate (s : State) (lines : List Nat) : State :=
  if s.phys.hostOwned.isEmpty then s
  else { s with phys := { s.phys with hostOwned := s.phys.hostOwned.filter fun l => !lines.contains l } }

/-- The bytes of a place that lie in the on-chip windows. -/
def Place.chips (p : Place) : List Nat :=
  let part (pa k : Nat) : List Nat := if onChip pa then (List.range k).map (pa + ·) else []
  match p with
  | .virt ps => ps.flatMap fun q => part q.pa q.len
  | .phys pa k => part pa k
  | _ => []

/-- An access to an array of another world raises WORLD (05 R101, 23 R418). -/
def State.worldWatch (s : State) (x : Session) (gid : Nat) (p : Place) (wr : Bool) : State :=
  if p.chips.any fun pa => s.chipStatus x gid pa wr == .worldMismatch then s.raise alarmWorld (some x.slot) else s

/-- The signature bits of every line that bytes `[va, va + n)` touch. -/
def sigLines (va n : Nat) : BitVec 1024 := (linesOf va n).foldl (fun a l => a ||| sigBits (64 * l)) 0

/-- The physical lines of a place. -/
def Place.lines (p : Place) (n : Nat) : List Nat :=
  match p with
  | .virt ps => ps.flatMap fun q => if onChip q.pa then [] else linesOf q.pa q.len
  | .phys pa _ => if onChip pa then [] else linesOf pa n
  | _ => []

def Place.touchedLines (p : Place) : List Nat :=
  match p with
  | .phys pa k => Place.lines (.phys pa k) k
  | q => q.lines 0

/-- What every access of a group leaves behind: WORLD for another world's array, a host's lines taken back, and the lines in the
signatures of a versioned task (20 R350). -/
def State.note (s : State) (gid : Nat) (p : Place) (rd wr : Bool) : State :=
  let s1 := match (s.anyGroup gid).bind fun g => s.session? g.session with
    | some x => s.worldWatch x gid p wr
    | none => s
  let s2 := s1.invalidate p.touchedLines
  match p with
  | .virt ps => s2.modAny gid fun g => match g.ver with
    | none => g
    | some v =>
      let m := ps.foldl (fun a q => a ||| sigLines q.va.toNat q.len) 0
      { g with ver := some { v with rs := if rd then v.rs ||| m else v.rs, ws := if wr then v.ws ||| m else v.ws } }
  | _ => s2

/-- The tag of the blocks that an access at `va` through a leaf brings in: those of a content frame are the share domain's, overlay
and private ones the world's (05 R110). -/
def State.tagFor (s : State) (x : Session) (gid : Nat) (l : Leaf) (va : Nat) : CacheTag :=
  if l.content && !bitOf l.omask (va % 4096 / 512) then .content (s.sdom x)
  else .world x.slot (((s.anyGroup gid).bind s.launchOf?).bind (·.world))

/-- Stands in the place of a hint for an access that an engine of the base die makes for a group. -/
def byEngine : Nat := 4

/-- The caches an access of a group through a leaf uses. -/
def State.useFor (s : State) (x : Session) (gid hint : Nat) (l : Leaf) (va : Nat) : CacheUse :=
  l.cacheUse (if hint == byEngine then none else (s.find? gid).map (·.1)) hint (s.tagFor x gid l va)

/-- A read fills the caches of its page's attributes and its hint (05 R105, R106). -/
def State.fillPlace (s : State) (gid hint : Nat) (p : Place) : State :=
  match p, (s.anyGroup gid).bind fun g => s.session? g.session with
  | .virt ps, some x => ps.foldl (fun t q => if onChip q.pa then t else t.cacheRead (t.useFor x gid hint q.leaf q.va.toNat) q.pa q.len) s
  | _, _ => s

/-- What an access leaves behind: signatures, and where it reads, filled caches. -/
def State.sign (s : State) (gid : Nat) (p : Place) (rd wr : Bool) : State :=
  let t := s.note gid p rd wr
  if rd then t.fillPlace gid 0 p else t

/-- The 32-byte sectors of written bytes (20 R355). -/
def sectorsOf (bs : List (Nat × Byte)) : List Nat := (bs.map fun e => e.1 / 32).dedup

/-- Every task version of the module. -/
def State.versions (s : State) : List Version := (s.residents.map (·.2) ++ s.parked).filterMap (·.ver)

/-- The place of `VERSION_CAPACITY` a set of written virtual bytes would raise, if any (20 R355). -/
def State.overCapacity (s : State) (g : Group) (vas : List Nat) : Option Nat :=
  match g.ver with
  | none => none
  | some v =>
    if v.serial then none else
    let old := sectorsOf v.bytes
    let new := ((vas.map fun a => a / 32).dedup).filter fun x => !old.contains x
    if 32 * (old.length + new.length) > 256 * 1024 then some 0
    else if 32 * ((s.versions.map fun w => (sectorsOf w.bytes).length).sum + new.length) > 32 * 1024 * 1024 then some 1
    else none

/-- Who owns a line once a session has stored to it: a line of its share domain stays the domain's (21 R370); any other is the
session's (23 R436). Lines outside LPDDR have no key. -/
def State.ownerAfter (s : State) (x : Session) (line : Nat) : Option Owner :=
  if lpddrSize ≤ 64 * line then none
  else match alGet? s.phys.owners line with
  | some (.domain k d) => if d == s.sdom x then some (.domain k d) else some (s.memKey x)
  | _ => some (s.memKey x)

/-- Stores bytes of a session at a physical address. A write that the link loses is performed or not (24 R422). -/
def State.putPhys (s : State) (x : Session) (u : CacheUse) (pa : Nat) (bs : List Byte) : State :=
  if s.linkLost pa && Config.freeBool s.freeCtr then s else s.store u (s.ownerAfter x) pa bs

/-- Stores bytes of a group of a session at a physical address or in the on-chip arrays. -/
def State.putByte (s : State) (x : Session) (gid : Nat) (self : Option LaneRef) (u : CacheUse) (pa : Nat) (bs : List Byte) : State :=
  if onChip pa then (List.range bs.length).foldl (fun t j => t.chipPut x gid (pa + j) (bs.getD j 0)) s
  else (s.contend self (linesOf pa bs.length)).putPhys x u pa bs

/-- The hints of a version once a line has been stored to under one. -/
def noteHint (hint : Nat) (m : List (Nat × Nat)) (line : Nat) : List (Nat × Nat) := if hint == 0 then alDel m line else alSet m line hint

/-- Stores bytes at a place (checks and copy-on-write have been made), under a cache hint. A task in a version buffers
them. -/
def State.putHint (s : State) (x : Session) (gid : Nat) (self : Option LaneRef) (hint : Nat) (p : Place) (bs : List Byte) : State :=
  match p with
  | .virt ps =>
    let buffered := (s.anyGroup gid).any (·.buffering)
    let step (acc : State × List Byte) (q : Piece) : State × List Byte :=
      let now := acc.2.take q.len
      (if buffered then
        (acc.1.contendIn gid self (linesOf q.va.toNat q.len)).modAny gid fun g => { g with ver := g.ver.map fun v =>
          { v with
            bytes := (List.range now.length).foldl (fun m j => alSet m (q.va.toNat + j) (now.getD j 0)) v.bytes
            hints := (linesOf q.va.toNat q.len).foldl (noteHint hint) v.hints } }
       else acc.1.putByte x gid self (acc.1.useFor x gid hint q.leaf q.va.toNat) q.pa now, acc.2.drop q.len)
    (ps.foldl step (s, bs)).1
  | .scratch g off => s.modGroup g fun y => { y with scratch := spSetList y.scratch off bs }
  | .tile g off => s.modGroup g fun y =>
      { y with tiles := (List.range bs.length).foldl (fun t j => setTileByte t (off + j) (bs.getD j 0)) y.tiles }
  | .phys pa _ => s.putByte x gid self .past pa bs

/-- Stores bytes at a place without a hint. -/
def State.putAt (s : State) (x : Session) (gid : Nat) (self : Option LaneRef) (p : Place) (bs : List Byte) : State :=
  s.putHint x gid self 0 p bs

/-! ### Copy-on-write -/

/-- The frame next in a ring of 64-bit addresses with a HEAD and a TAIL (21 R375). -/
def State.poolNext (s : State) (base logcap : Nat) : Option Nat :=
  let head := s.dev0 base 8
  if head == s.dev0 (base + 8) 8 then none else some (s.dev0 (base + 64 + 8 * (head % 2 ^ logcap)) 8 / 4096)

/-- Takes the frame next in the overlay pool. -/
def State.poolTake (s : State) (base : Nat) : State := s.devPutNum base 8 (s.dev0 base 8 + 1)

/-- Whether the released-frames ring has room. -/
def State.ringRoom (s : State) : Bool :=
  let base := s.ctrl.relBase.toNat
  decide (s.dev0 (base + 8) 8 - s.dev0 base 8 < 2 ^ s.ctrl.relCap)

/-- Pushes a frame to the released-frames ring. While it is full the operation that pushes waits: its step is left for later
(21 R375). -/
def State.release (s : State) (frame : Nat) : State :=
  let base := s.ctrl.relBase.toNat
  let tail := s.dev0 (base + 8) 8
  if s.relPending.isEmpty && s.ringRoom then
    (s.devPutNum (base + 64 + 8 * (tail % 2 ^ s.ctrl.relCap)) 8 (4096 * frame)).devPutNum (base + 8) 8 (tail + 1)
  else { s with clash := true }

/-- Copies `n` bytes of physical memory at the LLC; the target's lines take the owner given. -/
def State.copyPhys (s : State) (own : Option Owner) (tag : CacheTag) (src dst n : Nat) : State :=
  s.store { CacheUse.llc with tag := tag } (fun _ => own) dst (s.phys.bytesAt src n)

/-- What the open transactions of a session have touched through `n` virtual bytes from `va` follows them from one frame to
another (06 R126, R127). -/
def State.follow (s : State) (slot va src dst n : Nat) : State :=
  let p (g : Group) : Bool := g.session == slot && !g.buffering
  if s.anyTxn p none (·.holdsPage va src n) then
    let lane (x : Lane) : Lane := if x.txn.active then { x with txn := x.txn.follow va src dst n } else x
    let one (g : Group) : Group := if p g then { g with bands := g.bands.map fun b => { b with lanes := b.lanes.map lane } } else g
    { s with cores := s.cores.map fun c => { c with active := { c.active with groups := c.active.groups.map one } } }
  else s

/-- One reference of a content frame is removed; at zero its entry goes and the frame is released. A drop of a frame with a count
of 0, or of one that the domain does not hold, is counted and does nothing (21 R373). -/
def State.dropRef (s : State) (dom frame : Nat) : State :=
  let bad : State := { s with ctrl := { s.ctrl with badDrop := incSat 255 s.ctrl.badDrop } }
  match s.hh.find? fun e => e.domain == dom && e.frame == frame with
  | none => bad
  | some e =>
    if e.count = 0 then bad
    else if e.count = 1 then
      ({ s with hh := s.hh.filter fun f => !(f.domain == dom && f.frame == frame) }).release frame
    else { s with hh := updFirst (fun f => f.domain == dom && f.frame == frame) (fun f => { f with count := f.count - 1 }) s.hh }

/-- Drops a page of a session in every TLB (21 R374 step 6, 12 R284 kind 0). -/
def State.tlbDropPage (s : State) (slot va : Nat) : State :=
  let keep (e : TlbEntry) : Bool := !(e.session == slot && e.page == (if e.big then va / 2 ^ 21 else va / 4096))
  { s with cores := s.cores.map (fun c => { c with tlb := c.tlb.filter keep })
           tlb2 := s.tlb2.filter fun e => keep e.2 }

/-- One sub-page at `va` copied from its content frame to its overlay (21 R374 step 3). It counts as a write to its lines for the
session's other transactions that have touched them through this page; the one of `self` follows its bytes to the overlay
(06 R127). A serial transaction of another lane that has read one of the lines holds the copy back (09 R213). -/
def State.cowCopy (s : State) (x : Session) (self : Option LaneRef) (va src dst : Nat) : State :=
  let p (g : Group) : Bool := g.session == x.slot && !g.buffering
  let t := s.doomBy p self (·.holdsPage va src 512)
  let t1 := if s.serialBy p self (·.holdsPage va src 512) then { t with clash := true } else t
  (t1.copyPhys (some (s.memKey x)) (.world x.slot none) src dst 512).follow x.slot va src dst 512

/-- The sub-pages of a mask. -/
def subsIn (need : Nat) : List Nat := (List.range 8).filter (bitOf need)

/-- The leaf of a content page after its sub-pages `need` have been copied to frame `o`, all of them when it collapses. -/
def Leaf.overlaid (l : Leaf) (need o : Nat) : Nat :=
  let mask := l.omask ||| need
  let low := l.bits % 2 ^ 80
  if mask == 255 then low - bitsOf low 51 12 * 2 ^ 12 - 2 ^ 11 + o * 2 ^ 12 else low + mask * 2 ^ 80 + o * 2 ^ 88

/-- The copy-on-write unit for sub-pages `subs` (a mask of 8) of the page at `a` (21 R374). The leaf in memory may have changed
since a TLB read it: the page is dropped from the TLBs in every case, so that the access goes by the leaf as it stands. The
copies may write the page tables or what they lie in, and then the swap fails and the unit starts again. A content line that
cannot be read raises `DATA_POISON` (23 R413). -/
def State.cowRun (x : Session) (self : Option LaneRef) (a : Dword) (subs : Nat) : Nat → State → Except Trap State
  | 0, s => .ok { s with clash := true }
  | fuel + 1, s =>
    let va := a.toNat % 2 ^ 48
    match s.walk x va with
    | .absent => .error (faultAt .write a)
    | .reserved => .error ((mkTrap protection 2).at a)
    | .leaf l =>
      let need := subs &&& (255 ^^^ l.omask)
      if !l.content || need == 0 then .ok (s.tlbDropPage x.slot va)
      else match if l.omask != 0 then some l.ovl else s.poolNext (s.opool x) (s.opoolCap x) with
        | none => .error { mkTrap pageFault 1 with
            addr := a, pages := [(BitVec.ofNat 64 (a.toNat / 4096 * 4096), true)] }
        | some o => match s.badIn x ((subsIn need).flatMap fun k => linesOf (4096 * l.pfn + 512 * k) 512) with
          | some n => .error (poisonTrap a (some n))
          | none =>
            let s1 := if l.omask != 0 then s else s.poolTake (s.opool x)
            let s2 := (subsIn need).foldl (fun t k =>
              t.cowCopy x self (va / 4096 * 4096 + 512 * k) (4096 * l.pfn + 512 * k) (4096 * o + 512 * k)) s1
            if s2.dev l.at_ 16 != some l.bits then
              State.cowRun x self a subs fuel (if l.omask != 0 then s2 else s2.release o)
            else
              let s3 := s2.devPutNum l.at_ 16 (l.overlaid need o)
              let s4 := if l.omask ||| need == 255 then s3.dropRef (s.sdom x) l.pfn else s3
              .ok { s4.tlbDropPage x.slot va with cowRan := true }

/-- Tries the unit makes in one step; a leaf that changes under it more often makes the step wait. -/
def State.cowPage (s : State) (x : Session) (self : Option LaneRef) (va : Dword) (subs : Nat) : Except Trap State :=
  State.cowRun x self va subs 4 s

/-- The sub-pages that `n` bytes from an address touch, within its page. -/
def subsOf (va n : Nat) : Nat :=
  ((List.range 8).filter fun k => decide (va % 4096 / 512 ≤ k) && decide (k ≤ (va % 4096 + n - 1) / 512)).foldl
    (fun a k => a + 2 ^ k) 0

/-- Copy-on-write for every content page a store touches (21 R374), before it is performed. -/
def State.cowPlace (s : State) (x : Session) (self : Option LaneRef) (p : Place) : Except Trap State :=
  match p with
  | .virt ps => foldE (fun t q => if q.leaf.content then t.cowPage x self q.va (subsOf q.va.toNat q.len) else .ok t) s ps
  | _ => .ok s

end Sys2Proof.Machine
end

