-- ==== Sys2Proof/Machine/Ops.lean ====
section
/-! DEFINITION. Operations every meaning shares: accesses on a session's behalf, taking a trap and returning from one
(20 R337 to R349), registers (03 R53 to R60), and the order of checks of an instruction (07 R153). -/

namespace Sys2Proof.Machine

open Sys2Proof

/-! ### Accesses on a session's behalf (22 R437) -/

/-- Pages of an access made for a session in user or privileged state. -/
def State.accPieces (s : State) (x : Session) (priv : Bool) (acc : Access) (va : Nat) (n : Nat) : Except Trap (List Piece) :=
  let one (a : Nat) (k : Nat) : Except Trap (List Piece) :=
    if !sessionSpace a then .error ((mkTrap protection 0).at (BitVec.ofNat 64 a)) else
    match s.walk x (a % 2 ^ 48) with
    | .absent => .error (faultAt acc (BitVec.ofNat 64 a))
    | .reserved => .error ((mkTrap protection 2).at (BitVec.ofNat 64 a))
    | .leaf l =>
      if l.sys && !priv then .error ((mkTrap protection 5).at (BitVec.ofNat 64 a))
      else if l.permits acc then .ok (l.pieces (BitVec.ofNat 64 a) k)
      else .error (faultAt acc (BitVec.ofNat 64 a))
  let rec go (fuel a n : Nat) : Except Trap (List Piece) := match fuel with
    | 0 => .ok []
    | f + 1 => if n == 0 then .ok [] else
      let k := min n (pageEnd a - a)
      match one a k with
      | .error t => .error t
      | .ok p => match go f (a + k) (n - k) with
        | .error t => .error t
        | .ok ps => .ok (p ++ ps)
  go (n / 4096 + 2) va n

/-- Reads bytes in a session's space. -/
def State.accRead (s : State) (x : Session) (priv : Bool) (va n : Nat) : Except Trap (List Byte) :=
  match s.accPieces x priv .read va n with
  | .error t => .error t
  | .ok ps =>
    if ps.any fun q => s.poisoned x q.pa q.len then .error (s.poisonAt x (.virt ps) (BitVec.ofNat 64 va))
    else .ok (s.bytesAt x 0 (.virt ps) n)

/-- Writes bytes in a session's space under a hint, through copy-on-write. -/
def State.accPut (s : State) (x : Session) (priv : Bool) (hint va : Nat) (bs : List Byte) : Except Trap State :=
  match s.accPieces x priv .write va bs.length with
  | .error t => .error t
  | .ok ps =>
    if ps.any fun q => s.poisonedW x q.pa q.len then .error (s.poisonAt x (.virt ps) (BitVec.ofNat 64 va))
    else match s.cowPlace x none (.virt ps) with
      | .error t => .error t
      | .ok s1 => match s1.accPieces x priv .write va bs.length with
        | .error t => .error t
        | .ok qs => .ok ((s1.worldWatch x 0 (.virt qs) true).putHint x 0 none hint (.virt qs) bs)

/-- Writes bytes in a session's space without a hint. -/
def State.accWrite (s : State) (x : Session) (priv : Bool) (va : Nat) (bs : List Byte) : Except Trap State := s.accPut x priv 0 va bs

/-- Accesses with the permissions of a privileged stream (22 R437). -/
def State.sxPieces (s : State) (x : Session) (acc : Access) (va : Nat) (n : Nat) : Except Trap (List Piece) := s.accPieces x true acc va n
def State.sxRead (s : State) (x : Session) (va n : Nat) : Except Trap (List Byte) := s.accRead x true va n
def State.sxNum (s : State) (x : Session) (va n : Nat) : Except Trap Nat := (s.sxRead x va n).map leNat
def State.sxWrite (s : State) (x : Session) (va : Nat) (bs : List Byte) : Except Trap State := s.accWrite x true va bs
def State.sxWriteNum (s : State) (x : Session) (va n v : Nat) : Except Trap State := s.sxWrite x va (toLE n v)

/-! ### The fault service's ring (21 R368) -/

/-- Records a batch of page faults; none when the ring has no room for it. `engine` sets KIND [3]. -/
def State.faultBatch (s : State) (x : Session) (pages : List (Dword × Bool)) (kind : Nat) (engine : Bool) :
    Option (State × Nat) :=
  let ring := s.fring x
  let cap := 2 ^ s.fringCap x
  let w := s.dev0 ring 8
  if w + pages.length - s.dev0 (ring + 8) 8 > cap then none
  else
    let batch := x.batchNo + 1
    let put (acc : State × Nat) (p : Dword × Bool) : State × Nat :=
      let at_ := ring + 64 + 32 * (acc.2 % cap)
      let k := kind + 4 * b2n p.2 + 8 * b2n engine
      (acc.1.devPut at_ (toLE 8 p.1.toNat ++ toLE 4 batch ++ toLE 1 pages.length ++ toLE 1 k ++ toLE 2 x.slot ++
                         toLE 2 x.gen.toNat ++ toLE 14 0), acc.2 + 1)
    let (s1, w1) := pages.foldl put (s, w)
    some ((s1.devPutNum ring 8 w1).modSession x.slot fun y => { y with batchNo := batch }, batch)

/-! ### Trap records (20 R341) -/

/-- What a record says of its unit. -/
structure UnitInfo where
  kind : Nat
  pc : Pc
  lanes : LaneMask
  sibs : LaneMask
  band : Nat
  priv : Bool
  iter : Nat
  remain : Nat
  deriving DecidableEq, Repr

/-- Coordinates of a group from its linear index (01 R10). -/
def LaunchDesc.coords (d : LaunchDesc) (n : Nat) : Nat × Nat × Nat := (n % d.gx, n / d.gx % d.gy, n / (d.gx * d.gy))

/-- The codes whose resume rule is replay (20 R345). -/
def replays (code : Nat) : Bool := code ≤ 0x0E && code != 0 && code != versionCapacity

/-- The 512 bits of a record as bytes. -/
def recordBytes (i : Iss) (clock : Dword) (u : UnitInfo) (t : Trap) (vdisc : Bool) : List Byte :=
  let (x, y, z) := i.launch.desc.coords i.group.index
  let c := t.code.toNat
  let v := u.pc.toNat * 2 ^ 448 + t.addr.toNat * 2 ^ 384 + u.lanes.toNat * 2 ^ 352 + u.sibs.toNat * 2 ^ 320 +
    x % 2 ^ 32 * 2 ^ 288 + y % 2 ^ 16 * 2 ^ 272 + z % 2 ^ 16 * 2 ^ 256 + i.launch.number % 2 ^ 32 * 2 ^ 224 +
    i.sess.gen.toNat * 2 ^ 208 + i.sess.slot % 256 * 2 ^ 200 + c * 2 ^ 192 + t.sub.toNat * 2 ^ 184 +
    t.lane % 256 * 2 ^ 176 + u.band % 32 * 2 ^ 171 + u.kind % 8 * 2 ^ 168 + t.field % 256 * 2 ^ 160 +
    u.iter % 2 ^ 16 * 2 ^ 144 + u.remain % 2 ^ 16 * 2 ^ 128 + i.core % 64 * 2 ^ 122 + dieOf i.core % 4 * 2 ^ 120 +
    i.group.rgs % 16 * 2 ^ 116 + b2n u.priv * 2 ^ 115 + b2n t.reload * 2 ^ 114 + b2n vdisc * 2 ^ 113 +
    b2n (replays c) * 2 ^ 112 + t.detail.toNat * 2 ^ 96 + clock.toNat * 2 ^ 32
  toLE 64 v

/-- How a record's write went. -/
inductive Ring1 where
  | noRing
  | done (n : Nat)
  | full
  | waits (batch : Nat)
  | failed

/-- A record put into a ring with the header of 20 R341: the state and its number, none where the ring is full. Record n lies at
`first` + its size · (n mod capacity). -/
def State.ringPut (s : State) (x : Session) (ring first cap : Nat) (rec : List Byte) : Except Trap (Option (State × Nat)) :=
  match s.sxNum x ring 8, s.sxNum x (ring + 8) 8 with
  | .ok w, .ok c =>
    if w - c ≥ cap then .ok none
    else match s.sxWrite x (first + rec.length * (w % cap)) rec with
      | .ok s1 => (s1.sxWriteNum x ring 8 (w + 1)).map fun s2 => some (s2, w)
      | .error t => .error t
  | .error t, _ => .error t
  | _, .error t => .error t

/-- A record put into the session's trap ring. -/
def State.trapPut (s : State) (x : Session) (rec : List Byte) : Except Trap (Option (State × Nat)) :=
  s.ringPut x x.tring.toNat (x.tring.toNat + 64) (2 ^ x.tringcap.toNat) rec

/-- Writes one record into the session's trap ring (20 R341, 22 R437). -/
def State.ringWrite (s : State) (x : Session) (rec : List Byte) : State × Ring1 :=
  if x.tring == 0 then (s, .noRing)
  else match s.trapPut x rec with
    | .ok (some (t, n)) => (t, .done n)
    | .ok none => (s, .full)
    | .error t =>
      if t.code.toNat == pageFault && s.fring x != 0 then
        match s.faultBatch x t.pages t.sub.toNat true with
        | some (s1, b) => (s1, .waits b)
        | none => (s, .full)
      else (s.tagCheck x t, .failed)

/-! ### Units of a band -/

/-- Lanes that can still execute: neither exited, tail nor parked at a `REJOIN`. -/
def Lane.runnable (l : Lane) : Bool := match l.status with
  | .exited => false
  | .tail => false
  | .parked _ => false
  | _ => true

/-- The part of a band that holds a lane: its fragment, or the whole band. -/
def Band.partOf (b : Band) (lane : Nat) : LaneMask := (b.frags.find? fun m => m.getLsbD lane).getD (BitVec.allOnes 32)

/-- The lanes of a part that still run, by distinct PC (01 R28), each class by its lowest lane. -/
def Band.classes (b : Band) (part : LaneMask) : List LaneMask :=
  let ls := (lanesOf part).filter fun l => (b.lane l).runnable
  let pcs := (ls.map fun l => (b.lane l).pc).dedup
  pcs.map fun p => maskOf fun l => ls.contains l && (b.lane l).pc == p

/-- The band split for a trap of the lanes at a PC: unchanged when those are all the part's runnable lanes. -/
def Band.splitFor (b : Band) (lane : Nat) : Band :=
  let part := b.partOf lane
  let cs := b.classes part
  if cs.length ≤ 1 then b else { b with frags := (b.frags.filter fun m => m != part) ++ cs }

/-- The lanes of the unit a lane belongs to. -/
def Band.unitLanes (b : Band) (lane : Nat) : LaneMask :=
  maskOf fun l => (b.partOf lane).getLsbD l && (b.lane l).runnable

/-- Lanes of every other fragment. -/
def Band.sibs (b : Band) (lane : Nat) : LaneMask :=
  (b.frags.filter fun m => !m.getLsbD lane).foldl (fun a m => a ||| m) 0

/-! ### Ends -/

/-- A lane that exits (10 R218). -/
def Lane.exit (l : Lane) : Lane :=
  { l with status := .exited, wait := .none, tex := none, rep := none, nlinks := 0, links := [], frame := none, priv := false
           txn := l.txn.closed }

/-- Every stream of a group ends. -/
def Group.endStreams (g : Group) : Group :=
  { g with lead := { g.lead with status := .exited, wait := .none, rep := none }
           streams := g.streams.map fun x => { x with running := false, status := .running }
           bands := g.bands.map fun b =>
             { b with lanes := b.lanes.map fun l => if l.status == .tail then l else l.exit } }

/-- Matrix instructions, slot loads and engine commands of some groups withdrawn: their tasks' writes are not to be seen
(20 R353, R354, R361). A copy under way goes on for its scratchpads and registers; it answers nobody. -/
def State.withdraw (s : State) (p : Nat → Bool) : State :=
  { s with
    cores := s.cores.map fun c =>
      { c with
        mqueue := c.mqueue.filter fun o => !p o.gid
        mrun := c.mrun.filter fun o => !p o.gid
        port := c.port.filter fun l => !p l.gid }
    cmds := (s.cmds.filter fun c => !(p c.gid && match c.kind with
      | .answer _ _ _ => true
      | .collective _ _ _ _ _ _ _ => true
      | .emit _ _ => true
      | .wlpush _ _ => true
      | _ => false)).map fun c => if p c.gid then { c with noCtr := true, reply := none } else c }

/-- A commit token whose holder has no serial transaction open is free (09 R213). -/
def State.settleTokens (s : State) : State :=
  if s.sessions.all fun x => x.tokenHolder.isNone then s
  else { s with
    sessions := s.sessions.map fun x =>
      { x with tokenHolder := x.tokenHolder.filter fun r => (s.laneOf r).txn.active && (s.laneOf r).txn.serial } }

/-- A group whose launch ends: its streams end; one that waits for a verdict or for its restart retires. -/
def Group.stopped (g : Group) : Group :=
  { g.endStreams with ver := none, phase := if g.phase == .running then .running else .retiring }

/-- Ends a launch with a completion status: its groups stop, none of it is placed any more (22 R390), and what its tasks have
still under way is withdrawn, so that none of their writes is seen (20 R354). -/
def State.endLaunch (s : State) (sess no status : Nat) : State :=
  let mine (g : Group) : Bool := g.session == sess && g.launch == no
  let tasks := ((s.allGroupsOf sess no).filter (·.buffering)).map (·.gid)
  let s1 := (s.withdraw tasks.contains).modLaunch sess no fun l =>
    { l with
      ended := some status, nextGroup := l.desc.gx * l.desc.gy * l.desc.gz, returned := [], commitQueue := [], serialQueue := [] }
  let stop (g : Group) : Group := if mine g then g.stopped else g
  let stopCtx (c : Context) : Context := { c with groups := c.groups.map stop }
  let away (c : Context) : Context := { c with groups := c.groups.filter fun g => !mine g }
  { s1 with
    cores := s1.cores.map fun c => { c with active := stopCtx c.active, shadow := c.shadow.map away }
    sessions := s1.sessions.map fun x => { x with saved := x.saved.map away } }

/-! ### Versions (20 R350 to R356) -/

/-- A group back in its state at placement (20 R353): `init` is that state. -/
def Version.fresh (base : Nat) : Version := { bytes := [], hints := [], rs := 0, ws := 0, base := base, held := [], serial := false, token := false }

/-- The launch parameters in the last g registers (22 R392). -/
def paramRegs (d : LaunchDesc) : Sparse 64 := spSetList [] (1024 - d.params.length) d.params

/-- A lead stream at its entry. -/
def Lead.atEntry (d : LaunchDesc) : Lead :=
  { pc := d.leadPc, status := if d.leadPc == 0 then .exited else .running, wait := .none, k := 0, priv := d.priv, trec := 0,
    rep := none, barGrp := 0, barClu := 0, fresh := true, pending := [] }

/-- The register need of a band's window block (03 A of R56): the allotment less the reservoirs. -/
def LaunchDesc.blockRegs (d : LaunchDesc) : Nat := (d.regs + 6 * d.rsv + 7) / 8 * 8 - 6 * d.rsv

/-- SIZE at placement (03 R56, 22 R391). -/
def LaunchDesc.startSize (d : LaunchDesc) : Nat := if d.window == 0 then (d.regs + 7) / 8 * 8 else d.window

/-- Lane `l` of band `b` at placement: a tail lane above the group's threads (01 R9). -/
def Lane.atEntry (d : LaunchDesc) (b l : Nat) : Lane :=
  { Lane.init with
    pc := d.lanePc, status := if 32 * b + l < d.tx * d.ty * d.tz then .running else .tail, size := d.startSize,
    lo := d.startSize - d.blockRegs, priv := d.priv }

def Stream.init : Stream :=
  { configured := false, running := false, base := 0, n0 := 0, n1 := 0, n2 := 0, n3 := 0, s0 := 0, s1 := 0, s2 := 0, s3 := 0,
    ctrl := 0, pos := 0, row := [], goPc := 0, status := .running }

def WSlot.init : WSlot :=
  { elems := [], scales := [], hasRecord := false, fmt := 0, entry := 0, i0 := 0, i1 := 0, i2 := 0, i3 := 0, valid := false,
    loading := false }

/-- A group as placement or a restart leaves it (20 R353, 03 R67). -/
def Group.atEntry (g : Group) (d : LaunchDesc) (commit : Nat) (serial : Bool) : Group :=
  { g with
    phase := .running, lead := Lead.atEntry d, g := paramRegs d, bq := [], streams := [Stream.init, Stream.init],
    scratch := [], tiles := [], opens := 0, slots := List.replicate g.slotPhys.length WSlot.init, barGrp := 0, barClu := 0,
    ver := if d.versioned then some { Version.fresh commit with serial := serial } else none,
    withdrawn := [], collectives := 0, age := 0,
    bands := g.bands.mapIdx fun b x =>
      { x with lanes := (List.range 32).map (Lane.atEntry d b), fq := [], frags := [], fresh := true, started := decide (d.startSize ≤ d.blockRegs), lastRun := 0 } }

/-- The restart of 20 R353 itself; `serial` makes it a serial task (20 R356). -/
def State.restartNow (s : State) (gid : Nat) (serial : Bool) : State :=
  match s.find? gid with
  | none => s
  | some (c, g) => match s.launchOf? g with
    | none => s
    | some l =>
      let s1 := ((s.withdraw (· == gid)).modGroupOn c gid fun y => y.atEntry l.desc l.commitNo serial).modLaunch g.session g.launch fun y =>
        { y with
          restarts := y.restarts + 1, serialQueue := if serial then y.serialQueue ++ [gid] else y.serialQueue }
      if serial then
        s1.modGroupOn c gid fun y =>
          { y with lead := { y.lead with wait := .serial }
                   bands := y.bands.map fun b => { b with lanes := b.lanes.map fun z => { z with wait := .serial } } }
      else s1

/-- Restarts a versioned task in place once the copies into its scratchpad have landed; its counters are not decremented
(20 R353). -/
def State.restart (s : State) (gid : Nat) (serial : Bool) : State :=
  let s := s.withdraw (· == gid)
  if s.copiesInto gid then
    s.modGroup gid fun g => { g.endStreams with ver := none, phase := .restarting serial }
  else s.restartNow gid serial

/-! ### Taking a trap -/

/-- Session memory address of a register-stack position (03 R57, 22 R386). -/
def stackAddr (x : Session) (b : Band) (pos lane : Nat) : Nat := x.rsBase.toNat + 128 * x.rsDepth * b.area + 128 * pos + 4 * lane

/-- The value a read of a position returns: its newest value, or what the banks hold after a kill mark (02 R47). -/
def Lane.value (x : Lane) (ctr l pos : Nat) : Word :=
  if x.killed.contains pos && !Config.killRead ctr l pos then spGet x.banks pos else spGet x.regs pos

/-- A position of a lane written by an instruction after which its band has issued `age` others: the result enters the forwarding
window, and one that the position had there is no longer live (02 R46). -/
def Lane.putAged (x : Lane) (pos : Nat) (v : Word) (age : Nat) : Lane :=
  { x with
    regs := spSet x.regs pos v
    win := (x.win.filter fun e => e.1 != pos) ++ [(pos, age)]
    killed := x.killed.filter (· ≠ pos) }

def Lane.put (x : Lane) (pos : Nat) (v : Word) : Lane := x.putAged pos v 0

/-- A result that arrives in the register banks without passing the forwarding window (02 R46). -/
def Lane.arrive (x : Lane) (pos : Nat) (v : Word) : Lane :=
  { x with regs := spSet x.regs pos v, banks := spSet x.banks pos v, win := x.win.filter fun e => e.1 != pos
           killed := x.killed.filter (· ≠ pos) }

/-- Results that leave the forwarding window are written to the register banks where they are still live (02 R46). -/
def Lane.leave (x : Lane) (out : Nat × Nat → Bool) : Lane :=
  { x with
    banks := (x.win.filter fun e => out e && !x.killed.contains e.1).foldl (fun m e => spSet m e.1 (spGet x.regs e.1)) x.banks
    win := x.win.filter fun e => !out e }

/-- A result in flight that arrives while the band is still on the slot from which it was asked for, within eight instructions,
enters the window there; any other goes to the register banks (02 R46). -/
def Lane.land (x : Lane) (onSlot : Bool) (pos : Nat) (v : Word) : Lane :=
  match alGet? x.issued pos with
  | some k => if onSlot && decide (k ≤ 8) then x.putAged pos v k else x.arrive pos v
  | none => x.arrive pos v

/-- The forwarding window emptied: the band leaves its slot, takes a trap, or is saved. -/
def Lane.emptyWindow (x : Lane) : Lane := if x.win.isEmpty && x.issued.isEmpty then x else { x.leave fun _ => true with issued := [] }

/-- The band has issued an instruction: a result leaves the window when the eighth later one issues. -/
def Lane.ageWindow (x : Lane) : Lane :=
  if x.win.isEmpty && x.issued.isEmpty then x
  else
    let y : Lane := { x with win := x.win.map fun e => (e.1, e.2 + 1), issued := (x.issued.map fun e => (e.1, e.2 + 1)).filter fun e => decide (e.2 ≤ 8) }
    y.leave fun e => decide (8 < e.2)

/-- Positions below `lo` have left the register array, and positions `[a, b)` take new values there. -/
def Lane.dropBelow (x : Lane) (lo : Nat) : Lane :=
  { x with regs := spClear x.regs 0 lo, banks := spClear x.banks 0 lo, win := x.win.filter fun e => lo ≤ e.1
           killed := x.killed.filter fun p => lo ≤ p }

/-- Positions `[lo, hi)` of a lane as it stands written to its register-stack memory by the spill engine (03 R57). -/
def State.spillOut (s : State) (x : Session) (b : Band) (lane : Nat) (y : Lane) (lo hi : Nat) : Except Trap State :=
  foldE (fun (t : State) pos => t.sxWriteNum x (stackAddr x b pos lane) 4 (y.value s.freeCtr lane pos).toNat) s
    ((List.range (hi - lo)).map (lo + ·))

/-- Positions `[lo, hi)` of a lane as an `ALLOC` finds them entering the window: zero, but for deposits (05 R102). -/
def Lane.enterWindow (x : Lane) (lo hi : Nat) : Lane :=
  let kept (p : Nat) : Bool := decide (p < lo) || decide (hi ≤ p) || x.marks.contains (p / 8)
  { x with
    regs := x.regs.filter fun e => kept e.1
    banks := x.banks.filter fun e => kept e.1
    win := x.win.filter fun e => kept e.1
    killed := x.killed.filter fun p => decide (p < lo) || decide (hi ≤ p)
    marks := x.marks.filter fun m => !(decide (lo ≤ 8 * m) && decide (8 * m < hi)) }

/-- A lane whose window top rises over positions `[top, hi)`: they enter, and what no longer fits the block goes to
register-stack memory, the entering positions among them at the values they read as. Entering positions below LO lie in
register-stack memory: but for deposits they are zeroed there (03 R57). The transfers are exactly of the positions from LO to
the new LO − 1: 03 R57 names these, and says of engine transfers that they move whole groups of 8, which LO does not bound
where 6 registers per reservoir leave A no multiple of 8 (entry 77). -/
def State.raiseTop (s : State) (x : Session) (b : Band) (lane : Nat) (y : Lane) (top hi lo : Nat) : Except Trap (State × Lane) :=
  let z := y.enterWindow top hi
  let below := ((List.range (min hi y.lo - top)).map (top + ·)).filter fun p => !y.marks.contains (p / 8)
  match foldE (fun (t : State) pos => t.sxWriteNum x (stackAddr x b pos lane) 4 0) s below with
  | .error e => .error e
  | .ok s1 => (s1.spillOut x b lane z z.lo lo).map fun t => (t, ({ z with lo := lo } : Lane).dropBelow lo)

/-- The position a window top leaves lowest resident (03 R57). -/
def newLo (block lo base size : Nat) : Nat := if base + size > lo + block then base + size - block else lo

/-- Whether the register stack has room for a handler's window in every lane of a unit (20 R344). -/
def Band.handlerFits (b : Band) (unit : LaneMask) (depth : Nat) : Bool :=
  (lanesOf unit).all fun l => decide ((b.lane l).base + (b.lane l).size + 32 ≤ depth)

/-- In-stream delivery (20 R344) to the lanes of a unit; none when the spill engine cannot store a position. -/
def State.deliverInStream (s : State) (i : Iss) (unit : LaneMask) (trec : Dword) (t : Trap) (acted : LaneMask) :
    Option State :=
  match i.group.bands[i.band]? with
  | none => none
  | some b =>
    let one (st : State) (l : Nat) : Except Trap State :=
      let x := (b.lane l).emptyWindow
      let top := x.base + x.size
      -- positions that enter read as zero: a deposit among them loses its mark (20 R344 step 3)
      match st.raiseTop i.sess b l { x with marks := x.marks.filter fun m => !(decide (top ≤ 8 * m) && decide (8 * m < top + 32)) }
          top (top + 32) (newLo i.launch.desc.blockRegs x.lo top 32) with
      | .error e => .error e
      | .ok (st1, z) => .ok (st1.modGroupOn i.core i.group.gid fun g => g.modLane i.band l fun y =>
          { z with
            txn := y.txn, issued := [], priv := true, trec := trec, status := .running, wait := .none
            frame := some { k := x.k, fpflags := x.fpflags, base := x.base, size := x.size, pc := x.pc, code := t.code,
                            lanes := acted, rep := x.rep }
            k := 0, rep := none, base := top, size := 32, pc := i.sess.tvec })
    match foldE one s (lanesOf unit) with
    | .ok s1 => some s1
    | .error _ => none

/-- Sets the status of a unit: the lanes of a band, or the lead stream, or an affine stream. -/
def State.setStatus (s : State) (i : Iss) (unit : LaneMask) (st : Status) : State :=
  s.modGroupOn i.core i.group.gid fun g => match i.who with
    | .lanes b _ => g.modBand b fun x =>
      { x with
        lanes := x.lanes.mapIdx fun l y =>
          if unit.getLsbD l && y.runnable then { y with status := st, wait := .none } else y }
    | .lead => { g with lead := { g.lead with status := st, wait := .none } }
    | .stream n => { g with streams := updAt (fun y => { y with status := st }) g.streams n }

/-- The unit of a trap as its record gives it. -/
def unitInfo (i : Iss) (b : Band) (unit acted : LaneMask) : UnitInfo :=
  match i.who with
  | .lanes n _ =>
    let l0 := (lanesOf i.active).headD 0
    let r := (b.lane l0).rep
    { kind := if b.frags.isEmpty then 0 else 1, pc := i.pc, lanes := acted, sibs := b.sibs ((lanesOf unit).headD 0), band := n,
      priv := i.priv, iter := (r.map fun y => y.iter.toNat).getD 0, remain := (r.map fun y => y.remain.toNat).getD 0 }
  | .lead =>
    let r := i.group.lead.rep
    { kind := 2, pc := i.pc, lanes := 0, sibs := 0, band := 0, priv := i.priv, iter := (r.map fun y => y.iter.toNat).getD 0,
      remain := (r.map fun y => y.remain.toNat).getD 0 }
  | .stream n =>
    { kind := 3, pc := (i.group.streams.getD n Stream.init).goPc, lanes := 0, sibs := 0, band := 0, priv := i.priv, iter := 0,
      remain := 0 }

/-- A trap as `MACHINE_CHECK` subcode NESTED, the original code in DETAIL (20 R343). -/
def Trap.nested (t : Trap) : Trap :=
  { t with code := BitVec.ofNat 8 machineCheck, sub := 1, detail := t.detail &&& 0xFF00 ||| t.code.setWidth 16 }

/-- A delivered trap of a serial task: its stores stand, its group retires, and the launch is reported as failed
(20 R356). -/
def State.failSerial (s : State) (i : Iss) : State :=
  (s.modGroupOn i.core i.group.gid Group.endStreams).modLaunch i.sess.slot i.launch.number fun l => { l with failed := true }

/-- Delivery of a trap whose unit has been split off (20 R343): one record, written first, with the code under which the trap
is delivered. -/
def State.deliver (s : State) (i : Iss) (unit acted : LaneMask) (b : Band) (t : Trap) : State :=
  let isLanes := match i.who with
    | .lanes _ _ => true
    | _ => false
  -- a delivered trap of a versioned task discards its version first (20 R354)
  let vdisc := i.launch.desc.versioned && i.group.buffering
  let s := if vdisc then s.modGroupOn i.core i.group.gid fun g =>
      { g with ver := g.ver.map fun v => { v with bytes := [], held := [], rs := 0, ws := 0 } } else s
  let serial := i.group.ver.any (·.serial)
  let asked := isLanes && !i.priv && !serial && i.sess.tvec != 0 && i.sess.tdeleg.getLsbD t.code.toNat && decide (t.code.toNat < watchdogCode)
  let write (u : Trap) : State × Ring1 := s.ringWrite i.sess (recordBytes i t.clock (unitInfo i b unit acted) u vdisc)
  let park (u : Trap) : State := match write u with
    | (s1, .noRing) => s1.endLaunch i.sess.slot i.launch.number 3
    | (s1, .failed) => s1.endLaunch i.sess.slot i.launch.number 3
    | (s1, .full) => s1.setStatus i unit (.held t none)
    | (s1, .waits k) => s1.setStatus i unit (.held t (some k))
    | (s1, .done n) => if serial then s1.failSerial i else s1.setStatus i unit (.trapped u (some n))
  if i.priv then park t.nested
  else if !asked then park t
  else if !b.handlerFits unit i.sess.rsDepth then park t.nested
  else match write t with
    | (s1, .done n) =>
      match s1.deliverInStream i unit (i.sess.tring + BitVec.ofNat 64 (64 * (1 + n % 2 ^ i.sess.tringcap.toNat))) t acted with
      | some s2 => s2
      | none => park t.nested
    | _ => park t

/-- The issuing unit of a resident group, read again from a state. -/
def State.issOf (s : State) (core gid : Nat) (who : Who) : Option Iss :=
  match (s.core core).active.groups.find? fun g => g.gid == gid with
  | none => none
  | some g => match s.session? g.session, s.launchOf? g with
    | some x, some l =>
      match who with
      | .lanes b m =>
        let ln := g.lane b ((lanesOf m).headD 0)
        some { core := core, who := who, lead := false, band := b, active := m, pc := ln.pc, priv := ln.priv, group := g,
               sess := x, launch := l }
      | .lead => some { core := core, who := who, lead := true, band := 0, active := 1, pc := g.lead.pc, priv := g.lead.priv,
                        group := g, sess := x, launch := l }
      | .stream n => some { core := core, who := who, lead := true, band := 0, active := 1,
                            pc := (g.streams.getD n Stream.init).goPc, priv := g.lead.priv, group := g, sess := x, launch := l }
    | _, _ => none

/-- A trap that has been taken is recorded and its unit parked or its handler entered (20 R341 to R348, 01 R28); again for one
that a unit has held, at the clock and with the DETAIL of the trap itself. -/
def State.recordTrap (s : State) (i : Iss) (acted : LaneMask) (t : Trap) : State :=
  let l0 := (lanesOf i.active).headD 0
  let s1 := match i.who with
    | .lanes b _ => s.modGroupOn i.core i.group.gid fun g => g.modBand b fun x => x.splitFor l0
    | _ => s
  match s1.issOf i.core i.group.gid i.who with
  | none => s
  | some j0 =>
    let j := { j0 with active := i.active, pc := i.pc, priv := i.priv }
    let b := (j.group.bands[j.band]?).getD Band.absent
    let unit := if j.lead then 1 else b.unitLanes l0
    if t.code.toNat == versionCapacity && i.launch.desc.policy then s1.restart i.group.gid true
    else if t.code.toNat == pageFault then
      let info := unitInfo j b unit acted
      let declined := { t with sub := t.sub ||| 4 }
      match s1.ringWrite j.sess (recordBytes j t.clock info t false) with
      | (s2, .failed) => s2.endLaunch j.sess.slot j.launch.number 3
      | (s2, .full) => s2.setStatus j unit (.held t none)
      | (s2, .waits k) => s2.setStatus j unit (.held t (some k))
      | (s2, r) =>
        let rec_ := match r with
          | .done n => some n
          | _ => none
        if s2.fring j.sess == 0 then s2.deliver j unit acted b declined
        else match s2.faultBatch j.sess t.pages (t.sub.toNat % 4) false with
          | none => s2.setStatus j unit (.heldFault t)
          | some (s3, k) => s3.setStatus j unit (.faulted k t rec_)
    else s1.deliver j unit acted b t

/-- A trap as it is taken: its lanes, the core's clock, and DETAIL, that of the transaction open in the lane that the record
names (20 R341). -/
def Trap.taken (t : Trap) (s : State) (i : Iss) (acted : LaneMask) : Trap :=
  let x := i.group.lane i.band (if t.lane == 255 then (lanesOf acted).headD 0 else t.lane)
  { t with
    acted := if i.lead then 0 else acted, clock := (s.core i.core).clock
    detail := if !i.lead && x.txn.active then x.txn.detail.setWidth 16 else t.detail }

/-- A unit takes a trap: the ONE operation for every trap of an instruction or a stream (20 R340 to R348). `acted` is the set
of active, enabled lanes of the trapping instruction. -/
def State.takeTrap (s : State) (i : Iss) (acted : LaneMask) (t : Trap) : State :=
  (s.tagCheck i.sess t).recordTrap i acted (t.taken s i acted)

/-! ### Program counters (07 R135) -/

/-- The PC after a slot: the next slot, or slot 0 of the next line. -/
def nextPc (pc : Pc) : Pc := if pc.toNat % 64 == 4 then pc + 60 else pc + 1

/-- The line of a PC. -/
def lineOf (pc : Pc) : Dword := pc - BitVec.ofNat 64 (pc.toNat % 64)

/-- A REPEAT state moved past one iteration: what is left, if anything (10 R222). -/
def RepState.next (r : RepState) : Option RepState :=
  if r.remain ≤ 1 then none else some { r with remain := r.remain - 1, iter := r.iter + 1 }

/-- A lane moves on after an instruction: the next iteration, or the next PC. -/
def Lane.advance (l : Lane) : Lane :=
  match l.rep with
  | none => { l with pc := nextPc l.pc }
  | some r => match r.next with
    | none => { l with pc := nextPc l.pc, rep := none }
    | some r' => { l with rep := some r' }

def Lead.advance (l : Lead) : Lead :=
  match l.rep with
  | none => { l with pc := nextPc l.pc }
  | some r => match r.next with
    | none => { l with pc := nextPc l.pc, rep := none }
    | some r' => { l with rep := some r' }

/-- The lanes in `m` of the issuing band, or the lead stream, move on. -/
def State.advance (s : State) (i : Iss) (m : LaneMask) : State :=
  s.modGroupOn i.core i.group.gid fun g =>
    if i.lead then { g with lead := g.lead.advance }
    else g.modBand i.band fun b => { b with lanes := b.lanes.mapIdx fun l x => if m.getLsbD l then x.advance else x }

/-! ### Returning from a trap (20 R344, R345) -/

/-- The code whose resume rule a trap has: a nested trap keeps the rule of the original code (DETAIL). -/
def Trap.rule (t : Trap) : Nat :=
  if t.code.toNat == machineCheck && t.sub == 1 then t.detail.toNat % 256 else t.code.toNat

/-- Action 0 to 2 of `TRET` and RESUME on a lane at its trapping instruction: 0 the resume rule of the code, 1 the next
instruction or iteration, 2 the lanes that acted exit and the others go on. -/
def Lane.resume (x : Lane) (rule action : Nat) (acted : Bool) : Lane :=
  let y := { x with status := .running, wait := .none }
  match action with
  | 0 => if rule == softTrap then y.advance else y
  | 1 => y.advance
  | _ => if acted then y.exit else y.advance

def Lead.resume (x : Lead) (rule action : Nat) : Lead :=
  let y := { x with status := .running, wait := .none }
  match action with
  | 0 => if rule == softTrap then y.advance else y
  | 1 => y.advance
  | _ => { y with status := .exited, rep := none }

/-- Elements of a whole stream. -/
def Stream.total (x : Stream) : Nat := x.n0 * x.n1 * x.n2 * x.n3

/-- A stopped affine stream: the element again, the element as zero, or the end after the unfinished row. -/
def Stream.resume (x : Stream) (action : Nat) : Stream :=
  let y := { x with status := .running }
  match action with
  | 0 => y
  | 1 => { y with row := y.row ++ [0], pos := y.pos + 1 }
  | _ => { y with pos := y.total, running := !y.row.isEmpty }

/-- A task that ends without a commit (20 R354): its group retires and none of its writes is seen. -/
def State.endTask (s : State) (gid : Nat) : State := (s.withdraw (· == gid)).modGroup gid fun g => { g.endStreams with ver := none }

/-- A unit that a trap has stopped goes on with action 0 to 2. The task of a versioned launch restarts, or ends (20 R354). -/
def State.resumeUnit (s : State) (g : Group) (who : Who) (t : Trap) (action : Nat) : State :=
  let versioned := match s.launchOf? g with
    | some l => l.desc.versioned
    | none => false
  if versioned then (if action < 2 then s.restart g.gid false else s.endTask g.gid)
  else s.modGroup g.gid fun h => match who with
    | .lanes b m => h.modBand b fun x =>
      { x with lanes := x.lanes.mapIdx fun l y => if m.getLsbD l then y.resume t.rule action (t.acted.getLsbD l) else y }
    | .lead => { h with lead := h.lead.resume t.rule action }
    | .stream n => { h with streams := updAt (fun y => y.resume action) h.streams n }

/-- Changes the lanes in `m` of the issuing band. -/
def State.modLanes (s : State) (i : Iss) (m : LaneMask) (f : Nat → Lane → Lane) : State :=
  s.modGroupOn i.core i.group.gid fun g =>
    g.modBand i.band fun b => { b with lanes := b.lanes.mapIdx fun l x => if m.getLsbD l then f l x else x }

def State.modLead (s : State) (i : Iss) (f : Lead → Lead) : State :=
  s.modGroupOn i.core i.group.gid fun g => { g with lead := f g.lead }

/-- The issuing lanes, or the lead stream, wait. -/
def State.block (s : State) (i : Iss) (w : Wait) : State :=
  if i.lead then s.modLead i fun x => { x with wait := w } else s.modLanes i i.active fun _ x => { x with wait := w }

/-- Aborts a lane's transaction (09 R212). DETAIL is 0 but for the causes to which 09 R211 gives one (entry 78). -/
def Lane.abort (l : Lane) (cause detail : Nat) : Lane :=
  let counted := cause == 1 || cause == 2 || cause == 5 || cause == 8
  { l with
    pc := l.txn.target, wait := .none, tex := none, rep := none
    txn := { l.txn.closed with
      cause := BitVec.ofNat 8 cause, detail := BitVec.ofNat 8 detail
      aborts := if counted then min 8 (l.txn.aborts + 1) else l.txn.aborts } }

/-- Releases the commit token if a lane holds it (09 R213). -/
def State.freeToken (s : State) (slot : Nat) (r : LaneRef) : State :=
  s.modSession slot fun x => if x.tokenHolder == some r then { x with tokenHolder := none } else x

/-- Aborts the transaction of a lane of the issuing band. -/
def State.abortLane (s : State) (i : Iss) (l cause detail : Nat) : State :=
  (s.modLanes i (maskOf (· == l)) fun _ x => x.abort cause detail).freeToken i.sess.slot
    { gid := i.group.gid, band := i.band, lane := l }

end Sys2Proof.Machine
end

