-- ==== Sys2Proof/Machine/Float.lean ====
section
/-! DEFINITION. Floating-point formats, exact values and the one rounding of 04 R70 to R86. -/

namespace Sys2Proof

/-- A floating-point format: IEEE layout with sign above `eb` exponent and `mb` fraction bits (04 R70, R80, R81). -/
structure Fmt where
  eb : Nat
  mb : Nat
  bias : Nat
  /-- has infinities, coded just above the largest finite magnitude -/
  hasInf : Bool
  /-- code of the largest finite magnitude -/
  top : Nat
  /-- canonical NaN; none where the format has no NaN -/
  nan : Option Nat
  /-- a register format, which saturates to [+0, 1] (04 R79) -/
  reg : Bool
  deriving DecidableEq, Repr

def fmtF64 : Fmt := ⟨11, 52, 1023, true, 0x7FEFFFFFFFFFFFFF, some 0x7FF8000000000000, true⟩
def fmtF32 : Fmt := ⟨8, 23, 127, true, 0x7F7FFFFF, some 0x7FC00000, true⟩
def fmtF16 : Fmt := ⟨5, 10, 15, true, 0x7BFF, some 0x7E00, true⟩
def fmtBf16 : Fmt := ⟨8, 7, 127, true, 0x7F7F, some 0x7FC0, true⟩
def fmtE4m3 : Fmt := ⟨4, 3, 7, false, 0x7E, some 0x7F, false⟩
def fmtE5m2 : Fmt := ⟨5, 2, 15, true, 0x7B, some 0x7E, false⟩
def fmtE2m1 : Fmt := ⟨2, 1, 1, false, 7, none, false⟩

/-- Exponent of the least significant bit of the subnormals. -/
def Fmt.emin (f : Fmt) : Int := 1 - (f.bias : Int) - f.mb

/-- Width of a code, and its sign bit. -/
def Fmt.width (f : Fmt) : Nat := f.eb + f.mb + 1
def Fmt.signBit (f : Fmt) (neg : Bool) : Nat := if neg then 2 ^ (f.eb + f.mb) else 0

/-- A value: NaN (signalling or not), an infinity, or ±m·2^e, where `st` says that the magnitude lies strictly between
`m` and `m + 1` units. -/
inductive FVal where
  | nan (sig : Bool)
  | inf (neg : Bool)
  | fin (neg : Bool) (m : Nat) (e : Int) (st : Bool)
  deriving DecidableEq, Repr

/-- Zero of a sign. -/
def fzero (neg : Bool) : FVal := .fin neg 0 0 false

/-- Magnitude code to mantissa and exponent. -/
def Fmt.mag (f : Fmt) (c : Nat) : Nat × Int :=
  let x := c / 2 ^ f.mb
  if x = 0 then (c, f.emin) else (2 ^ f.mb + c % 2 ^ f.mb, f.emin + (x : Int) - 1)

/-- The value of a code. -/
def Fmt.decode (f : Fmt) (x : Nat) : FVal :=
  let neg := bitOf x (f.eb + f.mb)
  let c := x % 2 ^ (f.eb + f.mb)
  if c ≤ f.top then let (m, e) := f.mag c; .fin neg m e false
  else if f.hasInf && c == f.top + 1 then .inf neg
  else .nan (!bitOf c (f.mb - 1))

/-- Whether a value is a subnormal of the format it was decoded from. -/
def Fmt.isSub (f : Fmt) : FVal → Bool
  | .fin _ m e _ => m != 0 && decide (m < 2 ^ f.mb) && e == f.emin
  | _ => false

/-- The value with its sign flipped. -/
def FVal.flip : FVal → FVal
  | .nan q => .nan q
  | .inf s => .inf (!s)
  | .fin s m e t => .fin (!s) m e t

/-- A source element: decoded, negated, and flushed where FTZ is set (04 R73). -/
def Fmt.source (f : Fmt) (ftz neg : Bool) (x : Nat) : FVal :=
  let v := f.decode x
  let v := if ftz && f.isSub v then (match v with
    | .fin s _ _ _ => fzero s
    | w => w) else v
  if neg then v.flip else v

def FVal.isNan : FVal → Bool
  | .nan _ => true
  | _ => false

def FVal.isSig : FVal → Bool
  | .nan q => q
  | _ => false

def FVal.neg : FVal → Bool
  | .nan _ => false
  | .inf s => s
  | .fin s _ _ _ => s

def FVal.isZero : FVal → Bool
  | .fin _ m _ t => m == 0 && !t
  | _ => false

/-- Mantissas of two magnitudes over their common exponent. -/
def align (m1 : Nat) (e1 : Int) (m2 : Nat) (e2 : Int) : Nat × Nat × Int :=
  let e := min e1 e2
  (m1 * 2 ^ (e1 - e).toNat, m2 * 2 ^ (e2 - e).toNat, e)

/-- The flags of `%fpflags` (03 R66). -/
def flInvalid : Nat := 16
def flDivZero : Nat := 8
def flOverflow : Nat := 4
def flUnderflow : Nat := 2
def flInexact : Nat := 1

/-- An exact result and the flags its operands raised. -/
structure FRes where
  v : FVal
  fl : Nat
  deriving DecidableEq, Repr

def nanRes (invalid : Bool) : FRes := ⟨.nan false, if invalid then flInvalid else 0⟩

/-- Exact sum; `rm`: an exact zero sum of unlike signs is −0 (04 R72). -/
def faddX (rm : Bool) (x y : FVal) : FRes :=
  match x, y with
  | .nan p, .nan q => nanRes (p || q)
  | .nan p, _ => nanRes p
  | _, .nan q => nanRes q
  | .inf s, .inf t => if s == t then ⟨.inf s, 0⟩ else nanRes true
  | .inf s, _ => ⟨.inf s, 0⟩
  | _, .inf t => ⟨.inf t, 0⟩
  | .fin s1 m1 e1 _, .fin s2 m2 e2 _ =>
    let (a, b, e) := align m1 e1 m2 e2
    if s1 == s2 then ⟨.fin s1 (a + b) e false, 0⟩
    else if a = b then ⟨fzero rm, 0⟩
    else if b < a then ⟨.fin s1 (a - b) e false, 0⟩
    else ⟨.fin s2 (b - a) e false, 0⟩

/-- Exact product. -/
def fmulX (x y : FVal) : FRes :=
  match x, y with
  | .nan p, .nan q => nanRes (p || q)
  | .nan p, _ => nanRes p
  | _, .nan q => nanRes q
  | .inf s, .inf t => ⟨.inf (s != t), 0⟩
  | .inf s, .fin t m _ _ => if m = 0 then nanRes true else ⟨.inf (s != t), 0⟩
  | .fin s m _ _, .inf t => if m = 0 then nanRes true else ⟨.inf (s != t), 0⟩
  | .fin s1 m1 e1 _, .fin s2 m2 e2 _ => ⟨.fin (s1 != s2) (m1 * m2) (e1 + e2) false, 0⟩

/-- Exact fused multiply-add; 0·∞ is invalid whatever the addend (04 R72). -/
def ffmaX (rm : Bool) (x y z : FVal) : FRes :=
  let p := fmulX x y
  let r := faddX rm p.v z
  ⟨r.v, p.fl ||| r.fl⟩

/-- Quotient, to more bits than any format needs. -/
def fdivX (x y : FVal) : FRes :=
  match x, y with
  | .nan p, .nan q => nanRes (p || q)
  | .nan p, _ => nanRes p
  | _, .nan q => nanRes q
  | .inf _, .inf _ => nanRes true
  | .inf s, .fin t _ _ _ => ⟨.inf (s != t), 0⟩
  | .fin s _ _ _, .inf t => ⟨fzero (s != t), 0⟩
  | .fin s1 m1 e1 _, .fin s2 m2 e2 _ =>
    if m2 = 0 then (if m1 = 0 then nanRes true else ⟨.inf (s1 != s2), flDivZero⟩)
    else if m1 = 0 then ⟨fzero (s1 != s2), 0⟩
    else
      let k := 96 + m2.log2
      ⟨.fin (s1 != s2) (m1 * 2 ^ k / m2) (e1 - e2 - k) (m1 * 2 ^ k % m2 != 0), 0⟩

/-- Floor of a square root, by its bits from `2 ^ n` down. -/
def isqrt (x : Nat) : Nat → Nat → Nat
  | 0, r => r
  | n + 1, r => isqrt x n (if (r + 2 ^ n) * (r + 2 ^ n) ≤ x then r + 2 ^ n else r)

/-- Square root, to more bits than any format needs. -/
def fsqrtX (x : FVal) : FRes :=
  match x with
  | .nan p => nanRes p
  | .inf s => if s then nanRes true else ⟨.inf false, 0⟩
  | .fin s m e _ =>
    if m = 0 then ⟨fzero s, 0⟩
    else if s then nanRes true
    else
      let k := 200 + (e % 2).toNat
      let n := m * 2 ^ k
      let r := isqrt n (n.log2 / 2 + 1) 0
      ⟨.fin false r ((e - k) / 2) (r * r != n), 0⟩

/-- Order of two values that are no NaN: −1, 0 or 1. -/
def fcmpX (x y : FVal) : Int :=
  let sgn (b : Bool) : Int := if b then -1 else 1
  match x, y with
  | .nan _, _ => 0
  | _, .nan _ => 0
  | .inf s, .inf t => if s == t then 0 else sgn s
  | .inf s, _ => sgn s
  | _, .inf t => - sgn t
  | .fin s1 m1 e1 _, .fin s2 m2 e2 _ =>
    let (a, b, _) := align m1 e1 m2 e2
    let i : Int := if s1 then -(a : Int) else a
    let j : Int := if s2 then -(b : Int) else b
    if i < j then -1 else if j < i then 1 else 0

/-! ### Rounding -/

/-- The draw function (04 R77). -/
def drawFn (seed : BitVec 64) (ctr : Nat) : BitVec 64 :=
  let z := seed + BitVec.ofNat 64 ctr * 0x9E3779B97F4A7C15
  let z := (z ^^^ (z >>> 30)) * 0xBF58476D1CE4E5B9
  let z := (z ^^^ (z >>> 27)) * 0x94D049BB133111EB
  z ^^^ (z >>> 31)

/-- Whether a magnitude of `lo` quanta and `rem / 2 ^ d` of one (a little more when `st`) rounds away from zero, in a mode
of 04 R76; `u` is the top 24 bits of the draw (04 R78). -/
def roundUp (mode : Nat) (neg : Bool) (u lo rem d : Nat) (st : Bool) : Bool :=
  let nx := rem != 0 || st
  let half := 2 ^ d / 2
  match mode with
  | 0 => decide (half < rem) || (rem == half && d != 0 && (st || lo % 2 == 1))
  | 1 => false
  | 2 => neg && nx
  | 3 => !neg && nx
  | 4 => d != 0 && decide (half ≤ rem)
  | _ => nx && decide (u < rem * 2 ^ 24 / 2 ^ d)

/-- Whether a magnitude exceeds the largest finite one. -/
def Fmt.beyond (f : Fmt) (m : Nat) (e : Int) (st : Bool) : Bool :=
  let (a, b, _) := align m e (f.mag f.top).1 (f.mag f.top).2
  decide (b < a) || (a == b && st)

/-- A rounded magnitude: its code, whether it is inexact, and whether it is tiny after rounding (04 R74). -/
structure Rounded where
  code : Nat
  inexact : Bool
  tiny : Bool
  deriving DecidableEq, Repr

/-- A non-zero magnitude rounded to a format with no upper limit on its exponent. -/
def Fmt.round (f : Fmt) (mode : Nat) (neg : Bool) (u m : Nat) (e : Int) (st : Bool) : Rounded :=
  let len : Int := m.log2 + 1
  let at_ (q : Int) : Nat × Bool :=
    let d := (q - e).toNat
    let lo := if q ≤ e then m * 2 ^ (e - q).toNat else m / 2 ^ d
    let rem := m % 2 ^ d
    (lo + b2n (roundUp mode neg u lo rem d st), rem != 0 || st)
  let q0 := e + len - (f.mb + 1)
  let q := max q0 f.emin
  let (r, nx) := at_ q
  let code := ((q - f.emin) * 2 ^ f.mb + r).toNat
  let w := (at_ q0).1
  { code := code, inexact := nx
    tiny := if mode ≥ 5 then decide (code < 2 ^ f.mb) else decide (q0 + w.log2 < f.emin + f.mb) }

/-- What the saturate bit means for the destination (04 R79, R93). -/
inductive SatKind where
  | none
  /-- clamp to [+0, 1] -/
  | unit
  /-- overflow and infinities deliver the largest finite magnitude -/
  | top
  deriving DecidableEq, Repr

/-- A delivered element and its flags. -/
structure FOut where
  bits : Nat
  fl : Nat
  deriving DecidableEq, Repr

/-- The clamp to [+0, 1] of a delivered code. -/
def Fmt.clampUnit (f : Fmt) (x : Nat) : Nat :=
  let one := f.bias * 2 ^ f.mb
  if bitOf x (f.eb + f.mb) then 0
  else if f.hasInf && x > f.top + 1 then 0
  else min x one

/-- An exact result rounded once and delivered (04 R72 to R79, R85). -/
def Fmt.deliver (f : Fmt) (mode : Nat) (sat : SatKind) (ftz : Bool) (u : Nat) (r : FRes) : FOut :=
  let fin (o : FOut) : FOut := if sat == .unit then { o with bits := f.clampUnit o.bits } else o
  match r.v with
  | .nan _ => match f.nan with
    | some n => fin ⟨n, r.fl⟩
    | none => ⟨0, r.fl ||| flInvalid⟩
  | .inf s =>
    if f.hasInf && sat != .top then fin ⟨f.signBit s + f.top + 1, r.fl⟩
    else if sat == .top || f.nan.isNone then ⟨f.signBit s + f.top, r.fl ||| flOverflow ||| flInexact⟩
    else ⟨f.nan.getD 0, r.fl ||| flInvalid⟩
  | .fin s m e st =>
    if m = 0 then fin ⟨f.signBit s, r.fl⟩
    else
      let q := f.round mode s u m e st
      if (if mode ≥ 5 then f.beyond m e st else decide (f.top < q.code)) then
        let big := f.signBit s + f.top
        let inf := f.signBit s + f.top + 1
        let b := if sat == .top then big
          else if !f.hasInf then f.nan.getD big
          else if !f.reg then inf
          else match mode with
            | 1 => big
            | 2 => if s then inf else big
            | 3 => if s then big else inf
            | _ => inf
        fin ⟨b, r.fl ||| flOverflow ||| flInexact⟩
      else if ftz && q.code < 2 ^ f.mb && q.code != 0 then fin ⟨f.signBit s, r.fl ||| flUnderflow ||| flInexact⟩
      else fin ⟨f.signBit s + q.code, r.fl ||| (if q.inexact then flInexact else 0) |||
                  (if q.inexact && q.tiny then flUnderflow else 0)⟩

/-- A value rounded to FP32, ties to even (07 R158, `rne`). -/
def rneF32 (v : FVal) : Nat := (fmtF32.deliver 0 .none false 0 ⟨v, 0⟩).bits

/-- A value rounded to an integer in a mode (04 R86), with whether it was rounded. -/
def roundInt (mode u : Nat) (s : Bool) (m : Nat) (e : Int) (st : Bool) : Int × Bool :=
  let d := (-e).toNat
  let lo := if 0 ≤ e then m * 2 ^ e.toNat else m / 2 ^ d
  let rem := m % 2 ^ d
  let n := lo + b2n (roundUp mode s u lo rem d st)
  (if s then -(n : Int) else n, rem != 0 || st)

/-- Clamp to a range. -/
def clampInt (lo hi x : Int) : Int := if x < lo then lo else if hi < x then hi else x

/-- Range of a `w`-bit integer. -/
def intLo (signed : Bool) (w : Nat) : Int := if signed then -(2 ^ (w - 1) : Nat) else 0
def intHi (signed : Bool) (w : Nat) : Int := if signed then (2 ^ (w - 1) : Nat) - 1 else (2 ^ w : Nat) - 1

/-- A value converted to a `w`-bit integer, saturated (04 R86). Its range is judged after rounding (entry 57). -/
def toInt (signed : Bool) (w mode u : Nat) (v : FVal) : FOut :=
  match v with
  | .nan _ => ⟨0, flInvalid⟩
  | .inf s => ⟨wrapInt w (if s then intLo signed w else intHi signed w), flInvalid⟩
  | .fin s m e st =>
    let (n, nx) := roundInt mode u s m e st
    let c := clampInt (intLo signed w) (intHi signed w) n
    ⟨wrapInt w c, if c != n then flInvalid else if nx then flInexact else 0⟩

/-- An integer as a value. -/
def ofInt (n : Int) : FVal := .fin (decide (n < 0)) n.natAbs 0 false

/-- The smaller and the larger of two values; −0 counts as less than +0, and a NaN gives way (08 R174). -/
def fminX (max : Bool) (x y : FVal) : FRes :=
  let fl := if x.isSig || y.isSig then flInvalid else 0
  if x.isNan && y.isNan then ⟨.nan false, fl⟩
  else if x.isNan then ⟨y, fl⟩
  else if y.isNan then ⟨x, fl⟩
  else
    let c := fcmpX x y
    let less := c < 0 || (c == 0 && x.neg && !y.neg)
    ⟨if less != max then x else y, fl⟩

end Sys2Proof
end

