-- ==== Sys2Proof/Machine/Tensor.lean ====
section
/-! DEFINITION. Tensor entries (03 R65), element and scale formats (04 R80 to R89), the sums of matrix work (04 R90, R91)
and requantisation on drain (04 R92 to R96). -/

namespace Sys2Proof

/-! ### Tensor entries -/

/-- A sign-extended 48-bit address. -/
def sext48 (a : Nat) : Nat := if bitOf a 47 then a + (2 ^ 64 - 2 ^ 48) else a

def teValid (e : Nat) : Bool := bitOf e 0
def teNdim (e : Nat) : Nat := bitsOf e 2 1
def teFmt (e : Nat) : Nat := bitsOf e 7 3
def teSstride (e : Nat) : Nat := bitsOf e 167 136
def teEbase (e : Nat) : Nat := sext48 (bitsOf e 511 464)
def teSbase (e : Nat) : Nat := sext48 (bitsOf e 463 416)

/-- Extent and stride of a dimension; dimension 0 has no stride. -/
def teSize (e d : Nat) : Nat := bitsOf e (319 + 32 * d) (288 + 32 * d)
def teStride (e d : Nat) : Nat := if d = 0 then 0 else bitsOf e (167 + 40 * d) (128 + 40 * d)

/-- Element width of a format code (04 R87). -/
def tfWidth : Nat → Nat
  | 0 => 4
  | 4 => 4
  | 5 => 3
  | 6 => 5
  | 9 => 4
  | 10 => 16
  | 11 => 16
  | 12 => 32
  | _ => 8

/-- Scale span of a format along dimension 0, 0 for one without scales (04 R88). -/
def tfSpan : Nat → Nat
  | 4 => 64
  | 5 => 16
  | 6 => 16
  | 7 => 16
  | 8 => 32
  | 9 => 32
  | _ => 0

/-- Bytes of the scale record of one span (04 R87). -/
def tfRec : Nat → Nat
  | 4 => 10
  | 5 => 2
  | 6 => 2
  | 7 => 2
  | 8 => 1
  | 9 => 1
  | _ => 0

/-- The integer formats, and those that take two slots. -/
def tfInt (f : Nat) : Bool := f == 0 || f == 1
def tfWide (f : Nat) : Bool := f == 10 || f == 11

/-- Whether an image may be written to the table: one with VALID = 0 always; another within the limits of 03 R65 and
04 R88. -/
def entryOk (e : Nat) : Bool :=
  !teValid e ||
  (decide (teFmt e ≤ 12) && bitsOf e 135 8 == 0 && teEbase e % 16 == 0 && teSstride e % 2 == 0 &&
   (List.range 4).all (fun d => teSize e d != 0 && teStride e d % 16 == 0 && (d ≤ teNdim e || teSize e d == 1)) &&
   (tfSpan (teFmt e) == 0 || (teSbase e % 16 == 0 && teSize e 0 % tfSpan (teFmt e) == 0)))

/-- Address of the byte that holds bit `i0 * w` of row `(i1, i2, i3)`'s first element, modulo 2^64 (04 R87). -/
def rowAddr (e i1 i2 i3 : Nat) : Nat := (teEbase e + teStride e 1 * i1 + teStride e 2 * i2 + teStride e 3 * i3) % 2 ^ 64

/-- Address of the scales of a row: base and row stride of one entry, sizes of another (04 R87, 11 R243). -/
def scaleAddr (es e i1 i2 i3 : Nat) : Nat :=
  (teSbase es + teSstride es * (i1 + teSize e 1 * (i2 + teSize e 2 * i3))) % 2 ^ 64

/-! ### Element values (04 R89) -/

/-- A positive number of a scale format. -/
def e8m0 (c : Nat) : FVal := if c = 255 then .nan false else .fin false 1 ((c : Int) - 127) false

def e3m5 (c : Nat) : FVal :=
  let x := c / 32
  if x = 0 then .fin false (c % 32) (-7) false else .fin false (32 + c % 32) ((x : Int) - 8) false

/-- Shared exponent and micro-exponent of an element of an NX block of 16, from its 16-bit record (04 R84). -/
def nxScale (r i : Nat) : FVal :=
  if r / 256 = 255 then .nan false else .fin false 1 ((r / 256 : Nat) - 127 - (b2n (bitOf r (i / 2)) : Int)) false

/-- The element code alone, without its scales. -/
def tfElem (f c : Nat) : FVal :=
  match f with
  | 0 => .fin (bitOf c 3) (sextNat 4 c).natAbs 0 false
  | 1 => .fin (bitOf c 7) (sextNat 8 c).natAbs 0 false
  | 2 => fmtE4m3.decode c
  | 3 => fmtE5m2.decode c
  | 4 => fmtE2m1.decode c
  | 5 => .fin (bitOf c 2) (c % 4) 0 false
  | 6 => .fin (bitOf c 4) (c % 16) 0 false
  | 7 => .fin (bitOf c 7) (c % 128) 0 false
  | 8 => fmtE4m3.decode c
  | 9 => fmtE2m1.decode c
  | 10 => fmtBf16.decode c
  | 11 => fmtF16.decode c
  | _ => fmtF32.decode c

/-- Number of elements that share a block scale code: 8 for F4B, else the span. -/
def tfBlock (f : Nat) : Nat := if f = 4 then 8 else tfSpan f

/-- The block scale of element `k` of a row, from the row's block code. -/
def tfBlockScale (f code k : Nat) : FVal :=
  match f with
  | 4 => e3m5 code
  | 8 => e8m0 code
  | 9 => e8m0 code
  | 5 => nxScale code (k % 16)
  | 6 => nxScale code (k % 16)
  | 7 => nxScale code (k % 16)
  | _ => .fin false 1 0 false

/-- The band scale of element `k`: 1 except for F4B. -/
def tfBandScale (f code : Nat) : FVal := if f = 4 then fmtBf16.decode code else .fin false 1 0 false

/-- Block code `n` of a scale record list: records of the row from its first span on. -/
def blockCode (f : Nat) (recs : List Byte) (n : Nat) : Nat :=
  match f with
  | 4 => (recs.getD (10 * (n / 8) + 2 + n % 8) 0).toNat
  | 5 => leNat ((recs.drop (2 * n)).take 2)
  | 6 => leNat ((recs.drop (2 * n)).take 2)
  | 7 => leNat ((recs.drop (2 * n)).take 2)
  | _ => (recs.getD n 0).toNat

/-- Band scale code `h` of a scale record list. -/
def bandCode (f : Nat) (recs : List Byte) (h : Nat) : Nat :=
  if f = 4 then leNat ((recs.drop (10 * h)).take 2) else 0

/-- The neutral scales of 11 R236. -/
def neutralBlock (f : Nat) : Nat :=
  match f with
  | 4 => 0x60
  | 5 => 0x7F00
  | 6 => 0x7F00
  | 7 => 0x7F00
  | 8 => 0x7F
  | 9 => 0x7F
  | _ => 0

def neutralBand (f : Nat) : Nat := if f = 4 then 0x3F80 else 0

/-- Element code `k` of packed bytes (04 R87). -/
def codeAt (w : Nat) (bytes : Nat) (k : Nat) : Nat := bytes / 2 ^ (k * w) % 2 ^ w

/-- An element under its block scale. -/
def scaled (e c : FVal) : FVal := (fmulX e c).v

/-- An element of a band under its block scale; an infinite band scale acts on the element alone (04 R89). -/
def scaledIn (band e c : FVal) : FVal :=
  match band with
  | .inf _ => e
  | _ => scaled e c

def FVal.finite : FVal → Bool
  | .fin _ _ _ _ => true
  | _ => false

/-! ### The order of sums (04 R90, R91) -/

/-- The exact sum of products. -/
def dotX (xs ys : List FVal) : FVal := (xs.zip ys).foldl (fun a p => (faddX false a (fmulX p.1 p.2).v).v) (fzero false)

/-- One band's sum with its band scales: every product exact, one rounding to FP32; an exact zero sum is +0. -/
def bandSum (xs ys : List FVal) (sa sb : FVal) : Nat :=
  if xs.all FVal.finite && ys.all FVal.finite && sa.finite && sb.finite then
    let s := dotX xs ys
    if s.isZero then 0 else rneF32 (fmulX (fmulX s sa).v sb).v
  else rneF32 (dotX (xs.map fun x => (fmulX x sa).v) (ys.map fun y => (fmulX y sb).v))

/-- An FP32 sum, ties to even, NaN canonical. -/
def rneAdd (a b : Nat) : Nat := rneF32 (faddX false (fmtF32.decode a) (fmtF32.decode b)).v

/-- The 128 values of a row of A or a column of B, and its two band scales. -/
structure Line where
  vals : List FVal
  s0 : FVal
  s1 : FVal

/-- One element of an `MMA`. -/
def mmaElem (acc : Nat) (x y : Line) : Nat :=
  rneAdd (rneAdd acc (bandSum (x.vals.take 64) (y.vals.take 64) x.s0 y.s0))
    (bandSum (x.vals.drop 64) (y.vals.drop 64) x.s1 y.s1)

/-! ### Requantisation (04 R92 to R96) -/

/-- Magnitude of a finite value. -/
def FVal.mag : FVal → Nat × Int
  | .fin _ m e _ => (m, e)
  | _ => (0, 0)

/-- Whether one magnitude is at most another. -/
def magLe (a b : Nat × Int) : Bool :=
  let (x, y, _) := align a.1 a.2 b.1 b.2
  decide (x ≤ y)

/-- The largest magnitude of a list. -/
def amax (xs : List FVal) : Nat × Int := xs.foldl (fun a x => if magLe a x.mag then x.mag else a) (0, 0)

/-- Whether a block holds a NaN or an infinity. -/
def special (xs : List FVal) : Bool := xs.any fun
  | .fin _ _ _ _ => false
  | _ => true

/-- An element times a power of two. -/
def FVal.scaleBy (k : Int) : FVal → FVal
  | .fin s m e st => .fin s m (e + k) st
  | v => v

/-- A saturating element of a floating-point format. -/
def drainElem (f : Fmt) (mode u : Nat) (v : FVal) : Nat := (f.deliver mode .top false u ⟨v, 0⟩).bits

/-- A block of 32 for MXF8 or MXF4: scale byte and element codes (04 R94). `us` are the draws. -/
def drainMx (f : Fmt) (emax : Int) (mode : Nat) (us : List Nat) (xs : List FVal) : List Byte × List Nat :=
  if special xs then ([255], xs.map fun _ => 0)
  else
    let (m, e) := amax xs
    let s : Int := if m = 0 then 127 else min 254 (max 0 ((m.log2 : Int) + e - emax + 127))
    ([BitVec.ofInt 8 s], (xs.zip us).map fun x => drainElem f mode x.2 (x.1.scaleBy (127 - s)))

/-- A block of 16 for an NX format of `w`-bit elements (04 R95). -/
def drainNx (w mode : Nat) (us : List Nat) (xs : List FVal) : List Byte × List Nat :=
  if special xs then ([0, 255], xs.map fun _ => 0)
  else
    let mx := 2 ^ (w - 1) - 1
    let a := amax xs
    let e := if a.1 = 0 then 0 else ((List.range 255).find? fun (e : Nat) => magLe a (mx, (e : Int) - 127)).getD 254
    let mu := (List.range 8).foldl (fun b i =>
      if magLe (amax ((xs.drop (2 * i)).take 2)) (mx, (e : Int) - 128) then b + 2 ^ i else b) 0
    let codes := (xs.zip us).mapIdx fun i x => match x.1.scaleBy (127 + (b2n (bitOf mu (i / 2)) : Int) - e) with
      | .fin s m q st =>
        let r := min mx (roundInt mode x.2 s m q st).1.natAbs
        if r = 0 then 0 else b2n s * 2 ^ (w - 1) + r
      | _ => 0
    ([BitVec.ofNat 8 mu, BitVec.ofNat 8 e], codes)

/-- A band of 64 for F4B (04 R96). -/
def drainF4b (mode : Nat) (us : List Nat) (xs : List FVal) : List Byte × List Nat :=
  if special xs then ([0xC0, 0x7F] ++ List.replicate 8 0, xs.map fun _ => 0)
  else
    let b := amax xs
    let sc := (fmtBf16.deliver 3 .none false 0 (fdivX (.fin false b.1 b.2 false) (.fin false 189 0 false))).bits
    let s := fmtBf16.decode sc
    let codes := (List.range 8).map fun k =>
      let a := amax ((xs.drop (8 * k)).take 8)
      if a.1 = 0 then 0
      else ((List.range 256).find? fun (c : Nat) => magLe a (fmulX (fmulX (e3m5 c) s).v (.fin false 6 0 false)).v.mag).getD 255
    let elems := (xs.zip us).mapIdx fun i x =>
      let c := fmulX (e3m5 (codes.getD (i / 8) 0)) s
      if c.v.isZero then 0 else drainElem fmtE2m1 mode x.2 (fdivX x.1 c.v).v
    (toLE 2 sc ++ codes.map (BitVec.ofNat 8), elems)

/-- An element of an unscaled destination (04 R93). -/
def drainOne (f mode u : Nat) (bits : Nat) : Nat :=
  let v := fmtF32.decode bits
  match f with
  | 0 => (toInt true 4 mode u v).bits
  | 1 => (toInt true 8 mode u v).bits
  | 2 => drainElem fmtE4m3 mode u v
  | 3 => drainElem fmtE5m2 mode u v
  | 10 => drainElem fmtBf16 mode u v
  | 11 => drainElem fmtF16 mode u v
  | _ => bits

/-- One block or band of a scaled destination: its scale record and element codes. -/
def drainBlock (f mode : Nat) (us : List Nat) (bits : List Nat) : List Byte × List Nat :=
  let xs := bits.map fmtF32.decode
  match f with
  | 4 => drainF4b mode us xs
  | 5 => drainNx 3 mode us xs
  | 6 => drainNx 5 mode us xs
  | 7 => drainNx 8 mode us xs
  | 8 => drainMx fmtE4m3 8 mode us xs
  | _ => drainMx fmtE2m1 2 mode us xs

end Sys2Proof
end

