-- ==== Sys2Proof/Machine/Launch.lean ====
section
/-! DEFINITION. Starting a launch: its descriptor (22 R391), work lists (13 R294), node outputs (14 R300, R302), tensor
records (03 R65), sealed handle and world (23 R409, R410), measurement (23 R416) and the session's wake (22 R397). -/

namespace Sys2Proof.Machine

open Sys2Proof

/-- A field of `w` bits at byte offset `off` of a little-endian structure. -/
def fld (d off w : Nat) : Nat := d / 2 ^ (8 * off) % 2 ^ w

/-- The descriptor as read; the grid may come from a `LAUNCHI`. -/
def parseDesc (d : Nat) (grid : Option (Nat × Nat × Nat)) (params : List Dword) : LaunchDesc :=
  let (gx, gy, gz) := grid.getD (fld d 16 32, fld d 20 16, fld d 22 16)
  { lanePc := BitVec.ofNat 64 (fld d 0 64), leadPc := BitVec.ofNat 64 (fld d 8 64), gx := gx, gy := gy, gz := gz,
    tx := fld d 24 16, ty := fld d 26 16, tz := fld d 28 16, cluster := fld d 30 8, versioned := bitOf (fld d 31 8) 0,
    idempotent := bitOf (fld d 31 8) 1, priv := bitOf (fld d 31 8) 2, workSource := bitsOf (fld d 31 8) 4 3,
    policy := bitOf (fld d 31 8) 5, regs := fld d 32 16, window := fld d 34 16, scratch := fld d 36 32, acc := fld d 40 8,
    rsv := fld d 41 8, slots := fld d 42 8, comp := bitOf (fld d 43 8) 0,
    compLog := if bitOf (fld d 43 8) 1 then some (fld d 48 32) else none, compThr := BitVec.ofNat 32 (fld d 44 32),
    pcap := fld d 52 32, params := params, outputs := fld d 58 8, outBase := BitVec.ofNat 64 (fld d 72 64),
    groupCycles := fld d 60 32, keyh := BitVec.ofNat 32 (fld d 96 32), compl := BitVec.ofNat 64 (fld d 104 64) }

/-- Threads, bands and register granules of a group. -/
def LaunchDesc.threads (d : LaunchDesc) : Nat := d.tx * d.ty * d.tz
def LaunchDesc.bandCount (d : LaunchDesc) : Nat := (d.threads + 31) / 32
def LaunchDesc.need (d : LaunchDesc) : Nat := d.regs + 6 * d.rsv
def LaunchDesc.regGran (d : LaunchDesc) : Nat := (d.need + 7) / 8
def LaunchDesc.scratchGran (d : LaunchDesc) : Nat := (d.scratch + 2047) / 2048
def LaunchDesc.accGran (d : LaunchDesc) : Nat := d.acc + (if d.comp then d.bandCount else 0)
def LaunchDesc.groups (d : LaunchDesc) : Nat := d.gx * d.gy * d.gz

/-- A finite FP32 number in (0, 1). -/
def inUnit (w : Nat) : Bool := decide (0 < w) && decide (w < 0x3F800000)

/-- The limits of 22 R391 and of 01 R8 to R12: shapes, and a group that an empty core can hold. -/
def shapeOk (raw : Nat) (d : LaunchDesc) : Bool :=
  decide (1 ≤ d.tx) && decide (d.tx ≤ 1024) && decide (1 ≤ d.ty) && decide (d.ty ≤ 1024) && decide (1 ≤ d.tz) &&
  decide (d.tz ≤ 1024) && decide (d.threads ≤ 1024) && decide (1 ≤ d.cluster) && decide (d.cluster ≤ 4) &&
  decide (1 ≤ d.gx) && decide (d.gx < 2 ^ 32) && decide (1 ≤ d.gy) && decide (d.gy ≤ 65535) && decide (1 ≤ d.gz) &&
  decide (d.gz ≤ 65535) && d.groups % d.cluster == 0 && bitsOf (fld raw 31 8) 7 6 == 0 && d.workSource != 3 &&
  (d.workSource != 1 || d.pcap != 0) && decide (8 ≤ d.need) && decide (d.need ≤ 640) &&
  (d.window == 0 || (d.window % 8 == 0 && decide (d.window ≤ 640))) && decide (d.scratch ≤ 262144) && decide (d.acc ≤ 32) &&
  decide (d.rsv ≤ 8) && decide (d.slots ≤ 16) && bitsOf (fld raw 43 8) 7 2 == 0 &&
  (!d.comp || (inUnit d.compThr.toNat && (d.compLog.getD 0) % 8 == 0)) && decide (d.params.length ≤ 16) &&
  decide (fld raw 56 8 ≤ 16) && decide (fld raw 57 8 ≤ 64) && decide (d.outputs ≤ 16) && fld raw 64 64 % 16 == 0 &&
  d.outBase.toNat % 64 == 0 && fld raw 100 32 == 0 && d.compl.toNat % 32 == 0 && fld raw 112 128 == 0 &&
  decide (d.bandCount ≤ 4 * (256 / max 1 d.regGran)) && decide (d.accGran ≤ 32)

/-! ### The parts a descriptor names -/

/-- What reading a part gives: a value, a limit broken or an access declined (with its trap), or a failed access. -/
inductive Part (α : Type) where
  | ok (a : α)
  | refused (t : Option Trap)
  | fault (t : Trap)

def Part.bind {α β : Type} (p : Part α) (f : α → Part β) : Part β :=
  match p with
  | .ok a => f a
  | .refused t => .refused t
  | .fault t => .fault t

/-- Parts read in order. -/
def mapPart {α β : Type} (f : α → Part β) : List α → Part (List β)
  | [] => .ok []
  | x :: xs => (f x).bind fun y => (mapPart f xs).bind fun ys => .ok (y :: ys)

def partRead (s : State) (x : Session) (va n : Nat) : Part Nat :=
  match s.sxNum x va n with
  | .ok v => .ok v
  | .error t => .fault t

/-- A work list (13 R294); `declined`: a fault on it has been declined, and the launch is refused. -/
def readList (s : State) (x : Session) (declined : Bool) (va : Nat) : Part WorkList :=
  match s.sxNum x va 16 with
  | .error t => if t.code.toNat == pageFault && !declined && s.fring x != 0 then .fault t else .refused (some t)
  | .ok v =>
    let lc := fld v 8 8
    if fld v 0 64 % 4096 == 0 && decide (4 ≤ lc) && decide (lc ≤ 20) && fld v 9 56 == 0 then
      .ok { base := BitVec.ofNat 64 (fld v 0 64), cap := 2 ^ lc, head := 0, tail := 0 }
    else .refused none

/-- Whether the mapped pages of a range are RC pages, as the descriptors of 14 R300 and R302 ask. -/
def State.rcPages (s : State) (x : Session) (va n : Nat) : Bool :=
  (List.range ((n + 4095) / 4096)).all fun k => match s.walk x ((va + 4096 * k) % 2 ^ 48) with
    | .leaf l => l.type == 0
    | .absent => true
    | .reserved => true

/-- A node-output descriptor as an empty ring (14 R300). -/
def readOutput (s : State) (x : Session) (no va : Nat) : Part Ring :=
  (partRead s x va 64).bind fun v =>
    let lc := fld v 8 8
    let kind := fld v 9 8
    let rs := fld v 10 16
    if fld v 0 64 % 4096 == 0 && decide (4 ≤ lc) && decide (lc ≤ 20) && decide (kind ≤ 3) && decide (16 ≤ rs) && decide (rs ≤ 1024) &&
       rs % 16 == 0 && fld v 24 320 == 0 && va % 64 == 0 && (kind == 0 || fld v 16 64 % 64 == 0) &&
       s.rcPages x (fld v 0 64) (rs * 2 ^ lc) then
      .ok { session := x.slot, desc := va, base := BitVec.ofNat 64 (fld v 0 64), head := 0, tail := 0, cap := 2 ^ lc, rsize := rs,
            kind := kind, consumer := BitVec.ofNat 64 (fld v 16 64), list := fld v 12 32, order := [], launch := no }
    else .refused none

/-- The limits of a fixed-function node descriptor (14 R302), from its bytes as a number. -/
def nodeOk (kind v : Nat) : Bool :=
  let wOk (o : Nat) : Bool := decide (1 ≤ fld v o 16) && decide (fld v o 16 ≤ 16384)
  match kind with
  | 1 =>
    let smp := if fld v 40 8 == 1 then 4 else 1
    fld v 0 64 % 4096 == 0 && fld v 8 32 % 256 == 0 && decide (4 * smp * fld v 12 16 ≤ fld v 8 32) && wOk 12 && wOk 14 &&
    fld v 16 64 % 64 == 0 && fld v 24 64 % 64 == 0 && decide (fld v 40 8 ≤ 1) && fld v 41 184 == 0
  | 2 =>
    fld v 0 64 % 4096 == 0 && fld v 8 32 % 256 == 0 && decide (16 * fld v 12 16 ≤ fld v 8 32) && wOk 12 && wOk 14 &&
    inUnit (fld v 16 32) && fld v 20 32 == 0 && fld v 24 64 % 4096 == 0 && fld v 32 256 == 0
  | 3 => decide (fld v 0 8 ≤ 7) && fld v 1 504 == 0
  | _ => true

/-- The limits of a node descriptor on the pages it names: depth buffer and accumulator store lie in RC pages. -/
def nodePages (s : State) (x : Session) (kind v : Nat) : Bool :=
  match kind with
  | 1 => s.rcPages x (fld v 0 64) (fld v 8 32 * fld v 14 16)
  | 2 => s.rcPages x (fld v 24 64) (72 * fld v 12 16 * fld v 14 16)
  | _ => true

/-- The ring of one output with what its node descriptor holds, which is checked (14 R302). -/
def readNode (s : State) (x : Session) (no va : Nat) : Part (Ring × Nat) :=
  (readOutput s x no va).bind fun r =>
    if r.kind == 0 then .ok (r, 0)
    else (partRead s x r.consumer.toNat 64).bind fun v =>
      if !nodeOk r.kind v || !nodePages s x r.kind v then .refused none else .ok (r, v)

/-- The rings of one output: its own, and the quad ring of a rasteriser node with the rings that follow from it (14 R302). A chain
ends where it comes back to a ring that it has taken in (`seen`). -/
def readRings (s : State) (x : Session) (no : Nat) : Nat → List Nat → Nat → Part (List Ring)
  | 0, _, _ => .ok []
  | fuel + 1, seen, va =>
    if seen.contains va then .ok []
    else (readNode s x no va).bind fun (r, v) =>
      if r.kind != 1 then .ok [r]
      else (readNode s x no (fld v 32 64)).bind fun (q, _) =>
        if q.rsize < 32 then .refused none
        else (readRings s x no fuel (va :: seen) (fld v 32 64)).bind fun qs => .ok (r :: qs)

/-- A tensor record of a launch: id and image (22 R391). -/
def readTensor (s : State) (x : Session) (va : Nat) : Part (Nat × Nat) :=
  (partRead s x va 72).bind fun v => if fld v 1 56 == 0 && entryOk (fld v 8 512) then .ok (fld v 0 8, fld v 8 512) else .refused none

/-- Everything a launch needs beside its descriptor. -/
structure Parts where
  lists : List WorkList
  rings : List Ring
  tensors : List (Nat × Nat)

def readParts (s : State) (x : Session) (declined : Bool) (no raw : Nat) (d : LaunchDesc) : Part Parts :=
  (mapPart (fun i => readList s x declined (fld raw 64 64 + 16 * i)) (List.range (fld raw 57 8))).bind fun ls =>
  (mapPart (fun i => readRings s x no (2 ^ 58) [] (d.outBase.toNat + 64 * i)) (List.range d.outputs)).bind fun rs =>
  (mapPart (fun i => readTensor s x (fld raw 80 64 + 72 * i)) (List.range (fld raw 59 8))).bind fun ts =>
  .ok { lists := ls, rings := rs.flatten, tensors := ts }

/-! ### Session records (22 R384, R397, R439) -/

def SessState.code : SessState → Nat
  | .idle => 1
  | .runnable => 2
  | .running => 3
  | .resetting => 4
  | .frozen => 5

/-- Writes the device-owned fields of a session's record. -/
def State.postSession (s : State) (slot : Nat) : State :=
  let at_ := s.ctrl.stabBase.toNat + 256 * slot
  match s.session? slot with
  | none => (s.devPutNum at_ 1 0).devPutNum (at_ + 72) 8 0
  | some x =>
    let cores := (s.coresOf slot).foldl (fun a c => a + 2 ^ c) 0
    (((s.devPutNum at_ 1 x.st.code).devPutNum (at_ + 2) 2 x.gen.toNat).devPut (at_ + 64)
      (toLE 8 x.vt.toNat ++ toLE 8 cores ++ toLE 8 x.fragStall.toNat)).devPutNum (at_ + 88) 4 x.resets.toNat

/-- Whether a launch has a group that the distributor itself must place (02 R34, R48). -/
def Launch.toPlace (l : Launch) : Bool :=
  !l.returned.isEmpty || decide (l.nextGroup < (if l.desc.workSource == 1 then min l.desc.pcap l.desc.groups else l.desc.groups))

/-- A session has work (22 R384). -/
def State.hasWork (s : State) (slot : Nat) : Bool :=
  (s.parked.any fun g => g.session == slot) || s.launches.any fun l => l.session == slot && l.ended.isNone && l.toPlace

/-- The virtual time of a session that wakes (22 R397). -/
def State.wakeVt (s : State) (x : Session) : Dword :=
  let vs := (s.sessions.filter fun y => y.slot != x.slot && (y.st == .runnable || y.st == .running)).map (·.vt.toNat)
  let vmin := vs.foldl min (vs.headD x.vt.toNat)
  BitVec.ofNat 64 (max x.vt.toNat (vmin - x.boost))

/-- An IDLE session with work becomes RUNNABLE. -/
def State.wake (s : State) (slot : Nat) : State :=
  match s.session? slot with
  | none => s
  | some x =>
    if x.st == .idle && s.hasWork slot then
      (s.modSession slot fun y => { y with st := .runnable, vt := s.wakeVt y }).postSession slot
    else s

/-! ### Handles and worlds -/

/-- SEAL of a binding (23 R409). -/
def sealOf (n keySlot : Nat) (epoch : BitVec 32) (slot inc : Nat) : Nat :=
  (cmac (Config.sealKey n) (toLE 1 keySlot ++ toLE 4 epoch.toNat ++ toLE 1 slot ++ toLE 8 inc)).toNat % 65536

/-- The sealed handle of a session's binding to a key slot. -/
def handleOf (v : Vault) (keySlot : Nat) (k : KeySlot) (x : Session) : Nat :=
  sealOf v.sealNo keySlot k.epoch x.slot x.incarnation * 65536 + k.epoch.toNat % 256 * 64 + keySlot

/-- The key slot a launch's handle opens, if it opens. -/
def State.openHandle (s : State) (x : Session) (h : BitVec 32) : Option Nat :=
  let n := h.toNat % 64
  match s.vault.keys[n]? with
  | none => none
  | some k =>
    if (k.st == .active || k.st == .retiring) && x.keySlot == some n && handleOf s.vault n k x == h.toNat then some n else none

/-- The lowest free world index of 256. -/
def State.freeWorld (s : State) : Option Nat :=
  (leastFree (s.worlds.map (·.index)) 256 0).bind fun w => if w < 256 then some w else none

/-- A session's measurement extended by one entry (23 R416). -/
def Session.measure (x : Session) (type : Nat) (h : BitVec 512) : Session :=
  { x with sessMeas := sha512 (toLE 64 x.sessMeas.toNat ++ toLE 8 type ++ toLE 64 h.toNat), logCount := x.logCount + 1 }

/-- The 4 KiB page that holds a PC; nothing where it cannot be read, as where a tag of it does not match (23 R413). -/
def State.pageOf (s : State) (x : Session) (pc : Pc) : State × List Byte :=
  match s.sxRead x (pc.toNat / 4096 * 4096) 4096 with
  | .ok bs => (s, bs)
  | .error t => (s.tagCheck x t, [])

/-! ### The start -/

/-- How starting a launch ends. A refused launch is started too: it holds a number and completes with LAUNCH_SHAPE. -/
inductive Started where
  | fault (t : Trap)
  /-- no world index is free (23 R410) -/
  | wait
  | done (s : State) (no : Nat)

/-- A launch that has just started. -/
def newLaunch (x : Session) (no : Nat) (queue : Option Nat) (node : Option Dword) (d : LaunchDesc) (world : Option Nat)
    (lists : List WorkList) (ended : Option Nat) : Launch :=
  { session := x.slot, number := no, queue := queue, node := node, desc := d, world := world,
    nextGroup := if ended.isSome then d.groups else 0, returned := [], lists := lists, quiescent := false, restarts := 0,
    pqDisc := 0, listDisc := 0, heldDrop := 0, ctrDrop := 0, commitNo := 0, commits := [], serialQueue := [], commitQueue := [], ended := ended,
    complFault := none, complLost := false }

/-- A world that enters retirement: its scrambler key is erased at once (23 R411). -/
def World.retire (w : World) : World := { w with retiring := true, scrambler := none }

/-- The launch added to the session under its number. -/
def State.addLaunch (s : State) (l : Launch) : State :=
  { (s.modSession l.session fun y => { y with launchNo := l.number }) with launches := s.launches ++ [l] }

/-- Starts the launch of the descriptor at `va` (22 R392). `priv`: a privileged queue submitted it. -/
def State.startLaunch (s : State) (x : Session) (va : Nat) (grid : Option (Nat × Nat × Nat)) (priv declined : Bool)
    (queue : Option Nat) (node : Option Dword) : Started :=
  let no := x.launchNo + 1
  match s.sxNum x va 128 with
  | .error t => .fault t
  | .ok raw =>
    let refuse (d : LaunchDesc) (t : Option Trap) : Started :=
      .done ((t.elim s (s.tagCheck x)).addLaunch (newLaunch x no queue node d none [] (some 1))) no
    let d0 := parseDesc raw grid []
    if !shapeOk raw d0 || (d0.priv && !priv) then refuse d0 none
    else match mapPart (fun i => partRead s x (fld raw 88 64 + 8 * i) 8) (List.range (fld raw 56 8)) with
      | .fault t => .fault t
      | .refused t => refuse d0 t
      | .ok ps =>
        let d := parseDesc raw grid (ps.map (BitVec.ofNat 64))
        match readParts s x declined no raw d with
        | .fault t => .fault t
        | .refused t => refuse d t
        | .ok p => match s.openHandle x d.keyh with
          | none => refuse d none
          | some k => match s.freeWorld with
            | none => .wait
            | some w =>
              let (u, lane) := s.pageOf x d.lanePc
              let (s, lead) := if d.leadPc == 0 then (u, []) else u.pageOf x d.leadPc
              let h := sha512 (toLE 128 raw ++ lane ++ lead)
              let s1 := s.addLaunch (newLaunch x no queue node d (some w) p.lists none)
              let s2 := s1.modSession x.slot fun y =>
                { y.measure 3 h with tensors := p.tensors.foldl (fun m e => spSet m e.1 (BitVec.ofNat 512 e.2)) y.tensors }
              let wd : World := { index := w, session := x.slot, launch := no, key := k, memKey := (s.vault.keys[k]?.map (·.key)).getD 0
                                  inc := x.incarnation, scrambler := some (BitVec.ofNat 64 (Config.freeNat s2.freeCtr)), retiring := false }
              let s3 : State := { s2 with
                freeCtr := s2.freeCtr + 1
                worlds := s2.worlds ++ [wd]
                rings := s2.rings.filter (fun (r : Ring) => !(r.session == x.slot && r.launch == no)) ++ p.rings }
              .done (s3.wake x.slot) no

end Sys2Proof.Machine
end

