-- ==== Sys2Proof/Machine/Operands.lean ====
section
/-! DEFINITION. Operands: which registers an instruction names, the checks of 07 R139 to R145 on them, reading and
writing them (03 R53 to R60, R57), and the one skeleton by which every instruction issues (07 R153). -/

namespace Sys2Proof.Machine

open Sys2Proof

/-- An instruction that does not complete now. -/
inductive Halt where
  | trap (t : Trap)
  | wait (w : Wait)
  deriving DecidableEq, Repr

def illOp : Halt := .trap { mkTrap illegalOperand 0 with field := 8 }
def illOpAt (l : Nat) : Halt := .trap { mkTrap illegalOperand 0 with field := 8, lane := l }
def illInstr : Halt := .trap { mkTrap illegalInstr 0 with field := 8 }

/-- A failed memory check of a lane, as step 8 of 07 R153. -/
def memTrap (lead : Bool) (l : Nat) (t : Trap) : Halt := .trap { t with lane := if lead then 255 else l, field := 8 }

def liftMem {α : Type} (i : Iss) (l : Nat) : Except Trap α → Except Halt α
  | .ok a => .ok a
  | .error t => .error (memTrap i.lead l t)

def liftTrap {α : Type} : Except Trap α → Except Halt α
  | .ok a => .ok a
  | .error t => .error (.trap { t with field := 8 })

/-- How an operand field names what it names. -/
inductive Use where
  /-- the entry does not use the field -/
  | off (s : Spec)
  /-- `n` consecutive lane registers, from an even one when `even`; `ng` g registers when it selects them from the
  lane stream, `nl` in the lead stream -/
  | reg (s : Spec) (dst : Bool) (n ng nl : Nat) (even : Bool)
  /-- lane registers only -/
  | lreg (s : Spec) (dst : Bool)
  /-- `n` g registers -/
  | greg (s : Spec) (dst : Bool) (n : Nat)
  /-- a mask, reservoir, compositing accumulator or tensor id in a specifier field -/
  | mask (s : Spec)
  | rsv (s : Spec)
  | ca (s : Spec)
  | tid (s : Spec)
  deriving DecidableEq, Repr

/-- One 32-bit register, a pair or g register, a base pair, a run. -/
def Use.src (s : Spec) : Use := .reg s false 1 1 1 false
def Use.dst (s : Spec) : Use := .reg s true 1 1 1 false
def Use.pair (s : Spec) : Use := .reg s false 2 1 1 true
def Use.dpair (s : Spec) : Use := .reg s true 2 1 1 true
def Use.base (s : Spec) : Use := .reg s false 2 1 1 false
def Use.run (s : Spec) (n : Nat) : Use := .reg s false n n n false
def Use.drun (s : Spec) (n : Nat) : Use := .reg s true n n n false

/-- Whether a type is 64 bits wide (03 R54). -/
def tyWide : Ty → Bool
  | .b64 => true
  | .s64 => true
  | .n64 => true
  | .f64 => true
  | _ => false

def Use.srcT (t : Ty) (s : Spec) : Use := if tyWide t then .pair s else .src s
def Use.dstT (t : Ty) (s : Spec) : Use := if tyWide t then .dpair s else .dst s

def specZero (s : Spec) : Bool := !s.kill && !s.bank && s.idx == 0

/-- Whether lane registers `[idx, idx + n)` lie in a lane's window (03 R56, 07 R139). -/
def Lane.holds (x : Lane) (idx n : Nat) : Bool := decide (idx < 640) && decide (idx + n ≤ x.size)

/-- The failure of a use, if any: the lane it names, 255 for none. -/
def Use.fails (i : Iss) (scope : LaneMask) : Use → Option Nat
  | .off s => if specZero s then none else some 255
  | .reg s dst n ng nl even =>
    let k := s.idx.toNat
    if dst && s.kill then some 255
    else if i.lead then (if s.bank && k + nl ≤ 1024 then none else some 255)
    else if s.bank then (if dst || k + ng > 1024 then some 255 else none)
    else if k ≥ 640 || (even && k % 2 == 1) then some 255
    else match i.group.bands[i.band]? with
      | none => some 255
      | some b => (lanesOf scope).find? fun l => !(b.lane l).holds k n
  | .lreg s dst =>
    if i.lead || s.bank || (dst && s.kill) || s.idx.toNat ≥ 640 then some 255
    else match i.group.bands[i.band]? with
      | none => some 255
      | some b => (lanesOf scope).find? fun l => !(b.lane l).holds s.idx.toNat 1
  | .greg s dst n => if s.bank && s.idx.toNat + n ≤ 1024 && !(dst && s.kill) then none else some 255
  | .mask s => if !s.kill && !s.bank && s.idx.toNat < 8 then none else some 255
  | .rsv s => if !s.kill && !s.bank && s.idx.toNat < i.launch.desc.rsv then none else some 255
  | .ca s => if !s.kill && !s.bank && s.idx.toNat < 2 && i.launch.desc.comp then none else some 255
  | .tid s => if !s.kill && !s.bank && s.idx.toNat < 256 then none else some 255

/-- The first failure among the uses. -/
def usesFail (i : Iss) (scope : LaneMask) (us : List Use) : Option Nat := us.findSome? (Use.fails i scope)

/-- Those of some registers of a lane, or of the lead stream, whose result is in flight. -/
def Lane.awaited (x : Lane) (l : Nat) (rs : List Nat) : List (Option Nat × Nat) :=
  if x.pending.isEmpty then [] else (rs.filter x.pending.contains).map fun r => (some l, r)

def Lead.awaited (x : Lead) (rs : List Nat) : List (Option Nat × Nat) :=
  if x.pending.isEmpty then [] else (rs.filter x.pending.contains).map fun r => (none, r)

/-- The results in flight that a use names (02 R43): of a lane, or of the lead stream. -/
def Use.inFlight (i : Iss) (en : LaneMask) : Use → List (Option Nat × Nat)
  | .reg s _ n ng nl _ =>
    let k := s.idx.toNat
    if i.lead then i.group.lead.awaited ((List.range nl).map (k + ·))
    else if s.bank then i.group.lead.awaited ((List.range ng).map (k + ·))
    else (lanesOf en).flatMap fun l => let x := i.group.lane i.band l
      x.awaited l ((List.range n).map (x.base + k + ·))
  | .lreg s _ => (lanesOf en).flatMap fun l => let x := i.group.lane i.band l
      x.awaited l [x.base + s.idx.toNat]
  | .greg s _ n => i.group.lead.awaited ((List.range n).map (s.idx.toNat + ·))
  | .mask s =>
    if i.lead then i.group.lead.awaited [1024 + s.idx.toNat]
    else (lanesOf en).flatMap fun l => (i.group.lane i.band l).awaited l [1024 + s.idx.toNat]
  | _ => []

/-- Whether a use names a result in flight. -/
def Use.busy (i : Iss) (en : LaneMask) (u : Use) : Bool := !(u.inFlight i en).isEmpty

/-! ### The guard (03 R60, 07 R138) -/

/-- Bit of mask `k` of a lane; `k0` reads as one. -/
def kBit (k : BitVec 8) (n : Nat) : Bool := if n == 0 then true else k.getLsbD n

/-- Mask register `k` of a lane or of the lead stream written; `k0` ignores writes. -/
def setK (k : BitVec 8) (n : Nat) (v : Bool) : BitVec 8 :=
  if n == 0 then k else if v then k ||| BitVec.ofNat 8 (2 ^ n) else k &&& ~~~ (BitVec.ofNat 8 (2 ^ n))

def Iss.kAt (i : Iss) (l n : Nat) : Bool := if i.lead then kBit i.group.lead.k n else kBit (i.group.lane i.band l).k n

/-- Lanes the guard enables, among the active ones. -/
def Iss.enabled (i : Iss) (g : Guard) : LaneMask :=
  if i.lead then (if kBit i.group.lead.k g.mask.toNat != g.neg then 1 else 0)
  else maskOf fun l => i.active.getLsbD l && (i.kAt l g.mask.toNat != g.neg)

def unguarded (g : Guard) : Bool := !g.neg && g.mask == 0
def reservedGuard (g : Guard) : Bool := g.neg && g.mask == 0

/-! ### Registers -/

/-- The band of the issuing unit. -/
def Iss.bandOf (i : Iss) : Band :=
  (i.group.bands[i.band]?).getD Band.absent

/-- A register-stack position of a lane: resident, or served by the spill engine at its address (03 R57), past any version
of a task (entry 14). -/
def readPos (s : State) (i : Iss) (l pos : Nat) : Except Halt Word :=
  let x := i.group.lane i.band l
  if x.lo ≤ pos then .ok (x.value s.freeCtr l pos)
  else
    let ea := BitVec.ofNat 64 (stackAddr i.sess i.bandOf pos l)
    match checkAccess s i { acc := .read, aligned := false, types := anyType } ea 4 with
    | .error t => .error (memTrap false l t)
    | .ok p =>
      if s.placePoison i.sess p 4 then .error (memTrap false l (s.poisonAt i.sess p ea))
      else .ok (BitVec.ofNat 32 (leNat (s.bytesAt i.sess 0 p 4)))

/-- Writes a register-stack position of a lane. -/
def writePos (s : State) (i : Iss) (l pos : Nat) (v : Word) : Except Halt State :=
  let x := i.group.lane i.band l
  if x.lo ≤ pos then
    .ok (s.modGroupOn i.core i.group.gid fun g => g.modLane i.band l fun y => y.put pos v)
  else
    let ea := BitVec.ofNat 64 (stackAddr i.sess i.bandOf pos l)
    let nd : Need := { acc := .write, aligned := false, types := anyType }
    match checkAccess s i nd ea 4 with
    | .error t => .error (memTrap false l t)
    | .ok p =>
      if s.placePoisonW i.sess p 4 then .error (memTrap false l (s.poisonAt i.sess p ea))
      else match s.cowPlace i.sess (i.self l) p with
        | .error t => .error (memTrap false l t)
        | .ok s1 => match checkAccess s1 i nd ea 4 with
          | .error t => .error (memTrap false l t)
          | .ok q => .ok (s1.putAt i.sess 0 (i.self l) q (toLE 4 v.toNat))

def Iss.gReg (i : Iss) (n : Nat) : Dword := spGet i.group.g n

/-- Lane register `idx` of a lane. -/
def readV (s : State) (i : Iss) (l idx : Nat) : Except Halt Word := readPos s i l ((i.group.lane i.band l).base + idx)

def writeV (s : State) (i : Iss) (l idx : Nat) (v : Word) : Except Halt State :=
  writePos s i l ((i.group.lane i.band l).base + idx) v

/-- A 32-bit source: a lane register, or the low half of a g register (03 R55). -/
def rd1 (s : State) (i : Iss) (l : Nat) (sp : Spec) : Except Halt Word :=
  if sp.bank then .ok ((i.gReg sp.idx.toNat).setWidth 32) else readV s i l sp.idx.toNat

/-- A 64-bit source: two lane registers from `sp`, the low half first, or a g register (03 R54, 07 R140). -/
def rd2 (s : State) (i : Iss) (l : Nat) (sp : Spec) : Except Halt Dword :=
  if sp.bank then .ok (i.gReg sp.idx.toNat)
  else match readV s i l sp.idx.toNat, readV s i l (sp.idx.toNat + 1) with
    | .ok a, .ok b => .ok (b ++ a)
    | .error e, _ => .error e
    | _, .error e => .error e

/-- `n` successive 32-bit registers. -/
def rdRun (s : State) (i : Iss) (l : Nat) (sp : Spec) (n : Nat) : Except Halt (List Word) :=
  mapE (fun j => if sp.bank then .ok ((i.gReg (sp.idx.toNat + j)).setWidth 32) else readV s i l (sp.idx.toNat + j))
    (List.range n)

/-- A source of a type: 32 or 64 bits, as a number. -/
def rdT (s : State) (i : Iss) (l : Nat) (t : Ty) (sp : Spec) : Except Halt Nat :=
  if tyWide t then (rd2 s i l sp).map (·.toNat) else (rd1 s i l sp).map (·.toNat)

def State.putG (s : State) (i : Iss) (n : Nat) (v : Dword) : State :=
  s.modGroupOn i.core i.group.gid fun g => { g with g := spSet g.g n v }

/-- A 32-bit result as a lead-stream instruction writes it (03 R55). -/
def extLead (t : Ty) (v : Word) : Dword := if t == .s32 then v.signExtend 64 else v.setWidth 64

def wr1 (s : State) (i : Iss) (l : Nat) (t : Ty) (sp : Spec) (v : Word) : Except Halt State :=
  if i.lead then .ok (s.putG i sp.idx.toNat (extLead t v)) else writeV s i l sp.idx.toNat v

def wr2 (s : State) (i : Iss) (l : Nat) (sp : Spec) (v : Dword) : Except Halt State :=
  if i.lead then .ok (s.putG i sp.idx.toNat v)
  else match writeV s i l sp.idx.toNat (v.setWidth 32) with
    | .error e => .error e
    | .ok s1 => writeV s1 i l (sp.idx.toNat + 1) (v.extractLsb' 32 32)

def wrT (s : State) (i : Iss) (l : Nat) (t : Ty) (sp : Spec) (v : Nat) : Except Halt State :=
  if tyWide t then wr2 s i l sp (BitVec.ofNat 64 v) else wr1 s i l t sp (BitVec.ofNat 32 v)

/-- Successive 32-bit results. -/
def wrRun (s : State) (i : Iss) (l : Nat) (sp : Spec) : Nat → List Word → Except Halt State
  | _, [] => .ok s
  | j, v :: vs =>
    match wr1 s i l .b32 { sp with idx := sp.idx + BitVec.ofNat 10 j } v with
    | .error e => .error e
    | .ok s1 => wrRun s1 i l sp (j + 1) vs

/-- A mask bit of a lane, or of the lead stream. -/
def State.wrK (s : State) (i : Iss) (l n : Nat) (v : Bool) : State :=
  if i.lead then s.modLead i fun x => { x with k := setK x.k n v }
  else s.modGroupOn i.core i.group.gid fun g => g.modLane i.band l fun x => { x with k := setK x.k n v }

/-- The lanes a meaning acts on: the enabled lanes, or one turn of the lead stream. -/
def Iss.lanes (i : Iss) (en : LaneMask) : List Nat := if i.lead then [0] else lanesOf en

/-- The pages a failed lane asks for. -/
def Halt.pages : Halt → List (Dword × Bool)
  | .trap t => if t.code.toNat == pageFault then t.pages else []
  | .wait _ => []

/-- A failure that is a `PAGE_FAULT` asks for more pages too. -/
def Halt.also (h : Halt) (ps : List (Dword × Bool)) : Halt :=
  match h with
  | .trap t => if t.code.toNat == pageFault then .trap { t with pages := ps } else .trap t
  | .wait w => .wait w

/-- A failure beside those that a try at each of some items gives. -/
def Halt.beside {α β : Type} (e : Halt) (xs : List α) (f : α → Except Halt β) : Halt :=
  e.also ((e.pages ++ xs.flatMap fun x => match f x with
    | .error h => h.pages
    | .ok _ => []).dedup)

/-- A result for every lane, or the failure of the lowest failing lane; a `PAGE_FAULT` asks for the pages of every failing
lane (20 R347). -/
def mapLanes {α β : Type} (xs : List α) (f : α → Except Halt β) : Except Halt (List β) :=
  match mapE f xs with
  | .ok ys => .ok ys
  | .error e => .error (e.beside xs f)

/-- Writes for every lane in order, which all take effect or none; where one fails, as `mapLanes`. -/
def foldLanes {α : Type} (f : State → α → Except Halt State) (s : State) (xs : List α) : Except Halt State :=
  match foldE f s xs with
  | .ok t => .ok t
  | .error e => .error (e.beside xs (f s))

/-- Reads for every enabled lane before any lane is written: a result per lane, then the writes in lane order. -/
def perLane {α : Type} (i : Iss) (en : LaneMask) (s : State) (read : Nat → Except Halt α)
    (write : State → Nat → α → Except Halt State) : Except Halt State :=
  match mapLanes (i.lanes en) (fun l => (read l).map fun a => (l, a)) with
  | .error e => .error e
  | .ok xs => foldLanes (fun t x => write t x.1 x.2) s xs

/-! ### Forms -/

/-- Which modifier fields of the R and I forms an instruction uses. -/
structure Mods where
  rnd : Bool := false
  sat : Bool := false
  ftz : Bool := false
  na : Bool := false
  nb : Bool := false
  nc : Bool := false
  seg : Bool := false
  deriving DecidableEq, Repr

def badR (f : RForm) (m : Mods) : Bool :=
  f.hi != 0 || f.rnd ≥ 6 || (!m.rnd && f.rnd != 0) || (!m.sat && f.sat) || (!m.ftz && f.ftz) || (!m.na && f.negA) ||
  (!m.nb && f.negB) || (!m.nc && f.negC) ||
  (if m.seg then f.low &&& 0x8FF != 0 || f.low.toNat / 256 % 8 ≥ 6 else f.low != 0)

def badI (f : IForm) (m : Mods) : Bool :=
  f.rnd ≥ 6 || (!m.rnd && f.rnd != 0) || (!m.sat && f.sat) || (!m.ftz && f.ftz) || (!m.na && f.negA) ||
  (if m.seg then f.low &&& 0x38FF != 0 || f.low.toNat / 256 % 8 ≥ 6 else f.low != 0)

/-- What steps 4 to 7 of 07 R153 need to know of an instruction. -/
structure View where
  op : Nat
  ty : Ty
  /-- the types the entry allows -/
  types : List Ty
  g : Guard
  lead : Bool := true
  lane : Bool := true
  priv : Bool := false
  /-- a guard is not allowed -/
  noGuard : Bool := false
  /-- a field of the form breaks its rule -/
  bad : Bool
  /-- a field breaks a rule of lead-stream instructions (08 R160) -/
  leadBad : Bool := false
  uses : List Use
  deriving DecidableEq, Repr

/-- Step 4 to 7 of 07 R153. -/
def View.check (v : View) (i : Iss) : Option Trap :=
  if !v.types.contains v.ty then some { mkTrap illegalInstr 0 with field := 4 }
  else if !(if i.lead then v.lead else v.lane) then some { mkTrap illegalInstr 2 with field := 5 }
  else if v.priv && !i.priv then some { mkTrap protection 4 with field := 6 }
  else if reservedGuard v.g || (v.noGuard && !unguarded v.g) || v.bad || (i.lead && v.leadBad) then some { mkTrap illegalOperand 0 with field := 7 }
  else
    let scope := if 0x60 ≤ v.op && v.op ≤ 0x64 then i.enabled v.g else i.active
    match usesFail i scope v.uses with
    | some l => some { mkTrap illegalOperand 0 with field := 7, lane := l }
    | none => none

/-- Instructions a lane may issue inside a transaction, by OP (09 R207); `XBEGIN` aborts in its own way. -/
def txnAllows (op : Nat) : Bool :=
  op == 0 || op == 1 || (0x10 ≤ op && op ≤ 0x72) || op == 0x76 || op == 0x77 || op == 0xF2

/-- Instructions whose accesses come after a band's drain: all but those of registers and of the matrix engine. -/
def afterDrain (op : Nat) : Bool := 0x70 ≤ op && !(0xC1 ≤ op && op ≤ 0xC4)

/-- The REPEAT state the issuing unit is in. -/
def Iss.rep (i : Iss) : Option RepState :=
  if i.lead then i.group.lead.rep else (i.group.lane i.band ((lanesOf i.active).headD 0)).rep

def strideSpec (s : Spec) (n : BitVec 3) (iter : BitVec 16) : Spec := { s with idx := s.idx + BitVec.ofNat 10 (n.toNat * iter.toNat) }

/-- A form with its register indices moved on by the iterations of a `REPEAT` (10 R222). -/
def strideR (f : RForm) : Option RepState → RForm
  | none => f
  | some r => { f with d := strideSpec f.d r.sd r.iter, a := strideSpec f.a r.sa r.iter, b := strideSpec f.b r.sb r.iter,
                       c := strideSpec f.c r.sc r.iter }

def strideI (f : IForm) : Option RepState → IForm
  | none => f
  | some r => { f with d := strideSpec f.d r.sd r.iter, a := strideSpec f.a r.sa r.iter }

def strideA : AForm → Option RepState → AForm
  | .r f, x => .r (strideR f x)
  | .i f, x => .i (strideI f x)

def strideM (f : MForm) : Option RepState → MForm
  | none => f
  | some r => { f with d := strideSpec f.d r.sd r.iter, a := strideSpec f.a r.sa r.iter, b := strideSpec f.b r.sb r.iter,
                       c := strideSpec f.c r.sc r.iter }

/-! ### The issue of one instruction -/

abbrev Result := Host.Outcome State Fault Refusal

/-- The unit that issues. -/
def State.iss? (s : State) : Option Iss :=
  match s.issuer with
  | none => none
  | some u => match s.groupAt? u.core u.rgs with
    | none => none
    | some g => s.issOf u.core g.gid u.who

/-- Lanes of a unit whose transaction another party has broken: they abort instead of executing (09 R212). -/
def Iss.doomed (i : Iss) : LaneMask :=
  if i.lead then 0 else maskOf fun l => i.active.getLsbD l &&
    (let x := (i.group.lane i.band l).txn; x.active && x.doomed)

/-- Lanes in an open transaction that may not issue this OP. -/
def Iss.txnBarred (i : Iss) (en : LaneMask) (op : Nat) : LaneMask :=
  if i.lead || txnAllows op then 0 else maskOf fun l => en.getLsbD l && (i.group.lane i.band l).txn.active

def State.abortLanes (s : State) (i : Iss) (m : LaneMask) (cause detail : Nat) : State :=
  (lanesOf m).foldl (fun t l => t.abortLane i l cause detail) s

/-- Positions of a lane that an instruction reads with a kill mark (02 R46). -/
def Use.kills (x : Lane) : Use → List Nat
  | .reg s dst n _ _ _ => if s.kill && !s.bank && !dst then (List.range n).map (x.base + s.idx.toNat + ·) else []
  | .lreg s dst => if s.kill && !dst then [x.base + s.idx.toNat] else []
  | _ => []

/-- Kill marks of an instruction take effect on the enabled lanes, before its writes. -/
def State.kill (s : State) (i : Iss) (en : LaneMask) (us : List Use) : State :=
  if i.lead || us.all (fun u => (u.kills Lane.init).isEmpty) then s
  else s.modLanes i en fun _ x => { x with killed := x.killed ++ us.flatMap (Use.kills x) }

/-- The positions of a lane below LO that a use names, each with whether it is written (03 R57). -/
def Use.spilled (x : Lane) : Use → List (Nat × Bool)
  | .reg s dst n _ _ _ => if s.bank then [] else (((List.range n).map (x.base + s.idx.toNat + ·)).filter (· < x.lo)).map fun p => (p, dst)
  | .lreg s dst => if x.base + s.idx.toNat < x.lo then [(x.base + s.idx.toNat, dst)] else []
  | _ => []

/-- Operands below LO are loads and stores of the task's session memory: they enter its signatures (20 R350). -/
def State.signSpills (s : State) (i : Iss) (en : LaneMask) (us : List Use) : State :=
  if i.lead || i.group.ver.isNone then s
  else
    let rs := (lanesOf en).flatMap fun l => us.flatMap fun u => (u.spilled (i.group.lane i.band l)).map fun p =>
      (stackAddr i.sess i.bandOf p.1 l, p.2)
    let sig (wr : Bool) : BitVec 1024 := (rs.filter fun e => e.2 == wr).foldl (fun m e => m ||| sigBits e.1) 0
    s.modGroupOn i.core i.group.gid fun g => { g with ver := g.ver.map fun v => { v with rs := v.rs ||| sig false, ws := v.ws ||| sig true } }

/-- What the operands of an instruction bring about before its writes. -/
def State.operands (s : State) (i : Iss) (en : LaneMask) (us : List Use) : State := (s.kill i en us).signSpills i en us

/-- The kill marks of an instruction that has not completed have no effect yet. -/
def State.unkill (s : State) (i : Iss) : State :=
  s.modLanes i i.active fun l y => { y with killed := (i.group.lane i.band l).killed }

/-- The guard's mask as an operand. -/
def View.guardUse (v : View) : Use := .mask { kill := false, bank := false, idx := v.g.mask.setWidth 10 }

/-- The body of an instruction: the issuing unit, its enabled lanes and the state. -/
abbrev Body := Iss → LaneMask → State → Except Halt State

/-- The wait of an instruction behind its band's drains: for an access to a tile that the engine holds, the bounded one that it
would make itself (13 R288); else for the drains' stores (11 R243). -/
def drainWait (r : Except Halt State) : Wait := match r with
  | .error (.wait (.bounded ts place)) => .bounded ts place
  | _ => .result [] true

/-- Steps 4 to 8 of 07 R153 and the instruction itself. `post` moves the unit on after it; `always`: the body runs with no
lane enabled (`POPF`). -/
def issueCore (v : View) (post : Iss → LaneMask → State → State) (always : Bool) (body : Body) (i : Iss) (s : State) : State :=
  match v.check i with
  | some t => s.takeTrap i (i.enabled v.g) t
  | none =>
    let en0 := i.enabled v.g
    let barred := i.txnBarred en0 v.op
    let s1 := s.abortLanes i barred 7 v.op
    let j := { i with active := i.active &&& ~~~ barred }
    let en := en0 &&& ~~~ barred
    if j.active == 0 then s1
    else if v.guardUse.busy j j.active then s1.block j (.result (v.guardUse.inFlight j j.active) false)
    else if en == 0 && !always then s1.advance j j.active
    else if v.uses.any (fun u => u.busy j en) || (!j.lead && afterDrain v.op && (s1.core j.core).draining j.group.gid j.band) then
      s1.block j (if v.uses.any fun u => u.busy j en then .result (v.uses.flatMap fun u => u.inFlight j en) (!j.lead && afterDrain v.op)
        else drainWait (body j en (s1.operands j en v.uses)))
    else match body j en (s1.operands j en v.uses) with
      | .error (.trap t) => s1.takeTrap j en t
      | .error (.wait w) => s1.block j w
      | .ok s2 => post j en s2

/-- Lanes whose open transaction the instruction has ended: they stand at their abort target (09 R212). -/
def Iss.sent (i : Iss) (s : State) : LaneMask :=
  if (lanesOf i.active).any fun l => (i.group.lane i.band l).txn.active then
    maskOf fun l => (i.group.lane i.band l).txn.active && !(match s.find? i.group.gid with
      | some (_, g) => (g.lane i.band l).txn.active
      | none => false)
  else 0

/-- How a unit moves on: all its active lanes, or (`ctl`) only those the body has not moved itself. -/
def moveOn (ctl : Bool) (i : Iss) (en : LaneMask) (s : State) : State :=
  if ctl then (if i.lead then s else s.advance i (i.active &&& ~~~ en &&& ~~~ i.sent s)) else s.advance i i.active

/-- `ctl`: the body moves the PC of the enabled lanes. -/
def issueWith (v : View) (ctl always : Bool) (body : Body) (i : Iss) (s : State) : State := issueCore v (moveOn ctl) always body i s

/-- Issues an instruction at the unit whose turn it is. -/
def issue (s : State) (v : Iss → View) (ctl always : Bool) (body : Body) : Result :=
  match s.iss? with
  | none => .fault .noIssuer
  | some i =>
    let d := i.doomed
    let s1 := s.abortLanes i d 1 0
    let j := { i with active := i.active &&& ~~~ d }
    if j.active == 0 then .next s1 else .next (issueWith (v j) ctl always body j s1)

/-- An instruction that holds its unit at its PC: another step completes it. -/
def issueHold (s : State) (v : Iss → View) (body : Body) : Result :=
  match s.iss? with
  | none => .fault .noIssuer
  | some i =>
    let d := i.doomed
    let s1 := s.abortLanes i d 1 0
    let j := { i with active := i.active &&& ~~~ d }
    if j.active == 0 then .next s1 else .next (issueCore (v j) (fun _ _ t => t) false body j s1)

/-- Shared modifiers of an instruction that rounds nothing. -/
def plain : Mods := {}

def ty0 : List Ty := [.b32]
def i32 : List Ty := [.b32, .s32, .n32]
def i64 : List Ty := [.b64, .s64, .n64]
def packedI : List Ty := [.s16x2, .n16x2, .s8x4, .n8x4]
def allTypes : List Ty := [.b32, .s32, .n32, .b64, .s64, .n64, .f32, .f64, .f16, .bf16, .f16x2, .bf16x2, .s16x2, .n16x2, .s8x4, .n8x4]

end Sys2Proof.Machine
end

