-- ==== Sys2Proof/Machine/Engines.lean ====
section
/-! DEFINITION. Engine commands, OP 0xB0 to 0xB3 (10 R226 to R232), with the copies, graph nodes and local counters they act
on (05 R102, R111, R112). -/

namespace Sys2Proof.Machine

open Sys2Proof

/-! ### Replies -/

/-- The reply and STATUS word (10 R227). -/
def replyWord (count status : Nat) : Word := BitVec.ofNat 32 (count % 65536 * 65536 + status)

/-- Where a result of a lane, or of the lead stream, goes. -/
def Iss.dest (i : Iss) (l : Nat) (sp : Spec) : Dest :=
  { gid := i.group.gid, band := if i.lead then none else some i.band, lane := l,
    reg := if i.lead then sp.idx.toNat else (i.group.lane i.band l).base + sp.idx.toNat }

/-- Changes what a destination's lane or lead stream has in flight. -/
def State.modPending (s : State) (d : Dest) (f : List Nat → List Nat) : State :=
  s.modGroup d.gid fun g => match d.band with
    | none => { g with lead := { g.lead with pending := f g.lead.pending } }
    | some b => g.modLane b d.lane fun x => { x with pending := f x.pending }

/-- Registers from `d.reg` on, and a mask, are in flight; a lane counts the instructions from here on (02 R46). -/
def State.awaits (s : State) (d : Dest) (n : Nat) (k : Option Nat) : State :=
  let regs := (List.range n).map (d.reg + ·)
  let t := s.modPending d fun p => p ++ regs ++ (k.map (1024 + ·)).toList
  match d.band with
  | none => t
  | some b => t.modGroup d.gid fun g => g.modLane b d.lane fun x => { x with issued := regs.foldl (fun m p => alSet m p 0) x.issued }

/-- Whether a band is in a run of a slot. -/
def Core.onSlot (c : Core) (gid band : Nat) : Bool := c.slots.any fun x => x.run.any fun r => r.gid == gid && r.band == band

/-- A register-stack position of a resident lane written when a result arrives: in the register array, by way of the forwarding
window where the band is still on its slot (02 R46), or at its register-stack address. -/
def State.putPos (s : State) (x : Session) (gid band lane pos : Nat) (v : Word) : State :=
  match s.find? gid with
  | none => s
  | some (c, g) => match g.bands[band]? with
    | none => s
    | some b =>
      if (b.lane lane).lo ≤ pos then s.modGroupOn c gid fun h => h.modLane band lane fun y =>
          y.land ((s.core c).onSlot gid band) pos v
      else match s.sxWriteNum x (stackAddr x b pos lane) 4 v.toNat with
        | .ok s1 => s1
        | .error _ => s

/-- A result for a group that is swapped out is held; one for a group that has retired is dropped (10 R228). -/
def State.holdResult (s : State) (d : Dest) (ws : List Word) (gs : List Dword) (k : Option (Nat × Bool)) : State :=
  match s.anyGroup d.gid with
  | none => s
  | some g =>
    let c : Cmd := { id := s.nextCmd, session := g.session, gen := 0, gid := d.gid, queue := none, node := none, core := 64,
                     launch := g.launch, reply := some d, kind := .answer ws gs k, held := true, done := 0, fault := none,
                     declined := false, priv := false, noCtr := false, first := g.clusterFirst }
    { s with cmds := s.cmds ++ [c], nextCmd := s.nextCmd + 1 }

/-- A result arrives: words for successive lane positions, or g registers of the lead stream, and a mask bit. -/
def State.giveResult (s : State) (d : Dest) (ws : List Word) (gs : List Dword) (k : Option (Nat × Bool)) : State :=
  match s.find? d.gid with
  | none => s.holdResult d ws gs k
  | some (_, g) => match s.session? g.session with
    | none => s
    | some x =>
      let s1 := match d.band with
        | none => s.modGroup d.gid fun h =>
            { h with g := spSetList h.g d.reg gs
                     lead := { h.lead with k := match k with
                       | some (n, v) => setK h.lead.k n v
                       | none => h.lead.k } }
        | some b =>
          (ws.zipIdx.foldl (fun (t : State) (e : Word × Nat) => t.putPos x d.gid b d.lane (d.reg + e.2) e.1) s).modGroup d.gid fun h =>
            h.modLane b d.lane fun y => { y with k := match k with
              | some (n, v) => setK y.k n v
              | none => y.k }
      let n := if d.band.isNone then gs.length else ws.length
      s1.modPending d fun p => p.filter fun r =>
        !((decide (d.reg ≤ r) && decide (r < d.reg + n)) || (k.map fun (z : Nat × Bool) => 1024 + z.1) == some r)

/-- A reply word arrives. -/
def State.reply (s : State) (d : Option Dest) (w : Word) : State :=
  match d with
  | none => s
  | some d => s.giveResult d [w] [w.setWidth 64] none

/-! ### Accesses of a command -/

/-- Why an access of a command is not made. -/
inductive EngErr where
  | fault (t : Trap)
  /-- outside a limit of a scratchpad, band or position -/
  | window

def Cmd.iss (s : State) (c : Cmd) : Option Iss :=
  match s.find? c.gid with
  | none => none
  | some (core, _) => (s.issOf core c.gid .lead).map fun i => { i with priv := c.priv }

/-- Where an address outside session memory falls for a command. The scratchpads of the issuer's cluster are found by what the
command itself holds, so that those of the other members are reached once the issuer has retired (10 R229). -/
def Cmd.space (s : State) (c : Cmd) (va : Nat) : Except EngErr Place :=
  let ea := BitVec.ofNat 64 va
  match c.iss s with
  | some i => match spaceOf s i ea with
    | .ok (some p) => .ok p
    | .ok none => .error .window
    | .error t => if t.sub == 1 then .error .window else .error (.fault t)
  | none => match (s.scratchOf c va).bind fun g => s.find? g.gid with
    | some (_, g) => if va % 2 ^ 18 < g.scratchBytes then .ok (.scratch g.gid (va % 2 ^ 18)) else .error .window
    | none =>
      let top := bitsOf va 63 48
      if top == 0x4000 || top == 0x4001 || top == 0x4002 then .error .window
      else if top == 0x4010 && c.priv && c.gid != 0 && bitsOf va 47 40 == 0 then .ok (.phys (va % 2 ^ 40) 1)
      else .error (.fault ((mkTrap protection 0).at ea))

/-- Where `n` bytes of a command's access fall; they lie on one page. -/
def engPlace (s : State) (c : Cmd) (x : Session) (acc : Access) (va n : Nat) : Except EngErr Place :=
  let ea := BitVec.ofNat 64 va
  if sessionSpace ea.toNat then
    match s.leafFor c.core x c.priv acc ea with
    | .error t => .error (.fault t)
    | .ok l =>
      if (l.type == 4 || l.type == 5) && (s.launch? c.session c.launch).any (·.desc.versioned) && c.gid != 0 then
        .error (.fault ((mkTrap protection 3).at ea))
      else .ok (.virt (l.pieces ea n))
  else (c.space s va).map fun p => match p with
    | .phys pa _ => .phys pa n
    | q => q

def engRead1 (s : State) (c : Cmd) (x : Session) (va n : Nat) : Except EngErr (List Byte) :=
  match engPlace s c x .read va n with
  | .error e => .error e
  | .ok p => if s.placePoison x p n then .error (.fault (s.poisonAt x p (BitVec.ofNat 64 va))) else .ok (s.bytesAt x c.gid p n)

/-- What an access of a unit for a group leaves behind beside its bytes: WORLD for another world's array (05 R101), a host's lines
taken back (24 R421), and where it reads, filled caches. It enters no signature (20 R350). -/
def State.trace (s : State) (x : Session) (gid : Nat) (p : Place) (wr : Bool) : State :=
  let t := (s.worldWatch x gid p wr).invalidate p.touchedLines
  match p with
  | .virt ps => if wr then t else
      ps.foldl (fun u q => if onChip q.pa then u else u.cacheRead (u.useFor x gid byEngine q.leaf q.va.toNat) q.pa q.len) t
  | _ => t

/-- A store of a command, through copy-on-write; into the version of the task that issued it, resident or swapped out
(entry 15). A store of a task that has been discarded is not made. -/
def engWrite1 (s : State) (c : Cmd) (x : Session) (va : Nat) (bs : List Byte) : Except EngErr State :=
  match engPlace s c x .write va bs.length with
  | .error e => .error e
  | .ok p =>
    let virt := sessionSpace (va % 2 ^ 64)
    let beyond := if virt then (s.anyGroup c.gid).bind fun g => s.overCapacity g ((List.range bs.length).map (va + ·)) else none
    if virt && c.noCtr then .ok s
    else if s.placePoisonW x p bs.length then .error (.fault (s.poisonAt x p (BitVec.ofNat 64 va)))
    else match beyond with
    | some k => .error (.fault ((mkTrap versionCapacity k).at (BitVec.ofNat 64 va)))
    | none => match if (s.anyGroup c.gid).any (·.buffering) then .ok s else s.cowPlace x none p with
      | .error t => .error (.fault t)
      | .ok s1 => match engPlace s1 c x .write va bs.length with
        | .error e => .error e
        | .ok q =>
          let s2 := s1.putHint x c.gid none byEngine q bs
          .ok (if (s2.anyGroup c.gid).isSome then s2.sign c.gid q false true else s2.trace x c.gid q true)

/-- Aligned blocks of 512 bytes of a range: address and length. -/
def engBlocks (va n : Nat) : List (Nat × Nat) :=
  (List.range ((va % 512 + n + 511) / 512)).map fun i =>
    let lo := max va (va / 512 * 512 + 512 * i)
    (lo, min (va + n) (va / 512 * 512 + 512 * (i + 1)) - lo)

/-- Reads a range, block by block. -/
def engRead (s : State) (c : Cmd) (x : Session) (va n : Nat) : Except EngErr (List Byte) :=
  (mapE (fun b => engRead1 s c x b.1 b.2) (engBlocks va n)).map List.flatten

/-- What the reads of a range leave behind. -/
def State.engSeen (s : State) (c : Cmd) (x : Session) (va n : Nat) : State :=
  (engBlocks va n).foldl (fun t b => match engPlace t c x .read b.1 b.2 with
    | .ok p => t.trace x c.gid p false
    | .error _ => t) s

/-- Writes a range, block by block. -/
def engWrite (s : State) (c : Cmd) (x : Session) (va : Nat) (bs : List Byte) : Except EngErr State :=
  foldE (fun t b => engWrite1 t c x b.1 ((bs.drop (b.1 - va)).take b.2)) s (engBlocks va bs.length)

/-! ### Commands in flight -/

def State.cmd? (s : State) (id : Nat) : Option Cmd := s.cmds.find? fun c => c.id == id
def State.modCmd (s : State) (id : Nat) (f : Cmd → Cmd) : State := { s with cmds := updFirst (fun c => c.id == id) f s.cmds }
def State.dropCmd (s : State) (id : Nat) : State :=
  { s with cmds := s.cmds.filter fun c => c.id != id
           queues := s.queues.map fun q => { q with cmds := q.cmds.filter (· != id) } }

/-- A command whose access faulted: it waits for the translation service, or ends (10 R227). -/
def State.engFault (s : State) (x : Session) (c : Cmd) (t : Trap) : Option State :=
  if t.code.toNat == pageFault && !c.declined && s.fring x != 0 then
    match s.faultBatch x t.pages (t.sub.toNat % 4) true with
    | some (s1, b) => some (s1.modCmd c.id fun d => { d with fault := some b })
    | none => some s
  else none

/-- The commands of a core that take one of its 64 places (10 R226). -/
def Cmd.counts (c : Cmd) : Bool := match c.kind with
  | .wlpush _ _ => false
  | .wlpop _ => false
  | .emit _ _ => false
  | .ctrDec _ => false
  | .answer _ _ _ => false
  | _ => true

def State.inFlight (s : State) (core : Nat) : Nat := (s.cmds.filter fun c => c.core == core && c.counts).length

/-! ### Local counters (05 R112) -/

/-- Subtracts one from a local counter of a resident group; drops it, counted, when the group has retired; holds it while
the group's context is swapped out. -/
def State.ctrDec (s : State) (sess launch gid off : Nat) : State :=
  match s.find? gid with
  | some _ => s.modGroup gid fun g =>
      { g with scratch := spSetList g.scratch off (toLE 4 ((leNat (spGetList g.scratch off 4) + 2 ^ 32 - 1) % 2 ^ 32)) }
  | none =>
    if (s.anyGroup gid).isSome then
      let c : Cmd := { id := s.nextCmd, session := sess, gen := 0, gid := gid, queue := none, node := none, core := 64,
                       launch := launch, reply := none, kind := .ctrDec off, held := true, done := 0, fault := none,
                       declined := false, priv := false, noCtr := false, first := 0 }
      { s with cmds := s.cmds ++ [c], nextCmd := s.nextCmd + 1 }
    else s.modLaunch sess launch fun l => { l with ctrDrop := l.ctrDrop + 1 }

/-! ### The copy engine (10 R229) -/

/-- A descriptor with a reserved or out-of-range field. `user`: issued by a stream. -/
def copyBad (user : Bool) (dst len ctrl ctr : Nat) : Bool :=
  bitsOf ctrl 31 16 != 0 || bitsOf ctrl 7 0 != 0 || (ctr != 0xFFFFFFFF && (!user || ctr % 4 != 0)) ||
  (bitOf ctrl 8 && (dst % 4 != 0 || len % 4 != 0))

/-- A range of a copy: the group and offset of a scratchpad, or an address. -/
def copyRange (s : State) (c : Cmd) (a n : Nat) : Nat × Nat × Nat :=
  match s.scratchOf c a with
  | some g => (g.gid, a % 2 ^ 18, n)
  | none => (0, a, n)

def overlaps (a b : Nat × Nat × Nat) : Bool :=
  a.1 == b.1 && decide (0 < a.2.2) && decide (0 < b.2.2) && decide (a.2.1 < b.2.1 + b.2.2) && decide (b.2.1 < a.2.1 + a.2.2)

/-- Whether a range outside session memory breaks its space's limits (R227, WINDOW): its first byte or its last does. -/
def rangeWindow (s : State) (c : Cmd) (a n : Nat) : Bool :=
  let out (b : Nat) : Bool := match c.space s b with
    | .error .window => true
    | _ => false
  !sessionSpace a && decide (0 < n) && (out a || out (a + n - 1))

/-- The group whose registers a copy targets. -/
def copyTarget (s : State) (c : Cmd) (ctrl : Nat) : Option Group := c.member s (bitsOf ctrl 10 9)

/-- Whether a register target breaks its limits (05 R102, 10 R229). -/
def regWindow (s : State) (c : Cmd) (dst len ctrl : Nat) : Bool :=
  match copyTarget s c ctrl with
  | none => true
  | some g => decide (g.bands.length ≤ bitsOf ctrl 15 11) || decide (128 * 640 < dst + len)

/-- One word written to a position of a lane (05 R102): resident, spilled, or deposited above the window top. A deposit
whose position is not resident lies at its register-stack address, and the lane keeps it for the `ALLOC` that brings it into
the window, after which it reads as written. -/
def deposit (s : State) (x : Session) (l : Launch) (gid band lane pos : Nat) (v : Word) : Except Trap State :=
  match s.find? gid with
  | none => .ok s
  | some (c, g) => match g.bands[band]? with
    | none => .ok s
    | some b =>
      let y := b.lane lane
      let put (t : State) (p : Nat) (w : Word) : Except Trap State :=
        let t1 := if y.lo ≤ p then t.modGroupOn c gid fun h => h.modLane band lane fun z => z.arrive p w else t
        if y.lo ≤ p && p < y.lo + l.desc.blockRegs then .ok t1 else t1.sxWriteNum x (stackAddr x b p lane) 4 w.toNat
      if pos < y.base + y.size || y.marks.contains (pos / 8) then put s pos v
      else match foldE (fun t j => put t (pos / 8 * 8 + j) 0) s (List.range 8) with
        | .error t => .error t
        | .ok s1 => (put s1 pos v).map fun t => t.modGroupOn c gid fun h => h.modLane band lane fun z =>
            { z with marks := insNat z.marks (pos / 8) }

/-- Bytes of the source of a copy from offset `o`. -/
def copySource (s : State) (c : Cmd) (x : Session) (fill : Bool) (src dst o n : Nat) : Except EngErr (List Byte) :=
  if fill then .ok ((List.range n).map fun i => BitVec.ofNat 8 (src / 2 ^ (8 * ((dst + o + i) % 4))))
  else engRead s c x (src + o) n

/-- One 512-byte block of a copy, written at offset `o`. -/
def copyBlock (s : State) (c : Cmd) (x : Session) (fill : Bool) (src dst ctrl o n : Nat) : Except EngErr State :=
  match copySource s c x fill src dst o n with
  | .error e => .error e
  | .ok bs =>
    let s := if fill then s else s.engSeen c x (src + o) n
    if !bitOf ctrl 8 then engWrite s c x (dst + o) bs
    else match copyTarget s c ctrl with
      | none => .error .window
      | some g => match s.launchOf? g with
        | none => .error .window
        | some l => match foldE (fun t j =>
              let a := dst + o + 4 * j
              deposit t x l g.gid (bitsOf ctrl 15 11) (a % 128 / 4) (a / 128) (BitVec.ofNat 32 (leNat ((bs.drop (4 * j)).take 4))))
              s (List.range (n / 4)) with
          | .ok t => .ok t
          | .error t => .error (.fault t)

/-- The blocks of a copy from `done` on: the state, the bytes moved, and the error that stopped it. -/
def copyBlocks (c : Cmd) (x : Session) (fill : Bool) (src dst ctrl : Nat) : List (Nat × Nat) → State → Nat →
    State × Nat × Option EngErr
  | [], s, done => (s, done, none)
  | b :: bs, s, done =>
    match copyBlock s c x fill src dst ctrl (b.1 - dst) b.2 with
    | .ok s1 => copyBlocks c x fill src dst ctrl bs s1 (b.1 - dst + b.2)
    | .error e => (s, done, some e)

/-! ### Graph nodes (05 R111, 22 R394) -/

def State.node? (s : State) (sess : Nat) (a : Dword) : Option Node := s.nodes.find? fun n => n.session == sess && n.addr == a
def State.modNode (s : State) (sess : Nat) (a : Dword) (f : Node → Node) : State :=
  { s with nodes := updFirst (fun n => n.session == sess && n.addr == a) f s.nodes }

/-- A node's body has ended with a status. -/
def State.endNode (s : State) (sess : Nat) (a : Option Dword) (status : Nat) : State :=
  match a with
  | none => s
  | some a => s.modNode sess a fun n => { n with st := .ended, status := status }

/-- A copy command as it reaches its descriptor: a command processor's access for a command of a queue (22 R437). -/
def Cmd.forDesc (c : Cmd) : Cmd := { c with priv := c.priv || c.queue.isSome }

/-- STATUS of a copy that has ended is written, then the counter is decremented, and the node or queue it belongs to goes on
(10 R229, 05 R112). The write waits for the translation service, and for a scratchpad that is swapped out (10 R227, R228). -/
def State.writeStatus (s : State) (x : Session) (c : Cmd) (desc : Dword) (ctr : Option Nat) (code : Nat) : State :=
  let done (t : State) : State :=
    let t1 := match ctr with
      | some o => if c.noCtr then t else t.ctrDec c.session c.launch c.gid o
      | none => t
    (t1.endNode c.session c.node code).dropCmd c.id
  if (s.scratchOf c desc.toNat).any fun g => (s.find? g.gid).isNone then s.modCmd c.id fun d => { d with held := true }
  else match engWrite s c.forDesc x (desc.toNat + 28) (toLE 4 code) with
    | .ok t => done t
    | .error .window => done s
    | .error (.fault t) => (s.engFault x c t).getD (done (s.tagCheck x t))

/-- A copy has ended with a status. -/
def State.endCopy (s : State) (x : Session) (c : Cmd) (desc : Dword) (ctr status : Nat) : State :=
  let o := if ctr == 0xFFFFFFFF || c.queue.isSome || c.node.isSome then none else some ctr
  (s.modCmd c.id fun d => { d with kind := .status desc o status, fault := none }).writeStatus x { c with declined := false } desc o status

/-- A command of a queue. -/
def Cmd.user (c : Cmd) : Bool := c.queue.isNone && c.node.isNone

/-- The copy engine reads a descriptor (10 R229): the reply, and the copy under way. 10 R226 places descriptors in session memory
and in the issuer's own scratchpad and gives no status to one elsewhere: a descriptor in the cluster window, in the
accumulator tiles or in physical memory is read as an access of the issuer to that address (entry 82). -/
def State.startCopy (s : State) (x : Session) (c : Cmd) (fill : Bool) (a : Dword) : State :=
  let fail (t : State) : State := (((t.reply c.reply (replyWord 0 1)).endNode c.session c.node 1)).dropCmd c.id
  if a.toNat % 32 != 0 then fail s
  else match engRead1 s c.forDesc x a.toNat 32 with
    | .error (.fault t) => (s.engFault x c t).getD (fail (s.tagCheck x t))
    | .error .window => fail s
    | .ok bs =>
      let s := s.engSeen c.forDesc x a.toNat 32
      let v := leNat bs
      let ctr := fld v 24 32
      if copyBad c.user (fld v 8 64) (fld v 16 32) (fld v 20 32) ctr then
        let ok := c.user && ctr % 4 == 0 && (s.anyGroup c.gid).any fun g => decide (ctr + 4 ≤ g.scratchBytes)
        (s.reply c.reply (replyWord 0 1)).endCopy x c a (if ok then ctr else 0xFFFFFFFF) 1
      else
        (s.reply c.reply (replyWord 0 0)).modCmd c.id fun d =>
          { d with kind := .copy fill (BitVec.ofNat 64 (fld v 0 64)) (BitVec.ofNat 64 (fld v 8 64)) (fld v 16 32)
                     (BitVec.ofNat 32 (fld v 20 32)) (BitVec.ofNat 32 ctr) a
                   fault := none }

/-- A command of the copy engine added by a queue or a node. Its descriptor is read with the permissions of a privileged
stream, its data as in user state (22 R437). -/
def State.addCopy (s : State) (x : Session) (queue : Option Nat) (node : Option Dword) (a : Dword) : State × Nat :=
  let c : Cmd := { id := s.nextCmd, session := x.slot, gen := x.gen, gid := 0, queue := queue, node := node, core := 64, launch := 0,
                   reply := none, kind := .start 0xB0 0 a 0, held := false, done := 0, fault := none, declined := false,
                   priv := false, noCtr := false, first := 0 }
  (({ s with cmds := s.cmds ++ [c], nextCmd := s.nextCmd + 1 } : State).startCopy x c false a, c.id)

/-- A queue that may submit privileged launches (22 R392). -/
def State.queuePriv (s : State) (x : Session) (q : Option Nat) : Bool :=
  match q with
  | none => false
  | some n => decide (n < 64) && s.ctrl.cpPrivq.getLsbD n && bitOf (s.trecFlags x) 2

/-- A launch that is skipped because a predecessor failed: it completes with PRED_ERROR (05 R111). Its descriptor is read for the
address of its completion record, and waits for the service as any access of the command processor; where the service declines
the page, the record is lost (22 R393, R437). -/
def State.skipLaunch (s : State) (x : Session) (va : Nat) (node : Dword) (declined : Bool) : Started :=
  let no := x.launchNo + 1
  let l (raw : Nat) : Launch := newLaunch x no none (some node) (parseDesc raw none []) none [] (some 2)
  match s.sxNum x va 128 with
  | .ok raw => .done (s.addLaunch (l raw)) no
  | .error t =>
    if t.code.toNat == pageFault && !declined && s.fring x != 0 then .fault t
    else .done ((s.tagCheck x t).addLaunch { l 0 with complLost := true }) no

/-- Starts a node whose predecessor count is zero; it stays waiting while no world is free or its descriptor's page is
being serviced, and where its session is RESETTING it starts no more (22 R401). A copy that is skipped because a predecessor
failed writes nothing to its descriptor (entry 65). -/
def State.startNode (s : State) (sess : Nat) (a : Dword) : State :=
  match s.node? sess a, s.session? sess with
  | some n, some x =>
    if n.st != .waiting || n.pred != 0 || n.fault.isSome || x.st == .resetting then s
    else
      let run (t : State) : State := t.modNode sess a fun m => { m with st := .running }
      if !n.launch then
        if n.predError then s.endNode sess (some a) 2 else (run (s.addCopy x none (some a) n.body).1)
      else match (if n.predError then s.skipLaunch x n.body.toNat a n.declined
          else s.startLaunch x n.body.toNat none (s.queuePriv x n.queue) n.declined none (some a)) with
        | .done t _ => run t
        | .wait => s
        | .fault t =>
          if t.code.toNat == pageFault && !n.declined && s.fring x != 0 then
            match s.faultBatch x t.pages (t.sub.toNat % 4) true with
            | some (s1, b) => s1.modNode sess a fun m => { m with fault := some b }
            | none => s
          else (s.tagCheck x t).endNode sess (some a) 1
  | _, _ => s

/-- A predecessor has finished: the count falls by one, and the node starts at zero. A decrement aimed at an address that holds
no waiting node is dropped (entry 64). -/
def State.predDone (s : State) (sess : Nat) (a : Dword) (bad : Bool) : State :=
  (s.modNode sess a fun n =>
    if n.st == .waiting then { n with pred := n.pred - 1, predError := n.predError || bad } else n).startNode sess a

/-- How a graph command ends: its status, an access to be serviced first, or an address outside every limit. -/
inductive GraphRes where
  | status (s : State) (code : Nat)
  | fault (t : Trap)
  | window

/-- Submits the node of a record (10 R230, 05 R111). -/
def State.submit (s : State) (x : Session) (c : Cmd) (a : Dword) : GraphRes :=
  let err (e : EngErr) : GraphRes := match e with
    | .fault t => .fault t
    | .window => .window
  if a.toNat % 64 != 0 || (s.node? x.slot a).any (fun n => n.st != .finished) then .status s 1
  else match engRead1 s c x a.toNat 64 with
    | .error e => err e
    | .ok bs =>
      let s := s.engSeen c x a.toNat 64
      let v := leNat bs
      if fld v 0 8 > 1 || fld v 1 8 != 0 || fld v 4 16 > 1024 || fld v 6 16 != 0 || fld v 32 256 != 0 then .status s 1
      else match mapE (fun j => (engRead1 s c x (fld v 16 64 + 8 * j) 8).map leNat) (List.range (fld v 4 16)) with
        | .error e => err e
        | .ok succs =>
          let s := s.engSeen c x (fld v 16 64) (8 * fld v 4 16)
          let h := (Config.freeWord s.freeCtr) ++ (Config.freeWord (s.freeCtr + 1))
          match engWrite1 { s with freeCtr := s.freeCtr + 2 } c x (a.toNat + 24) (toLE 8 h.toNat) with
          | .error e => err e
          | .ok s1 =>
            let n : Node := { session := x.slot, addr := a, handle := h, launch := fld v 0 8 == 0, pred := fld v 2 16,
                              succs := succs.map fun b => .node (BitVec.ofNat 64 b), body := BitVec.ofNat 64 (fld v 8 64),
                              st := .waiting, predError := false, status := 0, queue := c.queue, fault := none, declined := false }
            let s2 : State := { s1 with
              nodes := s1.nodes.filter (fun (m : Node) => !(m.session == x.slot && m.addr == a)) ++ [n] }
            .status (s2.startNode x.slot a) 0

/-- Decrements a node's predecessor count, as a finishing predecessor would (10 R230). -/
def State.signal (s : State) (x : Session) (a : Dword) : State × Nat :=
  match s.node? x.slot a with
  | none => (s, 1)
  | some n => if n.pred == 0 then (s, 9) else (s.predDone x.slot a false, 0)

/-- Adds a local counter as a successor of a node (10 R230). -/
def State.watch (s : State) (x : Session) (c : Cmd) (a : Dword) (off : Nat) : State × Nat :=
  match s.anyGroup c.gid, s.node? x.slot a with
  | some g, some n =>
    if off % 4 != 0 then (s, 1)
    else if g.scratchBytes < off + 4 then (s, 4)
    else if n.st == .finished then (s.ctrDec x.slot c.launch c.gid off, 0)
    else (s.modNode x.slot a fun m => { m with succs := m.succs ++ [.counter c.gid off] }, 0)
  | _, _ => (s, 1)

/-! ### Collectives (10 R232) -/

/-- Bytes of an element of a collective. -/
def collSize (ctrl : Nat) : Nat := if ctrl % 16 == 3 then 2 else 4

/-- A collective descriptor with a reserved or out-of-range field. -/
def collBad (efn cluster v : Nat) : Bool :=
  let ctrl := fld v 20 32
  fld v 16 32 == 0 || fld v 16 32 > 2 ^ 24 || bitsOf ctrl 31 11 != 0 || bitsOf ctrl 10 8 == 0 || bitsOf ctrl 10 8 > 4 ||
  bitsOf ctrl 7 6 ≥ cluster || ctrl % 16 > 4 || (efn == 0 && (ctrl % 16 == 4 || bitsOf ctrl 5 4 == 3)) || fld v 24 64 != 0

/-- The collective engine reads a member's descriptor. -/
def State.startCollective (s : State) (x : Session) (c : Cmd) (efn : Nat) (a : Dword) (inst : Nat) : State :=
  let join (s : State) (bad : Bool) (v : Nat) : State := s.modCmd c.id fun d =>
    { d with kind := .collective efn (BitVec.ofNat 64 (fld v 0 64)) (BitVec.ofNat 64 (fld v 8 64)) (fld v 16 32)
               (BitVec.ofNat 32 (fld v 20 32)) inst bad
             fault := none }
  if a.toNat % 32 != 0 then join s true 0
  else match engRead1 s c x a.toNat 32 with
    | .error (.fault t) => (s.engFault x c t).getD (join (s.tagCheck x t) true 0)
    | .error .window => join s true 0
    | .ok bs =>
      let s := s.engSeen c x a.toNat 32
      let size := ((s.anyGroup c.gid).bind fun g => s.launchOf? g).elim 1 fun l => l.desc.cluster
      join s (collBad efn size (leNat bs)) (leNat bs)

/-! ### The commands -/

/-- An engine takes up a command it has not read yet. -/
def State.startCmd (s : State) (id : Nat) : State :=
  match s.cmd? id with
  | none => s
  | some c => match s.session? c.session, c.kind with
    | some x, .start 0xB0 efn a _ => s.startCopy x c (efn == 1) a
    | some x, .start 0xB1 efn a b =>
      let fin (r : State × Nat) : State := (r.1.reply c.reply (replyWord 0 r.2)).dropCmd c.id
      match efn with
      | 0 => match s.submit x c a with
        | .status t k => fin (t, k)
        | .window => fin (s, 1)
        | .fault t => (s.engFault x c t).getD (fin (s.tagCheck x t, 1))
      | 1 => fin (s.signal x a)
      | _ => fin (s.watch x c a b.toNat)
    | some x, .start 0xB3 efn a b => s.startCollective x c efn a b.toNat
    | _, _ => s

/-- A command of one lane or of the lead stream issued: a release at `.dev`; it takes a place, its reply of `n` registers is
awaited, and the engine takes it up (10 R226). -/
def State.issueCmd (s : State) (i : Iss) (l : Nat) (reply : Option Spec) (n : Nat) (kind : CmdKind) : State :=
  let d := reply.map (i.dest l)
  let c : Cmd := { id := s.nextCmd, session := i.sess.slot, gen := i.sess.gen, gid := i.group.gid, queue := none, node := none,
                   core := i.core, launch := i.launch.number, reply := d, kind := kind, held := false, done := 0, fault := none,
                   declined := false, priv := i.priv, noCtr := false, first := i.group.clusterFirst }
  let s1 := { s.releaseAt i.core 3 with cmds := s.cmds ++ [c], nextCmd := s.nextCmd + 1 }
  (match d with
    | some d => s1.awaits d n none
    | none => s1).startCmd c.id

def viewE (op : Nat) (f : EForm) (hasB : Bool) : View :=
  { op := op, ty := f.ty, types := ty0, g := f.g, bad := f.mid != 0 || f.low != 0
    uses := [if f.reply then .dst f.d else .off f.d, .base f.a, if hasB then .src f.b else .off f.b] }

/-- An engine instruction: each enabled lane issues its own command (10 R226). Where the commands of one instruction do not all find
room, all of them wait, those of lanes that would find it among them: the instruction issues as a whole (entry 83). -/
def engBody (f : EForm) (hasB : Bool) (kind : Dword → Word → CmdKind) : Body := fun i en s =>
  match mapLanes (i.lanes en) (fun l => match rd2 s i l f.a with
      | .error e => .error e
      | .ok a => if hasB then (rd1 s i l f.b).map fun b => (l, a, b) else .ok (l, a, (0 : Word))) with
  | .error e => .error e
  | .ok xs =>
    if s.inFlight i.core + xs.length > 64 then .error (.wait (.room xs.length))
    else .ok (xs.foldl (fun t x => t.issueCmd i x.1 (if f.reply then some f.d else none) 1 (kind x.2.1 x.2.2)) s)

/-- `ENG.copy`. -/
def execEngCopy (f : EForm) (s : State) : Result :=
  issue s (fun _ => viewE 0xB0 f false) false false (engBody f false fun a b => .start 0xB0 0 a b)

/-- `ENG.fill`. -/
def execEngFill (f : EForm) (s : State) : Result :=
  issue s (fun _ => viewE 0xB0 f false) false false (engBody f false fun a b => .start 0xB0 1 a b)

/-- `ENG.gsubmit`. -/
def execEngGsubmit (f : EForm) (s : State) : Result :=
  issue s (fun _ => viewE 0xB1 f false) false false (engBody f false fun a b => .start 0xB1 0 a b)

/-- `ENG.gsignal`. -/
def execEngGsignal (f : EForm) (s : State) : Result :=
  issue s (fun _ => viewE 0xB1 f false) false false (engBody f false fun a b => .start 0xB1 1 a b)

/-- `ENG.gwatch`. -/
def execEngGwatch (f : EForm) (s : State) : Result :=
  issue s (fun _ => viewE 0xB1 f true) false false (engBody f true fun a b => .start 0xB1 2 a b)

/-- `ENG.dappend`. -/
def execEngDappend (f : EForm) (s : State) : Result :=
  issue s (fun _ => viewE 0xB2 f true) false false
    (engBody f true fun a b => .dappend a (b.toNat % 65536) (b.toNat / 65536))

def viewDdrain (f : EForm) : View := { viewE 0xB2 f true with bad := f.mid != 0 || f.low != 0 || !f.reply }

/-- `ENG.ddrain`: REPLY must be 1. -/
def execEngDdrain (f : EForm) (s : State) : Result :=
  issue s (fun _ => viewDdrain f) false false
    (engBody f true fun a b => .ddrain a (b.toNat % 65536) (b.toNat / 65536))

def viewColl (f : EForm) : View := { viewE 0xB3 f false with bad := f.mid != 0 || f.low != 0 || !f.reply }

/-- A collective: exactly one enabled lane; it joins the cluster's next instance. -/
def collBody (efn : Nat) (f : EForm) : Body := fun i en s =>
  if !i.lead && (lanesOf en).length != 1 then .error illOp
  else
    let k := i.group.collectives + 1
    engBody f false (fun a _ => .start 0xB3 efn a (BitVec.ofNat 32 k)) i en
      (s.modGroupOn i.core i.group.gid fun g => { g with collectives := k })

/-- `ENG.allreduce`. -/
def execEngAllreduce (f : EForm) (s : State) : Result := issue s (fun _ => viewColl f) false false (collBody 0 f)

/-- `ENG.allgather`. -/
def execEngAllgather (f : EForm) (s : State) : Result := issue s (fun _ => viewColl f) false false (collBody 1 f)

/-- `ENG.bcast`. -/
def execEngBcast (f : EForm) (s : State) : Result := issue s (fun _ => viewColl f) false false (collBody 2 f)

end Sys2Proof.Machine
end

