-- ==== Sys2Proof/Machine/Records.lean ====
section
/-! DEFINITION. The structures that software sets up for sessions: session records (22 R385), translation records
(21 R366) and the queue table (22 R387). -/

namespace Sys2Proof.Machine

open Sys2Proof

def within (lo hi x : Nat) : Bool := decide (lo ≤ x) && decide (x ≤ hi)

/-! ### Session records -/

def State.recordAt (s : State) (slot : Nat) : Nat := s.ctrl.stabBase.toNat + 256 * slot

/-- The limits of a session record's host fields (22 R385). -/
def recordOk (v : Nat) : Bool :=
  fld v 1 8 == 0 && within 1 255 (fld v 6 8) && within 1 64 (fld v 7 8) && fld v 16 64 % 256 == 0 && fld v 24 64 % 4096 == 0 &&
  within 64 65528 (fld v 32 16) && fld v 32 16 % 8 == 0 && within 1 3072 (fld v 34 16) && fld v 36 32 == 0 &&
  fld v 40 64 % 4096 == 0 && fld v 48 64 % 4096 == 0 && within 6 16 (fld v 56 8) && fld v 57 56 == 0 && fld v 92 32 == 0 &&
  fld v 96 64 % 4096 == 0 && fld v 104 1216 == 0

/-- The limits of a translation record (21 R366). -/
def trecOk (v : Nat) : Bool :=
  fld v 0 64 % 8192 == 0 && fld v 8 8 ≤ 63 && fld v 9 8 < 8 && fld v 10 16 ≤ 8 && fld v 12 32 == 0 && fld v 16 64 % 4096 == 0 &&
  within 6 16 (fld v 24 8) && fld v 25 56 == 0 && fld v 32 64 % 4096 == 0 && within 6 16 (fld v 40 8) && fld v 41 184 == 0 &&
  ((List.range (fld v 10 16)).all fun r =>
    sessionSpace (fld v (64 + 16 * r) 64) && fld v (64 + 16 * r) 64 % 4096 == 0 && within 1 (2 ^ 24) (fld v (72 + 16 * r) 32) && fld v (76 + 16 * r) 32 ≤ 1) &&
  fld v 192 512 == 0

/-- A translation record as the device reads it at an address, if it meets its limits and lies in LPDDR. -/
def State.goodTrec (s : State) (a : Nat) : Bool :=
  a % 256 == 0 && decide (a + 256 ≤ lpddrSize) && (s.dev a 256).any trecOk

/-- The incarnation number the next session of a slot takes (23 R409). -/
def State.nextIncarnation (s : State) (slot : Nat) : Nat := (alGet? s.incarnations slot).getD 0 + 1

/-- A new session of a slot from its record: IDLE, generation 1, all counters 0 (22 R404, R429). -/
def newSession (slot v inc : Nat) : Session :=
  { slot := slot, st := .idle, gen := 1, handle := BitVec.ofNat 16 (fld v 4 16), weight := fld v 6 8, cap := fld v 7 8,
    boost := fld v 8 32, waitBudget := fld v 12 32, trec := fld v 16 64, rsBase := BitVec.ofNat 64 (fld v 24 64),
    rsDepth := fld v 32 16, rsBands := fld v 34 16, lkBase := BitVec.ofNat 64 (fld v 96 64), save := fld v 40 64,
    snap := BitVec.ofNat 64 (fld v 48 64), snapCap := fld v 56 8, vt := 0, fragStall := 0, resets := 0, incarnation := inc,
    tensors := [], tvec := 0, tdeleg := 0, tring := 0, tringcap := 6, launchNo := 0, batchNo := 0, saved := [],
    tokenHolder := none, tokenQueue := [], keySlot := none, sessMeas := 0, logCount := 0, streamFails := 0, malformed := 0,
    watchdogs := [] }

/-- Adds a session to its slot. -/
def State.addSession (s : State) (x : Session) : State :=
  { s with sessions := s.sessions ++ [x], incarnations := alSet s.incarnations x.slot x.incarnation }

/-- The lowest FREE session slot. -/
def State.freeSessionSlot (s : State) : Option Nat := (List.range 128).find? fun n => (s.session? n).isNone

/-! ### The queue table -/

def queueCount : Nat := 16384
def State.queueAt (s : State) (q : Nat) : Nat := s.ctrl.mqtBase.toNat + 64 * q

/-- An entry; one that the device cannot read counts as zero, hence unused. -/
def State.queueEntry (s : State) (q : Nat) : Nat := s.dev0 (s.queueAt q) 64

def qRing (v : Nat) : Nat := fld v 0 64
def qWptr (v : Nat) : Nat := fld v 8 64
def qRptr (v : Nat) : Nat := fld v 16 64
def qCap (v : Nat) : Nat := 2 ^ fld v 24 8
def qOwner (v : Nat) : Nat := fld v 25 8
def qPrio (v : Nat) : Nat := fld v 26 8
def qEnabled (v : Nat) : Bool := bitOf (fld v 27 8) 0
def qStatus (v : Nat) : Nat := fld v 28 8
def qWdog (v : Nat) : Nat := fld v 32 32

/-- The limits of an entry's software fields. -/
def queueOk (v : Nat) : Bool :=
  qRing v % 4096 == 0 && within 4 16 (fld v 24 8) && qOwner v < 128 && qPrio v ≤ 3 && fld v 27 8 ≤ 1 && fld v 30 16 == 0 &&
  fld v 36 224 == 0

/-- An entry that belongs to no session. -/
def State.queueUnused (s : State) (q : Nat) : Bool :=
  let v := s.queueEntry q
  !qEnabled v || (s.session? (qOwner v)).isNone

/-- The entries a session owns, in ascending number. -/
def State.queuesOwned (s : State) (slot : Nat) : List Nat :=
  (List.range queueCount).filter fun q => !s.queueUnused q && qOwner (s.queueEntry q) == slot

/-- Device-owned fields of an entry. -/
def State.setRptr (s : State) (q n : Nat) : State := s.devPutNum (s.queueAt q + 16) 8 n
def State.setQStatus (s : State) (q st : Nat) : State := s.devPutNum (s.queueAt q + 28) 1 st
def State.setQSlot (s : State) (q slot : Nat) : State := s.devPutNum (s.queueAt q + 29) 1 slot

end Sys2Proof.Machine
end

