-- ==== Sys2Proof/Machine/Command.lean ====
section
/-! DEFINITION. User queues and command processors (22 R387 to R390, R437): doorbells, the hardware queue slots, and every
command but SNAPSHOT. -/

namespace Sys2Proof.Machine

open Sys2Proof

/-! ### Queues and hardware slots (22 R388, R389) -/

/-- WPTR, as it was last read, less RPTR exceeds the capacity (22 R388). -/
def overrun (v wptr : Nat) : Bool := decide (qCap v < (wptr + 2 ^ 64 - qRptr v) % 2 ^ 64)

def State.ctxOf (s : State) (queue : Nat) : Option QueueCtx := s.queues.find? fun q => q.queue == queue
def State.ctxAt (s : State) (slot : Nat) : Option QueueCtx := s.queues.find? fun q => q.slot == slot
def State.modCtx (s : State) (queue : Nat) (f : QueueCtx → QueueCtx) : State := { s with queues := updFirst (fun q => q.queue == queue) f s.queues }

/-- A queue unmapped. -/
def State.unmap (s : State) (queue : Nat) : State :=
  { s.setQSlot queue 255 with queues := s.queues.filter fun (q : QueueCtx) => q.queue != queue }

/-- A queue stops with a STATUS. -/
def State.stopQueue (s : State) (queue status : Nat) : State :=
  { (s.setQStatus queue status).unmap queue with doorbells := s.doorbells.filter fun (e : Nat × Nat) => e.1 != queue }

/-- A queue is ready, with the WPTR that its last doorbell read. -/
def State.queueReady (s : State) (queue wptr : Nat) : Bool :=
  let v := s.queueEntry queue
  qEnabled v && qStatus v == 0 && wptr != qRptr v && (s.session? (qOwner v)).any fun x => x.st.code ≤ 3

/-- A doorbell kept with the WPTR it has read; a queue keeps the place of its earliest (22 R389). -/
def State.keepDoorbell (s : State) (queue wptr : Nat) : State :=
  if s.doorbells.any fun e => e.1 == queue then
    { s with doorbells := updFirst (fun (e : Nat × Nat) => e.1 == queue) (fun _ => (queue, wptr)) s.doorbells }
  else { s with doorbells := s.doorbells ++ [(queue, wptr)] }

/-- `DOORBELL`: the device reads the queue's WPTR. It keeps it while the session is RESETTING or FROZEN (log entry 28), and
otherwise acts on it: for the slot of a mapped queue, or by letting a ready queue be mapped. -/
def execDoorbell (s : State) : Result :=
  let q := s.ctrl.doorbell.toNat % 2 ^ 14
  let v := s.queueEntry q
  match s.session? (qOwner v) with
  | none => .next s
  | some x =>
    if !qEnabled v then .next s
    else if x.st == .resetting then .next (s.keepDoorbell q (qWptr v))
    else if qStatus v == 0 && overrun v (qWptr v) then .next (s.stopQueue q 1)
    else if (s.ctxOf q).isSome then .next (s.modCtx q fun k => { k with wptr := qWptr v })
    else if x.st == .frozen || s.queueReady q (qWptr v) then .next (s.keepDoorbell q (qWptr v))
    else .next s

/-- The best ready queue that is not mapped: by PRIO, then by the earliest doorbell, then by number; with its WPTR. -/
def State.nextQueue (s : State) : Option (Nat × Nat) :=
  (argMin (fun (e : (Nat × Nat) × Nat) => (3 - qPrio (s.queueEntry e.1.1)) * 2 ^ 32 + e.2)
    (s.doorbells.zipIdx.filter fun (e : (Nat × Nat) × Nat) => s.queueReady e.1.1 e.1.2 && (s.ctxOf e.1.1).isNone)).map (·.1)

/-- The lowest free hardware queue slot. -/
def State.freeQueueSlot (s : State) : Option Nat := (List.range 128).find? fun n => (s.ctxAt n).isNone

/-- A queue as it is mapped, with those of its commands that have not completed. -/
def State.newCtx (s : State) (slot queue owner rptr wptr : Nat) : QueueCtx :=
  { slot := slot, queue := queue, session := owner, next := rptr, wptr := wptr, loops := [], skip := 0
    launches := (s.launches.filter fun l => l.session == owner && l.queue == some queue).map (·.number)
    cmds := (s.cmds.filter fun c => c.session == owner && c.queue == some queue).map (·.id)
    nodes := (s.nodes.filter fun n => n.session == owner && n.queue == some queue && n.st != .finished).map (·.addr)
    fault := none, declined := false, wdog := 0, idleFor := 0 }

/-- `QUEUE_MAP`. -/
def execQueueMap (s : State) : Result :=
  if !s.ctrl.schedEnable then .next s
  else match s.nextQueue, s.freeQueueSlot with
    | some (q, w), some n =>
      let v := s.queueEntry q
      if overrun v w then .next (s.stopQueue q 1)
      else .next { s.setQSlot q n with
        queues := s.queues ++ [s.newCtx n q (qOwner v) (qRptr v) w]
        doorbells := s.doorbells.filter fun (e : Nat × Nat) => e.1 != q }
    | _, _ => .next s

/-- A mapped queue with nothing left to do. -/
def State.queueIdle (s : State) (q : QueueCtx) : Bool :=
  qRptr (s.queueEntry q.queue) == q.wptr && q.launches.isEmpty && q.cmds.isEmpty && q.nodes.isEmpty

/-- The lowest slot whose queue has been idle for 4096 base-die cycles. -/
def State.unmappable (s : State) : Option QueueCtx :=
  (List.range 128).findSome? fun n => (s.ctxAt n).filter fun q => s.queueIdle q && decide (4096 ≤ q.idleFor)

/-- `QUEUE_UNMAP_IDLE`. -/
def execQueueUnmapIdle (s : State) : Result :=
  match s.unmappable with
  | none => .next s
  | some q => .next (s.unmap q.queue)

/-! ### Command processors (22 R390) -/

/-- How the start of a command goes. -/
inductive CpRes where
  /-- it cannot start yet -/
  | stay
  /-- it has started; the queue goes on as given -/
  | done (s : State) (f : QueueCtx → QueueCtx)
  /-- the queue stops with STATUS COMMAND -/
  | bad
  /-- an access needs the translation service, or has failed -/
  | fault (t : Trap)

/-- The RPTR of a queue: at the outermost open loop, or at the next command. -/
def QueueCtx.rptr (q : QueueCtx) : Nat := match q.loops with
  | l :: _ => l.start
  | [] => q.next

/-- The queue at a command processor goes on: its RPTR is written, and its WPTR read again (22 R388). -/
def State.goOn (s : State) (queue : Nat) (f : QueueCtx → QueueCtx) : State :=
  let s1 := s.modCtx queue fun q => { f q with declined := false, wptr := qWptr (s.queueEntry queue) }
  match s1.ctxOf queue with
  | some q => s1.setRptr queue q.rptr
  | none => s1

/-- The queue stops at a faulty command, where RPTR is left. -/
def State.stopBad (s : State) (q : QueueCtx) : State := (s.setRptr q.queue q.next).stopQueue q.queue 2

/-- An access of a command processor failed (22 R437). -/
def State.cpFault (s : State) (x : Session) (q : QueueCtx) (t : Trap) : State :=
  if t.code.toNat == pageFault && !q.declined && s.fring x != 0 then
    match s.faultBatch x t.pages (t.sub.toNat % 4) true with
    | some (s1, b) => s1.modCtx q.queue fun k => { k with fault := some b }
    | none => s
  else (s.tagCheck x t).stopBad q

def State.cpEnd (s : State) (x : Session) (q : QueueCtx) (r : CpRes) : State :=
  match r with
  | .stay => s
  | .done t f => t.goOn q.queue f
  | .bad => s.stopBad q
  | .fault t => s.cpFault x q t

/-- Whether every earlier command of a queue has completed. -/
def QueueCtx.idle (q : QueueCtx) : Bool := q.launches.isEmpty && q.cmds.isEmpty && q.nodes.isEmpty

/-- A command that the queue's slot may start now: the queue, its session and the command's 64 bytes as a number. -/
inductive CpHead where
  | nothing
  | skipping (q : QueueCtx) (n : Nat)
  | overrun (q : QueueCtx)
  | fault (x : Session) (q : QueueCtx) (t : Trap)
  | cmd (x : Session) (q : QueueCtx) (v : Nat)

def State.cpHead (s : State) (slot : Nat) : CpHead :=
  match s.ctxAt slot with
  | none => .nothing
  | some q => match s.session? q.session with
    | none => .nothing
    | some x =>
      let e := s.queueEntry q.queue
      if x.st.code > 3 || q.fault.isSome then .nothing
      else if overrun e q.wptr then .overrun q
      else if q.wptr ≤ q.next then .nothing
      else if q.skip != 0 then .skipping q (min q.skip (q.wptr - q.next))
      else match s.sxNum x (qRing e + 64 * (q.next % qCap e)) 64 with
        | .error t => .fault x q t
        | .ok v => .cmd x q v

def cpOp (v : Nat) : Nat := v % 256
def cpAfter (v : Nat) : Bool := bitOf v 8

/-- Whether the bytes of a command from one on are zero. -/
def zeroFrom (v off : Nat) : Bool := v / 2 ^ (8 * off) == 0

/-- Runs the command of an OPC at the command processor whose turn it is. -/
def cpRun (opc : Nat) (body : State → Session → QueueCtx → Nat → CpRes) (s : State) : Result :=
  match s.cpHead s.cpTurn with
  | .cmd x q v =>
    if cpOp v != opc then .next s
    else if bitsOf v 63 9 != 0 then .next (s.stopBad q)
    else if cpAfter v && !q.idle then .next s
    else .next (s.cpEnd x q (body s x q v))
  | _ => .next s

def nextCmdOf (q : QueueCtx) : QueueCtx := { q with next := q.next + 1 }

/-- `CP_NOP`. What no command's row covers is handled here too: skipped commands, a queue that has overrun, a command that
cannot be read, and one with an unassigned OPC. -/
def execCpNop (s : State) : Result :=
  match s.cpHead s.cpTurn with
  | .nothing => .next s
  | .skipping q n => .next (s.goOn q.queue fun k => { k with next := k.next + n, skip := k.skip - n })
  | .overrun q => .next (s.stopQueue q.queue 1)
  | .fault x q t => .next (s.cpFault x q t)
  | .cmd _ q v =>
    if 12 ≤ cpOp v then .next (s.stopBad q)
    else cpRun 0 (fun t _ _ w => if zeroFrom w 8 then .done t nextCmdOf else .bad) s

/-- A launch command started. -/
def cpLaunch (s : State) (x : Session) (q : QueueCtx) (va : Nat) (grid : Option (Nat × Nat × Nat)) : CpRes :=
  if va % 64 != 0 then .bad
  else match s.startLaunch x va grid (s.queuePriv x (some q.queue)) q.declined (some q.queue) none with
    | .fault t => .fault t
    | .wait => .stay
    | .done t no => .done t fun k => { nextCmdOf k with launches := k.launches ++ [no] }

/-- `LAUNCH`. -/
def execLaunch (s : State) : Result :=
  cpRun 1 (fun t x q v => if zeroFrom v 16 then cpLaunch t x q (fld v 8 64) none else .bad) s

/-- `LAUNCHI`: the grid is read at start. -/
def execLaunchi (s : State) : Result :=
  cpRun 2 (fun t x q v =>
    if !zeroFrom v 24 then .bad
    else match t.sxNum x (fld v 16 64) 12 with
      | .error e => .fault e
      | .ok g => cpLaunch t x q (fld v 8 64) (some (fld g 0 32, fld g 4 32, fld g 8 32))) s

/-- `CP_COPY`. The descriptor is an operand of the command: one that cannot be read stops the queue (22 R390, R437). -/
def execCpCopy (s : State) : Result :=
  cpRun 3 (fun t x q v =>
    let a := fld v 8 64
    let go : CpRes :=
      let (t1, id) := t.addCopy x (some q.queue) none (BitVec.ofNat 64 a)
      .done t1 fun k => { nextCmdOf k with cmds := if (t1.cmd? id).isSome then k.cmds ++ [id] else k.cmds }
    if !zeroFrom v 16 then .bad
    else if a % 32 != 0 then go
    else match t.sxNum x a 32 with
      | .error e => .fault e
      | .ok _ => go) s

/-- The condition of WAIT and COND on the word they name; none where ADDR or the field is out of range. -/
def cpCond (s : State) (x : Session) (v : Nat) : Option (Except Trap Bool) :=
  let a := fld v 8 64
  let c := fld v 24 32
  if a % 8 != 0 || 8 ≤ c then none
  else
    let n := if bitOf c 2 then 8 else 4
    some ((s.sxNum x a n).map fun w =>
      let y := fld v 16 (8 * n)
      match c % 4 with
      | 0 => w == y
      | 1 => w != y
      | 2 => decide (y ≤ w)
      | _ => decide (w < y))

/-- `CP_WAIT`: one read of the location. -/
def execCpWait (s : State) : Result :=
  cpRun 4 (fun t x _ v =>
    if !zeroFrom v 28 then .bad
    else match cpCond t x v with
      | none => .bad
      | some (.error e) => .fault e
      | some (.ok true) => .done t nextCmdOf
      | some (.ok false) => .stay) s

/-- `SIGNAL`. -/
def execSignal (s : State) : Result :=
  cpRun 5 (fun t x _ v =>
    let a := fld v 8 64
    if a % 8 != 0 || 2 ≤ fld v 24 32 || !zeroFrom v 28 then .bad
    else
      let n := if fld v 24 32 == 1 then 8 else 4
      match t.sxWriteNum x a n (fld v 16 (8 * n)) with
      | .error e => .fault e
      | .ok t1 => .done t1 nextCmdOf) s

/-- `LOOP`. -/
def execLoop (s : State) : Result :=
  cpRun 6 (fun t _ q v =>
    let n := fld v 8 64
    if n == 0 || 2 ^ 32 ≤ n || !zeroFrom v 16 || 4 ≤ q.loops.length then .bad
    else .done t fun k => { nextCmdOf k with loops := k.loops ++ [{ start := k.next, left := n }] }) s

/-- `ENDLOOP`: the innermost loop's next pass, or its end. -/
def execEndloop (s : State) : Result :=
  cpRun 7 (fun t _ q v =>
    match q.loops.getLast? with
    | none => .bad
    | some l =>
      if !zeroFrom v 8 then .bad
      else if 1 < l.left then
        .done t fun k => { k with next := l.start + 1, loops := k.loops.dropLast ++ [{ l with left := l.left - 1 }] }
      else .done t fun k => { nextCmdOf k with loops := k.loops.dropLast }) s

/-- `COND`: a false condition skips the next SKIP commands. -/
def execCond (s : State) : Result :=
  cpRun 8 (fun t x _ v =>
    let n := fld v 28 32
    if n == 0 || 256 ≤ n || !zeroFrom v 32 then .bad
    else match cpCond t x v with
      | none => .bad
      | some (.error e) => .fault e
      | some (.ok b) => .done t fun k => { nextCmdOf k with skip := if b then 0 else n }) s

/-- `GRAPH`: submits a node, as `ENG.gsubmit`; one that is refused leaves no node, and a record that cannot be read stops the
queue. -/
def execGraph (s : State) : Result :=
  cpRun 9 (fun t x q v =>
    let a := BitVec.ofNat 64 (fld v 8 64)
    let c : Cmd := { id := t.nextCmd, session := x.slot, gen := x.gen, gid := 0, queue := some q.queue, node := none, core := 64,
                     launch := 0, reply := none, kind := .start 0xB1 0 a 0, held := false, done := 0, fault := none,
                     declined := q.declined, priv := true, noCtr := false, first := 0 }
    if !zeroFrom v 16 then .bad
    else match t.submit x c a with
      | .status t1 0 => .done t1 fun k => { nextCmdOf k with nodes := k.nodes ++ [a] }
      | .status t1 _ => .done t1 nextCmdOf
      | .window => .bad
      | .fault e => .fault e) s

/-- A resident unit parked as TRAPPED with a record. -/
def State.trappedUnit (s : State) (slot n : Nat) : Option (Group × Who × Trap) :=
  (s.residents.filter fun e => e.2.session == slot).findSome? fun e =>
    let is (st : Status) : Bool := match st with
      | .trapped _ (some k) => k == n
      | _ => false
    let trapOf (st : Status) : Trap := match st with
      | .trapped t _ => t
      | _ => mkTrap 0 0
    if is e.2.lead.status then some (e.2, .lead, trapOf e.2.lead.status)
    else match e.2.streams.zipIdx.find? fun (y : Stream × Nat) => is y.1.status with
      | some (y, k) => some (e.2, .stream k, trapOf y.status)
      | none => e.2.bands.zipIdx.findSome? fun (b : Band × Nat) =>
          match (List.range 32).find? fun l => is (b.1.lane l).status with
          | none => none
          | some l => some (e.2, .lanes b.2 (maskOf fun m => is (b.1.lane m).status), trapOf (b.1.lane l).status)

/-- Whether a swapped-out unit is parked with a record: its launch, if so. -/
def State.trappedOut (s : State) (slot n : Nat) : Option Nat :=
  let is (st : Status) : Bool := match st with
    | .trapped _ (some k) => k == n
    | _ => false
  ((s.parked.filter fun g => g.session == slot).find? fun g =>
    is g.lead.status || (g.streams.any fun y => is y.status) || g.bands.any fun b => b.lanes.any fun y => is y.status).map (·.launch)

/-- `RESUME`: it waits while the unit's context is swapped out. -/
def execResume (s : State) : Result :=
  cpRun 11 (fun t x _ v =>
    let n := fld v 8 64
    let action := fld v 16 64
    let ring := x.tring.toNat
    let cap := 2 ^ x.tringcap.toNat
    if 4 ≤ action || !zeroFrom v 24 || ring == 0 then .bad
    else match t.sxNum x ring 8 with
      | .error e => .fault e
      | .ok w =>
        if w ≤ n || cap < w - n then .bad
        else match t.sxNum x (ring + 64 * (1 + n % cap)) 64 with
          | .error e => .fault e
          | .ok r =>
            let code := fld r 24 8
            if code == watchdogCode || code == waitBudgetCode then .bad
            else match t.trappedUnit x.slot n with
              | some (g, who, tr) =>
                if action == 3 then .done (t.endLaunch x.slot g.launch 3) nextCmdOf
                else .done (t.resumeUnit g who tr action) nextCmdOf
              | none => match t.trappedOut x.slot n with
                | some l => if action == 3 then .done (t.endLaunch x.slot l 3) nextCmdOf else .stay
                | none => .done t nextCmdOf) s

end Sys2Proof.Machine
end

