-- ==== Sys2Proof/Machine/Approx.lean ====
section
/-! DEFINITION. The approximate instructions of 08 R176: special values, and elsewhere a free result held to the bound
that the rule states (entry 7). The enclosures below are of the exact function value. -/

namespace Sys2Proof

inductive ApproxOp where
  | exp2 | log2 | sin | cos | tanh
  deriving DecidableEq, Repr

def ApproxOp.num : ApproxOp → Nat
  | .exp2 => 0
  | .log2 => 1
  | .sin => 2
  | .cos => 3
  | .tanh => 4

/-- A real number between `lo·2^e` and `hi·2^e`. -/
structure Encl where
  lo : Int
  hi : Int
  e : Int
  deriving DecidableEq, Repr

/-- ln 2 in units of 2^-96, from below by less than 128 units. -/
def ln2Fix : Nat := (List.range 97).foldl (fun a k => if k = 0 then a else a + 2 ^ 96 / (k * 2 ^ k)) 0

/-- Sum of `y^k / k!` for `first ≤ k ≤ n` in units of 2^-p, from below. -/
def expSeries (p y : Nat) : Nat → Nat → Nat → Nat → Nat
  | 0, _, _, acc => acc
  | n + 1, k, term, acc => let t := term * y / (2 ^ p * k); expSeries p y n (k + 1) t (acc + t)

/-- 2^x. -/
def exp2Encl (s : Bool) (m : Nat) (e : Int) : Encl :=
  let num : Int := if s then -(m : Int) else m
  let fix : Int := if 0 ≤ e + 96 then num * 2 ^ (e + 96).toNat else num / (2 ^ (-(e + 96)).toNat : Nat)
  let n := fix / (2 ^ 96 : Nat)
  let f := (fix % (2 ^ 96 : Nat)).toNat
  let v := expSeries 96 (f * ln2Fix / 2 ^ 96) 40 1 (2 ^ 96) (2 ^ 96)
  { lo := v, hi := v + 1024, e := n - 96 }

/-- Digits of log2 of `z / 2^128` in [1, 2), one per squaring. -/
def log2Digits : Nat → Nat → Nat → Nat
  | 0, _, acc => acc
  | n + 1, z, acc =>
    let y := z * z / 2 ^ 128
    if y ≥ 2 ^ 129 then log2Digits n (y / 2) (2 * acc + 1) else log2Digits n y (2 * acc)

/-- log2 x. -/
def log2Encl (m : Nat) (e : Int) : Encl :=
  let d := log2Digits 60 (m * 2 ^ (128 - m.log2)) 0
  let v : Int := (e + m.log2) * (2 ^ 60 : Nat) + d
  { lo := v - 4, hi := v + 4, e := -60 }

/-- arctan (1/n) in units of 2^-p. -/
def atanInv (p n : Nat) : Int :=
  (List.range 160).foldl (fun a k => let t : Int := (2 ^ p / ((2 * k + 1) * n ^ (2 * k + 1)) : Nat); if k % 2 = 0 then a + t else a - t) 0

/-- π in units of 2^-p (Machin's formula). -/
def piFix (p : Nat) : Nat := (16 * atanInv p 5 - 4 * atanInv p 239).toNat

/-- Alternating series of sine or cosine of `r / 2^96`. -/
def trigSeries (r : Nat) : Nat → Nat → Nat → Int → Int → Int
  | 0, _, _, _, acc => acc
  | n + 1, k, term, sg, acc =>
    let t := term * r / 2 ^ 96 * r / (2 ^ 96 * (k * (k + 1)))
    trigSeries r n (k + 2) t (-sg) (acc - sg * t)

/-- sin x or cos x. -/
def trigEncl (cosine s : Bool) (m : Nat) (e : Int) : Encl :=
  let x := m * 2 ^ (e + 320).toNat
  let pi := piFix 320
  let n := 2 * x / pi
  let r := (2 * x - n * pi) / 2 ^ 225
  let sin := trigSeries r 30 2 r 1 r
  let cos := trigSeries r 30 1 (2 ^ 96) 1 (2 ^ 96)
  let q := (n + b2n cosine) % 4
  let v := if q = 0 then sin else if q = 1 then cos else if q = 2 then -sin else -cos
  let v := if s && !cosine then -v else v
  { lo := v - 1024, hi := v + 1024, e := -96 }

/-- tanh x for x > 0, then its sign. -/
def tanhEncl (s : Bool) (m : Nat) (e : Int) : Encl :=
  let p := 128 + (-(e + m.log2)).toNat
  let y := 2 * m * 2 ^ (e + p).toNat
  let a := expSeries p y 120 1 (2 ^ p) 0
  let part (b : Nat) : Int := (b * 2 ^ p / (b + 2 * 2 ^ p) : Nat)
  let lo := part a
  let hi := part (a + 2 ^ 40) + 1
  if s then { lo := -hi, hi := -lo, e := -p } else { lo := lo, hi := hi, e := -p }

/-- Whether ±m·2^e lies within `k·2^q` of an enclosed number. -/
def Encl.within (x : Encl) (k : Nat) (q : Int) (s : Bool) (m : Nat) (e : Int) : Bool :=
  let b := min x.e (min q e)
  let v : Int := (if s then -(m : Int) else m) * 2 ^ (e - b).toNat
  let d : Int := (k : Int) * 2 ^ (q - b).toNat
  decide (x.lo * 2 ^ (x.e - b).toNat - d ≤ v) && decide (v ≤ x.hi * 2 ^ (x.e - b).toNat + d)

/-- Exponent of one ulp of a format at an enclosed number. -/
def Encl.ulp (x : Encl) (f : Fmt) : Int :=
  max (x.e + ((min x.lo.natAbs x.hi.natAbs).log2 : Int) - f.mb) f.emin

/-- A free result within `k·2^q` of the enclosed number: the one the module fixes where it lies within, else the nearest. -/
def Encl.pick (x : Encl) (f : Fmt) (op : ApproxOp) (bits k : Nat) (q : Int) : Nat :=
  let c := if f == fmtF32 then (Config.approx32 op.num (BitVec.ofNat 32 bits)).toNat
           else (Config.approx16 op.num (BitVec.ofNat 16 bits)).toNat
  let mid := (x.lo + x.hi) / 2
  let near := (f.deliver 0 .none false 0 ⟨.fin (decide (mid < 0)) mid.natAbs x.e false, 0⟩).bits
  match f.decode c with
  | .fin s m e _ => if x.within k q s m e then c else near
  | _ => near

/-- An approximate instruction on a value: special values, flags and bounds of 08 R176. -/
def approxOut (op : ApproxOp) (f : Fmt) (v : FVal) : FOut :=
  let give (r : FRes) : FOut := f.deliver 0 .none false 0 r
  let bits := (give ⟨v, 0⟩).bits
  let wide := f == fmtF32
  match v with
  | .nan q => give (nanRes q)
  | .inf s => match op with
    | .exp2 => if s then give ⟨fzero false, 0⟩ else give ⟨.inf false, 0⟩
    | .log2 => if s then give (nanRes true) else give ⟨.inf false, 0⟩
    | .sin => give (nanRes true)
    | .cos => give (nanRes true)
    | .tanh => give ⟨.fin s 1 0 false, 0⟩
  | .fin s m e _ => match op with
    | .exp2 =>
      let big : Nat := if wide then 128 else 16
      if !s && decide ((big : Int) * 2 ^ (-e).toNat ≤ m * 2 ^ e.toNat) then give ⟨.inf false, flOverflow⟩
      else if s && decide (512 * 2 ^ (-e).toNat ≤ m * 2 ^ e.toNat) then
        let x : Encl := { lo := 0, hi := 1, e := -400 }
        ⟨x.pick f op bits (if wide then 2 else 1) (x.ulp f), 0⟩
      else
        let x := exp2Encl s m e
        let whole := decide (0 ≤ e) || m % 2 ^ (-e).toNat == 0
        if wide && whole && decide (f.emin + f.mb ≤ x.e + 96) then give ⟨.fin false 1 (x.e + 96) false, 0⟩
        else ⟨x.pick f op bits (if wide then 2 else 1) (x.ulp f), 0⟩
    | .log2 =>
      if m = 0 then give ⟨.inf true, flDivZero⟩
      else if s then give (nanRes true)
      else if m = 2 ^ m.log2 && (wide || e + m.log2 = 0) then
        let k := e + m.log2
        give ⟨.fin (decide (k < 0)) k.natAbs 0 false, 0⟩
      else
        let x := log2Encl m e
        let lg := e + m.log2
        ⟨if wide && (lg == 0 || lg == -1) then x.pick f op bits 1 (-22) else x.pick f op bits (if wide then 2 else 1) (x.ulp f), 0⟩
    | .sin =>
      if m = 0 then give ⟨v, 0⟩ else ⟨(trigEncl false s m e).pick f op bits 1 (if wide then -21 else -10), 0⟩
    | .cos =>
      if m = 0 then give ⟨.fin false 1 0 false, 0⟩
      else ⟨(trigEncl true s m e).pick f op bits 1 (if wide then -21 else -10), 0⟩
    | .tanh =>
      if m = 0 then give ⟨v, 0⟩
      else if decide ((if wide then 91 else 42) * 2 ^ (-e).toNat ≤ 10 * m * 2 ^ e.toNat) then give ⟨.fin s 1 0 false, 0⟩
      else let x := tanhEncl s m e; ⟨x.pick f op bits (if wide then 2 else 1) (x.ulp f), 0⟩

end Sys2Proof
end

