-- ==== Sys2Proof/Decode.lean ====
section
/-! DEFINITION. Decoding and encoding of the 96-bit instruction word (07 R137 to R151). -/

namespace Sys2Proof

/-- The type of a code (07 R137). -/
def tyOf (c : BitVec 4) : Ty :=
  match c.toNat with
  | 0 => .b32 | 1 => .s32 | 2 => .n32 | 3 => .b64 | 4 => .s64 | 5 => .n64 | 6 => .f32 | 7 => .f64
  | 8 => .f16 | 9 => .bf16 | 10 => .f16x2 | 11 => .bf16x2 | 12 => .s16x2 | 13 => .n16x2 | 14 => .s8x4 | _ => .n8x4

/-- A register specifier (07 R139). -/
def specOf (x : BitVec 12) : Spec := { kill := x.getLsbD 11, bank := x.getLsbD 10, idx := x.extractLsb' 0 10 }

def opOf (w : BitVec 96) : Nat := (w.extractLsb' 88 8).toNat
def fnOf (w : BitVec 96) : Nat := (w.extractLsb' 84 4).toNat
def wTy (w : BitVec 96) : Ty := tyOf (w.extractLsb' 80 4)
def wGuard (w : BitVec 96) : Guard := { neg := w.getLsbD 79, mask := w.extractLsb' 76 3 }
def wD (w : BitVec 96) : Spec := specOf (w.extractLsb' 64 12)
def wA (w : BitVec 96) : Spec := specOf (w.extractLsb' 52 12)
def wB (w : BitVec 96) : Spec := specOf (w.extractLsb' 40 12)
def wC (w : BitVec 96) : Spec := specOf (w.extractLsb' 28 12)
/-- EFN of the E form (07 R144). -/
def efnOf (w : BitVec 96) : Nat := (w.extractLsb' 21 7).toNat

def rForm (w : BitVec 96) : RForm :=
  { ty := wTy w, g := wGuard w, d := wD w, a := wA w, b := wB w, c := wC w, hi := w.extractLsb' 20 8,
    rnd := w.extractLsb' 17 3, sat := w.getLsbD 16, ftz := w.getLsbD 15, negA := w.getLsbD 14, negB := w.getLsbD 13,
    negC := w.getLsbD 12, low := w.extractLsb' 0 12 }

def iForm (w : BitVec 96) : IForm :=
  { ty := wTy w, g := wGuard w, d := wD w, a := wA w, imm := w.extractLsb' 20 32, rnd := w.extractLsb' 17 3,
    sat := w.getLsbD 16, ftz := w.getLsbD 15, negA := w.getLsbD 14, low := w.extractLsb' 0 14 }

def mForm (w : BitVec 96) : MForm :=
  { ty := wTy w, g := wGuard w, d := wD w, a := wA w, b := wB w, c := wC w, disp := w.extractLsb' 8 20,
    scope := w.extractLsb' 5 3, order := w.extractLsb' 3 2, hint := w.extractLsb' 1 2, idx := w.getLsbD 0 }

def bForm (w : BitVec 96) : BForm :=
  { ty := wTy w, g := wGuard w, d := wD w, a := wA w, loff := w.extractLsb' 24 28, slot := w.extractLsb' 21 3,
    wsh := w.extractLsb' 12 9, low := w.extractLsb' 0 12 }

def eForm (w : BitVec 96) : EForm :=
  { ty := wTy w, g := wGuard w, d := wD w, a := wA w, b := wB w, mid := w.extractLsb' 28 12, reply := w.getLsbD 20,
    low := w.extractLsb' 0 20 }

def tForm (w : BitVec 96) : TForm :=
  { ty := wTy w, g := wGuard w, d := wD w, tidA := w.extractLsb' 56 8, tidB := w.extractLsb' 48 8,
    tidC := w.extractLsb' 40 8, crd := specOf (w.extractLsb' 28 12), tile := w.extractLsb' 23 5, wslot := w.extractLsb' 19 4,
    shd := w.getLsbD 18, rnd := w.extractLsb' 15 3, low := w.extractLsb' 0 15 }

/-- Rows of the opcode map with OP 0x00 to 0x0F, by FN. -/
def decRow0 (lo fn : Nat) (w : BitVec 96) : Option Instr :=
  match lo with
  | 0x0 => match fn with
    | 0 => some (.nop (rForm w))
    | _ => none
  | 0x1 => match fn with
    | 0 => some (.bra (bForm w))
    | 1 => some (.jmp (bForm w))
    | 2 => some (.brx (bForm w))
    | _ => none
  | 0x2 => match fn with
    | 0 => some (.call (bForm w))
    | 1 => some (.calli (bForm w))
    | _ => none
  | 0x3 => match fn with
    | 0 => some (.ret (rForm w))
    | _ => none
  | 0x4 => match fn with
    | 0 => some (.exit (rForm w))
    | _ => none
  | 0x5 => match fn with
    | 0 => some (.alloc (iForm w))
    | _ => none
  | 0x6 => match fn with
    | 0 => some (.split (rForm w))
    | 1 => some (.rejoin (rForm w))
    | _ => none
  | 0x7 => match fn with
    | 0 => some (.repeatImm (iForm w))
    | 1 => some (.repeatReg (iForm w))
    | _ => none
  | _ => none

/-- Rows of the opcode map with OP 0x10 to 0x1F, by FN. -/
def decRow1 (lo fn : Nat) (w : BitVec 96) : Option Instr :=
  match lo with
  | 0x0 => match fn with
    | 0 => some (.iadd (.r (rForm w)))
    | 1 => some (.isub (.r (rForm w)))
    | 2 => some (.imul (.r (rForm w)))
    | 3 => some (.imulhi (.r (rForm w)))
    | 4 => some (.imad (rForm w))
    | 5 => some (.iadd3 (rForm w))
    | 6 => some (.addmin (rForm w))
    | 7 => some (.addmax (rForm w))
    | _ => none
  | 0x1 => match fn with
    | 0 => some (.imin (.r (rForm w)))
    | 1 => some (.imax (.r (rForm w)))
    | 2 => some (.min3 (rForm w))
    | 3 => some (.max3 (rForm w))
    | 4 => some (.iabs (rForm w))
    | 5 => some (.ineg (rForm w))
    | 6 => some (.isad (rForm w))
    | _ => none
  | 0x2 => match fn with
    | 0 => some (.idiv (.r (rForm w)))
    | 1 => some (.irem (.r (rForm w)))
    | _ => none
  | 0x3 => match fn with
    | 0 => some (.land (.r (rForm w)))
    | 1 => some (.lor (.r (rForm w)))
    | 2 => some (.lxor (.r (rForm w)))
    | 3 => some (.landn (.r (rForm w)))
    | 4 => some (.lorn (.r (rForm w)))
    | 5 => some (.lnot (rForm w))
    | _ => none
  | 0x4 => match fn with
    | 0 => some (.shl (.r (rForm w)))
    | 1 => some (.shr (.r (rForm w)))
    | 2 => some (.sar (.r (rForm w)))
    | 3 => some (.rol (.r (rForm w)))
    | 4 => some (.ror (.r (rForm w)))
    | 5 => some (.fshl (rForm w))
    | 6 => some (.fshr (rForm w))
    | _ => none
  | 0x5 => match fn with
    | 0 => some (.bfx (.r (rForm w)))
    | 1 => some (.bfi (rForm w))
    | 2 => some (.popc (rForm w))
    | 3 => some (.clz (rForm w))
    | 4 => some (.ctz (rForm w))
    | 5 => some (.brev (rForm w))
    | _ => none
  | 0x6 => match fn with
    | 0 => some (.icmp .eq (.r (rForm w)))
    | 1 => some (.icmp .ne (.r (rForm w)))
    | 2 => some (.icmp .lt (.r (rForm w)))
    | 3 => some (.icmp .le (.r (rForm w)))
    | 4 => some (.icmp .gt (.r (rForm w)))
    | 5 => some (.icmp .ge (.r (rForm w)))
    | _ => none
  | 0x7 => match fn with
    | 0 => some (.mov (.r (rForm w)))
    | 1 => some (.sel (rForm w))
    | _ => none
  | 0x8 => match fn with
    | 0 => some (.kand (.r (rForm w)))
    | 1 => some (.kor (.r (rForm w)))
    | 2 => some (.kxor (.r (rForm w)))
    | 3 => some (.kandn (.r (rForm w)))
    | 4 => some (.knot (.r (rForm w)))
    | 5 => some (.kget (.r (rForm w)))
    | 6 => some (.kset (.r (rForm w)))
    | _ => none
  | 0x9 => match fn with
    | 0 => some (.lea (.r (rForm w)))
    | _ => none
  | _ => none

/-- Rows of the opcode map with OP 0x20 to 0x2F, by FN. -/
def decRow2 (lo fn : Nat) (w : BitVec 96) : Option Instr :=
  match lo with
  | 0x0 => match fn with
    | 0 => some (.iadd (.i (iForm w)))
    | 1 => some (.isub (.i (iForm w)))
    | 2 => some (.imul (.i (iForm w)))
    | 3 => some (.imulhi (.i (iForm w)))
    | _ => none
  | 0x1 => match fn with
    | 0 => some (.imin (.i (iForm w)))
    | 1 => some (.imax (.i (iForm w)))
    | _ => none
  | 0x2 => match fn with
    | 0 => some (.idiv (.i (iForm w)))
    | 1 => some (.irem (.i (iForm w)))
    | _ => none
  | 0x3 => match fn with
    | 0 => some (.land (.i (iForm w)))
    | 1 => some (.lor (.i (iForm w)))
    | 2 => some (.lxor (.i (iForm w)))
    | 3 => some (.landn (.i (iForm w)))
    | 4 => some (.lorn (.i (iForm w)))
    | _ => none
  | 0x4 => match fn with
    | 0 => some (.shl (.i (iForm w)))
    | 1 => some (.shr (.i (iForm w)))
    | 2 => some (.sar (.i (iForm w)))
    | 3 => some (.rol (.i (iForm w)))
    | 4 => some (.ror (.i (iForm w)))
    | _ => none
  | 0x5 => match fn with
    | 0 => some (.bfx (.i (iForm w)))
    | _ => none
  | 0x6 => match fn with
    | 0 => some (.icmp .eq (.i (iForm w)))
    | 1 => some (.icmp .ne (.i (iForm w)))
    | 2 => some (.icmp .lt (.i (iForm w)))
    | 3 => some (.icmp .le (.i (iForm w)))
    | 4 => some (.icmp .gt (.i (iForm w)))
    | 5 => some (.icmp .ge (.i (iForm w)))
    | _ => none
  | 0x7 => match fn with
    | 0 => some (.mov (.i (iForm w)))
    | _ => none
  | 0x8 => match fn with
    | 0 => some (.kand (.i (iForm w)))
    | 1 => some (.kor (.i (iForm w)))
    | 2 => some (.kxor (.i (iForm w)))
    | 3 => some (.kandn (.i (iForm w)))
    | 4 => some (.knot (.i (iForm w)))
    | 5 => some (.kget (.i (iForm w)))
    | 6 => some (.kset (.i (iForm w)))
    | _ => none
  | 0x9 => match fn with
    | 0 => some (.lea (.i (iForm w)))
    | _ => none
  | _ => none

/-- Rows of the opcode map with OP 0x30 to 0x3F, by FN. -/
def decRow3 (lo fn : Nat) (w : BitVec 96) : Option Instr :=
  match lo with
  | 0x0 => match fn with
    | 0 => some (.fadd (.r (rForm w)))
    | 1 => some (.fsub (.r (rForm w)))
    | 2 => some (.fmul (.r (rForm w)))
    | 3 => some (.ffma (rForm w))
    | 4 => some (.fmin (.r (rForm w)))
    | 5 => some (.fmax (.r (rForm w)))
    | 6 => some (.fabs (rForm w))
    | _ => none
  | 0x1 => match fn with
    | 0 => some (.fdiv (rForm w))
    | 1 => some (.fsqrt (rForm w))
    | 2 => some (.frcp (rForm w))
    | 3 => some (.frsq (rForm w))
    | _ => none
  | 0x2 => match fn with
    | 0 => some (.fexp2 (rForm w))
    | 1 => some (.flog2 (rForm w))
    | 2 => some (.fsin (rForm w))
    | 3 => some (.fcos (rForm w))
    | 4 => some (.ftanh (rForm w))
    | _ => none
  | 0x3 => match fn with
    | 0 => some (.fcmp .eq (.r (rForm w)))
    | 1 => some (.fcmp .ne (.r (rForm w)))
    | 2 => some (.fcmp .lt (.r (rForm w)))
    | 3 => some (.fcmp .le (.r (rForm w)))
    | 4 => some (.fcmp .gt (.r (rForm w)))
    | 5 => some (.fcmp .ge (.r (rForm w)))
    | 6 => some (.fcmp .num (.r (rForm w)))
    | 7 => some (.fcmp .nan (.r (rForm w)))
    | _ => none
  | 0x4 => match fn with
    | 0 => some (.fclass (rForm w))
    | _ => none
  | _ => none

/-- Rows of the opcode map with OP 0x40 to 0x4F, by FN. -/
def decRow4 (lo fn : Nat) (w : BitVec 96) : Option Instr :=
  match lo with
  | 0x0 => match fn with
    | 0 => some (.fadd (.i (iForm w)))
    | 1 => some (.fsub (.i (iForm w)))
    | 2 => some (.fmul (.i (iForm w)))
    | 4 => some (.fmin (.i (iForm w)))
    | 5 => some (.fmax (.i (iForm w)))
    | _ => none
  | 0x3 => match fn with
    | 0 => some (.fcmp .eq (.i (iForm w)))
    | 1 => some (.fcmp .ne (.i (iForm w)))
    | 2 => some (.fcmp .lt (.i (iForm w)))
    | 3 => some (.fcmp .le (.i (iForm w)))
    | 4 => some (.fcmp .gt (.i (iForm w)))
    | 5 => some (.fcmp .ge (.i (iForm w)))
    | 6 => some (.fcmp .num (.i (iForm w)))
    | 7 => some (.fcmp .nan (.i (iForm w)))
    | _ => none
  | _ => none

/-- Rows of the opcode map with OP 0x50 to 0x5F, by FN. -/
def decRow5 (lo fn : Nat) (w : BitVec 96) : Option Instr :=
  match lo with
  | 0x0 => match fn with
    | 0 => some (.cvt .b32 (rForm w))
    | 1 => some (.cvt .s32 (rForm w))
    | 2 => some (.cvt .n32 (rForm w))
    | 3 => some (.cvt .b64 (rForm w))
    | 4 => some (.cvt .s64 (rForm w))
    | 5 => some (.cvt .n64 (rForm w))
    | 6 => some (.cvt .f32 (rForm w))
    | 7 => some (.cvt .f64 (rForm w))
    | 8 => some (.cvt .f16 (rForm w))
    | 9 => some (.cvt .bf16 (rForm w))
    | 10 => some (.cvt .f16x2 (rForm w))
    | 11 => some (.cvt .bf16x2 (rForm w))
    | 12 => some (.cvt .s16x2 (rForm w))
    | 13 => some (.cvt .n16x2 (rForm w))
    | 14 => some (.cvt .s8x4 (rForm w))
    | 15 => some (.cvt .n8x4 (rForm w))
    | _ => none
  | 0x1 => match fn with
    | 0 => some (.cvtq .e4m3 (rForm w))
    | 1 => some (.cvtq .e5m2 (rForm w))
    | 2 => some (.cvtq .e2m1 (rForm w))
    | _ => none
  | 0x2 => match fn with
    | 0 => some (.cvtw .e4m3 (rForm w))
    | 1 => some (.cvtw .e5m2 (rForm w))
    | 2 => some (.cvtw .e2m1 (rForm w))
    | _ => none
  | 0x3 => match fn with
    | 0 => some (.dot2 (rForm w))
    | 1 => some (.dot4 (rForm w))
    | 2 => some (.pack (rForm w))
    | 3 => some (.bsel (rForm w))
    | _ => none
  | _ => none

/-- Rows of the opcode map with OP 0x60 to 0x6F, by FN. -/
def decRow6 (lo fn : Nat) (w : BitVec 96) : Option Instr :=
  match lo with
  | 0x0 => match fn with
    | 0 => some (.lgetAt (.r (rForm w)))
    | 1 => some (.lgetFlip (.r (rForm w)))
    | 2 => some (.lshup (rForm w))
    | 3 => some (.lshdn (rForm w))
    | _ => none
  | 0x1 => match fn with
    | 0 => some (.kpollAll (rForm w))
    | 1 => some (.kpollAny (rForm w))
    | 2 => some (.kpollWord (rForm w))
    | 3 => some (.lpeerEq (rForm w))
    | 4 => some (.lpeerUni (rForm w))
    | _ => none
  | 0x2 => match fn with
    | 0 => some (.lfold .add (rForm w))
    | 1 => some (.lfold .min (rForm w))
    | 2 => some (.lfold .max (rForm w))
    | 3 => some (.lfold .and (rForm w))
    | 4 => some (.lfold .or (rForm w))
    | 5 => some (.lfold .xor (rForm w))
    | _ => none
  | 0x3 => match fn with
    | 0 => some (.lpfx .add (rForm w))
    | 1 => some (.lpfx .min (rForm w))
    | 2 => some (.lpfx .max (rForm w))
    | _ => none
  | 0x4 => match fn with
    | 0 => some (.lgetAt (.i (iForm w)))
    | 1 => some (.lgetFlip (.i (iForm w)))
    | _ => none
  | _ => none

/-- Rows of the opcode map with OP 0x70 to 0x7F, by FN. -/
def decRow7 (lo fn : Nat) (w : BitVec 96) : Option Instr :=
  match lo with
  | 0x0 => match fn with
    | 0 => some (.ld (mForm w))
    | 1 => some (.ldN8 (mForm w))
    | 2 => some (.ldS8 (mForm w))
    | 3 => some (.ldN16 (mForm w))
    | 4 => some (.ldS16 (mForm w))
    | _ => none
  | 0x1 => match fn with
    | 0 => some (.st (mForm w))
    | 1 => some (.stB8 (mForm w))
    | 2 => some (.stB16 (mForm w))
    | _ => none
  | 0x2 => match fn with
    | 0 => some (.pref (mForm w))
    | _ => none
  | 0x3 => match fn with
    | 0 => some (.atom .add (mForm w))
    | 1 => some (.atom .min (mForm w))
    | 2 => some (.atom .max (mForm w))
    | 3 => some (.atom .and (mForm w))
    | 4 => some (.atom .or (mForm w))
    | 5 => some (.atom .xor (mForm w))
    | 6 => some (.atom .exch (mForm w))
    | 7 => some (.atom .cas (mForm w))
    | 8 => some (.atom .inc (mForm w))
    | 9 => some (.atom .dec (mForm w))
    | _ => none
  | 0x4 => match fn with
    | 0 => some (.red .add (mForm w))
    | 1 => some (.red .min (mForm w))
    | 2 => some (.red .max (mForm w))
    | 3 => some (.red .and (mForm w))
    | 4 => some (.red .or (mForm w))
    | 5 => some (.red .xor (mForm w))
    | 8 => some (.red .inc (mForm w))
    | 9 => some (.red .dec (mForm w))
    | _ => none
  | 0x5 => match fn with
    | 0 => some (.fence (mForm w))
    | 1 => some (.fenceUn (mForm w))
    | _ => none
  | 0x6 => match fn with
    | 0 => some (.xbegin (bForm w))
    | _ => none
  | 0x7 => match fn with
    | 0 => some (.xend (rForm w))
    | 1 => some (.xabort (rForm w))
    | 2 => some (.xtest (rForm w))
    | _ => none
  | _ => none

/-- Rows of the opcode map with OP 0x90 to 0x9F, by FN. -/
def decRow9 (lo fn : Nat) (w : BitVec 96) : Option Instr :=
  match lo with
  | 0x0 => match fn with
    | 0 => some (.barGrp (rForm w))
    | 1 => some (.barClu (rForm w))
    | _ => none
  | 0x1 => match fn with
    | 0 => some (.waitf .eq (mForm w))
    | 1 => some (.waitf .ne (mForm w))
    | 2 => some (.waitf .ge (mForm w))
    | 3 => some (.waitf .lt (mForm w))
    | _ => none
  | _ => none

/-- Rows of the opcode map with OP 0xA0 to 0xAF, by FN. -/
def decRowA (lo fn : Nat) (w : BitVec 96) : Option Instr :=
  match lo with
  | 0x0 => match fn with
    | 0 => some (.pushf (rForm w))
    | 1 => some (.pushfRow (rForm w))
    | 2 => some (.pushfAll (rForm w))
    | 3 => some (.pushfAllRow (rForm w))
    | _ => none
  | 0x1 => match fn with
    | 0 => some (.popf (rForm w))
    | _ => none
  | 0x2 => match fn with
    | 0 => some (.pushb (rForm w))
    | _ => none
  | 0x3 => match fn with
    | 0 => some (.popb (rForm w))
    | _ => none
  | 0x4 => match fn with
    | 0 => some (.streamCfg (rForm w))
    | 1 => some (.streamGo (rForm w))
    | _ => none
  | _ => none

/-- Rows of the opcode map with OP 0xB0 to 0xBF, by FN. -/
def decRowB (lo fn : Nat) (w : BitVec 96) : Option Instr :=
  match lo with
  | 0x0 => if fn == 0 then (match efnOf w with
    | 0 => some (.engCopy (eForm w))
    | 1 => some (.engFill (eForm w))
    | _ => none) else none
  | 0x1 => if fn == 0 then (match efnOf w with
    | 0 => some (.engGsubmit (eForm w))
    | 1 => some (.engGsignal (eForm w))
    | 2 => some (.engGwatch (eForm w))
    | _ => none) else none
  | 0x2 => if fn == 0 then (match efnOf w with
    | 0 => some (.engDappend (eForm w))
    | 1 => some (.engDdrain (eForm w))
    | _ => none) else none
  | 0x3 => if fn == 0 then (match efnOf w with
    | 0 => some (.engAllreduce (eForm w))
    | 1 => some (.engAllgather (eForm w))
    | 2 => some (.engBcast (eForm w))
    | _ => none) else none
  | _ => none

/-- Rows of the opcode map with OP 0xC0 to 0xCF, by FN. -/
def decRowC (lo fn : Nat) (w : BitVec 96) : Option Instr :=
  match lo with
  | 0x0 => match fn with
    | 0 => some (.mloadb (tForm w))
    | _ => none
  | 0x1 => match fn with
    | 0 => some (.mma (tForm w))
    | _ => none
  | 0x2 => match fn with
    | 0 => some (.mcommit (tForm w))
    | 1 => some (.mdiscard (tForm w))
    | _ => none
  | 0x3 => match fn with
    | 0 => some (.mzero (tForm w))
    | _ => none
  | 0x4 => match fn with
    | 0 => some (.mdrain (tForm w))
    | _ => none
  | 0x8 => match fn with
    | 0 => some (.ttld (rForm w))
    | 1 => some (.ttst (rForm w))
    | 2 => some (.ttinv (rForm w))
    | _ => none
  | _ => none

/-- Rows of the opcode map with OP 0xD0 to 0xDF, by FN. -/
def decRowD (lo fn : Nat) (w : BitVec 96) : Option Instr :=
  match lo with
  | 0x0 => match fn with
    | 0 => some (.rsvinit (rForm w))
    | _ => none
  | 0x1 => match fn with
    | 0 => some (.rsvupd (rForm w))
    | _ => none
  | 0x2 => match fn with
    | 0 => some (.rsvmrg (rForm w))
    | _ => none
  | 0x3 => match fn with
    | 0 => some (.rsvfin (rForm w))
    | _ => none
  | 0x4 => match fn with
    | 0 => some (.rsvget .payload (rForm w))
    | 1 => some (.rsvget .wsum (rForm w))
    | 2 => some (.rsvget .phat (rForm w))
    | 3 => some (.rsvget .w (rForm w))
    | 4 => some (.rsvget .m (rForm w))
    | 5 => some (.rsvget .dctr (rForm w))
    | _ => none
  | 0x5 => match fn with
    | 0 => some (.rsvput .payload (rForm w))
    | 1 => some (.rsvput .wsum (rForm w))
    | 2 => some (.rsvput .phat (rForm w))
    | 3 => some (.rsvput .w (rForm w))
    | 4 => some (.rsvput .m (rForm w))
    | 5 => some (.rsvput .dctr (rForm w))
    | _ => none
  | 0x6 => match fn with
    | 0 => some (.rsvseed (rForm w))
    | _ => none
  | 0x8 => match fn with
    | 0 => some (.cainit (rForm w))
    | _ => none
  | 0x9 => match fn with
    | 0 => some (.caadd (rForm w))
    | _ => none
  | 0xA => match fn with
    | 0 => some (.caflush (rForm w))
    | _ => none
  | 0xB => match fn with
    | 0 => some (.caresolve (rForm w))
    | _ => none
  | 0xC => match fn with
    | 0 => some (.careplay (rForm w))
    | _ => none
  | 0xD => match fn with
    | 0 => some (.castat (rForm w))
    | _ => none
  | _ => none

/-- Rows of the opcode map with OP 0xE0 to 0xEF, by FN. -/
def decRowE (lo fn : Nat) (w : BitVec 96) : Option Instr :=
  match lo with
  | 0x0 => match fn with
    | 0 => some (.fetchwk (mForm w))
    | _ => none
  | 0x1 => match fn with
    | 0 => some (.pqpush (rForm w))
    | _ => none
  | 0x2 => match fn with
    | 0 => some (.pqpop (rForm w))
    | _ => none
  | 0x3 => match fn with
    | 0 => some (.wlpush (rForm w))
    | _ => none
  | 0x4 => match fn with
    | 0 => some (.wlpop (rForm w))
    | _ => none
  | 0x5 => match fn with
    | 0 => some (.quiesce (rForm w))
    | _ => none
  | 0x8 => match fn with
    | 0 => some (.tex (rForm w))
    | 1 => some (.texWait (rForm w))
    | _ => none
  | 0x9 => match fn with
    | 0 => some (.tld (rForm w))
    | _ => none
  | 0xA => match fn with
    | 0 => some (.rayq (rForm w))
    | _ => none
  | 0xB => match fn with
    | 0 => some (.rayres (rForm w))
    | _ => none
  | 0xC => match fn with
    | 0 => some (.atlasreq (rForm w))
    | _ => none
  | 0xD => match fn with
    | 0 => some (.emit (rForm w))
    | _ => none
  | _ => none

/-- Rows of the opcode map with OP 0xF0 to 0xFF, by FN. -/
def decRowF (lo fn : Nat) (w : BitVec 96) : Option Instr :=
  match lo with
  | 0x0 => match fn with
    | 0 => some (.trap (iForm w))
    | _ => none
  | 0x1 => match fn with
    | 0 => some (.brkpt (rForm w))
    | _ => none
  | 0x2 => match fn with
    | 0 => some (.rdsr (iForm w))
    | _ => none
  | 0x3 => match fn with
    | 0 => some (.wrsr (iForm w))
    | _ => none
  | 0x8 => match fn with
    | 0 => some (.tret (rForm w))
    | _ => none
  | 0x9 => match fn with
    | 0 => some (.tlbinv (rForm w))
    | _ => none
  | 0xA => match fn with
    | 0 => some (.fork (rForm w))
    | _ => none
  | 0xB => match fn with
    | 0 => some (.cflush (rForm w))
    | _ => none
  | _ => none

/-- The instruction of a word, or none where OP, FN or EFN is not assigned (07 R144, R146 to R151). -/
def decode? (w : BitVec 96) : Option Instr :=
  let op := opOf w
  let fn := fnOf w
  match op / 16 with
  | 0x0 => decRow0 (op % 16) fn w
  | 0x1 => decRow1 (op % 16) fn w
  | 0x2 => decRow2 (op % 16) fn w
  | 0x3 => decRow3 (op % 16) fn w
  | 0x4 => decRow4 (op % 16) fn w
  | 0x5 => decRow5 (op % 16) fn w
  | 0x6 => decRow6 (op % 16) fn w
  | 0x7 => decRow7 (op % 16) fn w
  | 0x9 => decRow9 (op % 16) fn w
  | 0xA => decRowA (op % 16) fn w
  | 0xB => decRowB (op % 16) fn w
  | 0xC => decRowC (op % 16) fn w
  | 0xD => decRowD (op % 16) fn w
  | 0xE => decRowE (op % 16) fn w
  | 0xF => decRowF (op % 16) fn w
  | _ => none

/-- The decoder: total on every word. -/
def decode (w : BitVec 96) : Instr := (decode? w).getD (.unassignedOpcode w)

/-- Whether an OP is assigned (07 R151). -/
def opAssigned (op : Nat) : Bool :=
  [0x00, 0x01, 0x02, 0x03, 0x04, 0x05, 0x06, 0x07, 0x10, 0x11, 0x12, 0x13, 0x14, 0x15, 0x16, 0x17, 0x18, 0x19, 0x20, 0x21, 0x22, 0x23, 0x24, 0x25, 0x26, 0x27, 0x28, 0x29, 0x30, 0x31, 0x32, 0x33, 0x34, 0x40, 0x43, 0x50, 0x51, 0x52, 0x53, 0x60, 0x61, 0x62, 0x63, 0x64, 0x70, 0x71, 0x72, 0x73, 0x74, 0x75, 0x76, 0x77, 0x90, 0x91, 0xA0, 0xA1, 0xA2, 0xA3, 0xA4, 0xB0, 0xB1, 0xB2, 0xB3, 0xC0, 0xC1, 0xC2, 0xC3, 0xC4, 0xC8, 0xD0, 0xD1, 0xD2, 0xD3, 0xD4, 0xD5, 0xD6, 0xD8, 0xD9, 0xDA, 0xDB, 0xDC, 0xDD, 0xE0, 0xE1, 0xE2, 0xE3, 0xE4, 0xE5, 0xE8, 0xE9, 0xEA, 0xEB, 0xEC, 0xED, 0xF0, 0xF1, 0xF2, 0xF3, 0xF8, 0xF9, 0xFA, 0xFB].contains op

/-- The word in the 12 bytes of a slot, lowest byte first (07 R133). -/
def wordOfBytes (bs : List Byte) : BitVec 96 := BitVec.ofNat 96 (leNat (bs.take 12))

/-- Decodes a slot's bytes. -/
def decodeBytes (bs : List Byte) : Instr := decode (wordOfBytes bs)

/-- The instruction the decoder reads from the `nbits` low bits `w`, the bits above zero. -/
def decodeTableWord (nbits w : Nat) : Option Instr :=
  let word := BitVec.ofNat 96 (w % 2 ^ nbits)
  match decodeBytes (toLE 12 word.toNat) with
  | .unassignedOpcode _ => none
  | i => some i

/-! ### The encoder -/

def tyCode : Ty → BitVec 4
  | .b32 => 0 | .s32 => 1 | .n32 => 2 | .b64 => 3 | .s64 => 4 | .n64 => 5 | .f32 => 6 | .f64 => 7
  | .f16 => 8 | .bf16 => 9 | .f16x2 => 10 | .bf16x2 => 11 | .s16x2 => 12 | .n16x2 => 13 | .s8x4 => 14 | .n8x4 => 15

def icondCode : ICond → BitVec 4
  | .eq => 0 | .ne => 1 | .lt => 2 | .le => 3 | .gt => 4 | .ge => 5

def fcondCode : FCond → BitVec 4
  | .eq => 0 | .ne => 1 | .lt => 2 | .le => 3 | .gt => 4 | .ge => 5 | .num => 6 | .nan => 7

def nfCode : NarrowFmt → BitVec 4
  | .e4m3 => 0 | .e5m2 => 1 | .e2m1 => 2

def foldCode : FoldOp → BitVec 4
  | .add => 0 | .min => 1 | .max => 2 | .and => 3 | .or => 4 | .xor => 5

def pfxCode : PfxOp → BitVec 4
  | .add => 0 | .min => 1 | .max => 2

def atomCode : AtomOp → BitVec 4
  | .add => 0 | .min => 1 | .max => 2 | .and => 3 | .or => 4 | .xor => 5 | .exch => 6 | .cas => 7 | .inc => 8 | .dec => 9

def wcondCode : WCond → BitVec 4
  | .eq => 0 | .ne => 1 | .ge => 2 | .lt => 3

def rsvCode : RsvField → BitVec 4
  | .payload => 0 | .wsum => 1 | .phat => 2 | .w => 3 | .m => 4 | .dctr => 5

def encSpec (s : Spec) : BitVec 12 := BitVec.ofBool s.kill ++ BitVec.ofBool s.bank ++ s.idx

/-- Bits [95:64] of every form (07 R137). -/
def encHead (op : BitVec 8) (fn : BitVec 4) (ty : Ty) (g : Guard) (d : Spec) : BitVec 32 :=
  op ++ fn ++ tyCode ty ++ BitVec.ofBool g.neg ++ g.mask ++ encSpec d

def encR (op : BitVec 8) (fn : BitVec 4) (f : RForm) : BitVec 96 :=
  encHead op fn f.ty f.g f.d ++ (encSpec f.a ++ encSpec f.b ++ encSpec f.c ++ f.hi ++ f.rnd ++ BitVec.ofBool f.sat ++
    BitVec.ofBool f.ftz ++ BitVec.ofBool f.negA ++ BitVec.ofBool f.negB ++ BitVec.ofBool f.negC ++ f.low : BitVec 64)

def encI (op : BitVec 8) (fn : BitVec 4) (f : IForm) : BitVec 96 :=
  encHead op fn f.ty f.g f.d ++ (encSpec f.a ++ f.imm ++ f.rnd ++ BitVec.ofBool f.sat ++ BitVec.ofBool f.ftz ++
    BitVec.ofBool f.negA ++ f.low : BitVec 64)

def encA (op twin : BitVec 8) (fn : BitVec 4) : AForm → BitVec 96
  | .r f => encR op fn f
  | .i f => encI twin fn f

def encM (op : BitVec 8) (fn : BitVec 4) (f : MForm) : BitVec 96 :=
  encHead op fn f.ty f.g f.d ++ (encSpec f.a ++ encSpec f.b ++ encSpec f.c ++ f.disp ++ f.scope ++ f.order ++ f.hint ++
    BitVec.ofBool f.idx : BitVec 64)

def encB (op : BitVec 8) (fn : BitVec 4) (f : BForm) : BitVec 96 :=
  encHead op fn f.ty f.g f.d ++ (encSpec f.a ++ f.loff ++ f.slot ++ f.wsh ++ f.low : BitVec 64)

def encE (op : BitVec 8) (efn : BitVec 7) (f : EForm) : BitVec 96 :=
  encHead op 0 f.ty f.g f.d ++ (encSpec f.a ++ encSpec f.b ++ f.mid ++ efn ++ BitVec.ofBool f.reply ++ f.low : BitVec 64)

def encT (op : BitVec 8) (fn : BitVec 4) (f : TForm) : BitVec 96 :=
  encHead op fn f.ty f.g f.d ++ (f.tidA ++ f.tidB ++ f.tidC ++ encSpec f.crd ++ f.tile ++ f.wslot ++ BitVec.ofBool f.shd ++
    f.rnd ++ f.low : BitVec 64)

/-- The word of an instruction; none for the steps of other agents, which have none. -/
def encode : Instr → Option (BitVec 96)
  | .nop f => some (encR 0x00 0x0 f)
  | .bra f => some (encB 0x01 0x0 f)
  | .jmp f => some (encB 0x01 0x1 f)
  | .brx f => some (encB 0x01 0x2 f)
  | .call f => some (encB 0x02 0x0 f)
  | .calli f => some (encB 0x02 0x1 f)
  | .ret f => some (encR 0x03 0x0 f)
  | .exit f => some (encR 0x04 0x0 f)
  | .alloc f => some (encI 0x05 0x0 f)
  | .split f => some (encR 0x06 0x0 f)
  | .rejoin f => some (encR 0x06 0x1 f)
  | .repeatImm f => some (encI 0x07 0x0 f)
  | .repeatReg f => some (encI 0x07 0x1 f)
  | .iadd f => some (encA 0x10 0x20 0x0 f)
  | .isub f => some (encA 0x10 0x20 0x1 f)
  | .imul f => some (encA 0x10 0x20 0x2 f)
  | .imulhi f => some (encA 0x10 0x20 0x3 f)
  | .imad f => some (encR 0x10 0x4 f)
  | .iadd3 f => some (encR 0x10 0x5 f)
  | .addmin f => some (encR 0x10 0x6 f)
  | .addmax f => some (encR 0x10 0x7 f)
  | .imin f => some (encA 0x11 0x21 0x0 f)
  | .imax f => some (encA 0x11 0x21 0x1 f)
  | .min3 f => some (encR 0x11 0x2 f)
  | .max3 f => some (encR 0x11 0x3 f)
  | .iabs f => some (encR 0x11 0x4 f)
  | .ineg f => some (encR 0x11 0x5 f)
  | .isad f => some (encR 0x11 0x6 f)
  | .idiv f => some (encA 0x12 0x22 0x0 f)
  | .irem f => some (encA 0x12 0x22 0x1 f)
  | .land f => some (encA 0x13 0x23 0x0 f)
  | .lor f => some (encA 0x13 0x23 0x1 f)
  | .lxor f => some (encA 0x13 0x23 0x2 f)
  | .landn f => some (encA 0x13 0x23 0x3 f)
  | .lorn f => some (encA 0x13 0x23 0x4 f)
  | .lnot f => some (encR 0x13 0x5 f)
  | .shl f => some (encA 0x14 0x24 0x0 f)
  | .shr f => some (encA 0x14 0x24 0x1 f)
  | .sar f => some (encA 0x14 0x24 0x2 f)
  | .rol f => some (encA 0x14 0x24 0x3 f)
  | .ror f => some (encA 0x14 0x24 0x4 f)
  | .fshl f => some (encR 0x14 0x5 f)
  | .fshr f => some (encR 0x14 0x6 f)
  | .bfx f => some (encA 0x15 0x25 0x0 f)
  | .bfi f => some (encR 0x15 0x1 f)
  | .popc f => some (encR 0x15 0x2 f)
  | .clz f => some (encR 0x15 0x3 f)
  | .ctz f => some (encR 0x15 0x4 f)
  | .brev f => some (encR 0x15 0x5 f)
  | .icmp x f => some (encA 0x16 0x26 (icondCode x) f)
  | .mov f => some (encA 0x17 0x27 0x0 f)
  | .sel f => some (encR 0x17 0x1 f)
  | .kand f => some (encA 0x18 0x28 0x0 f)
  | .kor f => some (encA 0x18 0x28 0x1 f)
  | .kxor f => some (encA 0x18 0x28 0x2 f)
  | .kandn f => some (encA 0x18 0x28 0x3 f)
  | .knot f => some (encA 0x18 0x28 0x4 f)
  | .kget f => some (encA 0x18 0x28 0x5 f)
  | .kset f => some (encA 0x18 0x28 0x6 f)
  | .lea f => some (encA 0x19 0x29 0x0 f)
  | .fadd f => some (encA 0x30 0x40 0x0 f)
  | .fsub f => some (encA 0x30 0x40 0x1 f)
  | .fmul f => some (encA 0x30 0x40 0x2 f)
  | .ffma f => some (encR 0x30 0x3 f)
  | .fmin f => some (encA 0x30 0x40 0x4 f)
  | .fmax f => some (encA 0x30 0x40 0x5 f)
  | .fabs f => some (encR 0x30 0x6 f)
  | .fdiv f => some (encR 0x31 0x0 f)
  | .fsqrt f => some (encR 0x31 0x1 f)
  | .frcp f => some (encR 0x31 0x2 f)
  | .frsq f => some (encR 0x31 0x3 f)
  | .fexp2 f => some (encR 0x32 0x0 f)
  | .flog2 f => some (encR 0x32 0x1 f)
  | .fsin f => some (encR 0x32 0x2 f)
  | .fcos f => some (encR 0x32 0x3 f)
  | .ftanh f => some (encR 0x32 0x4 f)
  | .fcmp x f => some (encA 0x33 0x43 (fcondCode x) f)
  | .fclass f => some (encR 0x34 0x0 f)
  | .cvt x f => some (encR 0x50 (tyCode x) f)
  | .cvtq x f => some (encR 0x51 (nfCode x) f)
  | .cvtw x f => some (encR 0x52 (nfCode x) f)
  | .dot2 f => some (encR 0x53 0x0 f)
  | .dot4 f => some (encR 0x53 0x1 f)
  | .pack f => some (encR 0x53 0x2 f)
  | .bsel f => some (encR 0x53 0x3 f)
  | .lgetAt f => some (encA 0x60 0x64 0x0 f)
  | .lgetFlip f => some (encA 0x60 0x64 0x1 f)
  | .lshup f => some (encR 0x60 0x2 f)
  | .lshdn f => some (encR 0x60 0x3 f)
  | .kpollAll f => some (encR 0x61 0x0 f)
  | .kpollAny f => some (encR 0x61 0x1 f)
  | .kpollWord f => some (encR 0x61 0x2 f)
  | .lpeerEq f => some (encR 0x61 0x3 f)
  | .lpeerUni f => some (encR 0x61 0x4 f)
  | .lfold x f => some (encR 0x62 (foldCode x) f)
  | .lpfx x f => some (encR 0x63 (pfxCode x) f)
  | .ld f => some (encM 0x70 0x0 f)
  | .ldN8 f => some (encM 0x70 0x1 f)
  | .ldS8 f => some (encM 0x70 0x2 f)
  | .ldN16 f => some (encM 0x70 0x3 f)
  | .ldS16 f => some (encM 0x70 0x4 f)
  | .st f => some (encM 0x71 0x0 f)
  | .stB8 f => some (encM 0x71 0x1 f)
  | .stB16 f => some (encM 0x71 0x2 f)
  | .pref f => some (encM 0x72 0x0 f)
  | .atom x f => some (encM 0x73 (atomCode x) f)
  | .red x f => some (encM 0x74 (atomCode x) f)
  | .fence f => some (encM 0x75 0x0 f)
  | .fenceUn f => some (encM 0x75 0x1 f)
  | .waitf x f => some (encM 0x91 (wcondCode x) f)
  | .barGrp f => some (encR 0x90 0x0 f)
  | .barClu f => some (encR 0x90 0x1 f)
  | .xbegin f => some (encB 0x76 0x0 f)
  | .xend f => some (encR 0x77 0x0 f)
  | .xabort f => some (encR 0x77 0x1 f)
  | .xtest f => some (encR 0x77 0x2 f)
  | .pushf f => some (encR 0xA0 0x0 f)
  | .pushfRow f => some (encR 0xA0 0x1 f)
  | .pushfAll f => some (encR 0xA0 0x2 f)
  | .pushfAllRow f => some (encR 0xA0 0x3 f)
  | .popf f => some (encR 0xA1 0x0 f)
  | .pushb f => some (encR 0xA2 0x0 f)
  | .popb f => some (encR 0xA3 0x0 f)
  | .streamCfg f => some (encR 0xA4 0x0 f)
  | .streamGo f => some (encR 0xA4 0x1 f)
  | .engCopy f => some (encE 0xB0 0x00 f)
  | .engFill f => some (encE 0xB0 0x01 f)
  | .engGsubmit f => some (encE 0xB1 0x00 f)
  | .engGsignal f => some (encE 0xB1 0x01 f)
  | .engGwatch f => some (encE 0xB1 0x02 f)
  | .engDappend f => some (encE 0xB2 0x00 f)
  | .engDdrain f => some (encE 0xB2 0x01 f)
  | .engAllreduce f => some (encE 0xB3 0x00 f)
  | .engAllgather f => some (encE 0xB3 0x01 f)
  | .engBcast f => some (encE 0xB3 0x02 f)
  | .mloadb f => some (encT 0xC0 0x0 f)
  | .mma f => some (encT 0xC1 0x0 f)
  | .mcommit f => some (encT 0xC2 0x0 f)
  | .mdiscard f => some (encT 0xC2 0x1 f)
  | .mzero f => some (encT 0xC3 0x0 f)
  | .mdrain f => some (encT 0xC4 0x0 f)
  | .ttld f => some (encR 0xC8 0x0 f)
  | .ttst f => some (encR 0xC8 0x1 f)
  | .ttinv f => some (encR 0xC8 0x2 f)
  | .rsvinit f => some (encR 0xD0 0x0 f)
  | .rsvupd f => some (encR 0xD1 0x0 f)
  | .rsvmrg f => some (encR 0xD2 0x0 f)
  | .rsvfin f => some (encR 0xD3 0x0 f)
  | .rsvget x f => some (encR 0xD4 (rsvCode x) f)
  | .rsvput x f => some (encR 0xD5 (rsvCode x) f)
  | .rsvseed f => some (encR 0xD6 0x0 f)
  | .cainit f => some (encR 0xD8 0x0 f)
  | .caadd f => some (encR 0xD9 0x0 f)
  | .caflush f => some (encR 0xDA 0x0 f)
  | .caresolve f => some (encR 0xDB 0x0 f)
  | .careplay f => some (encR 0xDC 0x0 f)
  | .castat f => some (encR 0xDD 0x0 f)
  | .fetchwk f => some (encM 0xE0 0x0 f)
  | .pqpush f => some (encR 0xE1 0x0 f)
  | .pqpop f => some (encR 0xE2 0x0 f)
  | .wlpush f => some (encR 0xE3 0x0 f)
  | .wlpop f => some (encR 0xE4 0x0 f)
  | .quiesce f => some (encR 0xE5 0x0 f)
  | .tex f => some (encR 0xE8 0x0 f)
  | .texWait f => some (encR 0xE8 0x1 f)
  | .tld f => some (encR 0xE9 0x0 f)
  | .rayq f => some (encR 0xEA 0x0 f)
  | .rayres f => some (encR 0xEB 0x0 f)
  | .atlasreq f => some (encR 0xEC 0x0 f)
  | .emit f => some (encR 0xED 0x0 f)
  | .trap f => some (encI 0xF0 0x0 f)
  | .brkpt f => some (encR 0xF1 0x0 f)
  | .rdsr f => some (encI 0xF2 0x0 f)
  | .wrsr f => some (encI 0xF3 0x0 f)
  | .tret f => some (encR 0xF8 0x0 f)
  | .tlbinv f => some (encR 0xF9 0x0 f)
  | .fork f => some (encR 0xFA 0x0 f)
  | .cflush f => some (encR 0xFB 0x0 f)
  | .unassignedOpcode w => some w
  | _ => none

end Sys2Proof
end

