-- ==== Sys2Proof/Machine/Fetch.lean ====
section
/-! DEFINITION. Fetch lines (07 R133 to R136): reading a line, checking its line word, and the check of a transfer's
target. -/

namespace Sys2Proof.Machine

open Sys2Proof

/-- Bit `i` of the PARITY a line's instruction area needs (07 R133). -/
def parityBit (area j : Nat) : Bool :=
  (List.range 60).foldl (fun a i => a != bitOf area (60 * j + i)) false

/-- PARITY of an area. -/
def parityOf (area : Nat) : Nat := (List.range 8).foldl (fun a j => a + b2n (parityBit area j) * 2 ^ j) 0

/-- The check of a line word, parity first (07 R134). -/
def checkLine (line : Nat) : Option Trap :=
  let lw := bitsOf line 511 480
  if bitsOf lw 31 24 != parityOf (bitsOf line 479 0) then some { mkTrap fetchParity 0 with field := 1 }
  else if bitsOf lw 23 16 != 0 || bitsOf lw 15 14 != 0 then some { mkTrap illegalInstr 1 with field := 1 }
  else none

/-- TARGET bit of a slot, RUNEND bit of a slot, and the word of a slot. -/
def targetBit (line slot : Nat) : Bool := bitOf line (480 + slot)
def runEnd (line slot : Nat) : Bool := bitOf line (485 + slot)
def slotWord (line slot : Nat) : BitVec 96 := BitVec.ofNat 96 (line / 2 ^ (96 * slot))

/-- What fetches of a line by a launch may return: the line as it is, and as it was before each write since the launch has
started (01 R26), where the session can read what it was held under (23 R414). -/
def State.lineVersions (s : State) (i : Iss) (pa : Nat) : List Nat :=
  s.phys.num pa 64 ::
    (s.phys.old.filter fun e => e.line == pa / 64 && e.launches.contains (i.sess.slot, i.launch.number) && s.ownerOpen i.sess e.owner).map (·.bytes)

/-- One of some values by a free choice; the only one without a choice. -/
def pick {α : Type} (n : Nat) (xs : List α) : Option α := if xs.length ≤ 1 then xs.head? else xs[Config.freeNat n % xs.length]?

/-- The 64 bytes of the line that holds a PC, as a number: an instruction fetch through the translation (21 R365). -/
def fetchLine (s : State) (i : Iss) (pc : Pc) : Except Trap Nat :=
  let va := lineOf pc
  if !sessionSpace va.toNat then .error ((mkTrap protection 0).at va)
  else match s.leafFor i.core i.sess i.priv .fetch va with
    | .error t => .error t
    | .ok l =>
      let pa := l.pa (va.toNat % 2 ^ 48)
      if s.poisoned i.sess pa 64 then .error (poisonTrap va (s.badIn i.sess (linesOf pa 64)))
      else .ok ((pick (s.freeCtr + 75000 + pa / 64 % 4096) (s.lineVersions i pa)).getD 0)

/-- The line of a PC, fetched and checked (07 R134). -/
def fetchChecked (s : State) (i : Iss) (pc : Pc) : Except Trap Nat :=
  match fetchLine s i pc with
  | .error t => .error t
  | .ok line => match checkLine line with
    | some t => .error t
    | none => .ok line

/-- The checks of a transfer to a PC (07 R136); `indirect`: the value may be no PC at all. -/
def checkTarget (s : State) (i : Iss) (l : Nat) (indirect : Bool) (pc : Pc) : Except Halt Unit :=
  let bad : Halt := memTrap i.lead l ((mkTrap illegalTarget 0).at pc)
  if indirect && (pc.toNat % 64 ≥ 5 || !sessionSpace pc.toNat) then .error bad
  else match fetchChecked s i pc with
    | .error t => .error (memTrap i.lead l (t.at pc))
    | .ok line => if targetBit line (pc.toNat % 64) then .ok () else .error bad

end Sys2Proof.Machine
end

