-- ==== Sys2Proof/Machine/Control.lean ====
section
/-! DEFINITION. Transfers of control, calls and windows, parting and rejoining lanes, `REPEAT` (10 R215 to R222). -/

namespace Sys2Proof.Machine

open Sys2Proof

/-- The view of an R-form instruction. -/
def viewR (op : Nat) (types : List Ty) (f : RForm) (m : Mods) (uses : List Use) : View :=
  { op := op, ty := f.ty, types := types, g := f.g, bad := badR f m, uses := uses }

def viewI (op : Nat) (types : List Ty) (f : IForm) (m : Mods) (uses : List Use) : View :=
  { op := op, ty := f.ty, types := types, g := f.g, bad := badI f m, uses := uses }

/-- The view of a B-form instruction; `call`: WSH is used. -/
def viewB (op : Nat) (f : BForm) (call indirect : Bool) (uses : List Use) : View :=
  { op := op, ty := f.ty, types := ty0, g := f.g,
    bad := f.slot ≥ 5 || f.low != 0 || (if call then f.wsh > 79 else f.wsh != 0) ||
           (indirect && (f.loff != 0 || f.slot != 0)), uses := .off f.d :: uses }

/-- Any non-zero field below OP, TY among them, breaks a rule of the form (10 R219). -/
def viewNop (f : RForm) : View :=
  { viewR 0x00 allTypes f plain [.off f.d, .off f.a, .off f.b, .off f.c] with noGuard := true, bad := badR f plain || f.ty != .b32 }

/-- `NOP` (10 R219): changes nothing. -/
def execNop (f : RForm) (s : State) : Result := issue s (fun _ => viewNop f) false false fun _ _ s => .ok s

/-- A direct target: the line of the branch, moved by LOFF lines, and SLOT (07 R143). -/
def directTarget (pc : Pc) (loff : BitVec 28) (slot : BitVec 3) (lines : Nat) : Pc :=
  lineOf pc + 64 * (loff.signExtend 64 + BitVec.ofNat 64 lines) + slot.setWidth 64

/-- A transfer ends any REPEAT state and sets the PC. -/
def goTo (s : State) (i : Iss) (l : Nat) (pc : Pc) : State :=
  if i.lead then s.modLead i fun x => { x with pc := pc, rep := none }
  else s.modLanes i (maskOf (· == l)) fun _ x => { x with pc := pc, rep := none }

/-- A branch: each enabled lane goes to its checked target (10 R215). -/
def branch (indirect : Bool) (target : Iss → State → Nat → Except Halt Pc) : Body := fun i en s =>
  perLane i en s (fun l => match target i s l with
      | .error e => .error e
      | .ok pc => (checkTarget s i l indirect pc).map fun _ => pc)
    fun t l pc => .ok (goTo t i l pc)

def viewBra (f : BForm) : View := viewB 0x01 f false false [.off f.a]
def viewJmp (f : BForm) : View := viewB 0x01 f false true [.base f.a]
def viewBrx (f : BForm) : View := viewB 0x01 f false false [.src f.a]

/-- `BRA`. -/
def execBra (f : BForm) (s : State) : Result :=
  issue s (fun _ => viewBra f) true false
    (branch false fun i _ _ => .ok (directTarget i.pc f.loff f.slot 0))

/-- `JMP`: the 64-bit value of a. -/
def execJmp (f : BForm) (s : State) : Result :=
  issue s (fun _ => viewJmp f) true false (branch true fun i s l => rd2 s i l f.a)

/-- `BRX`: the value of a counts lines. -/
def execBrx (f : BForm) (s : State) : Result :=
  issue s (fun _ => viewBrx f) true false
    (branch true fun i s l => (rd1 s i l f.a).map fun v => directTarget i.pc f.loff f.slot v.toNat)

/-- A link (03 R59). -/
def linkWord (pc : Pc) (k size : Nat) : Dword :=
  BitVec.ofNat 64 (size / 8 * 2 ^ 52 + k / 8 * 2 ^ 45 + bitsOf pc.toNat 47 6 * 2 ^ 3 + pc.toNat % 8)

def linkSize (w : Dword) : Nat := 8 * bitsOf w.toNat 58 52
def linkShift (w : Dword) : Nat := 8 * bitsOf w.toNat 51 45
def linkPc (w : Dword) : Pc :=
  ((BitVec.ofNat 48 (bitsOf w.toNat 44 3 * 64)).signExtend 64) + BitVec.ofNat 64 (bitsOf w.toNat 2 0)

/-- Address of link `n` of a lane (03 R59). -/
def linkAddr (i : Iss) (l n : Nat) : Nat := i.sess.lkBase.toNat + 1048576 * i.bandOf.area + 256 * n + 8 * l

/-- A 64-bit access of a lane to its own band's link area, relaxed at `.grp`. -/
def linkRead (s : State) (i : Iss) (l n : Nat) : Except Halt Dword :=
  let ea := BitVec.ofNat 64 (linkAddr i l n)
  match checkAccess s i { acc := .read, aligned := false, types := anyType } ea 8 with
  | .error t => .error (memTrap false l t)
  | .ok p => if s.placePoison i.sess p 8 then .error (memTrap false l (s.poisonAt i.sess p ea))
             else .ok (BitVec.ofNat 64 (leNat (s.bytesAt i.sess 0 p 8)))

/-- Stores bytes of the band's own areas, with every check of a store. -/
def areaStore (s : State) (i : Iss) (l : Nat) (ea : Dword) (bs : List Byte) : Except Halt State :=
  let nd : Need := { acc := .write, aligned := false, types := anyType }
  match checkAccess s i nd ea bs.length with
  | .error t => .error (memTrap false l t)
  | .ok p =>
    if s.placePoisonW i.sess p bs.length then .error (memTrap false l (s.poisonAt i.sess p ea))
    else match s.cowPlace i.sess (i.self l) p with
      | .error t => .error (memTrap false l t)
      | .ok s1 => match checkAccess s1 i nd ea bs.length with
        | .error t => .error (memTrap false l t)
        | .ok q => .ok (s1.putAt i.sess 0 (i.self l) q bs)

/-- One lane calls (10 R216): the link is pushed, eight on-chip links going to memory first when a ninth would not fit. -/
def pushCall (s : State) (i : Iss) (l : Nat) (k : Nat) (target : Pc) : Except Halt State :=
  let x := i.group.lane i.band l
  let out : Except Halt State :=
    if x.links.length < 8 then .ok s
    else foldE (fun t j => areaStore t i l (BitVec.ofNat 64 (linkAddr i l (x.nlinks - 8 + j))) (toLE 8 (x.links.getD j 0).toNat)) s
      (List.range 8)
  match out with
  | .error e => .error e
  | .ok s1 => .ok (s1.modLanes i (maskOf (· == l)) fun _ y =>
      { y with
        links := (if y.links.length < 8 then y.links else []) ++ [linkWord (nextPc i.pc) k y.size],
        nlinks := y.nlinks + 1, base := y.base + k, size := y.size - k, pc := target })

/-- The call family. -/
def callBody (f : BForm) (indirect : Bool) (target : Iss → State → Nat → Except Halt Pc) : Body := fun i en s =>
  let k := 8 * f.wsh.toNat
  perLane i en s (fun l =>
      let x := i.group.lane i.band l
      if k + 8 > x.size then .error (illOpAt l)
      else match target i s l with
        | .error e => .error e
        | .ok pc => match checkTarget s i l indirect pc with
          | .error e => .error e
          | .ok () => if x.base + x.size > i.sess.rsDepth then .error (memTrap false l (mkTrap stackLimit 0))
            else if x.nlinks ≥ 4096 then .error (memTrap false l (mkTrap stackLimit 1)) else .ok pc)
    fun t l pc => pushCall t i l k pc

def viewCall (f : BForm) : View := { viewB 0x02 f true false [.off f.a] with lead := false }
def viewCalli (f : BForm) : View := { viewB 0x02 f true true [.base f.a] with lead := false }

/-- `CALL`. -/
def execCall (f : BForm) (s : State) : Result :=
  issue s (fun _ => viewCall f) true false
    (callBody f false fun i _ _ => .ok (directTarget i.pc f.loff f.slot 0))

/-- `CALLI`. -/
def execCalli (f : BForm) (s : State) : Result :=
  issue s (fun _ => viewCalli f) true false
    (callBody f true fun i s l => rd2 s i l f.a)

/-- Positions `[lo', lo)` of a lane read back by the spill engine (03 R57). -/
def spillIn (s : State) (i : Iss) (l : Nat) (lo' lo : Nat) : Except Halt (List Word) :=
  mapE (fun j =>
    let ea := BitVec.ofNat 64 (stackAddr i.sess i.bandOf (lo' + j) l)
    match checkAccess s i { acc := .read, aligned := false, types := anyType } ea 4 with
    | .error t => .error (memTrap false l t)
    | .ok p => if s.placePoison i.sess p 4 then .error (memTrap false l (s.poisonAt i.sess p ea))
               else .ok (BitVec.ofNat 32 (leNat (s.bytesAt i.sess 0 p 4)))) (List.range (lo - lo'))

/-- What a return restores for one lane. -/
structure RetInfo where
  link : Dword
  /-- links left on chip -/
  links : List Dword
  lo : Nat
  fill : List Word
  deriving DecidableEq, Repr

/-- The dead positions a `RET` brings back into the window (03 R57; entry 11): the device does not say whether each reads
as the value it last held (a deposit among them), as zero, or as the word at its register-stack address. -/
def deadFill (s : State) (i : Iss) (l lo hi : Nat) : State :=
  (List.range (hi - lo)).foldl (fun t j =>
    let (n, t1) := t.fresh
    let pos := lo + j
    let v : Word := match Config.freeNat n % 3 with
      | 0 => spGet (i.group.lane i.band l).regs pos
      | 1 => 0
      | _ => match t.sxNum i.sess (stackAddr i.sess i.bandOf pos l) 4 with
        | .ok w => BitVec.ofNat 32 w
        | .error _ => 0
    t1.modLanes i (maskOf (· == l)) fun _ y =>
      { y with regs := spSet y.regs pos v, banks := spSet y.banks pos v, win := y.win.filter fun e => e.1 != pos
               killed := y.killed.filter (· ≠ pos) }) s

def viewRet (f : RForm) : View := { viewR 0x03 ty0 f plain [.off f.d, .off f.a, .off f.b, .off f.c] with lead := false }

/-- `RET` (10 R217). The link is the lane's own: its PC is no indirect target value, so that R136 checks its line and TARGET bit and
not its SLOT. Link memory that a program has overwritten may hold a SLOT above 4, for which the bit at that place of the line word
is tested, a RUNEND bit (entry 79). -/
def execRet (f : RForm) (s : State) : Result :=
  issue s (fun _ => viewRet f) true false
    fun i en s => perLane i en s (fun l =>
        let x := i.group.lane i.band l
        if x.nlinks == 0 then .error (memTrap false l (mkTrap stackLimit 2))
        else
          let link := x.links.getLastD 0
          let rest := x.links.dropLast
          let more := x.nlinks - 1
          let base := x.base - linkShift link
          let size := linkSize link
          let l' := max base (base + size - i.launch.desc.blockRegs)
          let lo := if x.lo > l' then l' else x.lo
          match spillIn s i l lo x.lo with
          | .error e => .error e
          | .ok fill =>
            match if rest.isEmpty && more > 0 then mapE (fun j => linkRead s i l (more - min 8 more + j)) (List.range (min 8 more))
                  else .ok rest with
            | .error e => .error e
            | .ok ls => match checkTarget s i l false (linkPc link) with
              | .error e => .error e
              | .ok () => .ok { link := link, links := ls, lo := lo, fill := fill : RetInfo })
      fun t l r =>
        let x := i.group.lane i.band l
        let base := x.base - linkShift r.link
        let size := linkSize r.link
        let top := x.base + x.size
        .ok (deadFill (t.modLanes i (maskOf (· == l)) fun _ y =>
            { y with base := base, size := size, lo := r.lo, links := r.links, nlinks := y.nlinks - 1, pc := linkPc r.link,
                     regs := spSetList y.regs r.lo r.fill, banks := spSetList y.banks r.lo r.fill }) i l (max top x.base) (base + size))

def viewExit (f : RForm) : View := viewR 0x04 ty0 f plain [.off f.d, .off f.a, .off f.b, .off f.c]

/-- `EXIT` (10 R218). -/
def execExit (f : RForm) (s : State) : Result :=
  issue s (fun _ => viewExit f) true false fun i en s =>
    .ok (if i.lead then s.modLead i fun x => { x with status := .exited, rep := none }
         else s.modLanes i en fun _ x => x.exit)

def viewAlloc (f : IForm) : View := { viewI 0x05 ty0 f plain [.off f.d, .off f.a] with lead := false }

/-- `ALLOC` (10 R220). Every lane's spill is tried before any lane changes. -/
def execAlloc (f : IForm) (s : State) : Result :=
  let n := f.imm.toNat
  issue s (fun _ => viewAlloc f) false false fun i en s =>
    perLane i en s (fun l =>
        let x := i.group.lane i.band l
        if n % 8 != 0 || n < 8 || n > 640 then .error (illOpAt l)
        else if x.base + n > i.sess.rsDepth then .error (memTrap false l (mkTrap stackLimit 0))
        else
          let lo := newLo i.launch.desc.blockRegs x.lo x.base n
          match s.raiseTop i.sess i.bandOf l x (x.base + x.size) (x.base + n) lo with
          | .error e => .error (memTrap false l e)
          | .ok _ => .ok lo)
      fun t l lo =>
        let x := i.group.lane i.band l
        match t.raiseTop i.sess i.bandOf l x (x.base + x.size) (x.base + n) lo with
        | .error e => .error (memTrap false l e)
        | .ok (t1, z) => .ok (t1.modLanes i (maskOf (· == l)) fun _ _ => { z with size := n })

def viewSplit (f : RForm) : View :=
  { viewR 0x06 [.b32] f plain [.lreg f.d true, .off f.a, .off f.b, .off f.c] with lead := false, noGuard := true }

def viewRejoin (f : RForm) : View :=
  { viewR 0x06 [.b32] f plain [.off f.d, .lreg f.a false, .off f.b, .off f.c] with lead := false, noGuard := true }

/-- `SPLIT` (10 R221): each active lane receives the mask of the band's active lanes. -/
def execSplit (f : RForm) (s : State) : Result :=
  issue s (fun _ => viewSplit f) false false
    fun i en s => perLane i en s (fun _ => .ok i.active) fun t l v => writeV t i l f.d.idx.toNat v

/-- `REJOIN` (10 R221): the lane parks with its own copy of the mask; its own bit counts as set. -/
def execRejoin (f : RForm) (s : State) : Result :=
  issue s (fun _ => viewRejoin f) true false
    fun i en s => perLane i en s (fun l => readV s i l f.a.idx.toNat)
      fun t l m => .ok (t.modLanes i (maskOf (· == l)) fun _ x => { x with status := .parked (m ||| BitVec.ofNat 32 (2 ^ l)) })

end Sys2Proof.Machine
end

