-- ==== Sys2Proof/Machine/Flags.lean ====
section
/-! DEFINITION. Flags and draws: how an instruction that computes in registers delivers its results, ORs its flags into
`%fpflags` and takes draws from `%dcount` (04 R74 to R78, 08 R159, R160). -/

namespace Sys2Proof.Machine

open Sys2Proof

/-- A result of one lane, the flags it sets and the draws it took. -/
structure LaneOut where
  val : Nat
  fl : Nat := 0
  draws : Nat := 0
  deriving DecidableEq, Repr

/-- A source operand: a register of a type, or an immediate already read by its type. -/
inductive Opnd where
  | reg (t : Ty) (s : Spec)
  | imm (v : Nat)
  deriving DecidableEq, Repr

def rdOp (s : State) (i : Iss) (l : Nat) : Opnd → Except Halt Nat
  | .reg t sp => rdT s i l t sp
  | .imm v => .ok v

/-- The flags and the draw counter of a lane after an instruction; the lead stream has neither. -/
def State.settle (s : State) (i : Iss) (l : Nat) (fl draws : Nat) : State :=
  if i.lead || (fl == 0 && draws == 0) then s
  else s.modLanes i (maskOf (· == l)) fun _ x =>
    { x with fpflags := x.fpflags ||| BitVec.ofNat 5 fl, dcount := x.dcount + BitVec.ofNat 32 draws }

/-- Top 24 bits of draw `n` of this instruction (04 R78). -/
def Iss.draw24 (i : Iss) (l n : Nat) : Nat :=
  let x := i.group.lane i.band l
  (drawFn x.dseed (x.dcount + BitVec.ofNat 32 n).toNat).toNat / 2 ^ 40

/-- An instruction that computes one result from its sources: `fn` is given the draws and the source values. -/
def compute (dt : Ty) (d : Spec) (srcs : List Opnd) (fn : (Nat → Nat) → List Nat → LaneOut) : Body := fun i en s =>
  perLane i en s (fun l => (mapE (rdOp s i l) srcs).map (fn (i.draw24 l)))
    fun t l r => (wrT t i l dt d r.val).map fun t1 => t1.settle i l r.fl r.draws

/-- An instruction whose result is a bit of a mask. -/
def computeK (d : Spec) (srcs : List Opnd) (fn : List Nat → Bool × Nat) : Body := fun i en s =>
  perLane i en s (fun l => (mapE (rdOp s i l) srcs).map fn)
    fun t l r => .ok ((t.wrK i l d.idx.toNat r.1).settle i l r.2 0)

/-! ### Types -/

/-- Width of an element, and the number of elements (04 R69, R70). -/
def tyElem : Ty → Nat × Nat
  | .b32 | .s32 | .n32 | .f32 => (32, 1)
  | .b64 | .s64 | .n64 | .f64 => (64, 1)
  | .f16 | .bf16 => (16, 1)
  | .f16x2 | .bf16x2 | .s16x2 | .n16x2 => (16, 2)
  | .s8x4 | .n8x4 => (8, 4)

/-- Whether the elements are signed integers. -/
def tySigned : Ty → Bool
  | .s32 | .s64 | .s16x2 | .s8x4 => true
  | _ => false

/-- A bit-string type (04 R69). -/
def tyBits (t : Ty) : Bool := t == .b32 || t == .b64

/-- Format of the elements of a floating-point type. -/
def tyFmt : Ty → Option Fmt
  | .f32 => some fmtF32
  | .f64 => some fmtF64
  | .f16 | .f16x2 => some fmtF16
  | .bf16 | .bf16x2 => some fmtBf16
  | _ => none

/-- Element `j` of a value. -/
def elemAt (w x j : Nat) : Nat := x / 2 ^ (w * j) % 2 ^ w

/-- Elements packed, element 0 lowest. -/
def packElems (w : Nat) : List Nat → Nat
  | [] => 0
  | x :: xs => x % 2 ^ w + 2 ^ w * packElems w xs

/-- An element as an integer. -/
def elemInt (signed : Bool) (w x : Nat) : Int := if signed then sextNat w x else (x % 2 ^ w : Nat)

/-- An immediate as its type reads it (07 R141). An FP32 immediate of `.f64` is converted exactly (a NaN: entry 72). -/
def immOf (t : Ty) (v : BitVec 32) : Nat :=
  match t with
  | .s64 | .b64 => (v.signExtend 64).toNat
  | .f64 =>
    match fmtF32.decode v.toNat with
    | .nan _ => fmtF64.signBit (v.getLsbD 31) + 0x7FF * 2 ^ 52 + v.toNat % 2 ^ 23 * 2 ^ 29
    | x => (fmtF64.deliver 0 .none false 0 ⟨x, 0⟩).bits
  | .f16 | .bf16 => v.toNat % 65536
  | _ => v.toNat

/-! ### Views of instructions with an I-form twin -/

def aTy : AForm → Ty
  | .r f => f.ty
  | .i f => f.ty

def aD : AForm → Spec
  | .r f => f.d
  | .i f => f.d

def aA : AForm → Spec
  | .r f => f.a
  | .i f => f.a

def aSat : AForm → Bool
  | .r f => f.sat
  | .i f => f.sat

def aFtz : AForm → Bool
  | .r f => f.ftz
  | .i f => f.ftz

def aRnd : AForm → Nat
  | .r f => f.rnd.toNat
  | .i f => f.rnd.toNat

/-- Operand B of an instruction with a twin, read as a type. -/
def aB (t : Ty) : AForm → Opnd
  | .r f => .reg t f.b
  | .i f => .imm (immOf t f.imm)

/-- View of a two-source instruction: OP of the R form, uses of D, A and B. -/
def viewA (op : Nat) (types : List Ty) (f : AForm) (m : Mods) (d a : Spec → Use) (b : Spec → Use) : View :=
  match f with
  | .r f => viewR op types f m [d f.d, a f.a, b f.b, .off f.c]
  | .i f =>
    { viewI (op + 0x10) types f m [d f.d, a f.a] with
      bad := badI f m || ((f.ty == .f16 || f.ty == .bf16) && decide (65536 ≤ f.imm.toNat)) }

end Sys2Proof.Machine
end

