-- ==== Sys2Proof/Machine/Integer.lean ====
section
/-! DEFINITION. Integer, logic, shift, field, comparison, move and mask instructions, OP 0x10 to 0x19 and their twins
(08 R162 to R172). -/

namespace Sys2Proof.Machine

open Sys2Proof

def intTypes : List Ty := i32 ++ i64 ++ packedI
def wordTypes : List Ty := i32 ++ i64
def signedOrNat : List Ty := [.s32, .n32, .s64, .n64] ++ packedI

/-- An exact element result narrowed: clamped to the type's range, or wrapped (04 R69). -/
def narrow (sat signed : Bool) (w : Nat) (x : Int) : Nat :=
  wrapInt w (if sat then clampInt (intLo signed w) (intHi signed w) x else x)

/-- An element-wise integer operation: `f` is given the width, the signedness and the elements of the sources. -/
def mapElems (t : Ty) (f : Nat → Bool → List Int → Nat) (xs : List Nat) : Nat :=
  let (w, n) := tyElem t
  packElems w ((List.range n).map fun j => f w (tySigned t) (xs.map fun x => elemInt (tySigned t) w (elemAt w x j)))

/-- Modifiers: SAT where it is allowed. -/
def satMods (ok : Bool) : Mods := { sat := ok }

/-- Element operations of 08 R162 and R164. -/
def intOp2 (f : Int → Int → Int) (sat : Bool) (w : Nat) (sg : Bool) : List Int → Nat
  | x :: y :: _ => narrow sat sg w (f x y)
  | _ => 0

def intOp3 (f : Int → Int → Int → Int) (sat : Bool) (w : Nat) (sg : Bool) : List Int → Nat
  | x :: y :: z :: _ => narrow sat sg w (f x y z)
  | _ => 0

def intOp1 (f : Int → Int) (sat : Bool) (w : Nat) (sg : Bool) : List Int → Nat
  | x :: _ => narrow sat sg w (f x)
  | _ => 0

/-- Two-source integer instructions with a twin. -/
def viewInt2 (op : Nat) (types : List Ty) (sat : Bool) (f : AForm) : View :=
  viewA op types f (satMods sat) (.dstT (aTy f)) (.srcT (aTy f)) (.srcT (aTy f))

def viewInt3 (op : Nat) (types : List Ty) (sat : Bool) (f : RForm) : View :=
  viewR op types f (satMods sat) [.dstT f.ty f.d, .srcT f.ty f.a, .srcT f.ty f.b, .srcT f.ty f.c]

def viewInt1 (op : Nat) (types : List Ty) (sat : Bool) (f : RForm) : View :=
  viewR op types f (satMods sat) [.dstT f.ty f.d, .srcT f.ty f.a, .off f.b, .off f.c]

def intBody2 (f : AForm) (g : Nat → Bool → List Int → Nat) : Body :=
  compute (aTy f) (aD f) [.reg (aTy f) (aA f), aB (aTy f) f] fun _ xs => { val := mapElems (aTy f) g xs }

def intBody3 (f : RForm) (g : Nat → Bool → List Int → Nat) : Body :=
  compute f.ty f.d [.reg f.ty f.a, .reg f.ty f.b, .reg f.ty f.c] fun _ xs => { val := mapElems f.ty g xs }

def intBody1 (f : RForm) (g : Nat → Bool → List Int → Nat) : Body :=
  compute f.ty f.d [.reg f.ty f.a] fun _ xs => { val := mapElems f.ty g xs }

/-! ### 08 R162, R163 -/

def viewIadd (f : AForm) : View := viewInt2 0x10 intTypes (!tyBits (aTy f)) f
def viewImulhi (f : AForm) : View := viewInt2 0x10 intTypes false f
def viewImad (f : RForm) : View := viewInt3 0x10 intTypes (!tyBits f.ty) f
def viewAddmin (f : RForm) : View := viewInt3 0x10 signedOrNat true f

/-- `IADD`. -/
def execIadd (f : AForm) (s : State) : Result :=
  issue s (fun i => viewIadd (strideA f i.rep)) false false fun i en s =>
    let f := strideA f i.rep
    intBody2 f (intOp2 (· + ·) (aSat f)) i en s

/-- `ISUB`. -/
def execIsub (f : AForm) (s : State) : Result :=
  issue s (fun i => viewIadd (strideA f i.rep)) false false fun i en s =>
    let f := strideA f i.rep
    intBody2 f (intOp2 (· - ·) (aSat f)) i en s

/-- `IMUL`. -/
def execImul (f : AForm) (s : State) : Result :=
  issue s (fun i => viewIadd (strideA f i.rep)) false false fun i en s =>
    let f := strideA f i.rep
    intBody2 f (intOp2 (· * ·) (aSat f)) i en s

/-- Upper half of an exact product. -/
def mulHigh (w : Nat) : List Int → Nat
  | x :: y :: _ => wrapInt w (x * y / (2 ^ w : Nat))
  | _ => 0

/-- `IMULHI`. -/
def execImulhi (f : AForm) (s : State) : Result :=
  issue s (fun i => viewImulhi (strideA f i.rep)) false false fun i en s =>
    intBody2 (strideA f i.rep) (fun w _ => mulHigh w) i en s

/-- `IMAD`. -/
def execImad (f : RForm) (s : State) : Result :=
  issue s (fun i => viewImad (strideR f i.rep)) false false fun i en s =>
    let f := strideR f i.rep
    intBody3 f (intOp3 (fun x y z => x * y + z) f.sat) i en s

/-- `IADD3`. -/
def execIadd3 (f : RForm) (s : State) : Result :=
  issue s (fun i => viewImad (strideR f i.rep)) false false fun i en s =>
    let f := strideR f i.rep
    intBody3 f (intOp3 (fun x y z => x + y + z) f.sat) i en s

/-- A saturated sum, then a minimum or maximum. -/
def addThen (pick : Int → Int → Int) (w : Nat) (sg : Bool) : List Int → Nat
  | x :: y :: z :: _ => wrapInt w (pick (clampInt (intLo sg w) (intHi sg w) (x + y)) z)
  | _ => 0

/-- `ADDMIN`. -/
def execAddmin (f : RForm) (s : State) : Result :=
  issue s (fun i => viewAddmin (strideR f i.rep)) false false fun i en s =>
    intBody3 (strideR f i.rep) (addThen min) i en s

/-- `ADDMAX`. -/
def execAddmax (f : RForm) (s : State) : Result :=
  issue s (fun i => viewAddmin (strideR f i.rep)) false false fun i en s =>
    intBody3 (strideR f i.rep) (addThen max) i en s

/-! ### 08 R164, R165 -/

def viewImin (f : AForm) : View := viewInt2 0x11 signedOrNat false f
def viewMin3 (f : RForm) : View := viewInt3 0x11 signedOrNat false f
def viewIabs (f : RForm) : View := viewInt1 0x11 [.s32, .s64, .s16x2, .s8x4] true f
def viewIneg (f : RForm) : View := viewInt1 0x11 intTypes (!tyBits f.ty) f
def viewIsad (f : RForm) : View := viewInt3 0x11 signedOrNat true f
def viewIdiv (sat : Bool) (f : AForm) : View := viewInt2 0x12 [.s32, .n32, .s64, .n64] sat f

/-- `IMIN`. -/
def execImin (f : AForm) (s : State) : Result :=
  issue s (fun i => viewImin (strideA f i.rep)) false false fun i en s =>
    intBody2 (strideA f i.rep) (intOp2 min false) i en s

/-- `IMAX`. -/
def execImax (f : AForm) (s : State) : Result :=
  issue s (fun i => viewImin (strideA f i.rep)) false false fun i en s =>
    intBody2 (strideA f i.rep) (intOp2 max false) i en s

/-- `MIN3`. -/
def execMin3 (f : RForm) (s : State) : Result :=
  issue s (fun i => viewMin3 (strideR f i.rep)) false false fun i en s =>
    intBody3 (strideR f i.rep) (intOp3 (fun x y z => min x (min y z)) false) i en s

/-- `MAX3`. -/
def execMax3 (f : RForm) (s : State) : Result :=
  issue s (fun i => viewMin3 (strideR f i.rep)) false false fun i en s =>
    intBody3 (strideR f i.rep) (intOp3 (fun x y z => max x (max y z)) false) i en s

/-- `IABS`: the most negative value wraps to itself, or clamps under SAT. -/
def execIabs (f : RForm) (s : State) : Result :=
  issue s (fun i => viewIabs (strideR f i.rep)) false false fun i en s =>
    let f := strideR f i.rep
    intBody1 f (intOp1 (fun x => (x.natAbs : Int)) f.sat) i en s

/-- `INEG`. -/
def execIneg (f : RForm) (s : State) : Result :=
  issue s (fun i => viewIneg (strideR f i.rep)) false false fun i en s =>
    let f := strideR f i.rep
    intBody1 f (intOp1 (fun x => -x) f.sat) i en s

/-- `ISAD`. -/
def execIsad (f : RForm) (s : State) : Result :=
  issue s (fun i => viewIsad (strideR f i.rep)) false false fun i en s =>
    let f := strideR f i.rep
    intBody3 f (intOp3 (fun x y z => ((x - y).natAbs : Int) + z) f.sat) i en s

/-- Quotient with the borderline cases of 08 R165. -/
def divElem (sat : Bool) (w : Nat) (sg : Bool) : List Int → Nat
  | x :: y :: _ => if y = 0 then 2 ^ w - 1 else narrow sat sg w (Int.tdiv x y)
  | _ => 0

def remElem (w : Nat) : List Int → Nat
  | x :: y :: _ => wrapInt w (if y = 0 then x else Int.tmod x y)
  | _ => 0

/-- `IDIV`. -/
def execIdiv (f : AForm) (s : State) : Result :=
  issue s (fun i => viewIdiv true (strideA f i.rep)) false false fun i en s =>
    let f := strideA f i.rep
    intBody2 f (divElem (aSat f)) i en s

/-- `IREM`. -/
def execIrem (f : AForm) (s : State) : Result :=
  issue s (fun i => viewIdiv false (strideA f i.rep)) false false fun i en s =>
    intBody2 (strideA f i.rep) (fun w _ => remElem w) i en s

/-! ### 08 R166 to R168 -/

/-- Two and three whole values as numbers of the type's width. -/
def wordBody2 (f : AForm) (g : Nat → Nat → Nat → Nat) : Body :=
  compute (aTy f) (aD f) [.reg (aTy f) (aA f), aB (aTy f) f] fun _ xs => match xs with
    | x :: y :: _ => { val := g (tyElem (aTy f)).1 x y }
    | _ => { val := 0 }

def wordBody3 (f : RForm) (g : Nat → Nat → Nat → Nat → Nat) : Body :=
  compute f.ty f.d [.reg f.ty f.a, .reg f.ty f.b, .reg f.ty f.c] fun _ xs => match xs with
    | x :: y :: z :: _ => { val := g (tyElem f.ty).1 x y z }
    | _ => { val := 0 }

def wordBody1 (f : RForm) (g : Nat → Nat → Nat) : Body :=
  compute f.ty f.d [.reg f.ty f.a] fun _ xs => match xs with
    | x :: _ => { val := g (tyElem f.ty).1 x }
    | _ => { val := 0 }

def viewLogic (f : AForm) : View := viewInt2 0x13 [.b32, .b64] false f
def viewNot (f : RForm) : View := viewInt1 0x13 [.b32, .b64] false f
def viewShift (f : AForm) : View := viewInt2 0x14 wordTypes false f
def viewFsh (f : RForm) : View := viewInt3 0x14 wordTypes false f
def viewBfx (f : AForm) : View := viewInt2 0x15 wordTypes false f
def viewBfi (f : RForm) : View := viewInt3 0x15 wordTypes false f
def viewCount (f : RForm) : View := viewInt1 0x15 wordTypes false f

/-- Bitwise complement within a width. -/
def notW (w x : Nat) : Nat := 2 ^ w - 1 - x % 2 ^ w

/-- `AND`. -/
def execLand (f : AForm) (s : State) : Result :=
  issue s (fun i => viewLogic (strideA f i.rep)) false false fun i en s =>
    wordBody2 (strideA f i.rep) (fun _ x y => x &&& y) i en s

/-- `OR`. -/
def execLor (f : AForm) (s : State) : Result :=
  issue s (fun i => viewLogic (strideA f i.rep)) false false fun i en s =>
    wordBody2 (strideA f i.rep) (fun _ x y => x ||| y) i en s

/-- `XOR`. -/
def execLxor (f : AForm) (s : State) : Result :=
  issue s (fun i => viewLogic (strideA f i.rep)) false false fun i en s =>
    wordBody2 (strideA f i.rep) (fun _ x y => x ^^^ y) i en s

/-- `ANDN`. -/
def execLandn (f : AForm) (s : State) : Result :=
  issue s (fun i => viewLogic (strideA f i.rep)) false false fun i en s =>
    wordBody2 (strideA f i.rep) (fun w x y => x &&& notW w y) i en s

/-- `ORN`. -/
def execLorn (f : AForm) (s : State) : Result :=
  issue s (fun i => viewLogic (strideA f i.rep)) false false fun i en s =>
    wordBody2 (strideA f i.rep) (fun w x y => x ||| notW w y) i en s

/-- `NOT`. -/
def execLnot (f : RForm) (s : State) : Result :=
  issue s (fun i => viewNot (strideR f i.rep)) false false fun i en s =>
    wordBody1 (strideR f i.rep) (fun w x => notW w x) i en s

/-- `SHL`. -/
def execShl (f : AForm) (s : State) : Result :=
  issue s (fun i => viewShift (strideA f i.rep)) false false fun i en s =>
    wordBody2 (strideA f i.rep) (fun w x y => x * 2 ^ (y % w) % 2 ^ w) i en s

/-- `SHR`. -/
def execShr (f : AForm) (s : State) : Result :=
  issue s (fun i => viewShift (strideA f i.rep)) false false fun i en s =>
    wordBody2 (strideA f i.rep) (fun w x y => x / 2 ^ (y % w)) i en s

/-- `SAR`: arithmetic for every type. -/
def execSar (f : AForm) (s : State) : Result :=
  issue s (fun i => viewShift (strideA f i.rep)) false false fun i en s =>
    wordBody2 (strideA f i.rep) (fun w x y => wrapInt w (sextNat w x / (2 ^ (y % w) : Nat))) i en s

/-- Rotation left by `n < w`. -/
def rotl (w x n : Nat) : Nat := (x * 2 ^ n ||| x / 2 ^ (w - n)) % 2 ^ w

/-- `ROL`. -/
def execRol (f : AForm) (s : State) : Result :=
  issue s (fun i => viewShift (strideA f i.rep)) false false fun i en s =>
    wordBody2 (strideA f i.rep) (fun w x y => rotl w x (y % w)) i en s

/-- `ROR`. -/
def execRor (f : AForm) (s : State) : Result :=
  issue s (fun i => viewShift (strideA f i.rep)) false false fun i en s =>
    wordBody2 (strideA f i.rep) (fun w x y => rotl w x ((w - y % w) % w)) i en s

/-- `FSHL`: a high half, c low half. -/
def execFshl (f : RForm) (s : State) : Result :=
  issue s (fun i => viewFsh (strideR f i.rep)) false false fun i en s =>
    wordBody3 (strideR f i.rep) (fun w x y z => (x * 2 ^ w + z) * 2 ^ (y % w) / 2 ^ w % 2 ^ w) i en s

/-- `FSHR`. -/
def execFshr (f : RForm) (s : State) : Result :=
  issue s (fun i => viewFsh (strideR f i.rep)) false false fun i en s =>
    wordBody3 (strideR f i.rep) (fun w x y z => (x * 2 ^ w + z) / 2 ^ (y % w) % 2 ^ w) i en s

/-- Position and length of a bit field in b (08 R168). -/
def fieldPos (w b : Nat) : Nat := min (bitsOf b 7 0) w
def fieldLen (w b : Nat) : Nat := min (bitsOf b 15 8) (w - fieldPos w b)

/-- `BFX`. -/
def execBfx (f : AForm) (s : State) : Result :=
  issue s (fun i => viewBfx (strideA f i.rep)) false false fun i en s =>
    let f := strideA f i.rep
    wordBody2 f (fun w x y =>
      let v := x / 2 ^ fieldPos w y % 2 ^ fieldLen w y
      if tySigned (aTy f) && fieldLen w y != 0 then wrapInt w (sextNat (fieldLen w y) v) else v) i en s

/-- `BFI`. -/
def execBfi (f : RForm) (s : State) : Result :=
  issue s (fun i => viewBfi (strideR f i.rep)) false false fun i en s =>
    wordBody3 (strideR f i.rep) (fun w x y z =>
      let m := (2 ^ fieldLen w y - 1) * 2 ^ fieldPos w y
      (z &&& notW w m) ||| (x * 2 ^ fieldPos w y &&& m)) i en s

/-- `POPC`. -/
def execPopc (f : RForm) (s : State) : Result :=
  issue s (fun i => viewCount (strideR f i.rep)) false false fun i en s =>
    wordBody1 (strideR f i.rep) (fun w x => ((List.range w).filter (bitOf x)).length) i en s

/-- `CLZ`. -/
def execClz (f : RForm) (s : State) : Result :=
  issue s (fun i => viewCount (strideR f i.rep)) false false fun i en s =>
    wordBody1 (strideR f i.rep) (fun w x => ((List.range w).find? fun j => bitOf x (w - 1 - j)).getD w) i en s

/-- `CTZ`. -/
def execCtz (f : RForm) (s : State) : Result :=
  issue s (fun i => viewCount (strideR f i.rep)) false false fun i en s =>
    wordBody1 (strideR f i.rep) (fun w x => ((List.range w).find? (bitOf x)).getD w) i en s

/-- `BREV`. -/
def execBrev (f : RForm) (s : State) : Result :=
  issue s (fun i => viewCount (strideR f i.rep)) false false fun i en s =>
    wordBody1 (strideR f i.rep) (fun w x => (List.range w).foldl (fun a j => 2 * a + b2n (bitOf x j)) 0) i en s

/-! ### 08 R169 to R172 -/

def viewIcmp (f : AForm) : View :=
  viewA 0x16 wordTypes f plain .mask (.srcT (aTy f)) (.srcT (aTy f))

def icmpHolds (x : ICond) (a b : Int) : Bool :=
  match x with
  | .eq => a == b
  | .ne => a != b
  | .lt => decide (a < b)
  | .le => decide (a ≤ b)
  | .gt => decide (b < a)
  | .ge => decide (b ≤ a)

/-- `ICMP`. -/
def execIcmp (x : ICond) (f : AForm) (s : State) : Result :=
  issue s (fun i => viewIcmp (strideA f i.rep)) false false fun i en s =>
    let f := strideA f i.rep
    let t := aTy f
    computeK (aD f) [.reg t (aA f), aB t f] (fun xs => match xs with
      | a :: b :: _ => (icmpHolds x (elemInt (tySigned t) (tyElem t).1 a) (elemInt (tySigned t) (tyElem t).1 b), 0)
      | _ => (false, 0)) i en s

def viewMov (f : AForm) : View := viewA 0x17 allTypes f plain (.dstT (aTy f)) .off (.srcT (aTy f))

/-- `MOV`. -/
def execMov (f : AForm) (s : State) : Result :=
  issue s (fun i => viewMov (strideA f i.rep)) false false fun i en s =>
    let f := strideA f i.rep
    compute (aTy f) (aD f) [aB (aTy f) f] (fun _ xs => { val := xs.headD 0 }) i en s

def viewSel (f : RForm) : View :=
  viewR 0x17 allTypes f plain [.dstT f.ty f.d, .srcT f.ty f.a, .srcT f.ty f.b, .mask f.c]

/-- `SEL`. -/
def execSel (f : RForm) (s : State) : Result :=
  issue s (fun i => viewSel (strideR f i.rep)) false false fun i en s =>
    let f := strideR f i.rep
    perLane i en s (fun l => match rdT s i l f.ty f.a, rdT s i l f.ty f.b with
        | .ok a, .ok b => .ok (if i.kAt l f.c.idx.toNat then a else b)
        | .error e, _ => .error e
        | _, .error e => .error e)
      fun t l v => wrT t i l f.ty f.d v

/-- The 32-bit value of a mask register; in the lead stream bit 0 alone (08 R171). -/
def Iss.kWord (i : Iss) (n : Nat) : Word := if i.lead then maskOf fun l => l == 0 && i.kAt 0 n else maskOf fun l => i.kAt l n

/-- Operand B of a mask instruction, as a mask value. -/
def kB (i : Iss) : AForm → Word
  | .r f => i.kWord f.b.idx.toNat
  | .i f => if i.lead then f.imm &&& 1 else f.imm

def viewK (f : AForm) : View := viewA 0x18 [.b32] f plain .mask .mask .mask
def viewKnot (f : AForm) : View := viewA 0x18 [.b32] f plain .mask .off .mask
def viewKget (f : AForm) : View := viewA 0x18 [.b32] f plain .dst .off .mask
def viewKset (f : AForm) : View := viewA 0x18 [.b32] f plain .mask .off .src

/-- A bit-wise mask operation. -/
def kBody (f : AForm) (g : Bool → Bool → Bool) : Body := fun i en s =>
  perLane i en s (fun l => .ok (g (i.kAt l (aA f).idx.toNat) ((kB i f).getLsbD l))) fun t l v => .ok (t.wrK i l (aD f).idx.toNat v)

/-- `KAND`. -/
def execKand (f : AForm) (s : State) : Result :=
  issue s (fun i => viewK (strideA f i.rep)) false false fun i en s => kBody (strideA f i.rep) (fun a b => a && b) i en s

/-- `KOR`. -/
def execKor (f : AForm) (s : State) : Result :=
  issue s (fun i => viewK (strideA f i.rep)) false false fun i en s => kBody (strideA f i.rep) (fun a b => a || b) i en s

/-- `KXOR`. -/
def execKxor (f : AForm) (s : State) : Result :=
  issue s (fun i => viewK (strideA f i.rep)) false false fun i en s => kBody (strideA f i.rep) (fun a b => a != b) i en s

/-- `KANDN`. -/
def execKandn (f : AForm) (s : State) : Result :=
  issue s (fun i => viewK (strideA f i.rep)) false false fun i en s => kBody (strideA f i.rep) (fun a b => a && !b) i en s

/-- `KNOT`. -/
def execKnot (f : AForm) (s : State) : Result :=
  issue s (fun i => viewKnot (strideA f i.rep)) false false fun i en s => kBody (strideA f i.rep) (fun _ b => !b) i en s

/-- `KGET`: every enabled lane receives the whole mask. -/
def execKget (f : AForm) (s : State) : Result :=
  issue s (fun i => viewKget (strideA f i.rep)) false false fun i en s =>
    let f := strideA f i.rep
    perLane i en s (fun _ => .ok (kB i f)) fun t l v => wr1 t i l .b32 (aD f) v

/-- `KSET`: bit l of lane l's own b. -/
def execKset (f : AForm) (s : State) : Result :=
  issue s (fun i => viewKset (strideA f i.rep)) false false fun i en s =>
    let f := strideA f i.rep
    perLane i en s (fun l => (rdOp s i l (aB .b32 f)).map fun v => bitOf v l) fun t l v => .ok (t.wrK i l (aD f).idx.toNat v)

def viewLea (f : AForm) : View := viewA 0x19 [.b64, .n64] f plain .dpair .pair .src

/-- `LEA`. -/
def execLea (f : AForm) (s : State) : Result :=
  issue s (fun i => viewLea (strideA f i.rep)) false false fun i en s =>
    let f := strideA f i.rep
    compute .b64 (aD f) [.reg .b64 (aA f), aB .b32 f] (fun _ xs => match xs with
      | a :: b :: _ => { val := if aTy f == .b64 then wrapInt 64 ((a : Int) + sextNat 32 b) else (a + b % 2 ^ 32) % 2 ^ 64 }
      | _ => { val := 0 }) i en s

end Sys2Proof.Machine
end

