-- ==== Sys2Proof/Machine/FloatOps.lean ====
section
/-! DEFINITION. Floating-point arithmetic, comparison and classification, OP 0x30 to 0x34 (08 R173 to R178). -/

namespace Sys2Proof.Machine

open Sys2Proof

def floatTypes : List Ty := [.f32, .f64, .f16, .bf16]
def floatPacked : List Ty := floatTypes ++ [.f16x2, .bf16x2]

/-- Modifiers of an arithmetic instruction. -/
structure FMods where
  mode : Nat
  sat : Bool
  ftz : Bool
  na : Bool
  nb : Bool
  nc : Bool
  deriving DecidableEq, Repr

def rMods (f : RForm) : FMods := ⟨f.rnd.toNat, f.sat, f.ftz, f.negA, f.negB, f.negC⟩

def aMods : AForm → FMods
  | .r f => rMods f
  | .i f => ⟨f.rnd.toNat, f.sat, f.ftz, f.negA, false, false⟩

/-- An element-wise floating-point operation on values: elements in ascending order, one draw each under `.rs`, the flags
of all of them together (04 R74, R78). -/
def mapFloat (t : Ty) (m : FMods) (negs : List Bool) (draw : Nat → Nat) (op : List FVal → FRes) (xs : List Nat) :
    LaneOut :=
  match tyFmt t with
  | none => { val := 0 }
  | some f =>
    let (w, n) := tyElem t
    let outs := (List.range n).map fun j =>
      let vs := (xs.zip negs).map fun x => f.source m.ftz x.2 (elemAt w x.1 j)
      f.deliver m.mode (if m.sat then .unit else .none) m.ftz (if m.mode == 5 then draw j else 0) (op vs)
    { val := packElems w (outs.map (·.bits)), fl := outs.foldl (fun a o => a ||| o.fl) 0, draws := if m.mode == 5 then n else 0 }

def fop2 (g : FVal → FVal → FRes) : List FVal → FRes
  | x :: y :: _ => g x y
  | _ => nanRes false

def fop3 (g : FVal → FVal → FVal → FRes) : List FVal → FRes
  | x :: y :: z :: _ => g x y z
  | _ => nanRes false

def fop1 (g : FVal → FRes) : List FVal → FRes
  | x :: _ => g x
  | _ => nanRes false

/-- `.rs` raises `ILLEGAL_OPERAND` in the lead stream (08 R160). -/
def withRs (rnd : Nat) (v : View) : View := { v with leadBad := rnd == 5 }

def floatBody2 (f : AForm) (g : FVal → FVal → FRes) : Body :=
  let m := aMods f
  compute (aTy f) (aD f) [.reg (aTy f) (aA f), aB (aTy f) f] (fun u xs => mapFloat (aTy f) m [m.na, m.nb] u (fop2 g) xs)

def floatBody1 (f : RForm) (g : FVal → FRes) : Body :=
  compute f.ty f.d [.reg f.ty f.a] (fun u xs => mapFloat f.ty (rMods f) [f.negA] u (fop1 g) xs)

def arithMods : Mods := { rnd := true, sat := true, ftz := true, na := true, nb := true }

def viewFadd (f : AForm) : View :=
  withRs (aRnd f) (viewA 0x30 floatPacked f arithMods (.dstT (aTy f)) (.srcT (aTy f)) (.srcT (aTy f)))

/-- `FADD`. -/
def execFadd (f : AForm) (s : State) : Result :=
  issue s (fun i => viewFadd (strideA f i.rep)) false false fun i en s =>
    let f := strideA f i.rep
    floatBody2 f (faddX (aRnd f == 2)) i en s

/-- `FSUB`. -/
def execFsub (f : AForm) (s : State) : Result :=
  issue s (fun i => viewFadd (strideA f i.rep)) false false fun i en s =>
    let f := strideA f i.rep
    floatBody2 f (fun x y => faddX (aRnd f == 2) x y.flip) i en s

/-- `FMUL`. -/
def execFmul (f : AForm) (s : State) : Result :=
  issue s (fun i => viewFadd (strideA f i.rep)) false false fun i en s => floatBody2 (strideA f i.rep) fmulX i en s

def viewFfma (f : RForm) : View :=
  withRs f.rnd.toNat (viewR 0x30 floatPacked f { arithMods with nc := true }
    [.dstT f.ty f.d, .srcT f.ty f.a, .srcT f.ty f.b, .srcT f.ty f.c])

/-- `FFMA`: one rounding. -/
def execFfma (f : RForm) (s : State) : Result :=
  issue s (fun i => viewFfma (strideR f i.rep)) false false fun i en s =>
    let f := strideR f i.rep
    compute f.ty f.d [.reg f.ty f.a, .reg f.ty f.b, .reg f.ty f.c] (fun u xs =>
      mapFloat f.ty (rMods f) [f.negA, f.negB, f.negC] u (fop3 (ffmaX (f.rnd == 2))) xs) i en s

def viewFmin (f : AForm) : View :=
  viewA 0x30 floatPacked f { sat := true, ftz := true, na := true, nb := true } (.dstT (aTy f)) (.srcT (aTy f)) (.srcT (aTy f))

/-- `FMIN`. -/
def execFmin (f : AForm) (s : State) : Result :=
  issue s (fun i => viewFmin (strideA f i.rep)) false false fun i en s => floatBody2 (strideA f i.rep) (fminX false) i en s

/-- `FMAX`. -/
def execFmax (f : AForm) (s : State) : Result :=
  issue s (fun i => viewFmin (strideA f i.rep)) false false fun i en s => floatBody2 (strideA f i.rep) (fminX true) i en s

/-- A magnitude, with invalid for a signalling NaN. -/
def fabsX : FVal → FRes
  | .nan q => nanRes q
  | .inf _ => ⟨.inf false, 0⟩
  | .fin _ m e t => ⟨.fin false m e t, 0⟩

def viewFabs (f : RForm) : View :=
  viewR 0x30 floatPacked f { sat := true, ftz := true } [.dstT f.ty f.d, .srcT f.ty f.a, .off f.b, .off f.c]

/-- `FABS`. -/
def execFabs (f : RForm) (s : State) : Result :=
  issue s (fun i => viewFabs (strideR f i.rep)) false false fun i en s => floatBody1 (strideR f i.rep) fabsX i en s

/-! ### 08 R175 -/

def viewFdiv (f : RForm) : View :=
  withRs f.rnd.toNat (viewR 0x31 [.f32, .f64] f { rnd := true, ftz := true, na := true, nb := true }
    [.dstT f.ty f.d, .srcT f.ty f.a, .srcT f.ty f.b, .off f.c])

/-- `FDIV`. -/
def execFdiv (f : RForm) (s : State) : Result :=
  issue s (fun i => viewFdiv (strideR f i.rep)) false false fun i en s =>
    let f := strideR f i.rep
    compute f.ty f.d [.reg f.ty f.a, .reg f.ty f.b] (fun u xs =>
      mapFloat f.ty (rMods f) [f.negA, f.negB] u (fop2 fdivX) xs) i en s

def viewFsqrt (f : RForm) : View :=
  withRs f.rnd.toNat (viewR 0x31 [.f32, .f64] f { rnd := true, ftz := true, na := true }
    [.dstT f.ty f.d, .srcT f.ty f.a, .off f.b, .off f.c])

/-- `FSQRT`. -/
def execFsqrt (f : RForm) (s : State) : Result :=
  issue s (fun i => viewFsqrt (strideR f i.rep)) false false fun i en s => floatBody1 (strideR f i.rep) fsqrtX i en s

def fone : FVal := .fin false 1 0 false

/-- `FRCP`. -/
def execFrcp (f : RForm) (s : State) : Result :=
  issue s (fun i => viewFsqrt (strideR f i.rep)) false false fun i en s => floatBody1 (strideR f i.rep) (fdivX fone) i en s

def viewFrsq (f : RForm) : View :=
  viewR 0x31 [.f32, .f64] f { ftz := true, na := true } [.dstT f.ty f.d, .srcT f.ty f.a, .off f.b, .off f.c]

/-- Reciprocal square root: exact at even powers of two, else one of the two neighbours within 1 ulp (entry 7). -/
def rsqOut (f : Fmt) (bits : Nat) (v : FVal) : FOut :=
  let give (r : FRes) : FOut := f.deliver 0 .none false 0 r
  match v with
  | .nan q => give (nanRes q)
  | .inf s => if s then give (nanRes true) else give ⟨fzero false, 0⟩
  | .fin s m e _ =>
    if m = 0 then give ⟨.inf s, flDivZero⟩
    else if s then give (nanRes true)
    else
      let k0 := 300 + m.log2
      let k := k0 + ((e - k0) % 2).toNat
      let r := isqrt (2 ^ k / m) (k / 2 + 1) 0
      let q : Int := (-e - k) / 2
      if r * r * m = 2 ^ k then give ⟨.fin false r q false, 0⟩
      else ⟨(f.round 1 false 0 r q true).code + b2n (Config.rsqHigh bits), flInexact⟩

/-- `FRSQ`. -/
def execFrsq (f : RForm) (s : State) : Result :=
  issue s (fun i => viewFrsq (strideR f i.rep)) false false fun i en s =>
    let f := strideR f i.rep
    compute f.ty f.d [.reg f.ty f.a] (fun _ xs => match tyFmt f.ty with
      | none => { val := 0 }
      | some fm =>
        let v := fm.source f.ftz f.negA (xs.headD 0)
        let o := rsqOut fm (xs.headD 0 + b2n f.negA * 2 ^ 64 + b2n (f.ty == .f64) * 2 ^ 65) v
        { val := o.bits, fl := o.fl }) i en s

/-! ### 08 R176 -/

def viewApprox (f : RForm) : View :=
  { viewR 0x32 [.f32, .f16] f { sat := true, ftz := true, na := true } [.dst f.d, .src f.a, .off f.b, .off f.c] with lead := false }

/-- The approximate instructions: the special values of the table, the approximate result elsewhere, FTZ and SAT. -/
def approxBody (op : ApproxOp) (f : RForm) : Body :=
  compute f.ty f.d [.reg f.ty f.a] fun _ xs => match tyFmt f.ty with
    | none => { val := 0 }
    | some fm =>
      let v := fm.source f.ftz f.negA (xs.headD 0 % 2 ^ fm.width)
      let o := approxOut op fm v
      let b := if f.ftz && o.bits % 2 ^ (fm.width - 1) < 2 ^ fm.mb then o.bits / 2 ^ (fm.width - 1) * 2 ^ (fm.width - 1) else o.bits
      { val := if f.sat then fm.clampUnit b else b, fl := o.fl }

/-- `FEXP2`. -/
def execFexp2 (f : RForm) (s : State) : Result :=
  issue s (fun i => viewApprox (strideR f i.rep)) false false fun i en s => approxBody .exp2 (strideR f i.rep) i en s

/-- `FLOG2`. -/
def execFlog2 (f : RForm) (s : State) : Result :=
  issue s (fun i => viewApprox (strideR f i.rep)) false false fun i en s => approxBody .log2 (strideR f i.rep) i en s

/-- `FSIN`. -/
def execFsin (f : RForm) (s : State) : Result :=
  issue s (fun i => viewApprox (strideR f i.rep)) false false fun i en s => approxBody .sin (strideR f i.rep) i en s

/-- `FCOS`. -/
def execFcos (f : RForm) (s : State) : Result :=
  issue s (fun i => viewApprox (strideR f i.rep)) false false fun i en s => approxBody .cos (strideR f i.rep) i en s

/-- `FTANH`. -/
def execFtanh (f : RForm) (s : State) : Result :=
  issue s (fun i => viewApprox (strideR f i.rep)) false false fun i en s => approxBody .tanh (strideR f i.rep) i en s

/-! ### 08 R177, R178 -/

def viewFcmp (f : AForm) : View :=
  viewA 0x33 floatTypes f { ftz := true, na := true, nb := true } .mask (.srcT (aTy f)) (.srcT (aTy f))

/-- A comparison and its flags. -/
def fcmpHolds (x : FCond) (a b : FVal) : Bool × Nat :=
  let nan := a.isNan || b.isNan
  let c := fcmpX a b
  let sig := a.isSig || b.isSig
  let fl (q : Bool) : Nat := if q then flInvalid else 0
  match x with
  | .eq => (!nan && c == 0, fl sig)
  | .ne => (nan || c != 0, fl sig)
  | .lt => (!nan && c < 0, fl nan)
  | .le => (!nan && c ≤ 0, fl nan)
  | .gt => (!nan && 0 < c, fl nan)
  | .ge => (!nan && 0 ≤ c, fl nan)
  | .num => (!nan, fl sig)
  | .nan => (nan, fl sig)

/-- `FCMP`. -/
def execFcmp (x : FCond) (f : AForm) (s : State) : Result :=
  issue s (fun i => viewFcmp (strideA f i.rep)) false false fun i en s =>
    let f := strideA f i.rep
    let t := aTy f
    let m := aMods f
    computeK (aD f) [.reg t (aA f), aB t f] (fun xs => match tyFmt t, xs with
      | some fm, a :: b :: _ => fcmpHolds x (fm.source m.ftz m.na (a % 2 ^ fm.width)) (fm.source m.ftz m.nb (b % 2 ^ fm.width))
      | _, _ => (false, 0)) i en s

def viewFclass (f : RForm) : View :=
  viewR 0x34 floatTypes f plain [.dst f.d, .srcT f.ty f.a, .off f.b, .off f.c]

/-- The class of a code, as a bit number. -/
def fclassBit (f : Fmt) (x : Nat) : Nat :=
  match f.decode x with
  | .nan q => if q then 8 else 9
  | .inf s => if s then 0 else 7
  | .fin s m e t =>
    let k := if m = 0 then 0 else if f.isSub (.fin s m e t) then 1 else 2
    if s then 3 - k else 4 + k

/-- `FCLASS`. -/
def execFclass (f : RForm) (s : State) : Result :=
  issue s (fun i => viewFclass (strideR f i.rep)) false false fun i en s =>
    let f := strideR f i.rep
    compute .b32 f.d [.reg f.ty f.a] (fun _ xs => match tyFmt f.ty with
      | none => { val := 0 }
      | some fm => { val := 2 ^ fclassBit fm (xs.headD 0 % 2 ^ fm.width) }) i en s

end Sys2Proof.Machine
end

