-- ==== Sys2Proof/Machine/Reservoir.lean ====
section
/-! DEFINITION. Reservoirs, OP 0xD0 to 0xD6 (03 R61, 11 R247 to R253). -/

namespace Sys2Proof.Machine

open Sys2Proof

/-- The fields of a reservoir register (03 R61). -/
structure Rsv where
  payload : BitVec 64
  wsum : Word
  phat : Word
  w : Word
  m : BitVec 16
  dctr : BitVec 16
  deriving DecidableEq, Repr

def Rsv.ofBits (x : BitVec 192) : Rsv :=
  { payload := x.extractLsb' 128 64, wsum := x.extractLsb' 96 32, phat := x.extractLsb' 64 32, w := x.extractLsb' 32 32,
    m := x.extractLsb' 16 16, dctr := x.extractLsb' 0 16 }

def Rsv.toBits (r : Rsv) : BitVec 192 := r.payload ++ r.wsum ++ r.phat ++ r.w ++ r.m ++ r.dctr

def Lane.rsvAt (x : Lane) (q : Nat) : Rsv := Rsv.ofBits (spGet x.rsv q)

def Lane.putRsv (x : Lane) (q : Nat) (r : Rsv) : Lane := { x with rsv := spSet x.rsv q r.toBits }

/-- The reservoir a field names, of a lane. -/
def rsvOf (i : Iss) (l : Nat) (sp : Spec) : Rsv := (i.group.lane i.band l).rsvAt sp.idx.toNat

def setRsv (s : State) (i : Iss) (l : Nat) (sp : Spec) (r : Rsv) : State :=
  s.modLanes i (maskOf (· == l)) fun _ x => x.putRsv sp.idx.toNat r

/-- View of a reservoir instruction: lane stream only, no modifier. -/
def viewRsv (op : Nat) (types : List Ty) (f : RForm) (uses : List Use) : View := { viewR op types f plain uses with lead := false }

/-- An FP32 value. -/
def f32 (w : Word) : FVal := fmtF32.decode w.toNat

/-- rne() to FP32. -/
def rne (v : FVal) : Word := BitVec.ofNat 32 (rneF32 v)

/-- A weight cleaned: NaN and negative values become +0, +∞ the largest finite number. -/
def cleanW (w : Word) : Word :=
  match f32 w with
  | .nan _ => 0
  | .inf s => if s then 0 else 0x7F7FFFFF
  | .fin s _ _ _ => if s then 0 else w

/-- Whether a candidate of clean weight `w` is selected, by the top 24 bits `u` of its draw and the new sum. -/
def selected (u : Nat) (ws w : Word) : Bool :=
  let p := if u == 0 || (f32 ws).isZero then fzero false else fmtF32.decode (rneF32 (fmulX (.fin false u (-24) false) (f32 ws)).v)
  !(f32 w).isZero && !p.isNan && decide (fcmpX p (f32 w) < 0)

/-- Top 24 bits of a reservoir's next draw. -/
def Rsv.draw (r : Rsv) (seed : Dword) : Nat := (drawFn seed r.dctr.toNat).toNat / 2 ^ 40

/-- A candidate of clean weight and multiplicity streamed into a reservoir (R250, R251). -/
def Rsv.stream (r : Rsv) (seed : Dword) (w : Word) (count : Nat) (payload : Dword) (phat : Word) : Rsv :=
  let ws := rne (faddX false (f32 r.wsum) (f32 w)).v
  let r1 := if selected (r.draw seed) ws w then { r with payload := payload, phat := phat } else r
  { r1 with wsum := ws, m := BitVec.ofNat 16 (min (r.m.toNat + count) 0xFFFF), dctr := r.dctr + 1 }

def viewRsvinit (f : RForm) : View := viewRsv 0xD0 [.f32] f [.rsv f.d, .off f.a, .off f.b, .off f.c]

/-- `RSVINIT`. -/
def execRsvinit (f : RForm) (s : State) : Result :=
  issue s (fun _ => viewRsvinit f) false false fun i en s =>
    perLane i en s (fun l => .ok (rsvOf i l f.d)) fun t l r =>
      .ok (setRsv t i l f.d { payload := 0, wsum := 0, phat := 0, w := 0, m := 0, dctr := r.dctr })

def viewRsvseed (f : RForm) : View := viewRsv 0xD6 [.b64] f [.rsv f.d, .pair f.a, .src f.b, .off f.c]

/-- `RSVSEED`. -/
def execRsvseed (f : RForm) (s : State) : Result :=
  issue s (fun _ => viewRsvseed f) false false fun i en s =>
    perLane i en s (fun l => match rd2 s i l f.a with
        | .error e => .error e
        | .ok a => (rd1 s i l f.b).map fun b => (a, b))
      fun t l v => .ok ((setRsv t i l f.d { rsvOf i l f.d with dctr := v.2.setWidth 16 }).modLanes i (maskOf (· == l))
        fun _ x => { x with dseed := v.1 })

def viewRsvupd (f : RForm) : View := viewRsv 0xD1 [.f32] f [.rsv f.d, .pair f.a, .src f.b, .src f.c]

/-- `RSVUPD`. -/
def execRsvupd (f : RForm) (s : State) : Result :=
  issue s (fun _ => viewRsvupd f) false false fun i en s =>
    perLane i en s (fun l => match rd2 s i l f.a, rd1 s i l f.b, rd1 s i l f.c with
        | .ok a, .ok b, .ok c => .ok (a, b, c)
        | .error e, _, _ => .error e
        | _, .error e, _ => .error e
        | _, _, .error e => .error e)
      fun t l v => .ok (setRsv t i l f.d
        ((rsvOf i l f.d).stream (i.group.lane i.band l).dseed (cleanW v.2.2) 1 v.1 v.2.1))

def viewRsvmrg (f : RForm) : View := viewRsv 0xD2 [.f32] f [.rsv f.d, .rsv f.a, .src f.b, .src f.c]

/-- `RSVMRG`. -/
def execRsvmrg (f : RForm) (s : State) : Result :=
  issue s (fun _ => viewRsvmrg f) false false fun i en s =>
    perLane i en s (fun l => match rd1 s i l f.b, rd1 s i l f.c with
        | .ok b, .ok c => .ok (b, c)
        | .error e, _ => .error e
        | _, .error e => .error e)
      fun t l v =>
        let a := rsvOf i l f.a
        let mc := min a.m.toNat (v.2.toNat % 65536)
        let w := cleanW (rne (fmulX (fmulX (f32 v.1) (f32 a.w)).v (.fin false mc 0 false)).v)
        .ok (setRsv t i l f.d ((rsvOf i l f.d).stream (i.group.lane i.band l).dseed w mc a.payload v.1))

/-- W of a finished reservoir (R252). -/
def Rsv.finish (r : Rsv) : Word :=
  let p := f32 r.phat
  let ok := r.m != 0 && p.finite && !p.isZero && !p.neg && (f32 r.wsum).finite
  if ok then rne (fdivX (f32 r.wsum) (fmulX (.fin false r.m.toNat 0 false) p).v).v else 0

def viewRsvfin (f : RForm) : View := viewRsv 0xD3 [.f32] f [.rsv f.d, .off f.a, .off f.b, .off f.c]

/-- `RSVFIN`. -/
def execRsvfin (f : RForm) (s : State) : Result :=
  issue s (fun _ => viewRsvfin f) false false fun i en s =>
    perLane i en s (fun l => .ok (rsvOf i l f.d)) fun t l r => .ok (setRsv t i l f.d { r with w := r.finish })

/-- A field of a reservoir, zero-extended. -/
def Rsv.get (r : Rsv) : RsvField → Nat
  | .payload => r.payload.toNat
  | .wsum => r.wsum.toNat
  | .phat => r.phat.toNat
  | .w => r.w.toNat
  | .m => r.m.toNat
  | .dctr => r.dctr.toNat

def Rsv.set (r : Rsv) (x : RsvField) (v : Nat) : Rsv :=
  match x with
  | .payload => { r with payload := BitVec.ofNat 64 v }
  | .wsum => { r with wsum := BitVec.ofNat 32 v }
  | .phat => { r with phat := BitVec.ofNat 32 v }
  | .w => { r with w := BitVec.ofNat 32 v }
  | .m => { r with m := BitVec.ofNat 16 v }
  | .dctr => { r with dctr := BitVec.ofNat 16 v }

/-- Types of a field move: the payload has 64 bits. -/
def rsvTys (x : RsvField) : List Ty := if x == .payload then [.b64] else [.b32, .b64]

def viewRsvget (x : RsvField) (f : RForm) : View := viewRsv 0xD4 (rsvTys x) f [.dstT f.ty f.d, .rsv f.a, .off f.b, .off f.c]

/-- `RSVGET`. -/
def execRsvget (x : RsvField) (f : RForm) (s : State) : Result :=
  issue s (fun _ => viewRsvget x f) false false fun i en s =>
    perLane i en s (fun l => .ok ((rsvOf i l f.a).get x)) fun t l v => wrT t i l f.ty f.d v

def viewRsvput (x : RsvField) (f : RForm) : View := viewRsv 0xD5 (rsvTys x) f [.rsv f.d, .srcT f.ty f.a, .off f.b, .off f.c]

/-- `RSVPUT`. -/
def execRsvput (x : RsvField) (f : RForm) (s : State) : Result :=
  issue s (fun _ => viewRsvput x f) false false fun i en s =>
    perLane i en s (fun l => rdT s i l f.ty f.a) fun t l v => .ok (setRsv t i l f.d ((rsvOf i l f.d).set x v))

end Sys2Proof.Machine
end

