-- ==== Sys2Proof/Machine/Compositing.lean ====
section
/-! DEFINITION. Compositing accumulators, OP 0xD8 to 0xDD (03 R62, 11 R254 to R263). -/

namespace Sys2Proof.Machine

open Sys2Proof

/-- A buffered arrival: depth, the three channels as FP16, and the opacity code. -/
structure Arrival where
  z : Word
  r : BitVec 16
  g : BitVec 16
  b : BitVec 16
  a8 : Nat
  deriving DecidableEq, Repr

/-- The exact FP16 value of an opacity code. -/
def alphaF16 (a8 : Nat) : Nat := (fmtF16.deliver 0 .none false 0 ⟨.fin false a8 (-8) false, 0⟩).bits

/-- The opacity code of an FP16 value. -/
def alphaCode (h : Nat) : Nat := match fmtF16.decode h with
  | .fin _ m e _ => if e + 8 < 0 then m / 2 ^ (-(e + 8)).toNat else m * 2 ^ (e + 8).toNat
  | _ => 0

/-- The 96 bits of a buffer entry: depth, then alpha, blue, green and red from the high end. -/
def Arrival.toNat (e : Arrival) : Nat :=
  e.z.toNat * 2 ^ 64 + alphaF16 e.a8 * 2 ^ 48 + e.b.toNat * 2 ^ 32 + e.g.toNat * 2 ^ 16 + e.r.toNat

def Arrival.ofNat (x : Nat) : Arrival :=
  { z := BitVec.ofNat 32 (x / 2 ^ 64), r := BitVec.ofNat 16 x, g := BitVec.ofNat 16 (x / 2 ^ 16), b := BitVec.ofNat 16 (x / 2 ^ 32),
    a8 := alphaCode (bitsOf x 63 48) }

/-- The fields of a compositing accumulator (03 R62); the buffer holds OCC entries, nearest first. -/
structure Comp where
  cr : Word
  cg : Word
  cb : Word
  t : Word
  front : Word
  buf : List Arrival
  ovf : Nat
  drop : Nat
  term : Nat
  closed : Bool
  log : Bool
  deriving DecidableEq, Repr

/-- Bits [31:0] of an accumulator. -/
def Comp.stat (c : Comp) : Nat :=
  c.ovf * 2 ^ 24 + c.drop * 2 ^ 16 + c.term * 2 ^ 8 + c.buf.length * 2 ^ 5 + b2n c.closed * 2 ^ 4 + b2n c.log * 2 ^ 3

def Comp.toBits (c : Comp) : BitVec 576 :=
  let w (v : Word) (n : Nat) : Nat := v.toNat * 2 ^ n
  let e (n : Nat) : Nat := (c.buf[n]?).elim 0 fun a => a.toNat * 2 ^ (32 + 96 * n)
  BitVec.ofNat 576 (w c.cr 544 + w c.cg 512 + w c.cb 480 + w c.t 448 + w c.front 416 + e 3 + e 2 + e 1 + e 0 + c.stat)

def Comp.ofBits (b : BitVec 576) : Comp :=
  let x := b.toNat
  let w (n : Nat) : Word := BitVec.ofNat 32 (x / 2 ^ n)
  { cr := w 544, cg := w 512, cb := w 480, t := w 448, front := w 416
    buf := (List.range (min 4 (bitsOf x 7 5))).map fun n => Arrival.ofNat (x / 2 ^ (32 + 96 * n) % 2 ^ 96)
    ovf := bitsOf x 31 24, drop := bitsOf x 23 16, term := bitsOf x 15 8, closed := bitOf x 4, log := bitOf x 3 }

def compOf (i : Iss) (l : Nat) (sp : Spec) : Comp := Comp.ofBits (spGet (i.group.lane i.band l).ca sp.idx.toNat)

def setComp (s : State) (i : Iss) (l : Nat) (sp : Spec) (c : Comp) : State :=
  s.modLanes i (maskOf (· == l)) fun _ x => { x with ca := spSet x.ca sp.idx.toNat c.toBits }

/-- Scratchpad offset of record `k` of accumulator `j` of a lane (R257). -/
def recordAt (i : Iss) (l j k : Nat) : Nat := i.launch.desc.compLog.getD 0 + 8 * (l + 32 * (j + 2 * (i.band + i.group.bands.length * k)))

/-- A replay record (R257). -/
def Arrival.record (e : Arrival) : Nat := e.a8 * 2 ^ 56 + e.b.toNat * 2 ^ 32 + e.g.toNat * 2 ^ 16 + e.r.toNat

/-- A colour channel converted to FP16 (R255). -/
def chan16 (w : Word) : BitVec 16 :=
  BitVec.ofNat 16 (match f32 w with
    | .nan _ => 0
    | .inf s => 0x7BFF + b2n s * 0x8000
    | v => (fmtF16.deliver 0 .top false 0 ⟨v, 0⟩).bits)

/-- The opacity code of an FP32 value (R255). -/
def opacity (w : Word) : Nat :=
  match f32 w with
  | .nan _ => 0
  | .inf s => if s then 0 else 255
  | .fin s m e st => if s then 0 else min 255 (roundInt 0 0 false m (e + 8) st).1.natAbs

def h16 (b : BitVec 16) : FVal := fmtF16.decode b.toNat

/-- A fused multiply-add of a weight and a channel, one rounding. -/
def blendCh (c wgt : Word) (ch : BitVec 16) : Word := rne (faddX false (f32 c) (fmulX (f32 wgt) (h16 ch)).v).v

/-- Whether T has fallen below the threshold; a comparison with NaN does not hold. -/
def fltLt (a b : Word) : Bool := !(f32 a).isNan && !(f32 b).isNan && decide (fcmpX (f32 a) (f32 b) < 0)
def fltGe (a b : Word) : Bool := !(f32 a).isNan && !(f32 b).isNan && decide (0 ≤ fcmpX (f32 a) (f32 b))

/-- Retiring the nearest entry (R256): the accumulator left, and the record to store with its number. `can k`: record `k`
has a place in the log. -/
def Comp.retire (thr : Word) (can : Nat → Bool) (c : Comp) : Comp × List (Nat × Nat) :=
  match c.buf with
  | [] => (c, [])
  | e :: rest =>
    let alpha : FVal := .fin false e.a8 (-8) false
    let q : FVal := .fin false (256 - e.a8) (-8) false
    let wgt := rne (fmulX (f32 c.t) alpha).v
    let t := rne (fmulX (f32 c.t) q).v
    let k := c.term
    let store := c.log && k != 255 && can k
    let c1 : Comp := { c with
      cr := blendCh c.cr wgt e.r, cg := blendCh c.cg wgt e.g, cb := blendCh c.cb wgt e.b, t := t, front := e.z
      term := min (k + 1) 255, buf := rest, log := store }
    (if fltLt t thr then { c1 with closed := true, drop := min (c.drop + rest.length) 255, buf := [] } else c1,
     if store then [(k, e.record)] else [])

/-- Retirement until the buffer is empty (R260). -/
def Comp.flush (thr : Word) (can : Nat → Bool) (c : Comp) : Comp × List (Nat × Nat) :=
  (List.range 4).foldl (fun y _ => let r := y.1.retire thr can; (r.1, y.2 ++ r.2)) (c, [])

/-- An arrival inserted by ascending depth, after entries of equal depth. -/
def insertArrival (e : Arrival) : List Arrival → List Arrival
  | [] => [e]
  | x :: xs => if fltLt e.z x.z then e :: x :: xs else x :: insertArrival e xs

/-- One arrival of depth `z` and colour and opacity `vs` (R259). -/
def Comp.add (thr : Word) (can : Nat → Bool) (z : Word) (vs : List Word) (c : Comp) : Comp × List (Nat × Nat) :=
  if c.closed || !fltGe c.t thr || (f32 z).isNan then ({ c with drop := min (c.drop + 1) 255 }, [])
  else
    let early := fltLt z c.front
    let e : Arrival := { z := if early then c.front else z, r := chan16 (vs.getD 0 0), g := chan16 (vs.getD 1 0),
                         b := chan16 (vs.getD 2 0), a8 := opacity (vs.getD 3 0) }
    let c1 := { c with ovf := if early then min (c.ovf + 1) 255 else c.ovf, buf := insertArrival e c.buf }
    if c1.buf.length == 5 then c1.retire thr can else (c1, [])

/-- A prepared accumulator (R258). -/
def Comp.init (log : Bool) : Comp :=
  { cr := 0, cg := 0, cb := 0, t := 0x3F800000, front := 0xFF800000, buf := [], ovf := 0, drop := 0, term := 0, closed := false,
    log := log }

/-- An accumulator of a lane written, and its log records stored to the scratchpad. -/
def logComp (i : Iss) (l : Nat) (sp : Spec) (s : State) (r : Comp × List (Nat × Nat)) : State :=
  setComp (r.2.foldl (fun (t : State) e => t.modGroupOn i.core i.group.gid fun g =>
    { g with scratch := spSetList g.scratch (recordAt i l sp.idx.toNat e.1) (toLE 8 e.2) }) s) i l sp r.1

/-- Whether a record lies below the scratchpad allotment. -/
def hasRecord (i : Iss) (l : Nat) (sp : Spec) (k : Nat) : Bool := decide (recordAt i l sp.idx.toNat k < i.group.scratchBytes)

/-- View of a compositing instruction. -/
def viewCa (op : Nat) (f : RForm) (uses : List Use) : View := viewRsv op [.f32] f uses

def viewCainit (f : RForm) : View := viewCa 0xD8 f [.ca f.d, .src f.a, .off f.b, .off f.c]

/-- `CAINIT`. -/
def execCainit (f : RForm) (s : State) : Result :=
  issue s (fun _ => viewCainit f) false false fun i en s =>
    perLane i en s (fun l => rd1 s i l f.a) fun t l v =>
      .ok (setComp t i l f.d (Comp.init (v.getLsbD 0 && i.launch.desc.compLog.isSome)))

def viewCaadd (f : RForm) : View := viewCa 0xD9 f [.ca f.d, .src f.a, .run f.b 4, .off f.c]

/-- `CAADD`. -/
def execCaadd (f : RForm) (s : State) : Result :=
  issue s (fun _ => viewCaadd f) false false fun i en s =>
    perLane i en s (fun l => match rd1 s i l f.a with
        | .error e => .error e
        | .ok z => (rdRun s i l f.b 4).map fun vs => (z, vs))
      fun t l v => .ok (logComp i l f.d t ((compOf i l f.d).add i.launch.desc.compThr (hasRecord i l f.d) v.1 v.2))

def viewCaflush (f : RForm) : View := viewCa 0xDA f [.ca f.d, .off f.a, .off f.b, .off f.c]

/-- `CAFLUSH`. -/
def execCaflush (f : RForm) (s : State) : Result :=
  issue s (fun _ => viewCaflush f) false false fun i en s =>
    perLane i en s (fun l => .ok (compOf i l f.d)) fun t l c =>
      .ok (logComp i l f.d t (c.flush i.launch.desc.compThr (hasRecord i l f.d)))

def viewCaresolve (f : RForm) : View := viewCa 0xDB f [.drun f.d 4, .ca f.a, .off f.b, .off f.c]

/-- `CARESOLVE`. -/
def execCaresolve (f : RForm) (s : State) : Result :=
  issue s (fun _ => viewCaresolve f) false false fun i en s =>
    perLane i en s (fun l => .ok (compOf i l f.a)) fun t l c =>
      let r := c.flush i.launch.desc.compThr (hasRecord i l f.a)
      wrRun (logComp i l f.a t r) i l f.d 0 [r.1.cr, r.1.cg, r.1.cb, r.1.t]

def viewCareplay (f : RForm) : View := viewCa 0xDC f [.drun f.d 5, .ca f.a, .run f.b 4, .off f.c]

/-- One replay step: the accumulator and the five results (R261). `rec` is the record of the last term. -/
def Comp.replay (c : Comp) (rec : Nat) (gs : List Word) (sv : Word) : Comp × List Word :=
  if !c.log || c.term == 0 then (c, [sv, 0, 0, 0, 0])
  else
    let a8 := bitsOf rec 63 56
    let alpha : FVal := .fin false a8 (-8) false
    let q : FVal := .fin false (256 - a8) (-8) false
    let ch (n : Nat) : FVal := fmtF16.decode (rec / 2 ^ (16 * n) % 65536)
    let g (n : Nat) : FVal := f32 (gs.getD n 0)
    let ti := rne (fdivX (f32 c.t) q).v
    let wgt := rne (fmulX (f32 ti) alpha).v
    let prod (n : Nat) : FVal := (fmulX (ch n) (g n)).v
    let dot := rne (faddX false (faddX false (prod 0) (prod 1)).v (prod 2)).v
    -- (Ti·dot·q − s) / q is the exact expression over one division
    let num := (faddX false (fmulX (fmulX (f32 ti) (f32 dot)).v q).v (f32 sv).flip).v
    let da := rne (fdivX num q).v
    let s1 := rne (faddX false (f32 sv) (fmulX (f32 wgt) (f32 dot)).v).v
    ({ c with t := ti, term := c.term - 1 }, [s1] ++ ((List.range 3).map fun n => rne (fmulX (f32 wgt) (g n)).v) ++ [da])

/-- `CAREPLAY`. -/
def execCareplay (f : RForm) (s : State) : Result :=
  issue s (fun _ => viewCareplay f) false false fun i en s =>
    perLane i en s (fun l => rdRun s i l f.b 4) fun t l vs =>
      let c := compOf i l f.a
      let rec_ := leNat (spGetList i.group.scratch (recordAt i l f.a.idx.toNat (c.term - 1)) 8)
      let r := c.replay rec_ (vs.take 3) (vs.getD 3 0)
      wrRun (setComp t i l f.a r.1) i l f.d 0 r.2

def viewCastat (f : RForm) : View := viewCa 0xDD f [.dst f.d, .ca f.a, .off f.b, .off f.c]

/-- `CASTAT`. -/
def execCastat (f : RForm) (s : State) : Result :=
  issue s (fun _ => viewCastat f) false false fun i en s =>
    perLane i en s (fun l => .ok (BitVec.ofNat 32 (compOf i l f.a).stat)) fun t l v => wr1 t i l .f32 f.d v

end Sys2Proof.Machine
end

