-- ==== Sys2Proof/Machine/Convert.lean ====
section
/-! DEFINITION. Conversions, packed dot products, packing and byte selection, OP 0x50 to 0x53 (08 R179 to R184). -/

namespace Sys2Proof.Machine

open Sys2Proof

/-- Whether two types convert: two scalars, or packed types of equal element count (08 R179). -/
def cvtOk (src dst : Ty) : Bool := (tyElem src).2 == (tyElem dst).2

/-- Whether a conversion between floating-point types is exact (08 R179). -/
def cvtExact (src dst : Ty) : Bool :=
  src == dst ||
  match src, dst with
  | .f16, .f32 => true
  | .f16, .f64 => true
  | .bf16, .f32 => true
  | .bf16, .f64 => true
  | .f32, .f64 => true
  | _, _ => false

def isFloatTy (t : Ty) : Bool := (tyFmt t).isSome

/-- Whether a conversion may round. -/
def cvtRounds (src dst : Ty) : Bool :=
  if isFloatTy src then !(isFloatTy dst && cvtExact src dst) else isFloatTy dst

/-- `CVT` takes FTZ with every pair of types; between integers it has no effect (entry 71). -/
def viewCvt (x : Ty) (f : RForm) : View :=
  withRs f.rnd.toNat (viewR 0x50 (if cvtOk x f.ty then allTypes else []) f
    { rnd := cvtRounds x f.ty, sat := isFloatTy x || isFloatTy f.ty || !tyBits f.ty, ftz := true }
    [.dstT f.ty f.d, .srcT x f.a, .off f.b, .off f.c])

/-- A value with the flag a conversion raises for a signalling NaN. -/
def cvtRes (v : FVal) : FRes := ⟨v, if v.isSig then flInvalid else 0⟩

/-- One element converted; `u` is its draw. A float saturates to the unsigned range of a `.b` type (entry 71). -/
def cvtElem (src dst : Ty) (mode : Nat) (sat ftz : Bool) (u x : Nat) : FOut :=
  let ws := (tyElem src).1
  let wd := (tyElem dst).1
  match tyFmt src, tyFmt dst with
  | some fs, some fd => fd.deliver mode (if sat then .unit else .none) ftz u (cvtRes (fs.source ftz false x))
  | some fs, none => toInt (tySigned dst) wd mode u (fs.source ftz false x)
  | none, some fd => fd.deliver mode (if sat then .unit else .none) ftz u ⟨ofInt (elemInt (tySigned src) ws x), 0⟩
  | none, none => ⟨narrow sat (tySigned dst) wd (elemInt (tySigned src) ws x), 0⟩

/-- `CVT`. -/
def execCvt (x : Ty) (f : RForm) (s : State) : Result :=
  issue s (fun i => viewCvt x (strideR f i.rep)) false false fun i en s =>
    let f := strideR f i.rep
    let n := (tyElem f.ty).2
    compute f.ty f.d [.reg x f.a] (fun u xs =>
      let outs := (List.range n).map fun j =>
        cvtElem x f.ty f.rnd.toNat f.sat f.ftz (if f.rnd == 5 then u j else 0) (elemAt (tyElem x).1 (xs.headD 0) j)
      { val := packElems (tyElem f.ty).1 (outs.map (·.bits)), fl := outs.foldl (fun a o => a ||| o.fl) 0
        draws := if f.rnd == 5 then n else 0 }) i en s

/-- Format and code width of a narrow format (08 R180). -/
def narrowFmt : NarrowFmt → Fmt
  | .e4m3 => fmtE4m3
  | .e5m2 => fmtE5m2
  | .e2m1 => fmtE2m1

/-- Bits that one `CVTQ` inserts. -/
def cvtqBits (x : NarrowFmt) (t : Ty) : Nat := (if t == .f32 then 2 else 4) * (narrowFmt x).width

def viewCvtq (x : NarrowFmt) (f : RForm) : View :=
  { viewR 0x51 [.f32, .f16x2] f { rnd := true, sat := true, ftz := true }
      [.dst f.d, .src f.a, .src f.b, if cvtqBits x f.ty == 32 then .off f.c else .src f.c] with lead := false }

/-- `CVTQ`: the codes enter at the top, the older ones move down. -/
def execCvtq (x : NarrowFmt) (f : RForm) (s : State) : Result :=
  issue s (fun i => viewCvtq x (strideR f i.rep)) false false fun i en s =>
    let f := strideR f i.rep
    let k := cvtqBits x f.ty
    compute .b32 f.d ([.reg .b32 f.a, .reg .b32 f.b] ++ if k == 32 then [] else [.reg .b32 f.c]) (fun u xs =>
      let a := xs.headD 0
      let b := xs.getD 1 0
      let src := if f.ty == .f32 then [a, b] else [elemAt 16 a 0, elemAt 16 a 1, elemAt 16 b 0, elemAt 16 b 1]
      let fs := if f.ty == .f32 then fmtF32 else fmtF16
      let outs := (List.range src.length).map fun j =>
        (narrowFmt x).deliver f.rnd.toNat (if f.sat then .top else .none) f.ftz (if f.rnd == 5 then u j else 0)
          (cvtRes (fs.source f.ftz false (src.getD j 0)))
      let codes := packElems (narrowFmt x).width (outs.map (·.bits))
      { val := if k == 32 then codes else codes * 2 ^ (32 - k) + xs.getD 2 0 / 2 ^ k
        fl := outs.foldl (fun a o => a ||| o.fl) 0, draws := if f.rnd == 5 then src.length else 0 }) i en s

def viewCvtw (f : RForm) : View :=
  { viewR 0x52 [.f32, .f16x2] f plain [.dst f.d, .src f.a, .src f.b, .off f.c] with lead := false }

/-- A code widened exactly, a NaN made canonical, no flag. -/
def widen (x : NarrowFmt) (f : Fmt) (code : Nat) : Nat := (f.deliver 0 .none false 0 ⟨(narrowFmt x).decode code, 0⟩).bits

/-- `CVTW`. -/
def execCvtw (x : NarrowFmt) (f : RForm) (s : State) : Result :=
  issue s (fun i => viewCvtw (strideR f i.rep)) false false fun i en s =>
    let f := strideR f i.rep
    let w := (narrowFmt x).width
    compute .b32 f.d [.reg .b32 f.a, .reg .b32 f.b] (fun _ xs =>
      let a := xs.headD 0
      let j := xs.getD 1 0 % (32 / w)
      { val := if f.ty == .f32 then widen x fmtF32 (elemAt w a j)
          else let j := xs.getD 1 0 % (16 / w)
               packElems 16 [widen x fmtF16 (elemAt w a (2 * j)), widen x fmtF16 (elemAt w a (2 * j + 1))] }) i en s

/-! ### 08 R182 to R184 -/

def viewDot2 (f : RForm) : View :=
  { viewR 0x53 [.f16x2, .bf16x2, .s16x2, .n16x2] f { rnd := isFloatTy f.ty, sat := true }
      [.dst f.d, .src f.a, .src f.b, .src f.c] with lead := false }

/-- Sum of products of the elements and an addend, exact, then wrapped or clamped to 32 bits. -/
def dotInt (t : Ty) (sat : Bool) (a b c : Nat) : Nat :=
  let (w, n) := tyElem t
  let sg := tySigned t
  narrow sat sg 32 ((List.range n).foldl (fun z j => z + elemInt sg w (elemAt w a j) * elemInt sg w (elemAt w b j)) (elemInt sg 32 c))

/-- Floating-point dot product of two pairs and an addend, exact until the one rounding. Opposite infinities among the two products
and the addend set invalid, also beside a NaN (08 R182). -/
def dotFloat (f : Fmt) (rm : Bool) (a b c : Nat) : FRes :=
  let el (x j : Nat) : FVal := f.decode (elemAt 16 x j)
  let p := fmulX (el a 0) (el b 0)
  let q := fmulX (el a 1) (el b 1)
  let z := fmtF32.decode c
  let r := faddX rm p.v q.v
  let t := faddX rm r.v z
  let opposite := [p.v, q.v, z].contains (.inf true) && [p.v, q.v, z].contains (.inf false)
  ⟨t.v, p.fl ||| q.fl ||| r.fl ||| t.fl ||| (if opposite then (nanRes true).fl else 0)⟩

/-- `DOT2`. -/
def execDot2 (f : RForm) (s : State) : Result :=
  issue s (fun i => viewDot2 (strideR f i.rep)) false false fun i en s =>
    let f := strideR f i.rep
    compute .b32 f.d [.reg .b32 f.a, .reg .b32 f.b, .reg .b32 f.c] (fun u xs => match xs with
      | a :: b :: c :: _ => match tyFmt f.ty with
        | none => { val := dotInt f.ty f.sat a b c }
        | some fm =>
          let o := fmtF32.deliver f.rnd.toNat (if f.sat then .unit else .none) false (if f.rnd == 5 then u 0 else 0)
            (dotFloat fm (f.rnd == 2) a b c)
          { val := o.bits, fl := o.fl, draws := if f.rnd == 5 then 1 else 0 }
      | _ => { val := 0 }) i en s

def viewDot4 (f : RForm) : View :=
  { viewR 0x53 [.s8x4, .n8x4] f { sat := true } [.dst f.d, .src f.a, .src f.b, .src f.c] with lead := false }

/-- `DOT4`. -/
def execDot4 (f : RForm) (s : State) : Result :=
  issue s (fun i => viewDot4 (strideR f i.rep)) false false fun i en s =>
    let f := strideR f i.rep
    compute .b32 f.d [.reg .b32 f.a, .reg .b32 f.b, .reg .b32 f.c] (fun _ xs => match xs with
      | a :: b :: c :: _ => { val := dotInt f.ty f.sat a b c }
      | _ => { val := 0 }) i en s

def packBytes (t : Ty) : Bool := t == .s8x4 || t == .n8x4

def viewPack (f : RForm) : View :=
  { viewR 0x53 [.b32, .f16x2, .bf16x2, .s16x2, .n16x2, .s8x4, .n8x4] f { rnd := isFloatTy f.ty }
      [.dst f.d, .src f.a, .src f.b, if packBytes f.ty then .src f.c else .off f.c] with lead := false }

/-- `PACK`. -/
def execPack (f : RForm) (s : State) : Result :=
  issue s (fun i => viewPack (strideR f i.rep)) false false fun i en s =>
    let f := strideR f i.rep
    compute .b32 f.d ([.reg .b32 f.a, .reg .b32 f.b] ++ if packBytes f.ty then [.reg .b32 f.c] else []) (fun u xs =>
      let a := xs.headD 0
      let b := xs.getD 1 0
      let (w, _) := tyElem f.ty
      let sg := tySigned f.ty
      let cl (x : Nat) : Nat := narrow true sg w (elemInt sg 32 x)
      match tyFmt f.ty with
      | some fm =>
        let o (j x : Nat) : FOut := fm.deliver f.rnd.toNat .none false (if f.rnd == 5 then u j else 0) (cvtRes (fmtF32.decode x))
        { val := packElems 16 [(o 0 a).bits, (o 1 b).bits], fl := (o 0 a).fl ||| (o 1 b).fl, draws := if f.rnd == 5 then 2 else 0 }
      | none =>
        if f.ty == .b32 then { val := a % 65536 + b % 65536 * 65536 }
        else if packBytes f.ty then { val := cl a + cl b * 256 + xs.getD 2 0 % 65536 * 65536 }
        else { val := packElems 16 [cl a, cl b] }) i en s

def viewBsel (f : RForm) : View :=
  { viewR 0x53 [.b32] f plain [.dst f.d, .src f.a, .src f.b, .src f.c] with lead := false }

/-- The byte one selector chooses among eight source bytes (08 R184). -/
def bselByte (src sel : Nat) : Nat :=
  let b := elemAt 8 src (sel % 8)
  match sel / 8 % 4 with
  | 0 => b
  | 1 => 0
  | 2 => if bitOf b 7 then 255 else 0
  | _ => 255

/-- `BSEL`. -/
def execBsel (f : RForm) (s : State) : Result :=
  issue s (fun i => viewBsel (strideR f i.rep)) false false fun i en s =>
    let f := strideR f i.rep
    compute .b32 f.d [.reg .b32 f.a, .reg .b32 f.b, .reg .b32 f.c] (fun _ xs => match xs with
      | a :: b :: c :: _ => { val := packElems 8 ((List.range 4).map fun j => bselByte (a + b * 2 ^ 32) (elemAt 8 c j)) }
      | _ => { val := 0 }) i en s

end Sys2Proof.Machine
end

