-- ==== Sys2Proof/Machine/Memory.lean ====
section
/-! DEFINITION. Loads, stores and prefetches, atomics and reductions, fences, `WAITF` and barriers, OP 0x70 to 0x75, 0x90
and 0x91 (09 R192 to R205), with the accesses of lane transactions (09 R207, R208). -/

namespace Sys2Proof.Machine

open Sys2Proof

/-! ### The M form -/

def mOrder (f : MForm) : Nat := f.order.toNat
def mScope (f : MForm) : Nat := f.scope.toNat

/-- View of an M-form instruction with the ORDER values it accepts; `plainFields`: SCOPE must be zero; `hints`: HINT is
used (07 R142, 09 R192). -/
def viewM (op : Nat) (types : List Ty) (f : MForm) (orders : List Nat) (noScope hints : Bool) (d c : Use) : View :=
  { op := op, ty := f.ty, types := types, g := f.g
    bad := f.scope ≥ 5 || (noScope && f.scope != 0) || (!hints && f.hint != 0) || !orders.contains (mOrder f)
    uses := [d, .base f.a, if f.idx then .src f.b else .off f.b, c] }

/-- The effective address of a lane for an access of `2 ^ lg` bytes (07 R142). -/
def mAddr (s : State) (i : Iss) (f : MForm) (lg l : Nat) : Except Halt Dword :=
  match rd2 s i l f.a with
  | .error e => .error e
  | .ok base =>
    if f.idx then (rd1 s i l f.b).map fun x => base + f.disp.signExtend 64 + x.signExtend 64 * BitVec.ofNat 64 (2 ^ lg)
    else .ok (base + f.disp.signExtend 64)

/-- The access of one lane: lane, address, and where it falls. -/
structure Acc where
  lane : Nat
  ea : Dword
  place : Place
  deriving DecidableEq, Repr

/-- Results in lane order, or the trap of the lowest failing lane; a `PAGE_FAULT` asks for the page of every failing lane
(20 R347). -/
def gather {α : Type} (lead : Bool) (xs : List (Nat × Except Trap α)) : Except Halt (List α) :=
  let bad := xs.filterMap fun x => match x.2 with
    | .error t => some (x.1, t)
    | .ok _ => none
  match bad with
  | [] => .ok (xs.filterMap fun x => match x.2 with
    | .error _ => none
    | .ok a => some a)
  | (l, t) :: _ =>
    if t.code.toNat == pageFault then
      .error (memTrap lead l { t with pages := (bad.flatMap fun x => if x.2.code.toNat == pageFault then x.2.pages else []).dedup })
    else .error (memTrap lead l t)

/-- The `DATA_POISON` of the lowest lane whose access meets poison, if one does (09 R192). -/
def State.poisonFirst (s : State) (i : Iss) (acc : Access) (n : Nat) (as : List Acc) : Option Halt :=
  (as.find? fun a => if acc == .write then s.placePoisonW i.sess a.place n else s.placePoison i.sess a.place n).map fun a =>
    memTrap i.lead a.lane (s.poisonAt i.sess a.place a.ea)

/-- The checks of 05 R103 for every lane, then poison (09 R192). -/
def checkAll (s : State) (i : Iss) (nd : Need) (n : Nat) (eas : List (Nat × Dword)) : Except Halt (List Acc) :=
  match gather i.lead (eas.map fun x => (x.1, (checkAccess s i nd x.2 n).map fun p => { lane := x.1, ea := x.2, place := p : Acc })) with
  | .error e => .error e
  | .ok as =>
    match s.poisonFirst i nd.acc n as with
    | some e => .error e
    | none => .ok as

/-- The own tiles an access reaches. -/
def Place.tiles (p : Place) : List Nat :=
  match p with
  | .tile _ off => [off / 8192]
  | _ => []

/-- Whether an access meets a tile that a matrix instruction at the engine names: it waits (11 R235, 13 R288), also where the
instruction is another band's (entry 66). -/
def tilesBusy (s : State) (i : Iss) (as : List Acc) : Bool :=
  as.any fun a => a.place.tiles.any ((s.core i.core).tileBusy i.group.gid)

/-- The wait of accesses to tiles. -/
def tileWait (as : List Acc) : Wait := .bounded (as.flatMap fun a => a.place.tiles) false

/-- Virtual addresses of the bytes of a place. -/
def Place.vas (p : Place) : List Nat :=
  match p with
  | .virt ps => ps.flatMap fun q => (List.range q.len).map (q.va.toNat + ·)
  | _ => []

/-- The lines a store to a place writes: those of a new overlay sub-page too (06 R127). -/
def Place.writeLines (p : Place) (n : Nat) : List Nat :=
  p.lines n ++ match p with
    | .virt ps => ps.flatMap fun q => if q.leaf.content then linesOf (q.pa / 512 * 512) 512 else []
    | _ => []

/-- What a store does before it is performed, for all its lanes: it may exceed a version's room (20 R355), and it goes through
copy-on-write (05 R110). -/
def prepareStore (s : State) (i : Iss) (nd : Need) (n : Nat) (as : List Acc) : Except Halt (State × List Acc) :=
  let buffering := i.group.buffering
  match if buffering then s.overCapacity i.group (as.flatMap fun a => a.place.vas) else none with
  | some sub => .error (.trap { mkTrap versionCapacity sub with field := 8 })
  | none =>
    if buffering then .ok (s, as)
    else
      let go (acc : State × List (Nat × Except Trap Unit)) (a : Acc) : State × List (Nat × Except Trap Unit) :=
        match acc.1.cowPlace i.sess (i.self a.lane) a.place with
        | .ok t => (t, acc.2 ++ [(a.lane, .ok ())])
        | .error e => (acc.1, acc.2 ++ [(a.lane, .error e)])
      let (s1, rs) := as.foldl go (s, [])
      match gather i.lead rs with
      | .error e => .error e
      | .ok _ => (checkAll s1 i nd n (as.map fun a => (a.lane, a.ea))).map fun as1 => (s1, as1)

/-- The lines by which a store to a place meets a serial transaction: virtual ones where it goes into a task's version. -/
def Place.holdLines (i : Iss) (p : Place) (n : Nat) : List Nat :=
  if i.group.buffering then (match p with
    | .virt ps => ps.flatMap fun q => linesOf q.va.toNat q.len
    | _ => []) else p.writeLines n

/-- The lanes whose store a serial transaction of another lane holds back (09 R213), of the accesses outside transactions. -/
def heldLanes (s : State) (i : Iss) (n : Nat) (as : List Acc) : LaneMask :=
  maskOf fun l => as.any fun a => a.lane == l && s.heldFrom i.group (i.self l) (a.place.holdLines i n)

/-- Whether a lane of the issuing unit holds the session's commit token. -/
def Iss.tokenHere (i : Iss) : Bool := !i.lead && i.sess.tokenHolder.any fun r =>
  r.gid == i.group.gid && r.band == i.band && i.active.getLsbD r.lane

/-- The lines that a lane's accesses write. -/
def laneLines (i : Iss) (n : Nat) (as : List Acc) (l : Nat) : List Nat :=
  (as.filter fun a => a.lane == l).flatMap fun a => a.place.holdLines i n

/-- Lanes that wait for the end of a serial transaction, each for its lines. -/
def State.holdLanes (s : State) (i : Iss) (m : LaneMask) (lines : Nat → List Nat) : State :=
  if m = 0 then s else s.modLanes i m fun l x => { x with wait := .txnHold (lines l) }

/-- The wait of a whole unit for it. -/
def holdWait (m : LaneMask) (lines : Nat → List Nat) : Wait := .txnHold ((lanesOf m).flatMap lines)

/-! ### Scopes and orders (05 R108, 06 R117, R120) -/

/-- Whether an access to a place is an acquire or a release of its scope: on an RC page and in the on-chip spaces, which obey it as
RC memory does (05 R100), when its order says so (`ordered`), on SQ, WC, DV and SO pages always. -/
def Place.fences (p : Place) (ordered : Bool) : Bool :=
  match p with
  | .virt ps => ps.any fun q => (q.leaf.type == 0 && ordered) || q.leaf.type == 1 || 3 ≤ q.leaf.type
  | .scratch _ _ => ordered
  | .tile _ _ => ordered
  | .phys _ _ => false

/-- A scope as the space of an access takes it: at most `.clu` in scratchpads, `.grp` in tiles (05 R100). -/
def Place.scope (p : Place) (scope : Nat) : Nat :=
  match p with
  | .scratch _ _ => min 1 scope
  | .tile _ _ => 0
  | _ => scope

/-- The widest scope at which the accesses of an instruction are acquires or releases; 0, at which no cache acts, where none is. -/
def fenceScope (scope : Nat) (ordered : Bool) (as : List Acc) : Nat :=
  ((as.filter fun a => a.place.fences ordered).map fun a => a.place.scope scope).foldl max 0

def Access.loads : Access → Bool
  | .read => true
  | .write => false
  | .fetch => false
  | .atomic => true

/-- The release action before the stores, and the acquire action after the loads, of the accesses of an instruction; an atomic is
both (06 R117, R120). -/
def State.releaseFor (s : State) (i : Iss) (f : MForm) (acc : Access) (as : List Acc) : State :=
  if acc.stores then s.releaseAt i.core (fenceScope (mScope f) (2 ≤ mOrder f) as) else s

def State.acquireFor (s : State) (i : Iss) (f : MForm) (acc : Access) (as : List Acc) : State :=
  if acc.loads then s.acquire i.core (fenceScope (mScope f) (mOrder f % 2 == 1) as) else s

/-! ### Accesses of a lane transaction -/

/-- A transactional access before it is performed: an abort (cause and DETAIL), a trap, or its place. -/
inductive TxClass where
  | abort (cause detail : Nat)
  | trap (t : Trap)
  | ok (p : Place)

/-- The pages of a transactional access (09 R207). -/
def txPages (s : State) (i : Iss) (acc : Access) (op n : Nat) (ea : Dword) : TxClass :=
  if !sessionSpace ea.toNat then .abort 7 op
  else match pieces s i acc ea n with
    | .error t => .trap t
    | .ok ps => .ok (.virt ps)

/-- Type, alignment and poison of a transactional access to these pages. -/
def txChecks (s : State) (i : Iss) (acc : Access) (n : Nat) (ea : Dword) (p : Place) : TxClass :=
  match p with
  | .virt ps =>
    if ps.any fun q => q.leaf.type != 0 then .abort 6 0
    else if ea.toNat % n != 0 then .trap ((mkTrap misaligned 0).at ea)
    else if (if acc == .write then s.placePoisonW i.sess p n else s.placePoison i.sess p n) then .trap (s.poisonAt i.sess p ea)
    else .ok p
  | _ => .ok p

/-- All the checks of a transactional access. -/
def txClass (s : State) (i : Iss) (acc : Access) (op n : Nat) (ea : Dword) : TxClass :=
  match txPages s i acc op n ea with
  | .ok p => txChecks s i acc n ea p
  | x => x

/-- The bytes of a place in a transaction: each its virtual address, and where it lies, which inside a task's version is again
the virtual address. -/
def txKeys (versioned : Bool) (p : Place) : List (Nat × Nat) :=
  match p with
  | .virt ps => ps.flatMap fun q => (List.range q.len).map fun j => (q.va.toNat + j, if versioned then q.va.toNat + j else q.pa + j)
  | _ => []

/-- The lines of a place in a transaction, each as an access under a hint touches it. -/
def txLines (versioned : Bool) (p : Place) (store : Bool) (hint : Nat) : List TxLine :=
  match p with
  | .virt ps => ps.flatMap fun q => (linesOf q.va.toNat q.len).map fun l =>
      { vline := l, pline := if versioned then l else q.pa / 64 + (l - q.va.toNat / 64), rd := !store, wr := store,
        leaf := BitVec.ofNat 128 q.leaf.bits, hint := hint }
  | _ => []

/-- The lines that an access meets other transactions by, whether or not its pages permit it: none where a page is absent. -/
def linesMet (s : State) (i : Iss) (ea : Dword) (n : Nat) : List Nat :=
  if i.group.buffering then linesOf ea.toNat n
  else (linesOf ea.toNat n).filterMap fun l => match s.translate i.core i.sess (64 * l % 2 ^ 48) with
    | .leaf lf => some (lf.pa (64 * l % 2 ^ 48) / 64)
    | _ => none

/-- The open transaction of a lane as it now stands. -/
def txnOf (s : State) (i : Iss) (l : Nat) : Txn :=
  match s.find? i.group.gid with
  | some (_, g) => (g.lane i.band l).txn
  | none => Lane.init.txn

/-- The other lanes of the band whose open transactions an access conflicts with (09 R208). -/
def intra (s : State) (i : Iss) (l : Nat) (wr : Bool) (lines : List Nat) : List Nat :=
  (List.range 32).filter fun m =>
    let x := txnOf s i m
    m != l && x.active && lines.any fun n => x.wset.contains n || (wr && x.rset.contains n)

/-- The conflicts of an access settled: the state, and whether the accessing lane survives. -/
def settleIntra (s : State) (i : Iss) (l : Nat) (ms : List Nat) : State × Bool :=
  ms.foldl (fun acc m =>
    if !acc.2 then acc
    else
      let loser := if (txnOf acc.1 i l).serial then m else if (txnOf acc.1 i m).serial then l else max l m
      (acc.1.abortLane i loser 2 0, loser != l)) (s, true)

/-- Distinct lines of the band's open transactions, with more lines added. -/
def bandLines (s : State) (i : Iss) (more : List Nat) : Nat :=
  (((List.range 32).flatMap fun m => let x := txnOf s i m
    if x.active then x.touched.map (·.pline) else []) ++ more).dedup.length

def modTxn (s : State) (i : Iss) (l : Nat) (f : Txn → Txn) : State :=
  s.modLanes i (maskOf (· == l)) fun _ x => { x with txn := f x.txn }

/-- A byte that a transaction has buffered, by where it lies. -/
def Txn.own? (x : Txn) (key : Nat) : Option Byte := (x.buf.find? fun e => x.pa e.1 == key).map (·.2)

/-- Bytes a transactional load sees: its own buffered stores, else memory. -/
def txBytes (s : State) (i : Iss) (l : Nat) (p : Place) (n : Nat) : List Byte :=
  let x := txnOf s i l
  ((txKeys i.group.buffering p).zip (s.bytesAt i.sess i.group.gid p n)).map fun e => (x.own? e.1.2).getD e.2

/-- A line joins the read set or the write set. -/
def Txn.touch (x : Txn) (e : TxLine) : Txn :=
  if x.touched.any fun o => o.vline == e.vline then
    { x with touched := x.touched.map fun o =>
        if o.vline == e.vline then
          { o with pline := e.pline, rd := o.rd || e.rd, wr := o.wr || e.wr, leaf := if e.wr then e.leaf else o.leaf, hint := if e.wr then e.hint else o.hint }
        else o }
  else { x with touched := x.touched ++ [e] }

/-- Bytes buffered, each by its virtual address, in place of what was buffered for it. -/
def Txn.buffer (x : Txn) (bs : List ((Nat × Nat) × Byte)) : Txn :=
  bs.foldl (fun y e => { y with buf := (y.buf.filter fun o => y.pa o.1 != e.1.2) ++ [(e.1.1, e.2)] }) x

/-- Bytes read from memory: those not buffered and not read before. -/
def Txn.read (x : Txn) (bs : List ((Nat × Nat) × Byte)) : Txn :=
  { x with rvals := bs.foldl (fun r e => if (x.own? e.1.2).isSome || (alGet? r e.1.1).isSome then r else alSet r e.1.1 e.2) x.rvals }

/-- Records a transactional access under a cache hint. -/
def txTouch (s : State) (i : Iss) (l : Nat) (p : Place) (n hint : Nat) (store : Option (List Byte)) : State :=
  let ver := i.group.buffering
  let ks := txKeys ver p
  let mem := ks.zip (s.bytesAt i.sess i.group.gid p n)
  let s1 := modTxn s i l fun x =>
    let y := (txLines ver p store.isSome hint).foldl Txn.touch x
    match store with
    | some bs => y.buffer (ks.zip bs)
    | none => y.read mem
  if store.isSome then s1.worldWatch i.sess i.group.gid p true
  else (s1.note i.group.gid p true false).fillPlace i.group.gid hint p

/-- One lane's transactional access: the state, and the bytes read where the access was performed. The transactions of the
band are checked against each other first (09 R208), then the access's pages, their type and its alignment. -/
def txAccess (s : State) (i : Iss) (op n l hint : Nat) (ea : Dword) (store : Option (List Byte)) :
    Except Halt (State × Option (List Byte)) :=
  let abort (t : State) (cause detail : Nat) : Except Halt (State × Option (List Byte)) := .ok (t.abortLane i l cause detail, none)
  let onTrap (t : State) (e : Trap) : Except Halt (State × Option (List Byte)) :=
    if (txnOf s i l).serial then .error (memTrap false l e) else abort (t.tagCheck i.sess e) 8 e.code.toNat
  let acc := if store.isSome then Access.write else Access.read
  if !sessionSpace ea.toNat then abort s 7 op
  else
    let lines := linesMet s i ea n
    let (s1, alive) := settleIntra s i l (intra s i l store.isSome lines)
    if !alive then .ok (s1, none)
    else match txClass s1 i acc op n ea with
    | .abort c d => abort s1 c d
    | .trap t => onTrap s1 t
    | .ok p1 =>
      let held := p1.holdLines i n
      if bandLines s1 i lines > 32 then abort s1 3 0
      else if store.isSome && s1.heldFrom i.group (i.self l) held then .ok (s1.holdLanes i (maskOf (· == l)) fun _ => held, none)
      else
        match if store.isSome && !i.group.buffering then s1.cowPlace i.sess (i.self l) p1 else .ok s1 with
        | .error t => onTrap s1 t
        | .ok s2 => match txClass s2 i acc op n ea with
          | .ok p => .ok (txTouch s2 i l p n hint store, some (txBytes s2 i l p n))
          | .trap t => onTrap s2 t
          | .abort c d => abort s2 c d

/-! ### One access per lane -/

/-- Lanes of the mask inside an open transaction. -/
def Iss.inTxn (i : Iss) (en : LaneMask) : LaneMask :=
  if i.lead then 0 else maskOf fun l => en.getLsbD l && (i.group.lane i.band l).txn.active

/-- The checks of 05 R103 for one lane of a load or store: its access where it is in no transaction, or in a serial one, which traps
as others do (09 R213). A lane in another transaction, or one that will abort for its page's type, is none. -/
def laneCheck (s : State) (i : Iss) (nd : Need) (op n : Nat) (ins : LaneMask) (x : Nat × Dword) : Except Trap (Option Acc) :=
  if !ins.getLsbD x.1 then (checkAccess s i nd x.2 n).map fun p => some { lane := x.1, ea := x.2, place := p }
  else if (txnOf s i x.1).serial then
    match txPages s i nd.acc op n x.2 with
    | .trap t => .error t
    | .ok (.virt ps) =>
      if ps.any fun q => q.leaf.type != 0 then .ok none
      else if x.2.toNat % n != 0 then .error ((mkTrap misaligned 0).at x.2) else .ok (some { lane := x.1, ea := x.2, place := .virt ps })
    | _ => .ok none
  else .ok none

/-- The checks of every lane of a load or store, the lowest failing lane deciding, then poison (09 R192): the accesses of the
lanes outside transactions. -/
def checkLanes (s : State) (i : Iss) (nd : Need) (op n : Nat) (ins : LaneMask) (xs : List (Nat × Dword)) : Except Halt (List Acc) :=
  match gather i.lead (xs.map fun x => (x.1, laneCheck s i nd op n ins x)) with
  | .error e => .error e
  | .ok as => match s.poisonFirst i nd.acc n (as.filterMap id) with
    | some e => .error e
    | none => .ok ((as.filterMap id).filter fun a => !ins.getLsbD a.lane)

/-- A lane's load outside transactions: what it leaves behind, its caches filled under the hint. -/
def State.loaded (s : State) (i : Iss) (hint : Nat) (p : Place) : State := (s.note i.group.gid p true false).fillPlace i.group.gid hint p

/-- A lane's store outside transactions. -/
def State.stored (s : State) (i : Iss) (hint l : Nat) (p : Place) (bs : List Byte) : State :=
  (s.putHint i.sess i.group.gid (i.self l) hint p bs).note i.group.gid p false true

/-- A load or store instruction: addresses, checks of the lanes, then the lanes in ascending order. `data` gives a lane's
bytes to store; `give` writes a lane's loaded bytes. -/
def accessBody (f : MForm) (op n lg : Nat) (data : Option (Iss → State → Nat → Except Halt (List Byte)))
    (give : Iss → State → Nat → List Byte → Except Halt State) : Body := fun i en s =>
  let acc := if data.isSome then Access.write else Access.read
  let nd : Need := { acc := acc, aligned := false, types := anyType }
  let hint := f.hint.toNat
  let ins := i.inTxn en
  let store (l : Nat) : Except Halt (Option (List Byte)) := match data with
    | none => .ok none
    | some d => (d i s l).map some
  match mapLanes (i.lanes en) (fun l => match mAddr s i f lg l with
      | .error e => .error e
      | .ok ea => (store l).map fun b => (l, ea, b)) with
  | .error e => .error e
  | .ok xs =>
    match checkLanes s i nd op n ins (xs.map fun x => (x.1, x.2.1)) with
    | .error e => .error e
    | .ok as0 =>
      let held := if data.isSome then heldLanes s i n as0 else 0
      if tilesBusy s i as0 then .error (.wait (tileWait as0))
      else if held != 0 && !i.tokenHere then .error (.wait (holdWait held (laneLines i n as0)))
      else match if data.isSome then prepareStore s i nd n (as0.filter fun a => !held.getLsbD a.lane) else .ok (s, as0) with
      | .error e => .error e
      | .ok (s1, as) =>
        let one (t : State) (x : Nat × Dword × Option (List Byte)) : Except Halt State :=
          let l := x.1
          if ins.getLsbD l then
            if !(txnOf t i l).active then .ok t
            else match txAccess t i op n l hint x.2.1 x.2.2 with
              | .error e => .error e
              | .ok (t1, none) => .ok t1
              | .ok (t1, some bs) =>
                let r : Except Halt State := if data.isSome then .ok t1 else give i t1 l bs
                r.map fun t2 => t2.advance i (maskOf (· == l))
          else match as.find? fun a => a.lane == l with
            | none => .ok t
            | some a =>
              let r : Except Halt State := match x.2.2 with
                | some bs => .ok (t.stored i hint l a.place bs)
                | none => give i (t.loaded i hint a.place) l (t.bytesAt i.sess i.group.gid a.place n)
              r.map fun t2 => t2.advance i (maskOf (· == l))
        (foldLanes one (s1.releaseFor i f acc as) xs).map fun t => (t.acquireFor i f acc as).holdLanes i held (laneLines i n as0)

/-- log2 of the access size of a type (09 R193). -/
def tyLg (t : Ty) : Nat := if tyWide t then 3 else if t == .f16 || t == .bf16 then 1 else 2

/-- A loaded value written to d, zero- or sign-extended to 32 bits. -/
def giveLoad (f : MForm) (t : Ty) (signed : Bool) (i : Iss) (s : State) (l : Nat) (bs : List Byte) : Except Halt State :=
  let v := leNat bs
  wrT s i l t f.d (if signed then wrapInt 32 (sextNat (8 * bs.length) v) else v)

def viewLd (f : MForm) : View := viewM 0x70 allTypes f [0, 1] false true (.dstT f.ty f.d) (.off f.c)
def viewLdNarrow (f : MForm) : View := viewM 0x70 [.b32] f [0, 1] false true (.dst f.d) (.off f.c)

/-- `LD`. -/
def execLd (f : MForm) (s : State) : Result :=
  issue s (fun i => viewLd (strideM f i.rep)) true false fun i en s =>
    let f := strideM f i.rep
    accessBody f 0x70 (2 ^ tyLg f.ty) (tyLg f.ty) none (giveLoad f f.ty false) i en s

/-- `LD.n8`. -/
def execLdN8 (f : MForm) (s : State) : Result :=
  issue s (fun i => viewLdNarrow (strideM f i.rep)) true false fun i en s =>
    let f := strideM f i.rep
    accessBody f 0x70 1 0 none (giveLoad f .b32 false) i en s

/-- `LD.s8`. -/
def execLdS8 (f : MForm) (s : State) : Result :=
  issue s (fun i => viewLdNarrow (strideM f i.rep)) true false fun i en s =>
    let f := strideM f i.rep
    accessBody f 0x70 1 0 none (giveLoad f .b32 true) i en s

/-- `LD.n16`. -/
def execLdN16 (f : MForm) (s : State) : Result :=
  issue s (fun i => viewLdNarrow (strideM f i.rep)) true false fun i en s =>
    let f := strideM f i.rep
    accessBody f 0x70 2 1 none (giveLoad f .b32 false) i en s

/-- `LD.s16`. -/
def execLdS16 (f : MForm) (s : State) : Result :=
  issue s (fun i => viewLdNarrow (strideM f i.rep)) true false fun i en s =>
    let f := strideM f i.rep
    accessBody f 0x70 2 1 none (giveLoad f .b32 true) i en s

def viewSt (f : MForm) : View := viewM 0x71 allTypes f [0, 2] false true (.off f.d) (.srcT f.ty f.c)
def viewStNarrow (f : MForm) : View := viewM 0x71 [.b32] f [0, 2] false true (.off f.d) (.src f.c)

/-- Store data: the low bytes of c. -/
def storeData (f : MForm) (t : Ty) (n : Nat) : Option (Iss → State → Nat → Except Halt (List Byte)) :=
  some fun i s l => (rdT s i l t f.c).map (toLE n)

def noLoad : Iss → State → Nat → List Byte → Except Halt State := fun _ s _ _ => .ok s

/-- `ST`. -/
def execSt (f : MForm) (s : State) : Result :=
  issue s (fun i => viewSt (strideM f i.rep)) true false fun i en s =>
    let f := strideM f i.rep
    accessBody f 0x71 (2 ^ tyLg f.ty) (tyLg f.ty) (storeData f f.ty (2 ^ tyLg f.ty)) noLoad i en s

/-- `ST.b8`. -/
def execStB8 (f : MForm) (s : State) : Result :=
  issue s (fun i => viewStNarrow (strideM f i.rep)) true false fun i en s =>
    let f := strideM f i.rep
    accessBody f 0x71 1 0 (storeData f .b32 1) noLoad i en s

/-- `ST.b16`. -/
def execStB16 (f : MForm) (s : State) : Result :=
  issue s (fun i => viewStNarrow (strideM f i.rep)) true false fun i en s =>
    let f := strideM f i.rep
    accessBody f 0x71 2 1 (storeData f .b32 2) noLoad i en s

def viewPref (f : MForm) : View := viewM 0x72 ty0 f [0] true true (.off f.d) (.off f.c)

/-- One lane's prefetch of the line at an address: the caches of its page are filled under the hint. One that would fail a check, or
that meets a page of another type than RC and UN, is dropped (09 R195). -/
def State.prefetch (s : State) (i : Iss) (f : MForm) (l : Nat) : State :=
  match mAddr s i f 0 l with
  | .error _ => s
  | .ok ea => match checkAccess s i { acc := .read, aligned := false, types := [0, 2] } ea 1 with
    | .error _ => s
    | .ok p => (s.invalidate p.touchedLines).fillPlace i.group.gid f.hint.toNat p

/-- `PREF`: changes no value, performs no ordering and never fails (09 R195). -/
def execPref (f : MForm) (s : State) : Result :=
  issue s (fun _ => viewPref f) false false fun i en s => .ok ((i.lanes en).foldl (fun t l => t.prefetch i f l) s)

/-! ### Atomics and reductions (09 R197 to R200) -/

/-- Types of an atomic operation. -/
def atomTys : AtomOp → List Ty
  | .add => i32 ++ i64 ++ [.f32]
  | .min => [.s32, .n32, .s64, .n64, .f32]
  | .max => [.s32, .n32, .s64, .n64, .f32]
  | .and => i32 ++ i64
  | .or => i32 ++ i64
  | .xor => i32 ++ i64
  | .exch => i32 ++ i64 ++ [.f32]
  | .cas => i32 ++ i64 ++ [.f32]
  | .inc => [.b32, .n32, .b64, .n64]
  | .dec => [.b32, .n32, .b64, .n64]

/-- New value of an atomic operation: old value o, operand v, and for cas the swap value. -/
def atomNew (x : AtomOp) (t : Ty) (o v swap : Nat) : Nat :=
  let w := (tyElem t).1
  let sg := tySigned t
  let pick (mx : Bool) : Nat :=
    if t == .f32 then (fmtF32.deliver 0 .none false 0 (fminX mx (fmtF32.decode o) (fmtF32.decode v))).bits
    else
      let less := decide (elemInt sg w o < elemInt sg w v)
      if less != mx then o else v
  match x with
  | .add => if t == .f32 then rneF32 (faddX false (fmtF32.decode o) (fmtF32.decode v)).v else (o + v) % 2 ^ w
  | .min => pick false
  | .max => pick true
  | .and => o &&& v
  | .or => o ||| v
  | .xor => o ^^^ v
  | .exch => v
  | .cas => if o = v then swap else o
  | .inc => if v ≤ o then 0 else o + 1
  | .dec => if o = 0 ∨ v < o then v else o - 1

/-- Operand c of an atomic operation: cas reads a compare and a swap value (09 R198). -/
def atomC (x : AtomOp) (f : MForm) : Use :=
  if x == .cas then (if tyWide f.ty then .reg f.c false 4 2 2 true else .reg f.c false 2 2 2 false) else .srcT f.ty f.c

/-- The operand c of a lane. In the lane stream a 64-bit cas whose c is a g register takes g(c) and g(c+1), as the lead stream does:
09 R198 speaks there of lane register pairs alone, and a g register needs no even number (entry 80). -/
def rdAtomC (x : AtomOp) (f : MForm) (i : Iss) (s : State) (l : Nat) : Except Halt (Nat × Nat) :=
  match rdT s i l f.ty f.c with
  | .error e => .error e
  | .ok v =>
    if x == .cas then
      let step : BitVec 10 := if f.c.bank || !tyWide f.ty then 1 else 2
      (rdT s i l f.ty { f.c with idx := f.c.idx + step }).map fun w => (v, w)
    else .ok (v, 0)

/-- The operations that the host link carries as an AtomicOp (24 R420): FetchAdd, Swap and CAS of integers. -/
def linkCarries (x : AtomOp) (t : Ty) : Bool :=
  match x with
  | .add => t != .f32
  | .exch => true
  | .cas => true
  | _ => false

/-- Whether an access is carried by the host link: an SO page outside LPDDR (09 R200). -/
def Place.hostLink (p : Place) : Bool :=
  match p with
  | .virt ps => ps.any fun q => q.leaf.type == 5 && decide (lpddrSize ≤ q.pa) && !onChip q.pa
  | _ => false

/-- An atomic instruction; `ret`: the old value is written to d. The lanes apply one after another in ascending order,
which is the contiguous run of 06 R125. -/
def atomBody (x : AtomOp) (f : MForm) (ret : Bool) : Body := fun i en s =>
  let lg := tyLg f.ty
  let n := 2 ^ lg
  let nd : Need := { acc := .atomic, aligned := true, types := atomTypes }
  match mapLanes (i.lanes en) (fun l => match mAddr s i f lg l, rdAtomC x f i s l with
      | .ok ea, .ok c => .ok (l, ea, c)
      | .error e, _ => .error e
      | _, .error e => .error e) with
  | .error e => .error e
  | .ok xs => match checkAll s i nd n (xs.map fun x => (x.1, x.2.1)) with
    | .error e => .error e
    | .ok as0 =>
      let held := heldLanes s i n as0
      if tilesBusy s i as0 then .error (.wait (tileWait as0))
      else if held != 0 && !i.tokenHere then .error (.wait (holdWait held (laneLines i n as0)))
      else match as0.find? fun a => a.place.hostLink && !(linkCarries x f.ty && Config.linkAtomicOk s.freeCtr) with
      | some a => .error (memTrap i.lead a.lane ((mkTrap protection 7).at a.ea))
      | none => match prepareStore s i nd n (as0.filter fun a => !held.getLsbD a.lane) with
        | .error e => .error e
        | .ok (s1, as) =>
          (foldLanes (fun t y => match as.find? fun a => a.lane == y.1 with
            | none => .ok t
            | some a =>
              let o := leNat (t.bytesAt i.sess i.group.gid a.place n)
              let t1 := (t.putAt i.sess i.group.gid (i.self a.lane) a.place (toLE n (atomNew x f.ty o y.2.2.1 y.2.2.2))).sign
                i.group.gid a.place true true
              (if ret then wrT t1 i a.lane f.ty f.d o else .ok t1).map fun t2 => t2.advance i (maskOf (· == a.lane)))
            (s1.releaseFor i f .atomic as) xs).map fun t => (t.acquireFor i f .atomic as).holdLanes i held (laneLines i n as0)

def viewAtom (x : AtomOp) (f : MForm) : View := viewM 0x73 (atomTys x) f [0, 1, 3] false false (.dstT f.ty f.d) (atomC x f)

def viewRed (x : AtomOp) (f : MForm) : View :=
  viewM 0x74 (if x == .exch || x == .cas then [] else atomTys x) f [0, 2] false false (.off f.d) (.srcT f.ty f.c)

/-- `ATOM`. -/
def execAtom (x : AtomOp) (f : MForm) (s : State) : Result :=
  issue s (fun _ => viewAtom x f) true false (atomBody x f true)

/-- `RED`; exch and cas are no functions of it. -/
def execRed (x : AtomOp) (f : MForm) (s : State) : Result :=
  issue s (fun _ => viewRed x f) true false (atomBody x f false)

/-! ### Fences (09 R201, R202) -/

/-- View of a fence: every field but SCOPE is zero; SCOPE too where it is not used. -/
def viewFence (f : MForm) (hasScope : Bool) : View :=
  { op := 0x75, ty := f.ty, types := ty0, g := f.g
    bad := f.scope ≥ 5 || (!hasScope && f.scope != 0) || f.hint != 0 || f.order != 0 || f.idx || f.disp != 0
    uses := [.off f.d, .off f.a, .off f.b, .off f.c] }

/-- `FENCE.scope`: the release and the acquire action of its scope; in one coherent memory every earlier access is performed
(06 R119, entry 3). -/
def execFence (f : MForm) (s : State) : Result :=
  issue s (fun _ => viewFence f true) false false fun i _ s => .ok ((s.releaseAt i.core (mScope f)).acquire i.core (mScope f))

def viewFenceUn (f : MForm) : View := { viewFence f false with noGuard := true }

/-- Every earlier store of a core, to pages of any cached type, performed at system scope. -/
def State.performAll (s : State) (core : Nat) : State := [0, 1, 2].foldl (fun t type => t.writeType type core) s

/-- `FENCE.un`: every earlier access is performed at system scope, then the clean sectors of UN pages go (06 R121); its guard must
be zero with every other field. -/
def execFenceUn (f : MForm) (s : State) : Result :=
  issue s (fun _ => viewFenceUn f) false false fun i _ s => .ok ((s.performAll i.core).dropType 2 i.core true true)

/-! ### WAITF (09 R203) -/

def waitTypes : List Nat := [0, 1, 2, 5]

/-- The checks of a `WAITF` access: as an aligned read, the accumulator space being no space of it. -/
def waitCheck (s : State) (i : Iss) (ea : Dword) (n : Nat) : Except Trap Place :=
  match spaceOf s i ea with
  | .ok (some (.tile _ _)) => .error ((mkTrap protection 1).at ea)
  | _ => checkAccess s i { acc := .read, aligned := true, types := waitTypes } ea n

/-- Starts the waits of a `WAITF`: the unit is held at it, and its participating lanes are `en`. -/
def startWaits (s : State) (i : Iss) (x : WCond) (f : MForm) (en : LaneMask) (xs : List (Nat × Dword × Nat)) : State :=
  let wait (ea : Dword) (c : Nat) (met : Option Dword) : Wait :=
    .waitf x (tyWide f.ty) ea (BitVec.ofNat 64 c) en f.d (mOrder f == 1) (mScope f) met
  if i.lead then xs.foldl (fun (t : State) y => t.modLead i fun z => { z with wait := wait y.2.1 y.2.2 none }) s
  else
    let s1 := s.modLanes i (i.active &&& ~~~ en) fun _ z => { z with wait := wait 0 0 (some 0) }
    xs.foldl (fun (t : State) y => t.modLanes i (maskOf (· == y.1)) fun _ z => { z with wait := wait y.2.1 y.2.2 none }) s1

def viewWaitf (f : MForm) : View := viewM 0x91 [.b32, .b64] f [0, 1] false false (.dstT f.ty f.d) (.srcT f.ty f.c)

/-- `WAITF`: the unit waits; `WAITF_SATISFY` ends each lane's wait. -/
def execWaitf (x : WCond) (f : MForm) (s : State) : Result :=
  issueHold s (fun _ => viewWaitf f) fun i en s =>
    let lg := tyLg f.ty
    match mapLanes (i.lanes en) (fun l => match mAddr s i f lg l, rdT s i l f.ty f.c with
        | .ok ea, .ok c => .ok (l, ea, c)
        | .error e, _ => .error e
        | _, .error e => .error e) with
    | .error e => .error e
    | .ok xs =>
      match gather i.lead (xs.map fun y => (y.1, (waitCheck s i y.2.1 (2 ^ lg)).map fun p => ({ lane := y.1, ea := y.2.1, place := p } : Acc))) with
      | .error e => .error e
      | .ok as => match s.poisonFirst i .read (2 ^ lg) as with
        | some e => .error e
        | none => .ok (startWaits s i x f en xs)

/-! ### Barriers (09 R204) -/

def viewBar (f : RForm) : View :=
  { viewR 0x90 ty0 f plain [.off f.d, .off f.a, .off f.b, .off f.c] with noGuard := true }

/-- Arrival at a barrier: every active lane, or the lead stream, waits at its next instance of the kind. -/
def barBody (cluster : Bool) : Body := fun i _ s =>
  if i.lead then .ok (s.modLead i fun x =>
    if cluster then { x with barClu := x.barClu + 1, wait := .barrier true (x.barClu + 1) }
    else { x with barGrp := x.barGrp + 1, wait := .barrier false (x.barGrp + 1) })
  else .ok (s.modLanes i i.active fun _ x =>
    if cluster then { x with barClu := x.barClu + 1, wait := .barrier true (x.barClu + 1) }
    else { x with barGrp := x.barGrp + 1, wait := .barrier false (x.barGrp + 1) })

/-- `BAR.grp`. -/
def execBarGrp (f : RForm) (s : State) : Result := issueHold s (fun _ => viewBar f) (barBody false)

/-- `BAR.clu`. -/
def execBarClu (f : RForm) (s : State) : Result := issueHold s (fun _ => viewBar f) (barBody true)

end Sys2Proof.Machine
end

