-- ==== Sys2Proof/Machine/Work.lean ====
section
/-! DEFINITION. Work instructions, OP 0xE0 to 0xE5 (12 R264 to R271), and the steps that answer them: the distributor
(02 R49, R50), the die priority queue (12 R269) and Delphinium (10 R231, 13 R295 to R298). -/

namespace Sys2Proof.Machine

open Sys2Proof

/-- View of an instruction of OP 0xE1 to 0xED in the R form: no modifier. -/
def viewW (op : Nat) (f : RForm) (uses : List Use) : View := viewR op ty0 f plain uses

/-- The trap of an instruction that a versioned launch may not use (12 R265). -/
def notVersioned (i : Iss) (body : Except Halt State) : Except Halt State :=
  if i.launch.desc.versioned then .error (.trap { mkTrap protection 3 with field := 8 }) else body

/-- Whether a task holds the operations of 12 R265 now: not when it runs in serial mode. -/
def Iss.holds (i : Iss) : Bool := i.group.buffering

/-- Keeps an operation with the task's version. -/
def State.hold (s : State) (i : Iss) (h : Held) : State :=
  s.modGroupOn i.core i.group.gid fun g => { g with ver := g.ver.map fun v => { v with held := v.held ++ [h] } }

/-! ### FETCHWK (02 R48 to R50, 12 R266) -/

/-- The mailbox of an address: its offset in the own scratchpad. -/
def mailbox (i : Iss) (ea : Dword) : Except Trap Nat :=
  let a := ea.toNat
  if a / 2 ^ 18 != 0x4000 * 2 ^ 30 || decide (i.group.scratchBytes < a % 2 ^ 18 + 16) then .error ((mkTrap protection 1).at ea)
  else if a % 16 != 0 then .error ((mkTrap misaligned 0).at ea)
  else .ok (a % 2 ^ 18)

def viewFetchwk (f : MForm) : View :=
  let v := viewM 0xE0 ty0 f [0] true false (.off f.d) (.off f.c)
  { v with bad := v.bad || f.idx }

/-- `FETCHWK`. -/
def execFetchwk (f : MForm) (s : State) : Result :=
  issue s (fun _ => viewFetchwk f) false false fun i en s => notVersioned i <|
    match mapLanes (i.lanes en) (fun l => (mAddr s i f 0 l).map fun ea => (l, ea)) with
    | .error e => .error e
    | .ok xs => match gather i.lead (xs.map fun x => (x.1, mailbox i x.2)) with
      | .error e => .error e
      | .ok os => .ok (os.foldl (fun (t : State) o =>
          { t.modGroupOn i.core i.group.gid (fun g => { g with scratch := spSetList g.scratch o (toLE 4 0) }) with
            fetches := t.fetches ++ [{ session := i.sess.slot, gid := i.group.gid, off := o }] }) s)

/-- The request of a session that is served next: of those whose groups are resident, a group that has ended among them, by
ascending core index, then resident group slot, then age. 02 R50 does not say whether its core index is the physical or the
session-relative one; this is the session-relative one (entry 84). -/
def State.fetchReq? (s : State) (slot : Nat) : Option FetchReq :=
  let rs := (s.fetches.filter fun r => r.session == slot).filterMap fun r =>
    (s.find? r.gid).map fun e => (16 * (s.core e.1).rel + e.2.rgs, r)
  (argMin (fun (e : Nat × FetchReq) => e.1) rs).map (·.2)

/-- The group a launch would withdraw next (02 R49). -/
def Launch.withdrawNext (l : Launch) : Option Nat :=
  if l.desc.workSource == 1 && l.ended.isNone && decide (l.nextGroup < l.desc.groups) then some l.nextGroup else none

/-- `FETCHWK_SERVE`: the distributor answers one request. -/
def execFetchwkServe (slot : Nat) (s : State) : Result :=
  match s.fetchReq? slot with
  | none => .next s
  | some r =>
    let s1 : State := { s with fetches := s.fetches.erase r }
    match s1.find? r.gid with
    | none => .next s1
    | some (c, g) =>
      let put (t : State) (o : Nat) (bs : List Byte) : State :=
        t.modGroupOn c r.gid fun h => { h with scratch := spSetList h.scratch o bs }
      match (s1.launchOf? g).bind fun l => l.withdrawNext.map fun n => (l, n) with
      | none => .next (put s1 r.off (toLE 4 2))
      | some (l, n) =>
        let (x, y, z) := l.desc.coords n
        let s2 := s1.modLaunch g.session g.launch fun k => { k with nextGroup := n + 1 }
        let s3 := s2.modGroupOn c r.gid fun h => { h with withdrawn := h.withdrawn ++ [n] }
        .next (put (put s3 (r.off + 4) (toLE 4 x ++ toLE 2 y ++ toLE 2 z ++ toLE 4 0)) r.off (toLE 4 1))

/-! ### The die priority queue (02 R51, R52, 12 R267 to R269) -/

/-- Entries of a die's queue. -/
def pqCap : Nat := 65536

/-- Inserts an entry where the die's queue has room. -/
def State.pqPush (s : State) (die sess launch : Nat) (key value : Word) : Option State :=
  if (s.pq.filter fun e => e.die == die).length < pqCap then
    some { s with pq := s.pq ++ [{ die := die, session := sess, launch := launch, key := key, value := value }] }
  else none

/-- The queue serves launches of WORK_SOURCE 2 only (02 R48). -/
def queueMode (i : Iss) (body : Except Halt State) : Except Halt State :=
  if i.launch.desc.workSource == 2 then body else .error illInstr

def viewPqpush (f : RForm) : View := viewW 0xE1 f [.dst f.d, .src f.a, .src f.b, .off f.c]

/-- `PQPUSH`. -/
def execPqpush (f : RForm) (s : State) : Result :=
  issue s (fun _ => viewPqpush f) false false fun i en s => queueMode i <|
    perLane i en s (fun l => match rd1 s i l f.a with
        | .error e => .error e
        | .ok a => (rd1 s i l f.b).map fun b => (a, b))
      fun t l v =>
        let die := dieOf i.core
        if i.holds then wr1 (t.hold i (.pq die v.1 v.2)) i l .b32 f.d (replyWord 1 0)
        else match t.pqPush die i.sess.slot i.launch.number v.1 v.2 with
          | some t1 => wr1 t1 i l .b32 f.d (replyWord 1 0)
          | none => wr1 t i l .b32 f.d (replyWord 0 5)

def viewPqpop (f : RForm) : View := viewW 0xE2 f [.dpair f.d, .off f.a, .off f.b, .mask f.c]

/-- `PQPOP`: each request waits to be served. -/
def execPqpop (f : RForm) (s : State) : Result :=
  issue s (fun _ => viewPqpop f) false false fun i en s => queueMode i <| notVersioned i <|
    .ok ((i.lanes en).foldl (fun (t : State) l =>
      let d := i.dest l f.d
      let r : PqPop := { die := dieOf i.core, session := i.sess.slot, launch := i.launch.number, core := i.core, dest := d,
                         mask := f.c.idx.toNat, carried := false }
      { t.awaits d (if i.lead then 1 else 2) (some r.mask) with pops := t.pops ++ [r] }) s)

/-- One pop served: the smallest entry of its launch, the earliest among equals. A pop that returns an entry is an acquire at
die scope (02 R51). -/
def servePop (s : State) (r : PqPop) : State :=
  let s1 : State := { s with pops := s.pops.erase r }
  match argMin (fun (e : PqEntry) => e.key.toNat) (s.pq.filter fun e => e.die == r.die && e.session == r.session && e.launch == r.launch) with
  | some e => (({ s1 with pq := s1.pq.erase e } : State).acquireFor? r.dest.gid 2).giveResult r.dest [e.key, e.value] [e.value ++ e.key] (some (r.mask, true))
  | none => s1.giveResult r.dest [0xFFFFFFFF, 0] [0xFFFFFFFF] (some (r.mask, false))

/-- The pops of a die in the order they are served in (12 R269): those carried over from an earlier cycle, then the arrivals by
ascending physical core index, then in issue order. -/
def State.popsOf (s : State) (die : Nat) : List PqPop :=
  (s.pops.filter fun r => r.die == die && r.carried) ++
  (List.range 16).flatMap fun k => s.pops.filter fun r => r.die == die && !r.carried && r.core == 16 * die + k

/-- `PQ_POP_SERVE`: a die's queue serves up to 8 pops; the others are carried into the next cycle in their order. -/
def execPqPopServe (die : Nat) (s : State) : Result :=
  let t := ((s.popsOf die).take 8).foldl servePop s
  .next { t with
    pops := (t.pops.filter fun r => r.die != die) ++ ((s.popsOf die).drop 8).map fun r => { r with carried := true } }

/-! ### Work lists (12 R270, 13 R294 to R299) -/

def viewWlpush (f : RForm) : View := viewW 0xE3 f [.dst f.d, .src f.a, .reg f.b false 4 4 2 false, .off f.c]

/-- The item of one lane, or of the lead stream. -/
def itemOf (s : State) (i : Iss) (l : Nat) (sp : Spec) : Except Halt (List Word) :=
  if i.lead then
    let a := i.gReg sp.idx.toNat
    let b := i.gReg (sp.idx.toNat + 1)
    .ok [a.setWidth 32, a.extractLsb' 32 32, b.setWidth 32, b.extractLsb' 32 32]
  else rdRun s i l sp 4

/-- `WLPUSH`. -/
def execWlpush (f : RForm) (s : State) : Result :=
  issue s (fun _ => viewWlpush f) false false fun i en s =>
    perLane i en s (fun l => match rd1 s i l f.a with
        | .error e => .error e
        | .ok a => (itemOf s i l f.b).map fun b => (a.toNat % 65536, b))
      fun t l v =>
        if i.holds then wr1 (t.hold i (.wl v.1 v.2)) i l .b32 f.d (replyWord 1 0)
        else .ok (t.issueCmd i l (some f.d) 1 (.wlpush v.1 v.2))

def viewWlpop (f : RForm) : View := viewW 0xE4 f [.reg f.d true 5 5 3 false, .src f.a, .off f.b, .off f.c]

/-- `WLPOP`. -/
def execWlpop (f : RForm) (s : State) : Result :=
  issue s (fun _ => viewWlpop f) false false fun i en s => notVersioned i <|
    perLane i en s (fun l => (rd1 s i l f.a).map fun a => a.toNat % 65536)
      fun t l v => .ok (t.issueCmd i l (some f.d) (if i.lead then 3 else 5) (.wlpop v))

/-- Bytes of an item of a ring: an access of the session on RC pages only. -/
def ringPlace (s : State) (x : Session) (acc : Access) (va : Nat) : Except Trap (List Piece) :=
  match s.sxPieces x acc va 16 with
  | .error t => .error t
  | .ok ps => if ps.all fun p => p.leaf.type == 0 then .ok ps else .error ((mkTrap protection 6).at (BitVec.ofNat 64 va))

/-- Address of item `n` of a list. -/
def WorkList.itemAt (w : WorkList) (n : Nat) : Nat := w.base.toNat + 16 * (n % w.cap)

/-- A list of a launch changed. -/
def State.modList (s : State) (sess launch list : Nat) (f : WorkList → WorkList) : State :=
  s.modLaunch sess launch fun l => { l with lists := updAt f l.lists list }

/-- Appends one item where there is room: none when the list is full. -/
def State.appendItem (s : State) (x : Session) (launch list : Nat) (w : WorkList) (bs : List Byte) : Except Trap (Option State) :=
  if w.cap ≤ w.tail - w.head then .ok none
  else match ringPlace s x .write (w.itemAt w.tail) with
    | .error t => .error t
    | .ok _ => (s.sxWrite x (w.itemAt w.tail) bs).map fun t =>
        some (t.modList x.slot launch list fun y => { y with tail := y.tail + 1 })

/-- Draining the item of a record frees the slot it names in the ring that feeds the list (14 R301). -/
def State.freeSlot (s : State) (sess launch list addr : Nat) : State :=
  let handle := ((s.launch? sess launch).bind fun l => l.node).bind fun a =>
    (s.nodes.find? fun n => n.session == sess && n.addr == a).map fun n => n.handle
  let feeds (r : Ring) : Bool :=
    r.session == sess && r.kind == 0 && r.list == list && handle == some r.consumer && decide (r.base.toNat ≤ addr) &&
    decide (addr < r.base.toNat + r.cap * r.rsize) && decide (r.head < r.tail)
  { s with rings := updFirst feeds (fun r => { r with head := r.head + 1, order := r.order.drop 1 }) s.rings }

/-- Takes the oldest item, if there is one. -/
def State.takeItem (s : State) (x : Session) (launch list : Nat) (w : WorkList) : Except Trap (Option (State × List Byte)) :=
  if w.head == w.tail then .ok none
  else match ringPlace s x .read (w.itemAt w.head) with
    | .error t => .error t
    | .ok _ => (s.sxRead x (w.itemAt w.head) 16).map fun bs =>
        some ((s.modList x.slot launch list fun y => { y with head := y.head + 1 }).freeSlot x.slot launch list
          (leNat (bs.take 8)), bs)

def State.list? (s : State) (sess launch list : Nat) : Option WorkList := (s.launch? sess launch).bind fun l => l.lists[list]?

/-- Appends the items of a command one after another: the state, how many were appended, and the status. -/
def appendAll (s : State) (x : Session) (c : Cmd) (list : Nat) (item : State → Nat → Except EngErr (List Byte)) (n : Nat) :
    State × Nat × Nat × Option Trap :=
  let step (acc : State × Nat × Nat × Option Trap) (j : Nat) : State × Nat × Nat × Option Trap :=
    if acc.2.2.1 != 0 then acc
    else match acc.1.list? c.session c.launch list, item acc.1 j with
      | none, _ => (acc.1, acc.2.1, 6, none)
      | some w, .ok bs => match acc.1.appendItem x c.launch list w bs with
        | .ok (some t) => (t, acc.2.1 + 1, 0, none)
        | .ok none => (acc.1, acc.2.1, 5, none)
        | .error t => (acc.1, acc.2.1, 2, some t)
      | some _, .error (.fault t) => (acc.1, acc.2.1, 2, some t)
      | some _, .error .window => (acc.1, acc.2.1, 2, none)
  ((List.range n).map (c.done + ·)).foldl step (s, c.done, 0, none)

/-- Drains the items of a command one after another. -/
def drainAll (s : State) (x : Session) (c : Cmd) (list : Nat) (a : Nat) (n : Nat) : State × Nat × Nat × Option Trap :=
  let step (acc : State × Nat × Nat × Option Trap) (j : Nat) : State × Nat × Nat × Option Trap :=
    if acc.2.2.1 != 0 then acc
    else match acc.1.list? c.session c.launch list with
      | none => (acc.1, acc.2.1, 6, none)
      | some w => match acc.1.takeItem x c.launch list w with
        | .ok none => acc
        | .error t => (acc.1, acc.2.1, 2, some t)
        | .ok (some (t, bs)) => match engWrite t c x (a + 16 * j) bs with
          | .ok u => (u, acc.2.1 + 1, 0, none)
          | .error (.fault e) => (acc.1, acc.2.1, 2, some e)
          | .error .window => (acc.1, acc.2.1, 2, none)
  ((List.range n).map (c.done + ·)).foldl step (s, c.done, 0, none)

/-- A lane or lead stream waiting in a `QUIESCE` receives a verdict and moves on (12 R271). -/
def quiesceLane (s : State) (x : Session) (gid band lane : Nat) (v : Word) : State :=
  match s.find? gid with
  | none => s
  | some (c, g) =>
    let y := g.lane band lane
    match y.wait with
    | .quiesce d m =>
      let s1 := if m.getLsbD lane then s.putPos x gid band lane (y.base + d.idx.toNat) v else s
      s1.modGroupOn c gid fun h => h.modLane band lane fun z => { z with wait := .none }.advance
    | _ => s

def quiesceLead (s : State) (gid : Nat) (v : Word) : State :=
  s.modGroup gid fun g => match g.lead.wait with
    | .quiesce d _ => { g with g := spSet g.g d.idx.toNat (v.setWidth 64), lead := { g.lead with wait := .none }.advance }
    | _ => g

/-- Every `QUIESCE` of a launch that waits receives a verdict. -/
def State.endQuiesce (s : State) (sess launch : Nat) (v : Word) : State :=
  match s.session? sess with
  | none => s
  | some x => (s.groupsOf sess launch).foldl (fun t r =>
      (List.range r.2.bands.length).foldl (fun u b => (List.range 32).foldl (fun w l => quiesceLane w x r.2.gid b l v) u)
        (quiesceLead t r.2.gid v)) s

/-- The list a command of Delphinium asks for. -/
def Cmd.listNo (c : Cmd) : Option Nat :=
  match c.kind with
  | .dappend _ l _ => some l
  | .ddrain _ l _ => some l
  | .wlpush l _ => some l
  | .wlpop l => some l
  | _ => none

/-- Output `n` of a launch. -/
def State.output? (s : State) (l : Launch) (n : Nat) : Option Ring :=
  if n < l.desc.outputs then
    s.rings.find? fun r => r.session == l.session && r.launch == l.number && r.desc == l.desc.outBase.toNat + 64 * n
  else none

/-- The launch a shader output feeds. -/
def State.consumer? (s : State) (r : Ring) : Option Launch :=
  (s.nodes.find? fun n => n.session == r.session && n.handle == r.consumer).bind fun n =>
    s.launches.find? fun l => l.session == r.session && l.node == some n.addr

/-- The list, by launch and index, that a request in flight asks for: a command of Delphinium, or an `EMIT` whose record is to be
appended to one (14 R301). -/
def State.asks (s : State) (c : Cmd) : Option (Nat × Nat) :=
  match c.kind with
  | .emit out _ => match (s.launch? c.session c.launch).bind fun l => s.output? l out with
    | none => none
    | some r => if r.kind == 0 then (s.consumer? r).map fun l => (l.number, r.list) else none
  | _ => c.listNo.map fun l => (c.launch, l)

/-- The oldest request to a list: requests are served in the order of arrival (13 R296). -/
def State.listReq? (s : State) (sess launch list : Nat) : Option Cmd :=
  s.cmds.find? fun c => c.session == sess && s.asks c == some (launch, list)

/-- Whether a request to a list waits that is older than command `self`, or any where none is named. -/
def State.listBusy (s : State) (sess launch list : Nat) (self : Option Nat) : Bool :=
  s.cmds.any fun c => c.session == sess && self.all (fun n => decide (c.id < n)) && s.asks c == some (launch, list)

/-- A request of Delphinium ends: its reply, and the verdict of the items it served. A drain is an acquire at `.dev` (10 R231). -/
def finishList (s : State) (c : Cmd) (count status : Nat) (served : Bool) : State :=
  let s1 := if served then s.endQuiesce c.session c.launch 0 else s
  let s2 := match c.kind with
    | .ddrain _ _ _ => s1.acquireFor? c.gid 3
    | _ => s1
  (s2.reply c.reply (replyWord count status)).dropCmd c.id

/-- A served request: it ends, or waits for the translation service with what it has done (10 R227). -/
def listOutcome (x : Session) (c : Cmd) (appends : Bool) (r : State × Nat × Nat × Option Trap) : State :=
  let (s1, k, st, t) := r
  let end_ (u : State) : State := finishList u c k st (appends && decide (c.done < k))
  match t with
  | none => end_ s1
  | some t => match s1.engFault x c t with
    | some s2 =>
      let s3 := s2.modCmd c.id fun (d : Cmd) => { d with done := k }
      if appends && decide (c.done < k) then s3.endQuiesce c.session c.launch 0 else s3
    | none => end_ (s1.tagCheck x t)

/-- Whether a list command reaches the scratchpad of a group that is there (10 R228). -/
def Cmd.needsScratch (c : Cmd) (s : State) : Bool :=
  match c.kind with
  | .dappend a _ _ => (s.scratchOf c a.toNat).isSome
  | .ddrain a _ _ => (s.scratchOf c a.toNat).isSome
  | _ => false

/-- `LIST_REQUEST_SERVE`: Delphinium serves the oldest request to a list (10 R231, 12 R270, 13 R296). -/
def execListRequestServe (sess launch list : Nat) (s : State) : Result :=
  match s.listReq? sess launch list, s.session? sess with
  | some c, some x =>
    if c.fault.isSome || c.held then .next s
    else if c.needsScratch s && (s.find? c.gid).isNone then .next (s.modCmd c.id fun d => { d with held := true })
    else
      let known := (s.list? sess launch list).isSome
      match c.kind with
      | .dappend a _ n =>
        if n == 0 || 1024 < n then .next (finishList s c 0 1 false)
        else if !known then .next (finishList s c 0 6 false)
        else .next (listOutcome x c true (appendAll (s.engSeen c x (a.toNat + 16 * c.done) (16 * (n - c.done))) x c list
            (fun t j => engRead t c x (a.toNat + 16 * j) 16) (n - c.done)))
      | .ddrain a _ n =>
        if n == 0 || 1024 < n then .next (finishList s c 0 1 false)
        else if !known then .next (finishList s c 0 6 false)
        else .next (listOutcome x c false (drainAll s x c list a.toNat (n - c.done)))
      | .wlpush _ item =>
        if !known then .next (finishList s c 0 6 false)
        else .next (listOutcome x c true (appendAll s x c list (fun _ _ => .ok (item.flatMap fun w => toLE 4 w.toNat)) 1))
      | .wlpop _ =>
        let give (t : State) (w : Word) (ws : List Word) : State :=
          let g (a b : Nat) : Dword := ws.getD b 0 ++ ws.getD a 0
          (match c.reply with
            | none => t
            | some d => t.giveResult d (w :: ws) [w.setWidth 64, g 0 1, g 2 3] none).dropCmd c.id
        let zeros : List Word := [0, 0, 0, 0]
        match s.list? sess launch list with
        | none => .next (give s (replyWord 0 6) zeros)
        | some w => match s.takeItem x launch list w with
          | .ok none => .next (give s (replyWord 0 0) zeros)
          | .ok (some (t, bs)) => .next (give (t.acquireFor? c.gid 3) (replyWord 1 0)
              ((List.range 4).map fun j => BitVec.ofNat 32 (leNat ((bs.drop (4 * j)).take 4))))
          | .error t => .next ((s.engFault x c t).getD (give (s.tagCheck x t) (replyWord 0 2) zeros))
      | _ => .next s
  | _, _ => .next s

/-! ### Quiescence (12 R271, 13 R297, R298) -/

def viewQuiesce (f : RForm) : View := viewW 0xE5 f [.dst f.d, .off f.a, .off f.b, .off f.c]

/-- `QUIESCE`: at once where the verdict stands or a list holds an item; else the unit waits. -/
def execQuiesce (f : RForm) (s : State) : Result :=
  issueHold s (fun _ => viewQuiesce f) fun i en s => notVersioned i <|
    let now (v : Word) : Except Halt State :=
      (perLane i en s (fun _ => .ok v) fun t l w => wr1 t i l .b32 f.d w).map fun t => t.advance i i.active
    if i.launch.quiescent then now 1
    else if i.launch.lists.any fun w => w.head != w.tail then now 0
    else .ok (s.block i (.quiesce f.d en))

/-- A stream idle for the detector: ended, or waiting in a `QUIESCE`. -/
def Lane.idle (x : Lane) (l : Nat) : Bool := !x.live || match x.wait with
  | .quiesce _ m => m.getLsbD l
  | _ => false

def Lead.idle (x : Lead) : Bool := x.status == .exited || match x.wait with
  | .quiesce _ _ => true
  | _ => false

/-- Whether a request in flight is an append that a launch has issued, or one to a list of it (13 R297). -/
def State.appends (s : State) (l : Launch) (c : Cmd) : Bool :=
  c.session == l.session && match c.kind with
    | .dappend _ _ _ => c.launch == l.number
    | .wlpush _ _ => c.launch == l.number
    | .emit _ _ => (s.asks c).any fun e => c.launch == l.number || e.1 == l.number
    | _ => false

/-- The conditions of 13 R297. -/
def State.quiescentNow (s : State) (l : Launch) : Bool :=
  l.lists.all (fun w => w.head == w.tail) &&
  !(s.cmds.any (s.appends l)) &&
  l.returned.isEmpty && decide (l.desc.groups ≤ l.nextGroup) &&
  !(s.parked.any fun g => g.session == l.session && g.launch == l.number) &&
  (s.groupsOf l.session l.number).all fun r =>
    r.2.phase == .retiring || (r.2.lead.idle && r.2.bands.all fun b => (b.lanes.mapIdx fun n x => x.idle n).all id)

/-- `QUIESCENCE_VERDICT`. -/
def execQuiescenceVerdict (sess launch : Nat) (s : State) : Result :=
  match s.launch? sess launch with
  | none => .next s
  | some l =>
    if !l.quiescent && s.quiescentNow l then
      .next ((s.modLaunch sess launch fun k => { k with quiescent := true }).endQuiesce sess launch 1)
    else .next s

end Sys2Proof.Machine
end

