-- ==== Sys2Proof/Machine/Outputs.lean ====
section
/-! DEFINITION. Record rings of the rendering work graph (14 R300, R301), `EMIT` (12 R278), the shading atlas (12 R277,
14 R314), and the descriptors of graphics instructions (12 R272). -/

namespace Sys2Proof.Machine

open Sys2Proof

/-! ### Rings -/

def State.modRing (s : State) (r : Ring) (f : Ring → Ring) : State :=
  { s with rings := updFirst (fun q => q.session == r.session && q.launch == r.launch && q.desc == r.desc) f s.rings }

/-- Address of slot `n` of a ring. -/
def Ring.slotAt (r : Ring) (n : Nat) : Nat := r.base.toNat + r.rsize * (n % r.cap)

def Ring.isFull (r : Ring) : Bool := decide (r.cap ≤ r.tail - r.head)

/-- The record in a slot: padded with zeros, or truncated. -/
def Ring.pad (r : Ring) (bs : List Byte) : List Byte := bs.take r.rsize ++ List.replicate (r.rsize - bs.length) 0

/-- How a ring takes a record. -/
inductive Accepted where
  | ok (s : State)
  | full
  | list
  /-- an older request to the consumer's list waits (13 R296): that list, by launch and index -/
  | busy (launch list : Nat)
  | fault (t : Trap)

/-- A record is accepted into a ring (14 R301), for a unit in user or privileged state. `out`: the output's index; `self`: the
`EMIT` it comes from. -/
def State.accept (s : State) (x : Session) (priv : Bool) (r : Ring) (out : Nat) (bs : List Byte) (self : Option Nat) : Accepted :=
  let at_ := r.slotAt r.tail
  if r.isFull then .full
  else match s.accPieces x priv .write at_ r.rsize with
    | .error t => .fault t
    | .ok ps =>
      if ps.any fun p => p.leaf.type != 0 then .fault ((mkTrap protection 6).at (BitVec.ofNat 64 at_))
      else
        let store (t : State) : Accepted := match t.accWrite x priv at_ (r.pad bs) with
          | .error e => .fault e
          | .ok t1 => .ok ({ t1.modRing r (fun q => { q with tail := q.tail + 1, order := q.order ++ [t1.nextCmd] }) with
                             nextCmd := t1.nextCmd + 1 })
        if r.kind != 0 then store s
        else match s.consumer? r with
          | none => .list
          | some l => match l.lists[r.list]? with
            | none => .list
            | some w =>
              if s.listBusy x.slot l.number r.list self then .busy l.number r.list
              else
              let item := toLE 8 at_ ++ toLE 2 (min bs.length r.rsize) ++ toLE 2 out ++ toLE 4 0
              match s.appendItem x l.number r.list w item with
              | .error e => .fault e
              | .ok none => .full
              | .ok (some s1) => store (s1.endQuiesce x.slot l.number 0)

/-! ### Descriptors of graphics instructions (12 R272) -/

/-- Bytes a lane reads as a relaxed load. -/
def laneBytes (s : State) (i : Iss) (ea n : Nat) : Except Trap (List Byte) :=
  let a := BitVec.ofNat 64 ea
  match checkAccess s i { acc := .read, aligned := false, types := anyType } a n with
  | .error t => .error t
  | .ok p => if s.placePoison i.sess p n then .error (s.poisonAt i.sess p a) else .ok (s.bytesAt i.sess i.group.gid p n)

/-- The signature of a task takes in a lane's read. -/
def noteRead (s : State) (i : Iss) (ea n : Nat) : State :=
  match checkAccess s i { acc := .read, aligned := false, types := anyType } (BitVec.ofNat 64 ea) n with
  | .ok p => s.sign i.group.gid p true false
  | .error _ => s

/-- The 64 bytes of a descriptor, aligned to 64, read once for the instruction. -/
def readDesc (s : State) (i : Iss) (en : LaneMask) (sp : Spec) : Except Halt Nat :=
  let ea := (i.gReg sp.idx.toNat).toNat
  let l := (lanesOf en).headD 0
  if ea % 64 != 0 then .error (memTrap false l ((mkTrap misaligned 0).at (BitVec.ofNat 64 ea)))
  else match laneBytes s i ea 64 with
    | .error t => .error (memTrap false l t)
    | .ok bs => .ok (leNat bs)

/-- A read that a unit makes for a lane: it enters no signature (20 R350). -/
def unitRead (s : State) (i : Iss) (ea n : Nat) : State :=
  match checkAccess s i { acc := .read, aligned := false, types := anyType } (BitVec.ofNat 64 ea) n with
  | .ok p => s.trace i.sess i.group.gid p false
  | .error _ => s

/-- The descriptor of a graphics instruction read as an access of the instruction itself. -/
def noteDesc (s : State) (i : Iss) (sp : Spec) : State := noteRead s i (i.gReg sp.idx.toNat).toNat 64

/-- View of a graphics instruction: lane stream only. -/
def viewGfx (op : Nat) (f : RForm) (uses : List Use) : View := { viewW op f uses with lead := false }

/-! ### EMIT -/

def viewEmit (f : RForm) : View := viewGfx 0xED f [.dst f.d, .src f.a, .greg f.b false 1, .off f.c]

/-- A record's place in the own scratchpad. -/
def recordPlace (i : Iss) (size : Nat) (o : Word) : Except Trap Nat :=
  let ea := BitVec.ofNat 64 (0x4000 * 2 ^ 48 + o.toNat)
  if i.group.scratchBytes < o.toNat + size then .error ((mkTrap protection 1).at ea)
  else if o.toNat % 16 != 0 then .error ((mkTrap misaligned 0).at ea)
  else .ok o.toNat

/-- The unit that takes the records of `EMIT` takes one up: it is accepted, refused, or waits for its page or for the
consumer's list; FAULT where a fault on its page is not serviced (14 R301, 13 R295). -/
def State.serveEmit (s : State) (x : Session) (c : Cmd) (out : Nat) (bs : List Byte) : State :=
  let fin (t : State) (w : Word) : State := (t.reply c.reply w).dropCmd c.id
  -- records of one output enter in the order in which they were sent
  let first := s.cmds.find? fun d => d.session == c.session && d.launch == c.launch && match d.kind with
    | .emit o _ => o == out
    | _ => false
  if first.any fun d => d.id != c.id then s
  else match (s.launch? c.session c.launch).bind fun l => s.output? l out with
    | none => fin s (replyWord 0 6)
    | some r => match s.accept x c.priv r out bs (some c.id) with
      | .ok t => fin t (replyWord 1 0)
      | .full => fin s (replyWord 0 5)
      | .list => fin s (replyWord 0 6)
      | .busy _ _ => s
      | .fault t => (s.engFault x c t).getD (fin (s.tagCheck x t) (replyWord 0 2))

/-- One lane's record sent: a release at `.dev`, and the request. -/
def sendRecord (s : State) (i : Iss) (d : Spec) (l out : Nat) (bs : List Byte) : State :=
  let t := s.issueCmd i l (some d) 1 (.emit out bs)
  match t.cmds.getLast? with
  | some c => t.serveEmit i.sess c out bs
  | none => t

/-- `EMIT`: in a task that keeps a version the record is held (12 R265). -/
def execEmit (f : RForm) (s : State) : Result :=
  issue s (fun _ => viewEmit f) false false fun i en s =>
    let g := (i.gReg f.b.idx.toNat).toNat
    let size := bitsOf g 31 16
    if bitsOf g 63 32 != 0 || size < 16 || 1024 < size || size % 16 != 0 then .error illOp
    else match mapLanes (i.lanes en) (fun l => (rd1 s i l f.a).map fun o => (l, recordPlace i size o)) with
      | .error e => .error e
      | .ok xs => match gather false xs with
        | .error e => .error e
        | .ok os => foldLanes (fun (t : State) (x : Nat × Nat) =>
            let bs := spGetList i.group.scratch x.2 size
            if i.holds then wr1 (t.hold i (.emit (bitsOf g 15 0) bs)) i x.1 .b32 f.d (replyWord 1 0)
            else .ok (sendRecord t i f.d x.1 (bitsOf g 15 0) bs)) s ((i.lanes en).zip os)

/-! ### Textures' descriptors (14 R306, R314) -/

/-- A texture descriptor. -/
structure Tex where
  base : Nat
  w : Nat
  h : Nat
  levels : Nat
  fmt : Nat
  filter : Nat
  wrap : Bool
  loff : Nat
  resmask : Nat
  ctier : Nat
  deriving DecidableEq, Repr

def texOf (v : Nat) : Tex :=
  { base := fld v 0 64, w := fld v 8 16, h := fld v 10 16, levels := fld v 12 8, fmt := fld v 13 8, filter := bitsOf (fld v 14 8) 1 0,
    wrap := bitOf (fld v 14 8) 2, loff := fld v 16 64, resmask := fld v 24 64, ctier := fld v 32 64 }

/-- The limits of a texture descriptor. The bytes from +40 to +53 may hold the fields of an atlas. -/
def texOk (v : Nat) : Bool :=
  let t := texOf v
  t.base % 65536 == 0 && decide (1 ≤ t.w) && decide (t.w ≤ 16384) && decide (1 ≤ t.h) && decide (t.h ≤ 16384) && decide (1 ≤ t.levels) &&
  decide (t.levels ≤ 15) && decide (t.fmt ≤ 3) && t.filter != 3 && bitsOf (fld v 14 8) 7 3 == 0 && fld v 15 8 == 0 && fld v 54 80 == 0

/-! ### The shading atlas -/

def viewAtlasreq (f : RForm) : View := viewGfx 0xEC f [.dst f.d, .src f.a, .greg f.b false 1, .off f.c]

/-- A request of one lane: its output ring, the address of its state word and the record it would emit. -/
structure AtlasReq where
  lane : Nat
  out : Dword
  word : Dword
  record : BitVec 128
  deriving DecidableEq, Repr

/-- FRAME of a shading record. -/
def recFrame (rec : BitVec 128) : Nat := rec.toNat / 2 ^ 32 % 2 ^ 30

/-- How a request is settled: an answer, or it waits for room. -/
inductive AtlasRes where
  | answer (v : Word) (s : State)
  | waits
  /-- a page of the ring, or of the consumer's list, is not there -/
  | fault (t : Trap)
  | halt (h : Halt)

/-- Settles one request against its state word (14 R314). Answer 0 is an acquire at `.dev`; the record of answer 1 is accepted
with a release at `.dev` (14 R301). -/
def atlasOne (s : State) (i : Iss) (q : AtlasReq) : AtlasRes :=
  match checkAccess s i { acc := .atomic, aligned := true, types := atomTypes } q.word 4 with
  | .error t => .halt (memTrap false q.lane t)
  | .ok p =>
    let w := leNat (s.bytesAt i.sess i.group.gid p 4)
    let state := if w / 4 == recFrame q.record then w % 4 else 0
    match state with
    | 1 => .answer 2 s
    | 2 => .answer 0 (s.acquire i.core 3)
    | 3 => .answer (Config.freeWord s.freeCtr) s
    | _ => match s.rings.find? fun r => r.session == i.sess.slot && r.launch == i.launch.number && r.desc == q.out.toNat with
      | none => .waits
      | some r => match (s.releaseAt i.core 3).accept i.sess i.priv r ((q.out.toNat - i.launch.desc.outBase.toNat) / 64)
          (toLE 16 q.record.toNat) none with
        | .ok t => .answer 1 (t.putAt i.sess i.group.gid (i.self q.lane) p (toLE 4 (4 * recFrame q.record + 1)))
        | .fault t => .fault t
        | _ => .waits

/-- Requests in ascending lane order: once one waits for room, every later one waits behind it. -/
def atlasAll (f : RForm) (i : Iss) : List (Nat × Option AtlasReq) → State → Bool → Except Halt (State × Bool)
  | [], s, w => .ok (s, w)
  | (l, q) :: qs, s, w =>
    let answer (v : Word) (t : State) : Except Halt (State × Bool) :=
      match wr1 t i l .b32 f.d v with
      | .error e => .error e
      | .ok u => atlasAll f i qs (u.modLanes i (maskOf (· == l)) fun _ y => { y with wait := .atlasDone }) w
    match q with
    | none => answer 3 s
    | some q =>
      let wait : Except Halt (State × Bool) :=
        atlasAll f i qs (s.modLanes i (maskOf (· == l)) fun _ y => { y with wait := .atlas q.out f.d q.word q.record }) true
      if w then wait
      else match atlasOne s i q with
        | .answer v t => answer v t
        | .waits => wait
        | .fault _ => wait
        | .halt h => .error h

/-- Lanes answered at an `ATLASREQ` of which none waits any more move on. -/
def Band.atlasRelease (b : Band) (pc : Pc) : Band :=
  let waiting := b.lanes.any fun y => y.pc == pc && match y.wait with
    | .atlas _ _ _ _ => true
    | _ => false
  if waiting then b
  else { b with lanes := b.lanes.map fun y => if y.pc == pc && y.wait == .atlasDone then { y with wait := .none }.advance else y }

/-- `ATLASREQ`. -/
def execAtlasreq (f : RForm) (s : State) : Result :=
  issueHold s (fun _ => viewAtlasreq f) fun i en s => notVersioned i <|
    match readDesc s i en f.b with
    | .error e => .error e
    | .ok v =>
      let t := texOf v
      let bw := (t.w + 7) / 8
      let bh := (t.h + 7) / 8
      let state := fld v 40 64
      let frame := fld v 48 32 % 2 ^ 30
      let out := BitVec.ofNat 64 (i.launch.desc.outBase.toNat + 64 * fld v 52 16)
      if !texOk v || i.launch.desc.outputs ≤ fld v 52 16 then .error illOp
      else match mapLanes (i.lanes en) (fun l => (rd1 s i l f.a).map fun a => (l, a)) with
        | .error e => .error e
        | .ok xs =>
          let reqs : List (Nat × Option AtlasReq) := xs.map fun x =>
            let bx := x.2.toNat % 65536
            let by_ := x.2.toNat / 65536
            (x.1, if bx < bw && by_ < bh then
              some { lane := x.1, out := out, word := BitVec.ofNat 64 (state + 4 * (by_ * bw + bx))
                     record := BitVec.ofNat 128 (bx + by_ * 2 ^ 16 + frame * 2 ^ 32 + (i.gReg f.b.idx.toNat).toNat * 2 ^ 64) } else none)
          let nd : Need := { acc := .atomic, aligned := true, types := atomTypes }
          match checkAll s i nd 4 (reqs.filterMap fun r => r.2.map fun q => (r.1, q.word)) with
          | .error e => .error e
          | .ok as0 => match prepareStore s i nd 4 as0 with
            | .error e => .error e
            | .ok (s1, _) =>
              let s2 := s1.modLanes i (i.active &&& ~~~ en) fun _ y => { y with wait := .atlasDone }
              match atlasAll f i reqs s2 false with
              | .error e => .error e
              | .ok (s3, _) => .ok (s3.modGroupOn i.core i.group.gid fun g => g.modBand i.band fun b => b.atlasRelease i.pc)

/-! ### Faults of the units beside the engines (21 R368) -/

def State.unitBlocked (s : State) (sess unit : Nat) : Bool :=
  s.unitFaults.any fun f => f.session == sess && f.unit == unit && f.batch.isSome

def State.unitClear (s : State) (sess unit : Nat) : State :=
  { s with unitFaults := s.unitFaults.filter fun f => !(f.session == sess && f.unit == unit) }

/-- A unit acts for a session. A page fault waits for the translation service; where there is none, or it declines, or
another check fails, `other` stands for the action. -/
def State.unitRun (s : State) (x : Session) (unit : Nat) (act : State → Except Trap State) (other : State → State) : State :=
  if s.unitBlocked x.slot unit then s
  else match act s with
    | .ok s1 => s1.unitClear x.slot unit
    | .error t =>
      let declined := s.unitFaults.any fun f => f.session == x.slot && f.unit == unit
      if t.code.toNat == pageFault && !declined && s.fring x != 0 then
        match s.faultBatch x t.pages (t.sub.toNat % 4) true with
        | some (s1, b) => { s1 with unitFaults := s1.unitFaults ++ [{ session := x.slot, unit := unit, batch := some b }] }
        | none => s
      else (other (s.tagCheck x t)).unitClear x.slot unit

/-- The atlas's accesses to rings, as a unit of `State.unitRun`. -/
def atlasUnit : Nat := 5

/-- `ATLAS_RECORD_ACCEPT`: the record of the lowest waiting lane is accepted, or its request settled otherwise. Where the
record cannot be stored and no service brings its page, d receives a value that the spec does not give (entry 49). -/
def execAtlasRecordAccept (core rgs band lane : Nat) (s : State) : Result :=
  match s.groupAt? core rgs with
  | none => .next s
  | some g =>
    let y := g.lane band lane
    let first := (List.range lane).all fun l => match (g.lane band l).wait with
      | .atlas _ _ _ _ => (g.lane band l).pc != y.pc
      | _ => true
    match y.wait, s.issOf core g.gid (.lanes band (maskOf (· == lane))) with
    | .atlas out d word rec, some i =>
      let give (t : State) (v : Word) : State :=
        (t.putPos i.sess g.gid band lane (y.base + d.idx.toNat) v).modGroupOn core g.gid fun h =>
          (h.modLane band lane fun z => { z with wait := .atlasDone }).modBand band fun b => b.atlasRelease y.pc
      let req : AtlasReq := { lane := lane, out := out, word := word, record := rec }
      if !first then .next s
      else match atlasOne s i req with
        | .waits => .next s
        | .halt _ => .next (s.modLane g.gid band lane fun z => { z with wait := .none })
        | .answer v t => .next (give t v)
        | .fault e => .next (s.unitRun i.sess atlasUnit (fun _ => .error e) fun t => give t (Config.freeWord t.freeCtr))
    | _, _ => .next s

end Sys2Proof.Machine
end

