-- ==== Sys2Proof/Machine/Copies.lean ====
section
/-! DEFINITION. The steps of the engines: copies (10 R229), collectives (10 R232), held writes (10 R228) and the end of graph
nodes (05 R111, R112). -/

namespace Sys2Proof.Machine

open Sys2Proof

/-! ### Copies -/

/-- The groups whose scratchpads or registers a copy reads or writes. -/
def copyGroups (s : State) (c : Cmd) (fill : Bool) (src dst ctrl : Nat) : List Group :=
  (if fill then none else s.scratchOf c src).toList ++
  (if bitOf ctrl 8 then copyTarget s c ctrl else s.scratchOf c dst).toList

/-- Whether one of some groups is swapped out. -/
def State.anyOut (s : State) (gs : List Group) : Bool := gs.any fun g => (s.find? g.gid).isNone

/-- The status of a copy that writes nothing, if its limits or ranges are bad (10 R227, R229). -/
def copyRefused (s : State) (c : Cmd) (fill : Bool) (src dst len ctrl ctr : Nat) : Option Nat :=
  let regs := bitOf ctrl 8
  let ctrOut := ctr != 0xFFFFFFFF && (s.anyGroup c.gid).any fun g => decide (g.scratchBytes < ctr + 4)
  if ctrOut || (regs && regWindow s c dst len ctrl) || (!regs && rangeWindow s c dst len) || (!fill && rangeWindow s c src len) then some 4
  else if !fill && !regs && overlaps (copyRange s c src len) (copyRange s c dst len) then some 3
  else none

/-- A copy carried on from the bytes already moved. -/
def State.runCopy (s : State) (x : Session) (c : Cmd) (fill : Bool) (src dst len ctrl ctr : Nat) (desc : Dword) : State :=
  let fin (t : State) (status : Nat) : State :=
    let out := (s.anyGroup c.gid).any fun g => decide (g.scratchBytes < ctr + 4)
    t.endCopy x c desc (if out then 0xFFFFFFFF else ctr) status
  match if c.done == 0 then copyRefused s c fill src dst len ctrl ctr else none with
  | some st => fin s st
  | none =>
    match copyBlocks c x fill src dst ctrl ((engBlocks dst len).filter fun b => decide (c.done ≤ b.1 - dst)) s c.done with
    | (t, _, none) => fin t 0
    | (t, _, some .window) => fin t 4
    | (t, k, some (.fault e)) => match t.engFault x c e with
      | some u => u.modCmd c.id fun d => { d with done := k }
      | none => fin (t.tagCheck x e) 2

/-- `COPY_COMPLETE`: the copy engine carries out a command, holds it while a group it reaches is swapped out, or takes up
again a command whose descriptor's page has been serviced; the unit that takes the records of `EMIT` takes up one again. -/
def execCopyComplete (cmd : Nat) (s : State) : Result :=
  match s.cmd? cmd with
  | none => .next s
  | some c => match s.session? c.session with
    | none => .next s
    | some x =>
      if c.fault.isSome || c.held then .next s
      else match c.kind with
        | .start _ _ _ _ => .next (s.startCmd cmd)
        | .status desc ctr code => .next (s.writeStatus x c desc ctr code)
        | .emit out bs => .next (s.serveEmit x c out bs)
        | .copy fill src dst len ctrl ctr desc =>
          if s.anyOut (copyGroups s c fill src.toNat dst.toNat ctrl.toNat) then .next (s.modCmd cmd fun d => { d with held := true })
          else .next (s.runCopy x c fill src.toNat dst.toNat len ctrl.toNat ctr.toNat desc)
        | _ => .next s

/-- `HELD_ENGINE_WRITE`: a write, a decrement or a result held for a context is performed once it is resident again. -/
def execHeldEngineWrite (cmd : Nat) (s : State) : Result :=
  match s.cmd? cmd with
  | none => .next s
  | some c => match s.session? c.session with
    | none => .next s
    | some x =>
      if !c.held || c.fault.isSome then .next s
      else match c.kind with
        | .ctrDec off =>
          if (s.anyGroup c.gid).isSome && (s.find? c.gid).isNone then .next s
          else .next ((s.ctrDec c.session c.launch c.gid off).dropCmd cmd)
        | .answer ws gs k => match c.reply with
          | none => .next (s.dropCmd cmd)
          | some d =>
            if (s.anyGroup c.gid).isSome && (s.find? c.gid).isNone then .next s
            else .next ((s.dropCmd cmd).giveResult d ws gs k)
        | .status desc ctr code => .next ((s.modCmd cmd fun d => { d with held := false }).writeStatus x { c with held := false } desc ctr code)
        | .ddrain _ _ _ =>
          if (s.anyGroup c.gid).isSome && (s.find? c.gid).isNone then .next s else .next (s.modCmd cmd fun d => { d with held := false })
        | .dappend _ _ _ =>
          if (s.anyGroup c.gid).isSome && (s.find? c.gid).isNone then .next s else .next (s.modCmd cmd fun d => { d with held := false })
        | .copy fill src dst len ctrl ctr desc =>
          if s.anyOut (copyGroups s c fill src.toNat dst.toNat ctrl.toNat) then .next s
          else .next ((s.modCmd cmd fun d => { d with held := false }).runCopy x { c with held := false } fill src.toNat dst.toNat
            len ctrl.toNat ctr.toNat desc)
        | _ => .next s

/-! ### Graph nodes (05 R111, R112) -/

/-- A finished node's decrement of one successor. -/
def State.succDone (s : State) (sess : Nat) (bad : Bool) (x : Succ) : State :=
  match x with
  | .node a => s.predDone sess a bad
  | .counter gid off => s.ctrDec sess (((s.anyGroup gid).map (·.launch)).getD 0) gid off

/-- `NODE_FINISH`: a node whose body has ended decrements its successors; a node whose count is zero but whose start had to
wait starts. -/
def execNodeFinish (session : Nat) (node : Dword) (s : State) : Result :=
  match s.node? session node with
  | none => .next s
  | some n => match n.st with
    | .ended =>
      let s1 := s.modNode session node fun m => { m with st := .finished }
      let s2 := n.succs.foldl (fun t y => t.succDone session (n.status != 0) y) s1
      .next { s2 with
        queues := s2.queues.map fun (q : QueueCtx) =>
          if q.session == session then { q with nodes := q.nodes.filter fun (a : Dword) => a != node } else q }
    | .waiting => .next (s.startNode session node)
    | _ => .next s

/-! ### Collectives (10 R232) -/

/-- A member's command as the collective engine has read it. -/
structure Member where
  cmd : Cmd
  gid : Nat
  rank : Nat
  efn : Nat
  sbuf : Nat
  dbuf : Nat
  count : Nat
  ctrl : Nat
  bad : Bool

/-- The command of a member group in an instance. -/
def State.joined (s : State) (g : Group) (inst : Nat) : Option Member :=
  s.cmds.findSome? fun c => match c.kind with
    | .collective efn sb db n ctrl k bad =>
      if c.session == g.session && c.gid == g.gid && k == inst then
        some { cmd := c, gid := g.gid, rank := g.rank, efn := efn, sbuf := sb.toNat, dbuf := db.toNat, count := n, ctrl := ctrl.toNat,
               bad := bad }
      else none
    | _ => none

def Member.esize (m : Member) : Nat := collSize m.ctrl
def Member.srcLen (m : Member) : Nat := m.count * m.esize
def Member.dstLen (m : Member) (n : Nat) : Nat := if m.efn == 1 then n * m.srcLen else m.srcLen

/-- One step of a reduction, from its TYPE and OP. -/
def collStep (type op a b : Nat) : Nat :=
  let fl (f : Fmt) : Nat :=
    let x := f.decode a
    let y := f.decode b
    (f.deliver 0 .none false 0 (if op == 0 then faddX false x y else fminX (op == 2) x y)).bits
  let less := if type == 1 then decide (sextNat 32 a < sextNat 32 b) else decide (a < b)
  if type == 0 then fl fmtF32
  else if type == 3 then fl fmtBf16
  else if op == 0 then (a + b) % 2 ^ 32
  else if less != (op == 2) then a else b

/-- Elements of `n` bytes each. -/
def elemsOf (n count : Nat) (bs : List Byte) : List Nat := (List.range count).map fun e => leNat ((bs.drop (n * e)).take n)

/-- What every member receives: the members' sources in rank order. -/
def collResult (m : Member) (srcs : List (List Byte)) : List Byte :=
  match m.efn with
  | 0 =>
    let es := srcs.map (elemsOf m.esize m.count)
    (List.range m.count).flatMap fun e => match es.map fun x => x.getD e 0 with
      | [] => []
      | v :: vs => toLE m.esize (vs.foldl (collStep (m.ctrl % 16) (bitsOf m.ctrl 5 4)) v)
  | 1 => srcs.flatten
  | _ => srcs.getD (bitsOf m.ctrl 7 6) []

/-- The common status of an instance that moves nothing, if any: the members disagree, a range lies outside its window, or a
destination overlaps another buffer. -/
def collRefused (s : State) (ms : List Member) (size : Nat) : Option Nat :=
  let same (a b : Member) : Bool := !b.bad && a.efn == b.efn && a.count == b.count && a.ctrl == b.ctrl
  match ms with
  | [] => none
  | m :: _ =>
    if ms.length < size then some 8
    else if m.bad || !ms.all (same m) then some 7
    else if ms.any (fun a => rangeWindow s a.cmd a.sbuf a.srcLen || rangeWindow s a.cmd a.dbuf (a.dstLen size)) then some 4
    else
      let d (a : Member) := copyRange s a.cmd a.dbuf (a.dstLen size)
      if ms.any fun a => ms.any fun b => overlaps (d a) (copyRange s b.cmd b.sbuf b.srcLen) || (a.rank != b.rank && overlaps (d a) (d b)) then some 3
      else none

/-- Every member receives a reply; a member whose own descriptor is bad receives DESCRIPTOR. -/
def collReply (s : State) (ms : List Member) (status : Nat) : State :=
  ms.foldl (fun t m => (t.reply m.cmd.reply (replyWord 0 (if m.bad && status != 8 then 1 else status))).dropCmd m.cmd.id) s

/-- The members' sources, or the member whose read failed. -/
def collReads (s : State) (x : Session) : List Member → Except (Member × EngErr) (List (List Byte))
  | [] => .ok []
  | m :: ms => match engRead s m.cmd x m.sbuf m.srcLen with
    | .error e => .error (m, e)
    | .ok bs => (collReads s x ms).map fun r => bs :: r

/-- A collective orders its buffers at the scope that its descriptors name (06 R129): a release by every participant, then an
acquire by every participant. -/
def State.collOrder (s : State) (ms : List Member) : State :=
  let cores := (ms.filterMap fun m => (s.find? m.gid).map (·.1)).dedup
  let scope := (ms.head?.map fun m => bitsOf m.ctrl 10 8).getD 0
  (s.releaseOn cores scope).acquireOn cores scope

def collWrites (x : Session) (bs : List Byte) : List Member → State → State × Option (Member × EngErr)
  | [], s => (s, none)
  | m :: ms, s => match engWrite s m.cmd x m.dbuf bs with
    | .error e => (s, some (m, e))
    | .ok t => collWrites x bs ms t

/-- An access of a member failed: its command waits for the translation service, or the instance ends with FAULT. -/
def collFail (s : State) (x : Session) (ms : List Member) (m : Member) (e : EngErr) : State :=
  match e with
  | .window => collReply s ms 4
  | .fault t => (s.engFault x m.cmd t).getD (collReply (s.tagCheck x t) ms 2)

/-- `COLLECTIVE_COMPLETE`: the members of a cluster have joined an instance, or some have finished without joining it. The
cluster is named by the group of any member that has joined. -/
def execCollectiveComplete (session cluster : Nat) (s : State) : Result :=
  match s.session? session, s.anyGroup cluster with
  | some x, some g => match s.launchOf? g, (s.cmds.findSome? fun c => match c.kind with
      | .collective _ _ _ _ _ k _ => if c.session == session && c.gid == cluster then some k else none
      | _ => none) with
    | some l, some k =>
      let size := l.desc.cluster
      let gs := (List.range size).filterMap (s.member g)
      let ms := gs.filterMap fun h => s.joined h k
      let waiting := gs.any fun h => (s.joined h k).isNone && h.phase == .running
      if waiting || s.anyOut gs || ms.any fun m => m.cmd.fault.isSome then .next s
      else match collRefused s ms size with
        | some st => .next (collReply s ms st)
        | none => match collReads s x ms with
          | .error (m, e) => .next (collFail s x ms m e)
          | .ok srcs => match ms with
            | [] => .next s
            | m0 :: _ =>
              let seen := ms.foldl (fun t m => t.engSeen m.cmd x m.sbuf m.srcLen) s
              match collWrites x (collResult m0 srcs) ms seen with
              | (t, none) => .next (collReply (t.collOrder ms) ms 0)
              | (t, some (m, e)) => .next (collFail t x ms m e)
    | _, _ => .next s
  | _, _ => .next s

end Sys2Proof.Machine
end

