-- ==== Sys2Proof/Machine/System.lean ====
section
/-! DEFINITION. System instructions but `FORK` (12 R279 to R286): software traps, the special registers (03 R66, 20 R338),
the return from a handler (20 R344), and invalidation. -/

namespace Sys2Proof.Machine

open Sys2Proof

/-! ### 12 R279 -/

def viewTrap (f : IForm) : View :=
  { viewI 0xF0 ty0 f plain [.off f.d, .off f.a] with bad := badI f plain || decide (65536 ≤ f.imm.toNat) }

/-- `TRAP n`: ADDR of the record carries n. -/
def execTrap (f : IForm) (s : State) : Result :=
  issue s (fun _ => viewTrap f) false false fun _ _ _ => .error (.trap ((mkTrap softTrap 0).at (f.imm.setWidth 64)))

def viewBrkpt (f : RForm) : View := viewR 0xF1 ty0 f plain [.off f.d, .off f.a, .off f.b, .off f.c]

/-- `BRKPT`. -/
def execBrkpt (f : RForm) (s : State) : Result :=
  issue s (fun _ => viewBrkpt f) false false fun _ _ _ => .error (.trap (mkTrap softTrap 1))

/-! ### Special registers -/

/-- Registers of 64 bits. -/
def srWide (n : Nat) : Bool := n == 0x00E || n == 0x012 || n == 0x200 || n == 0x202 || n == 0x204
def srAssigned (n : Nat) : Bool := decide (n ≤ 0x014) || (decide (0x200 ≤ n) && decide (n ≤ 0x205))
def srWritable (n : Nat) : Bool := n == 0x011 || n == 0x012 || n == 0x013 || (decide (0x200 ≤ n) && decide (n ≤ 0x203))
/-- Registers held per thread, which read 0 in the lead stream. -/
def srThread (n : Nat) : Bool :=
  n == 0x000 || n == 0x002 || n == 0x003 || n == 0x004 || (decide (0x011 ≤ n) && decide (n ≤ 0x014)) || n == 0x204 || n == 0x205
def srPriv (n : Nat) : Bool := decide (0x200 ≤ n)

/-- Index of a thread within its group (01 R8). -/
def threadIndex (i : Iss) (l : Nat) : Nat := 32 * i.band + l

/-- Free entries of a band's forward queue (01 R20). -/
def fqFree (g : Group) (b : Nat) : Nat :=
  match g.bands[b]? with
  | some x => 32 - x.fq.length
  | none => 0

/-- The dies of the cores a session holds, in ascending order (22 R438). -/
def State.diesOf (s : State) (slot : Nat) : List Nat := (List.range 4).filter fun d => (s.coresOf slot).any fun c => dieOf c == d

/-- The view a special register gives its reader (03 R66, 20 R338); `sel` selects the band of %fqfree in the lead stream. -/
def readSr (s : State) (i : Iss) (l n sel : Nat) : Nat :=
  let c := s.core i.core
  let d := i.launch.desc
  let x := i.group.lane i.band l
  let t := threadIndex i l
  let (gx, gy, gz) := d.coords i.group.index
  if i.lead && srThread n then 0
  else match n with
    | 0x000 => l
    | 0x001 => i.band
    | 0x002 => t % d.tx
    | 0x003 => t / d.tx % d.ty
    | 0x004 => t / (d.tx * d.ty)
    | 0x005 => gx
    | 0x006 => gy
    | 0x007 => gz
    | 0x008 => i.group.rank
    | 0x009 => if i.priv then i.core else c.rel
    | 0x00A => if i.priv then dieOf i.core else (s.diesOf i.sess.slot).idxOf (dieOf i.core)
    | 0x00B => if i.priv then i.sess.slot else i.sess.handle.toNat
    | 0x00C => if i.priv then i.launch.world.getD 0 else 0
    | 0x00D => i.sess.gen.toNat
    | 0x00E => if i.priv then c.clock.toNat else (c.clock - c.clockBase).toNat
    | 0x00F => fqFree i.group (if i.lead then sel % 32 else i.band)
    | 0x010 => i.group.bq.length
    | 0x011 => x.fpflags.toNat
    | 0x012 => x.dseed.toNat
    | 0x013 => x.dcount.toNat
    | 0x014 => x.size
    | 0x200 => i.sess.tvec.toNat
    | 0x201 => i.sess.tdeleg.toNat
    | 0x202 => i.sess.tring.toNat
    | 0x203 => i.sess.tringcap.toNat
    | 0x204 => x.trec.toNat
    | _ => b2n i.priv

def srIndex (f : IForm) : Nat := f.imm.toNat % 1024

def viewRdsr (f : IForm) (lead : Bool) : View :=
  let n := srIndex f
  { viewI 0xF2 ty0 f plain [if srWide n then .dpair f.d else .dst f.d, if lead && n == 0x00F then .src f.a else .off f.a] with
    priv := srPriv n, bad := badI f plain || decide (1024 ≤ f.imm.toNat) || !srAssigned n }

/-- `RDSR`. -/
def execRdsr (f : IForm) (s : State) : Result :=
  issue s (fun i => viewRdsr f i.lead) false false fun i en s =>
    let n := srIndex f
    perLane i en s (fun l => .ok (readSr s i l n (i.gReg f.a.idx.toNat).toNat)) fun t l v =>
      if srWide n then wr2 t i l f.d (BitVec.ofNat 64 v) else wr1 t i l .b32 f.d (BitVec.ofNat 32 v)

def viewWrsr (f : IForm) : View :=
  let n := srIndex f
  { viewI 0xF3 ty0 f plain [.off f.d, if srWide n then .pair f.a else .src f.a] with
    priv := srPriv n, bad := badI f plain || decide (1024 ≤ f.imm.toNat) || !srWritable n, leadBad := srThread n }

/-- The limits of the values of 20 R338. -/
def srLimit (n v : Nat) : Bool :=
  match n with
  | 0x200 => decide (v % 64 < 5)
  | 0x202 => v % 4096 == 0
  | 0x203 => decide (6 ≤ v) && decide (v ≤ 16)
  | _ => true

/-- A session-held register written. -/
def State.writeSession (s : State) (slot n v : Nat) : State :=
  s.modSession slot fun x => match n with
    | 0x200 => { x with tvec := BitVec.ofNat 64 v }
    | 0x201 => { x with tdeleg := BitVec.ofNat 32 (v % 65536 / 2 * 2) }
    | 0x202 => { x with tring := BitVec.ofNat 64 v }
    | 0x203 => { x with tringcap := BitVec.ofNat 8 v }
    | _ => x

/-- A thread-held register written. -/
def Lane.writeSr (x : Lane) (n v : Nat) : Lane :=
  match n with
  | 0x011 => { x with fpflags := BitVec.ofNat 5 v }
  | 0x012 => { x with dseed := BitVec.ofNat 64 v }
  | 0x013 => { x with dcount := BitVec.ofNat 32 v }
  | _ => x

/-- `WRSR`. A session-held register that several lanes write takes one of their values, which the spec does not name
(entry 16). -/
def execWrsr (f : IForm) (s : State) : Result :=
  issue s (fun _ => viewWrsr f) false false fun i en s =>
    let n := srIndex f
    match mapLanes (i.lanes en) (fun l => match if srWide n then (rd2 s i l f.a).map (·.toNat) else (rd1 s i l f.a).map (·.toNat) with
        | .error e => .error e
        | .ok v => if srLimit n v then .ok (l, v) else .error (if i.lead then illOp else illOpAt l)) with
    | .error e => .error e
    | .ok xs =>
      if srPriv n then
        let (k, t) := s.fresh
        let pick := Config.freeNat k % xs.length
        .ok (t.writeSession i.sess.slot n (xs.getD (if xs.length == 1 then 0 else pick) (0, 0)).2)
      else .ok (xs.foldl (fun t e => t.modLanes i (maskOf (· == e.1)) fun _ x => x.writeSr n e.2) s)

/-! ### 12 R283 -/

def viewTret (f : RForm) : View :=
  { viewR 0xF8 ty0 f plain [.off f.d, .src f.a, .off f.b, .off f.c] with priv := true }

def noHandler : Halt := .trap { mkTrap illegalInstr 4 with field := 8 }

/-- The lanes of a unit that a handler runs for: those of its fragment or band that hold a trap frame. -/
def handled (b : Band) (l0 : Nat) : LaneMask :=
  maskOf fun l => (b.partOf l0).getLsbD l && (b.lane l).live && (b.lane l).frame.isSome

/-- A lane as its trap frame has it, with its window's lower positions resident from `lo` on (20 R344). -/
def Lane.restore (x : Lane) (fr : TrapFrame) (lo : Nat) (fill : List Word) : Lane :=
  { x with
    k := fr.k, fpflags := fr.fpflags, base := fr.base, size := fr.size, pc := fr.pc, rep := fr.rep, frame := none, priv := false,
    trec := 0, lo := lo, status := .running, wait := .none, regs := spSetList x.regs lo fill, banks := spSetList x.banks lo fill }

/-- What a `TRET` brings back for one lane: LO and the positions the spill engine reads (03 R57). -/
def tretFill (s : State) (i : Iss) (l : Nat) (fr : TrapFrame) : Except Halt (Nat × Nat × TrapFrame × Nat × List Word) :=
  let x := i.group.lane i.band l
  let l' := max fr.base (fr.base + fr.size - i.launch.desc.blockRegs)
  let lo := if x.lo > l' then l' else x.lo
  (spillIn s i l lo x.lo).map fun ws => (l, x.base + x.size, fr, lo, ws)

/-- `TRET`: the trap frame returns and the action applies to the unit as a whole. Where its lanes hold different actions, it
is one of them, which the spec does not name (entry 17). -/
def execTret (f : RForm) (s : State) : Result :=
  issueHold s (fun _ => viewTret f) fun i en s =>
    let b := i.bandOf
    if i.lead || (lanesOf en).any fun l => (b.lane l).frame.isNone then .error noHandler
    else match mapLanes (lanesOf en) (fun l => match rd1 s i l f.a with
        | .error e => .error e
        | .ok v => if v.toNat ≤ 2 then .ok v.toNat else .error (illOpAt l)) with
    | .error e => .error e
    | .ok acts =>
      let l0 := (lanesOf en).headD 0
      let unit := handled b l0
      let code := ((b.lane l0).frame.map fun r => r.code.toNat).getD 0
      let acted := ((b.lane l0).frame.map fun r => r.lanes).getD 0
      match mapLanes (lanesOf unit) (fun l => match (b.lane l).frame with
          | some fr => tretFill s i l fr
          | none => .error noHandler) with
      | .error e => .error e
      | .ok rs =>
        let (k, s1) := s.fresh
        let action := if acts.all (· == acts.headD 0) then acts.headD 0 else acts.getD (Config.freeNat k % acts.length) 0
        let s2 := rs.foldl (fun (t : State) r =>
          let (l, top, fr, lo, ws) := r
          deadFill (t.modLanes i (maskOf (· == l)) fun _ x => x.restore fr lo ws) i l top (fr.base + fr.size)) s1
        .ok (s2.resumeUnit i.group (.lanes i.band unit)
          { mkTrap code 0 with acted := acted } action)

/-! ### 12 R284, R286 -/

def viewTlbinv (f : RForm) : View :=
  { viewR 0xF9 ty0 f plain [.off f.d, .pair f.a, .src f.b, .off f.c] with priv := true }

/-- One invalidation: the page, the session's entries, or every entry. -/
def State.tlbInv (s : State) (kind slot va : Nat) : State :=
  match kind with
  | 0 => s.tlbDropPage slot va
  | 1 =>
    { s with
      cores := s.cores.map fun (c : Core) => { c with tlb := c.tlb.filter fun (e : TlbEntry) => e.session != slot }
      tlb2 := s.tlb2.filter fun e => e.2.session != slot }
  | _ => { s with cores := s.cores.map (fun (c : Core) => { c with tlb := [] }), tlb2 := [] }

/-- `TLBINV`. -/
def execTlbinv (f : RForm) (s : State) : Result :=
  issue s (fun _ => viewTlbinv f) false false fun i en s =>
    perLane i en s (fun l => match rd2 s i l f.a, rd1 s i l f.b with
        | .ok a, .ok b =>
          let v := b.toNat
          if v % 4 == 3 || v / 4 % 2 ^ 14 != 0 || v / 65536 > 127 then .error (if i.lead then illOp else illOpAt l)
          else .ok (v % 4, v / 65536, a.toNat % 2 ^ 48)
        | .error e, _ => .error e
        | _, .error e => .error e)
      fun t _ v => .ok (t.tlbInv v.1 v.2.1 v.2.2)

def viewCflush (f : RForm) : View :=
  { viewR 0xFB ty0 f plain [.off f.d, .pair f.a, .src f.b, .off f.c] with priv := true }

/-- `CFLUSH`: the thread's earlier stores to pages that are not UN are performed first at the scope of its reach. At reach 0 and 1
the die's L2 holds them as they are made. -/
def execCflush (f : RForm) (s : State) : Result :=
  issue s (fun _ => viewCflush f) false false fun i en s =>
    perLane i en s (fun l => match rd2 s i l f.a, rd1 s i l f.b with
        | .ok a, .ok b =>
          let v := b.toNat
          if v % 4 == 3 || v / 4 % 4 == 3 || v / 16 != 0 then .error (if i.lead then illOp else illOpAt l)
          else .ok (v % 4, v / 4 % 4, a.toNat / 4096)
        | .error e, _ => .error e
        | _, .error e => .error e)
      fun t _ v => .ok ((if v.2.1 == 2 then (t.writeType 0 i.core).writeType 1 i.core else t).flush i.core v.1 v.2.1 v.2.2)

end Sys2Proof.Machine
end

