-- ==== Sys2Proof/Machine/Faults.lean ====
section
/-! DEFINITION. What follows a fault and what the base die does with pages: held records (20 R341, 21 R368), the answers of
the fault service (21 R369), TLB walks (21 R367), the copy-on-write unit (21 R374), the merge engine and the Hollyhock
directory (21 R370 to R375), and the dirty bitmap (21 R383). -/

namespace Sys2Proof.Machine

open Sys2Proof

/-! ### Units by their status -/

/-- The lanes of a band whose status satisfies `p`, with the same status as the lowest of them. -/
def Band.withStatus (b : Band) (p : Status → Bool) : Option (LaneMask × Status) :=
  match (List.range 32).find? fun l => p (b.lane l).status with
  | none => none
  | some l0 => some (maskOf fun l => (b.lane l).status == (b.lane l0).status, (b.lane l0).status)

/-- The status a unit stands at. -/
def statusOf (g : Group) (w : Who) : Status := match w with
  | .lanes b m => (g.lane b ((lanesOf m).headD 0)).status
  | .lead => g.lead.status
  | .stream n => (g.streams.getD n Stream.init).status

/-- All units of a group whose status satisfies `p`; lanes of a band that stand alike are one unit. -/
def Group.unitsWith (g : Group) (p : Status → Bool) : List Who :=
  let bandUnits (e : Band × Nat) : List Who :=
    let sts := ((e.1.lanes.map fun x => x.status).filter p).dedup
    sts.map fun st => .lanes e.2 (maskOf fun l => (e.1.lane l).status == st)
  (if p g.lead.status then [Who.lead] else []) ++ g.bands.zipIdx.flatMap bandUnits ++
  (g.streams.zipIdx.filter fun (e : Stream × Nat) => e.1.running && p e.1.status).map fun (e : Stream × Nat) => Who.stream e.2

/-- The unit of a reference with every lane of its band that stands alike. -/
def Group.widen (g : Group) (w : Who) : Who := match w with
  | .lanes b m => .lanes b (maskOf fun l => (g.lane b l).status == (g.lane b ((lanesOf m).headD 0)).status)
  | w => w

def Who.mask (w : Who) : LaneMask := match w with
  | .lanes _ m => m
  | _ => 1

/-- A unit set back to running, to take its trap again. -/
def State.rerun (s : State) (i : Iss) : State := s.setStatus i (Who.mask i.who) .running

/-- A trap that a unit holds taken again: its record is written now, and it is delivered. -/
def State.retake (s : State) (i : Iss) (t : Trap) : State :=
  let s1 := s.rerun i
  if t.code.toNat == pageFault && t.sub.getLsbD 2 then s1.deliver i (Who.mask i.who) t.acted ((i.group.band i.band).getD Band.absent) t
  else s1.recordTrap i t.acted t

/-- `TRAP_RECORD_WRITE`: a unit that holds a trap for want of a record slot. -/
def execTrapRecordWrite (u : UnitRef) (s : State) : Result :=
  match s.groupAt? u.core u.rgs with
  | none => .next s
  | some g => match statusOf g u.who, s.issOf u.core g.gid (g.widen u.who) with
    | .held t none, some i => .next (s.retake i t)
    | _, _ => .next s

/-- `FAULT_RECORD_WRITE`: a unit whose page fault found the fault ring full. -/
def execFaultRecordWrite (u : UnitRef) (s : State) : Result :=
  match s.groupAt? u.core u.rgs with
  | none => .next s
  | some g => match statusOf g u.who, s.issOf u.core g.gid (g.widen u.who) with
    | .heldFault t, some i => match s.faultBatch i.sess t.pages (t.sub.toNat % 4) false with
      | none => .next s
      | some (s1, k) => .next (s1.setStatus i (Who.mask i.who) (.faulted k t none))
    | _, _ => .next s

/-! ### The fault service's answers (21 R369) -/

/-- RESULT of the records of a batch in the fault ring: of the current generation. -/
def State.batchResults (s : State) (x : Session) (batch : Nat) : List Nat :=
  let ring := s.fring x
  let cap := 2 ^ s.fringCap x
  let w := s.dev0 ring 8
  (List.range (min w cap)).filterMap fun k =>
    let v := s.dev0 (ring + 64 + 32 * ((w - 1 - k) % cap)) 32
    if fld v 8 32 == batch % 2 ^ 32 && fld v 16 16 == x.gen.toNat then some (fld v 18 8) else none

/-- The answer to a batch: every record resolved, or one declined; none while it is pending. -/
def State.batchAnswer (s : State) (x : Session) (batch : Nat) : Option Bool :=
  let rs := s.batchResults x batch
  if rs.any (· == 2) then some false else if rs.isEmpty || !rs.all (· == 1) then none else some true

/-- A unit whose batch has been answered: it replays, or its trap is delivered as declined. -/
def State.answerUnit (s : State) (core gid : Nat) (ok : Bool) (w : Who) : State :=
  match s.issOf core gid w with
  | none => s
  | some i => match statusOf i.group w with
    | .faulted _ t _ =>
      if ok then s.rerun i
      else (s.rerun i).deliver i (Who.mask w) t.acted ((i.group.band i.band).getD Band.absent) { t with sub := t.sub ||| 4 }
    | .held t (some _) =>
      if ok then s.setStatus i (Who.mask w) (.held t none) else s.endLaunch i.sess.slot i.launch.number 3
    | _ => s

def Status.batch? : Status → Option Nat
  | .faulted b _ _ => some b
  | .held _ b => b
  | _ => none

/-- `FAULT_SERVICE_RESULT`: everything that waits on a batch goes on. -/
def execFaultServiceResult (session batch : Nat) (s : State) : Result :=
  match s.session? session with
  | none => .next s
  | some x => match s.batchAnswer x batch with
    | none => .next s
    | some ok =>
      let hit (f : Option Nat) : Bool := f == some batch
      let s1 : State :=
        { s with
          cmds := s.cmds.map fun (c : Cmd) =>
            if c.session == session && hit c.fault then { c with fault := none, declined := c.declined || !ok } else c
          nodes := s.nodes.map fun (n : Node) =>
            if n.session == session && hit n.fault then { n with fault := none, declined := n.declined || !ok } else n
          queues := s.queues.map fun (q : QueueCtx) =>
            if q.session == session && hit q.fault then { q with fault := none, declined := !ok } else q
          launches := s.launches.map fun (l : Launch) =>
            if l.session == session && hit l.complFault then { l with complFault := none, complLost := !ok } else l
          unitFaults := (s.unitFaults.filter fun (f : UnitFault) => !(ok && f.session == session && hit f.batch)).map
            fun (f : UnitFault) => if f.session == session && hit f.batch then { f with batch := none } else f }
      .next (((s.residents.filter fun e => e.2.session == session).flatMap fun e =>
          (e.2.unitsWith fun st => hit st.batch?).map fun w => (e.1, e.2.gid, w)).foldl
        (fun (t : State) e => t.answerUnit e.1 e.2.1 ok e.2.2) s1)

/-! ### TLBs (21 R367) -/

/-- An entry added in front, the oldest dropped at capacity. -/
def tlbAdd (cap : Nat) (es : List TlbEntry) (e : TlbEntry) : List TlbEntry :=
  if es.contains e then es else (e :: es.filter fun f => !(f.session == e.session && f.page == e.page && f.big == e.big)).take cap

/-- `TLB_WALK`: a leaf found by the walker, or by the die's TLB, is held by the core's TLB and the die's. -/
def execTlbWalk (core session : Nat) (va : Dword) (s : State) : Result :=
  match s.session? session with
  | none => .next s
  | some x =>
    let a := va.toNat % 2 ^ 48
    let die := dieOf core
    let second := (s.tlb2.filter fun e => e.1 == die).map (·.2)
    let leaf := match tlbFind second session a with
      | some l => some l
      | none => match s.walk x a with
        | .leaf l => some l
        | _ => none
    if (tlbFind (s.core core).tlb session a).isSome || 64 ≤ core then .next s
    else match leaf with
      | none => .next s
      | some l =>
        let e : TlbEntry := { session := session, page := if l.big then a / 2 ^ 21 else a / 4096, big := l.big
                              leaf := BitVec.ofNat 128 l.bits }
        .next { s.modCore core (fun c => { c with tlb := tlbAdd 1024 c.tlb e }) with
          tlb2 := (s.tlb2.filter fun (f : Nat × TlbEntry) => f.1 != die) ++ (tlbAdd 16384 second e).map fun (f : TlbEntry) => (die, f) }

/-- `COPY_ON_WRITE`: the copy-on-write unit serves one page of a session for some sub-pages. -/
def execCopyOnWrite (session : Nat) (va : Dword) (subs : BitVec 8) (s : State) : Result :=
  match s.session? session with
  | none => .next s
  | some x => match s.cowPage x none va subs.toNat with
    | .ok t => .next t
    | .error _ => .next s

/-! ### The merge engine (21 R371, R372) -/

def State.merges (s : State) (x : Session) : Bool := s.sdom x != 0 && bitOf (s.trecFlags x) 1

def State.regionCount (s : State) (x : Session) : Nat := s.dev0 (x.trec + 10) 2
def State.region (s : State) (x : Session) (r : Nat) : Nat := s.dev0 (x.trec + 64 + 16 * r) 16

/-- The region tables of every session, as a pass finds them at its start. -/
def State.regionTables (s : State) : List (Nat × List (Nat × Nat × Bool)) :=
  s.sessions.map fun x => (x.slot, (List.range (s.regionCount x)).map fun r =>
    let v := s.region x r
    (fld v 0 64, fld v 8 32, bitOf (fld v 12 32) 0))

/-- The regions of a session in the pass under way. -/
def MergePos.of (p : MergePos) (slot : Nat) : List (Nat × Nat × Bool) := (alGet? p.regions slot).getD []

/-- The first page of a session from a region and page on. -/
def MergePos.pageFrom (p : MergePos) (slot region page : Nat) : Option MergePos :=
  let rs := p.of slot
  if region < rs.length && decide (page < (rs.getD region (0, 0, false)).2.1) then some { p with session := slot, region := region, page := page }
  else if region + 1 < rs.length then some { p with session := slot, region := region + 1, page := 0 }
  else none

/-- The first page of the sessions from a slot on that are merged. -/
def State.firstPage (s : State) (p : MergePos) (lo hi : Nat) : Option MergePos :=
  ((List.range (hi - lo)).map (lo + ·)).findSome? fun n => match s.session? n with
    | some x => if s.merges x then p.pageFrom n 0 0 else none
    | none => none

/-- The page the engine visits next: from its position on, and after the last session from the first again, in a new pass. -/
def State.mergeNext (s : State) (p : MergePos) : Option MergePos :=
  match (s.session? p.session).bind fun x => if s.merges x then p.pageFrom x.slot p.region p.page else none with
  | some q => some q
  | none => match s.firstPage p (p.session + 1) 128 with
    | some q => some q
    | none => s.firstPage { p with regions := s.regionTables } 0 128

/-- The key of a share domain (23 R407). -/
def State.domainKey (s : State) (dom : Nat) : Option (BitVec 256) :=
  (s.vault.keys.find? fun k => k.domainKind && k.domain == dom && (k.st == .active || k.st == .retiring)).map (·.key)

def hhCap : Nat := 4194304

/-- The engine pushes a frame to the released-frames ring, or holds it until the ring has room (21 R375). -/
def State.pushLater (s : State) (frame : Nat) : State :=
  if s.relPending.isEmpty && s.ringRoom then s.release frame else { s with relPending := s.relPending ++ [frame] }

/-- The leaf of a page whose merge is under way, after the swap (21 R372 step 3). -/
def Merging.after (m : Merging) : Nat := m.leaf.toNat - m.old * 2 ^ 12 + m.frame * 2 ^ 12 + 2 ^ 11 + b2n m.wafter * 16

/-- Step 5: the count, the TLBs, the caches and the released frame. -/
def State.merged (s : State) (x : Session) (m : Merging) : State :=
  let dom := s.sdom x
  let s1 : State :=
    { s with hh := updFirst (fun (y : HhEntry) => y.domain == dom && y.frame == m.frame) (fun (y : HhEntry) => { y with count := y.count + 1 }) s.hh }
  let s2 := (((s1.tlbDropPage x.slot m.va).follow x.slot m.va (4096 * m.old) (4096 * m.frame) 4096).flush 0 2 2 m.old).pushLater m.old
  { s2 with ctrl := { s2.ctrl with merges := s2.ctrl.merges + 1 } }

/-- Step 4: a directory entry that step 2 made is removed, and its frame released. -/
def State.unmerged (s : State) (x : Session) (m : Merging) : State :=
  if m.made then
    ({ s with hh := s.hh.filter fun (y : HhEntry) => !(y.domain == s.sdom x && y.frame == m.frame) } : State).pushLater m.frame
  else s

/-- Steps 3 to 5: the swap of the leaf, which fails where the leaf is not the one read any more. A directory entry that another
party has dropped in the meantime skips the page too (entry 63). -/
def State.mergeSwap (s : State) (x : Session) (m : Merging) : State :=
  let t := { s with merging := none }
  if t.dev m.at_ 16 == some m.leaf.toNat && t.hh.any fun y => y.domain == t.sdom x && y.frame == m.frame then
    (t.devPutNum m.at_ 16 m.after).merged x m
  else t.unmerged x m

/-- Steps 1 and 2 on one considered page: the content frame that it may go into. A line that cannot be read ends the visit
(23 R413). -/
def State.mergeAt (s : State) (x : Session) (l : Leaf) (va : Nat) (wafter : Bool) : State :=
  let dom := s.sdom x
  let found (a : Nat) : State := s.tagCheck x (poisonTrap (BitVec.ofNat 64 va) (s.badIn x (linesOf a 4096)))
  match s.domainKey dom with
  | none => s
  | some k =>
    if s.poisoned x (4096 * l.pfn) 4096 then found (4096 * l.pfn)
    else
      let bs := s.phys.bytesAt (4096 * l.pfn) 4096
      let tag := cmac k bs
      let goes (t : State) (frame : Nat) (made : Bool) : State :=
        { t with merging := some { session := x.slot, va := va, old := l.pfn, at_ := l.at_, leaf := BitVec.ofNat 128 l.bits,
                                   wafter := wafter, tag := tag, frame := frame, made := made } }
      match s.hh.find? fun y => y.domain == dom && y.tag == tag with
      | some y =>
        if s.poisoned x (4096 * y.frame) 4096 then found (4096 * y.frame)
        else if s.phys.bytesAt (4096 * y.frame) 4096 == bs then goes s y.frame false
        else { s with ctrl := { s.ctrl with collide := incSat 65535 s.ctrl.collide } }
      | none =>
        if hhCap ≤ s.hh.length then { s with ctrl := { s.ctrl with full := incSat 255 s.ctrl.full } }
        else match s.poolNext (s.opool x) (s.opoolCap x) with
          | none => s
          | some f =>
            let t := (s.poolTake (s.opool x)).copyPhys (some (s.domKey dom)) (.content dom) (4096 * l.pfn) (4096 * f) 4096
            goes { t with hh := t.hh ++ [{ domain := dom, tag := tag, frame := f, count := 0 }] } f true

/-- The engine's next page: steps 1 and 2. -/
def State.mergeVisit (s : State) : State :=
  match s.mergeNext s.mergePos with
  | none => s
  | some p => match s.session? p.session with
    | none => s
    | some x =>
      let r := (p.of x.slot).getD p.region (0, 0, false)
      let va := (r.1 + 4096 * p.page) % 2 ^ 48
      let s1 := { s with mergePos := { p with page := p.page + 1 } }
      match s.walk x va with
      | .leaf l => if !l.big && l.type == 0 && !l.w && !l.content && l.omask == 0 then s1.mergeAt x l va r.2.2 else s1
      | _ => s1

/-- `MERGE_PAGE`: the engine reads its next page, or swaps the leaf of the page it has read; other parties may write between the
two. A page of a session that has gone is given up. -/
def execMergePage (s : State) : Result :=
  if !s.ctrl.mergeEn || !s.relPending.isEmpty then .next s
  else match s.merging with
    | none => .next s.mergeVisit
    | some m => match s.session? m.session with
      | none => .next { s with merging := none }
      | some x => .next (s.mergeSwap x m)

/-- `RELEASED_FRAME_PUSH`: a frame that the merge engine holds for the full released-frames ring. -/
def execReleasedFramePush (s : State) : Result :=
  match s.relPending with
  | [] => .next s
  | f :: fs => if s.ringRoom then .next { ({ s with relPending := [] } : State).release f with relPending := fs } else .next s

/-- `HH_DROP`: software has removed a content leaf (21 R373, R382). -/
def execHhDrop (s : State) : Result :=
  .next (s.dropRef (s.ctrl.hhDrop.toNat % 64) (bitsOf s.ctrl.hhDrop.toNat 51 12))

/-! ### The dirty bitmap (21 R383) -/

/-- `DBM_SWAP`: the buffers swap at once, or after the swap under way has completed. -/
def execDbmSwap (s : State) : Result :=
  if !s.ctrl.dbmSwap.getLsbD 0 then .next s
  else .next { s with
    ctrl := { s.ctrl with
      dbmActive := if s.ctrl.dbmPending == 0 then !s.ctrl.dbmActive else s.ctrl.dbmActive
      dbmPending := s.ctrl.dbmPending + 1 } }

/-- `DBM_SWAP_COMPLETE`: every mark of the old buffer has been written to memory. -/
def execDbmSwapComplete (s : State) : Result :=
  if s.ctrl.dbmPending == 0 then .next s
  else .next { s with
    ctrl := { s.ctrl with
      dbmSwaps := s.ctrl.dbmSwaps + 1
      dbmActive := if 1 < s.ctrl.dbmPending then !s.ctrl.dbmActive else s.ctrl.dbmActive
      dbmPending := s.ctrl.dbmPending - 1 } }

end Sys2Proof.Machine
end

