-- ==== Sys2Proof/Machine/FixedNodes.lean ====
section
/-! DEFINITION. The fixed-function nodes of the rendering work graph: the rasteriser (14 R302 to R305, R315), the blender
(14 R316) and the AV1 encoders (14 R317). -/

namespace Sys2Proof.Machine

open Sys2Proof

/-! ### Records that reach a node (14 R301, R302) -/

/-- Whether ring `r` holds the record its node consumes next: the first accepted among the rings that feed the node.
`same`: the rings of the node. -/
def State.isNext (s : State) (r : Ring) (same : Ring → Bool) : Bool :=
  match r.order with
  | [] => false
  | n :: _ => s.rings.all fun q => !same q || match q.order with
    | [] => true
    | m :: _ => decide (n ≤ m)

/-- The rings of one node descriptor. -/
def sameNode (r q : Ring) : Bool := q.session == r.session && q.kind == r.kind && q.consumer == r.consumer

/-- A record read: its slot is free. -/
def State.consume (s : State) (r : Ring) : State := s.modRing r fun q => { q with head := q.head + 1, order := q.order.drop 1 }

/-- The oldest record of a ring, padded with zeros to `n` bytes. -/
def recordOf (s : State) (x : Session) (r : Ring) (n : Nat) : Except Trap (List Byte) :=
  (s.accRead x false (r.slotAt r.head) (min n r.rsize)).map fun bs => bs ++ List.replicate (n - bs.length) 0

def nodeDesc (s : State) (x : Session) (r : Ring) : Except Trap Nat := (s.accRead x false r.consumer.toNat 64).map leNat

/-- A 64-bit counter in memory raised. -/
def addCounter (s : State) (x : Session) (a n : Nat) : Except Trap State :=
  if n == 0 then .ok s
  else match s.accRead x false a 8 with
    | .error t => .error t
    | .ok bs => s.accWrite x false a (toLE 8 ((leNat bs + n) % 2 ^ 64))

/-! ### The rasteriser -/

/-- A snapped coordinate: a multiple of 1/256 pixel inside the range of 14 R303. -/
def snap (w : Word) : Option Int :=
  match f32 w with
  | .fin s m e st =>
    let n := (roundInt 0 0 s m (e + 8) st).1
    if -4194304 ≤ n && n < 4194304 then some n else none
  | _ => none

/-- A triangle record. -/
structure Tri where
  xs : List Int
  ys : List Int
  /-- the nine words of the vertices -/
  verts : List Word
  prim : Nat
  attr : Nat
  flags : Nat
  deriving DecidableEq, Repr

def Tri.x (t : Tri) (k : Nat) : Int := t.xs.getD (k % 3) 0
def Tri.y (t : Tri) (k : Nat) : Int := t.ys.getD (k % 3) 0

/-- Twice the area, positive where the vertices run clockwise on the screen. -/
def Tri.area2 (t : Tri) : Int :=
  (List.range 3).foldl (fun a k => a + t.x k * t.y (k + 1) - t.x (k + 1) * t.y k) 0

/-- A record judged by the culling stage (14 R304). -/
def parseTri (ms : Nat) (bs : List Byte) : Option Tri :=
  let v := leNat bs
  let verts := (List.range 9).map fun k => BitVec.ofNat 32 (fld v (4 * k) 32)
  let flags := fld v 48 32
  let xs := [0, 3, 6].map fun k => snap (verts.getD k 0)
  let ys := [1, 4, 7].map fun k => snap (verts.getD k 0)
  let nanZ := [2, 5, 8].any fun k => (f32 (verts.getD k 0)).isNan
  if bitsOf flags 1 0 == 3 || bitsOf flags 31 16 != 0 || fld v 52 96 != 0 || b2n (bitOf flags 3) != ms || nanZ ||
     (xs ++ ys).any Option.isNone then none
  else
    let t : Tri := { xs := xs.map (·.getD 0), ys := ys.map (·.getD 0), verts := verts, prim := fld v 36 32, attr := fld v 40 64, flags := flags }
    -- Vulkan's a is −area2 / 2; a clockwise front face has a below zero
    let front := if bitOf flags 2 then decide (0 < t.area2) else decide (t.area2 < 0)
    if t.area2 == 0 || (bitsOf flags 1 0 == 1 && !front) || (bitsOf flags 1 0 == 2 && front) then none else some t

/-- Edge function `k` of a triangle at a point, positive inside. -/
def Tri.edge (t : Tri) (k : Nat) (px py : Int) : Int :=
  let e := (t.x (k + 1) - t.x k) * (py - t.y k) - (t.y (k + 1) - t.y k) * (px - t.x k)
  if 0 < t.area2 then e else Int.neg e

/-- Whether an edge is a top or a left edge. -/
def Tri.topLeft (t : Tri) (k : Nat) : Bool :=
  let dx := if 0 < t.area2 then t.x (k + 1) - t.x k else t.x k - t.x (k + 1)
  let dy := if 0 < t.area2 then t.y (k + 1) - t.y k else t.y k - t.y (k + 1)
  (dy == 0 && decide (0 < dx)) || decide (dy < 0)

/-- Coverage of a point, in 1/256 pixel (top-left rule). -/
def Tri.covers (t : Tri) (px py : Int) : Bool :=
  (List.range 3).all fun k => let e := t.edge k px py; decide (0 < e) || (e == 0 && t.topLeft k)

/-- Whether a triangle touches the square of a 32×32 bin: no side of either separates them. -/
def Tri.touches (t : Tri) (bx by_ : Nat) : Bool :=
  let x0 : Int := 8192 * bx
  let y0 : Int := 8192 * by_
  let lo (vs : List Int) : Int := vs.foldl min (vs.headD 0)
  let hi (vs : List Int) : Int := vs.foldl max (vs.headD 0)
  decide (lo t.xs < x0 + 8192) && decide (x0 ≤ hi t.xs) && decide (lo t.ys < y0 + 8192) && decide (y0 ≤ hi t.ys) &&
  (List.range 3).all fun k => [(x0, y0), (x0 + 8192, y0), (x0, y0 + 8192), (x0 + 8192, y0 + 8192)].any fun p =>
    decide (0 ≤ t.edge k p.1 p.2)

/-- Offsets of the samples of a pixel: the standard sample locations, in 1/256 pixel. -/
def samples (ms : Nat) : List (Int × Int) := if ms == 0 then [(128, 128)] else [(96, 32), (224, 96), (32, 160), (160, 224)]

/-- The linear interpolation of a triangle's depth at a point, as a quotient; none where a vertex's depth is infinite. -/
def Tri.depthAt (t : Tri) (px py : Int) : Option (FRes) :=
  let z (k : Nat) : Option Int := match f32 (t.verts.getD (3 * k + 2) 0) with
    | .fin s m e _ => let n : Int := m * 2 ^ (e + 149).toNat; some (if s then -n else n)
    | _ => none
  match z 0, z 1, z 2 with
  | some a, some b, some c =>
    let n := t.edge 1 px py * a + t.edge 2 px py * b + t.edge 0 px py * c
    some (fdivX (.fin (decide (n < 0)) n.natAbs (-149) false) (.fin false t.area2.natAbs 0 false))
  | _, _, _ => none

/-- Depth of a triangle at a sample (14 R303): one of the two FP32 values next to the interpolated one, inside the vertices' range, then
clamped to [0, 1]; which of the two is not given (entry 81). -/
def Tri.depth (t : Tri) (px py : Int) : Word :=
  let zs := [2, 5, 8].map fun k => t.verts.getD k 0
  let lt (a b : Word) : Bool := decide (fcmpX (f32 a) (f32 b) < 0)
  let lo := zs.foldl (fun a b => if lt b a then b else a) (zs.headD 0)
  let hi := zs.foldl (fun a b => if lt a b then b else a) (zs.headD 0)
  let d := match t.depthAt px py with
    | some q => BitVec.ofNat 32 (fmtF32.deliver (if Config.depthHigh t.verts px py then 3 else 2) .none false 0 q).bits
    | none => Config.depthOdd t.verts px py
  let d1 := if (f32 d).isNan || lt d lo then lo else if lt hi d then hi else d
  if lt d1 0 then 0 else if lt 0x3F800000 d1 then 0x3F800000 else d1

/-- Vulkan's compare operations, the new depth against the stored one. -/
def depthPass (op : Nat) (d z : Word) : Bool :=
  let c := fcmpX (f32 d) (f32 z)
  let un := (f32 d).isNan || (f32 z).isNan
  match op with
  | 0 => false
  | 1 => !un && decide (c < 0)
  | 2 => !un && c == 0
  | 3 => !un && decide (c ≤ 0)
  | 4 => !un && decide (0 < c)
  | 5 => un || c != 0
  | 6 => !un && decide (0 ≤ c)
  | _ => true

/-- What rasterising a bin gives: the depth tile by sample, the quads in order, and the counts. -/
structure BinOut where
  tile : Sparse 32
  quads : List (List Byte)
  passed : Nat
  occl : List (Nat × Nat)

/-- The rasteriser descriptor of a bin, with the bin's origin and its extent inside the target. -/
structure BinEnv where
  depth : Nat
  pitch : Nat
  w : Nat
  h : Nat
  stats : Nat
  occl : Nat
  qout : Nat
  ms : Nat
  x0 : Nat
  y0 : Nat

def binEnv (v bx by_ : Nat) : BinEnv :=
  { depth := fld v 0 64, pitch := fld v 8 32, w := fld v 12 16, h := fld v 14 16, stats := fld v 16 64, occl := fld v 24 64,
    qout := fld v 32 64, ms := fld v 40 8, x0 := 32 * bx, y0 := 32 * by_ }

def BinEnv.nsmp (e : BinEnv) : Nat := if e.ms == 0 then 1 else 4
def BinEnv.cols (e : BinEnv) : Nat := min 32 (e.w - e.x0)
def BinEnv.rows (e : BinEnv) : Nat := min 32 (e.h - e.y0)

/-- Place of a sample in the tile. -/
def BinEnv.at_ (e : BinEnv) (x y sm : Nat) : Nat := ((y - e.y0) * 32 + (x - e.x0)) * e.nsmp + sm

/-- One sample of a quad tested: whether it is covered and passes, with its depth. -/
def sampleTest (e : BinEnv) (t : Tri) (tile : Sparse 32) (x y sm : Nat) : Option Word :=
  let o := (samples e.ms).getD sm (0, 0)
  let px : Int := 256 * x + o.1
  let py : Int := 256 * y + o.2
  if x < e.w && y < e.h && t.covers px py then
    let d := t.depth px py
    if depthPass (bitsOf t.flags 6 4) d (spGet tile (e.at_ x y sm)) then some d else none
  else none

/-- One 2×2 quad of a triangle. -/
def quadStep (e : BinEnv) (t : Tri) (r : BinOut) (q : Nat × Nat) : BinOut :=
  let hits := (List.range 4).flatMap fun p => (List.range e.nsmp).filterMap fun sm =>
    (sampleTest e t r.tile (q.1 + p % 2) (q.2 + p / 2) sm).map fun d => (4 * p + sm, e.at_ (q.1 + p % 2) (q.2 + p / 2) sm, d)
  if hits.isEmpty then r
  else
    let cov := hits.foldl (fun a h => a + 2 ^ h.1) 0
    let tile := if bitOf t.flags 7 then hits.foldl (fun m h => spSet m h.2.1 h.2.2) r.tile else r.tile
    let quad := toLE 2 q.1 ++ toLE 2 q.2 ++ toLE 2 cov ++ toLE 2 0 ++ toLE 4 t.prim ++ toLE 4 0 ++ toLE 8 t.attr ++ toLE 8 0
    let slot := bitsOf t.flags 15 8
    { tile := tile, quads := r.quads ++ [quad], passed := r.passed + hits.length
      occl := if slot == 0 then r.occl else alSet r.occl slot ((alGet? r.occl slot).getD 0 + hits.length) }

/-- The quads of a bin inside the target, in ascending y and then x. -/
def binQuads (e : BinEnv) : List (Nat × Nat) :=
  (List.range ((e.rows + 1) / 2)).flatMap fun y => (List.range ((e.cols + 1) / 2)).map fun x => (e.x0 + 2 * x, e.y0 + 2 * y)

/-- A triangle put in its place by primitive index, after those accepted earlier with the same index. -/
def putByPrim (ts : List Tri) (t : Tri) : List Tri :=
  let (a, b) := ts.span fun u => decide (u.prim ≤ t.prim)
  a ++ t :: b

/-- A bin rasterised from its depth tile, in ascending primitive order. -/
def rasterBin (e : BinEnv) (tris : List (List Byte)) (tile : Sparse 32) : BinOut :=
  ((tris.filterMap (parseTri e.ms)).foldl putByPrim []).foldl (fun r t => (binQuads e).foldl (quadStep e t) r) { tile := tile, quads := [], passed := 0, occl := [] }

/-- The depth tile read from memory, row by row. -/
def readTile (s : State) (x : Session) (e : BinEnv) : Except Trap (Sparse 32) :=
  let n := e.nsmp * e.cols
  (mapE (fun y => s.accRead x false (e.depth + e.pitch * (e.y0 + y) + 4 * e.nsmp * e.x0) (4 * n)) (List.range e.rows)).map fun rows =>
    spOfFn (1024 * e.nsmp) fun k =>
      let y := k / (32 * e.nsmp)
      let c := k % (32 * e.nsmp)
      if c < n then BitVec.ofNat 32 (leNat (((rows.getD y []).drop (4 * c)).take 4)) else 0

/-- The depth tile written back. -/
def writeTile (s : State) (x : Session) (e : BinEnv) (tile : Sparse 32) : Except Trap State :=
  foldE (fun (t : State) y => t.accWrite x false (e.depth + e.pitch * (e.y0 + y) + 4 * e.nsmp * e.x0)
    ((List.range (e.nsmp * e.cols)).flatMap fun c => toLE 4 (spGet tile (32 * e.nsmp * y + c)).toNat)) s (List.range e.rows)

/-- The bins of a node's target a triangle touches. -/
def touchedBins (v : Nat) (t : Tri) : List (Nat × Nat) :=
  (List.range ((fld v 14 16 + 31) / 32)).flatMap fun y => ((List.range ((fld v 12 16 + 31) / 32)).map fun x => (x, y)).filter fun b =>
    t.touches b.1 b.2

/-- A triangle added to a bin. -/
def addToBin (sess : Nat) (node : Dword) (rec : List Byte) (bins : List Bin) (b : Nat × Nat) : List Bin :=
  let is (y : Bin) : Bool := y.session == sess && y.node == node && y.x == b.1 && y.y == b.2 && y.sent == 0
  if bins.any is then updFirst is (fun y => { y with tris := y.tris ++ [rec] }) bins
  else bins ++ [{ session := sess, node := node, x := b.1, y := b.2, tris := [rec], sent := 0, replays := 0 }]

/-- `TRIANGLE_RECORD`: a record culled, or binned (14 R304, R315). -/
def execTriangleRecord (ring : Nat) (s : State) : Result :=
  match s.rings[ring]? with
  | none => .next s
  | some r => match s.session? r.session with
    | none => .next s
    | some x =>
      if r.kind != 1 || !s.isNext r (sameNode r) then .next s
      else .next (s.unitRun x 1 (fun u =>
        match nodeDesc u x r, recordOf u x r 64 with
        | .ok v, .ok bs =>
          let stats := fld v 16 64
          match addCounter (u.consume r) x stats 1 with
          | .error t => .error t
          | .ok u1 => match parseTri (fld v 40 8) bs with
            | none => addCounter u1 x (stats + 8) 1
            | some t => .ok { u1 with bins := (touchedBins v t).foldl (addToBin r.session r.consumer bs) u1.bins }
        | .error t, _ => .error t
        | _, .error t => .error t) fun u => u.consume r)

/-- The quads of a bin the output takes, in order, from `sent` on: how many have then been accepted. -/
def sendQuads (x : Session) (q : Ring) : List (List Byte) → State → Nat → State × Nat × Option Trap
  | [], s, n => (s, n, none)
  | b :: bs, s, n =>
    match s.rings.find? fun r => r.session == q.session && r.launch == q.launch && r.desc == q.desc with
    | none => (s, n, none)
    | some r => match s.accept x false r 0 b none with
      | .ok t => sendQuads x q bs t (n + 1)
      | .fault t => (s, n, some t)
      | _ => (s, n, none)

/-- The ring a node sends quads to. -/
def quadRing (s : State) (sess : Nat) (desc : Nat) : Option Ring := s.rings.find? fun r => r.session == sess && r.desc == desc

/-- A failed access of the rasteriser for a bin, and whether it struck the bin's depth tile. -/
structure BinFault where
  tile : Bool
  trap : Trap

def atTile {α : Type} (r : Except Trap α) : Except BinFault α := r.mapError fun t => { tile := true, trap := t }
def besideTile {α : Type} (r : Except Trap α) : Except BinFault α := r.mapError fun t => { tile := false, trap := t }

/-- A bin carried as far as its output has room: the state, the quads sent, and what it has rasterised. -/
def runBin (s : State) (x : Session) (b : Bin) : Except BinFault (State × Nat × BinOut × BinEnv) :=
  match besideTile ((s.accRead x false b.node.toNat 64).map leNat) with
  | .error t => .error t
  | .ok v =>
    let e := binEnv v b.x b.y
    match atTile (readTile s x e) with
    | .error t => .error t
    | .ok tile =>
      let r := rasterBin e b.tris tile
      match quadRing s b.session e.qout with
      | none => .ok (s, r.quads.length, r, e)
      | some q => match sendQuads x q (r.quads.drop b.sent) s b.sent with
        | (_, _, some t) => besideTile (.error t)
        | (s1, n, none) => .ok (s1, n, r, e)

/-- The counts of a bin added to the statistics block and the occlusion array. All of them, its replays too, are held per bin and
added at its commit (14 R315). -/
def binCounts (s : State) (x : Session) (b : Bin) (r : BinOut) (e : BinEnv) : Except Trap State :=
  foldE (fun (t : State) (c : Nat × Nat) => addCounter t x c.1 c.2) s
    ([(e.stats + 16, b.tris.length), (e.stats + 24, r.quads.length), (e.stats + 32, r.passed), (e.stats + 40, 1),
      (e.stats + 48, b.replays)] ++
     if e.occl == 0 then [] else r.occl.map fun o => (e.occl + 8 * (o.1 - 1), o.2))

/-- A bin whose square has no older bin: it is rasterised next there. -/
def State.binFirst (s : State) (bin : Nat) (b : Bin) : Bool :=
  (s.bins.take bin).all fun y => !(y.session == b.session && y.node == b.node && y.x == b.x && y.y == b.y)

/-- One replay of a bin counted, from quad `sent` on. -/
def State.replay (s : State) (b : Bin) (sent : Nat) : State :=
  { s with bins := updFirst (fun y => y == b) (fun y => { y with replays := y.replays + 1, sent := sent }) s.bins }

/-- What the rasteriser does for a bin; a fault that strikes its depth tile makes it a replay (14 R315). The rasteriser carries a bin
through in one step, so that no pre-emption finds a bin under way whose counts and depth writes it would discard (entry 87). -/
def State.binRun (s : State) (x : Session) (b : Bin) (act : State → Except BinFault State) : State :=
  if s.unitBlocked x.slot 1 then s
  else match act s with
    | .ok s1 => s1.unitClear x.slot 1
    | .error e =>
      let struck (v : State) : State := if e.tile then v.replay b b.sent else v
      let u := s.unitRun x 1 (fun _ => .error e.trap) struck
      if s.unitFaults.length < u.unitFaults.length then struck u else u

/-- `BIN_COMMIT`: every quad has found room; the depth tile is written back and then the counts are added. -/
def execBinCommit (bin : Nat) (s : State) : Result :=
  match s.bins[bin]? with
  | none => .next s
  | some b => match s.session? b.session with
    | none => .next s
    | some x =>
      if !s.binFirst bin b then .next s
      else .next (s.binRun x b fun u => match runBin u x b with
        | .error t => .error t
        | .ok (u1, n, r, e) =>
          if n < r.quads.length then .ok u
          else match atTile (writeTile u1 x e r.tile) with
            | .error t => .error t
            | .ok u2 => (besideTile (binCounts u2 x b r e)).map fun u3 => { u3 with bins := u3.bins.filter fun y => y != b })

/-- `BIN_REPLAY`: the output has no room for a quad, or the depth tile faults; the bin starts again, past the quads the
output has taken. -/
def execBinReplay (bin : Nat) (s : State) : Result :=
  match s.bins[bin]? with
  | none => .next s
  | some b => match s.session? b.session with
    | none => .next s
    | some x =>
      if !s.binFirst bin b then .next s
      else .next (s.binRun x b fun u => match runBin u x b with
        | .error t => .error t
        | .ok (u1, n, r, _) =>
          if n < r.quads.length then .ok (u1.replay b n) else .ok u)

/-! ### The blender (14 R302, R316) -/

def compBytes (c : Comp) : List Byte := toLE 72 c.toBits.toNat

/-- Every pixel of a blender's target, in row order. -/
def pixels (v : Nat) : List (Nat × Nat) :=
  (List.range (fld v 14 16)).flatMap fun y => (List.range (fld v 12 16)).map fun x => (x, y)

def accAt (v x y : Nat) : Nat := fld v 24 64 + 72 * (fld v 12 16 * y + x)

/-- Every accumulator prepared with logging off. -/
def blendInit (s : State) (x : Session) (v : Nat) : Except Trap State :=
  foldE (fun (t : State) (p : Nat × Nat) => t.accWrite x false (accAt v p.1 p.2) (compBytes (Comp.init false))) s (pixels v)

/-- The accumulators prepared before the launch's first record. -/
def blendStart (s : State) (x : Session) (r : Ring) (v : Nat) : Except Trap State :=
  let key := (r.session, r.launch, r.consumer.toNat)
  if s.blended.contains key then .ok s
  else (blendInit s x v).map fun t => { t with blended := t.blended ++ [key] }

/-- A flush record has all ones in x and y. -/
def isFlush (bs : List Byte) : Bool := leNat (bs.take 4) == 0xFFFFFFFF

/-- One splat (14 R316); outside the target it is discarded. -/
def splat (s : State) (x : Session) (v : Nat) (bs : List Byte) : Except Trap State :=
  let px := leNat (bs.take 2)
  let py := leNat ((bs.drop 2).take 2)
  let w (k : Nat) : Word := BitVec.ofNat 32 (leNat ((bs.drop (4 + 4 * k)).take 4))
  if fld v 12 16 ≤ px || fld v 14 16 ≤ py then .ok s
  else match s.accRead x false (accAt v px py) 72 with
    | .error t => .error t
    | .ok old =>
      let c := ((Comp.ofBits (BitVec.ofNat 576 (leNat old))).add (BitVec.ofNat 32 (fld v 16 32)) (fun _ => false) (w 0) [w 1, w 2, w 3, w 4]).1
      s.accWrite x false (accAt v px py) (compBytes c)

/-- Every pixel resolved to the target, and its accumulator prepared again. -/
def flushAll (s : State) (x : Session) (v : Nat) : Except Trap State :=
  foldE (fun (t : State) (p : Nat × Nat) => match t.accRead x false (accAt v p.1 p.2) 72 with
    | .error e => .error e
    | .ok old =>
      let c := ((Comp.ofBits (BitVec.ofNat 576 (leNat old))).flush (BitVec.ofNat 32 (fld v 16 32)) fun _ => false).1
      match t.accWrite x false (fld v 0 64 + fld v 8 32 * p.2 + 16 * p.1) ([c.cr, c.cg, c.cb, c.t].flatMap fun w => toLE 4 w.toNat) with
      | .error e => .error e
      | .ok t1 => t1.accWrite x false (accAt v p.1 p.2) (compBytes (Comp.init false))) s (pixels v)

/-- A record of a blender ring: `flush` says which kind the step consumes. -/
def blendRecord (s : State) (ring : Nat) (flush : Bool) : State :=
  match s.rings[ring]? with
  | none => s
  | some r => match s.session? r.session with
    | none => s
    | some x =>
      if r.kind != 2 || !s.isNext r (sameNode r) then s
      else s.unitRun x 2 (fun u =>
        match nodeDesc u x r, recordOf u x r 32 with
        | .ok v, .ok bs =>
          if isFlush bs != flush then .ok u
          else match blendStart u x r v with
            | .error t => .error t
            | .ok u1 => (if flush then flushAll u1 x v else splat u1 x v bs).map fun u2 => u2.consume r
        | .error t, _ => .error t
        | _, .error t => .error t) fun u => u.consume r

/-- `SPLAT_RECORD`. -/
def execSplatRecord (ring : Nat) (s : State) : Result := .next (blendRecord s ring false)

/-- `FLUSH_RECORD`. -/
def execFlushRecord (ring : Nat) (s : State) : Result := .next (blendRecord s ring true)

/-! ### The encoders (14 R317) -/

/-- The engine an encoder ring names. -/
def encEngine (s : State) (r : Ring) : Except Trap (Option Nat) :=
  if r.kind != 3 then .ok none
  else match s.session? r.session with
    | none => .ok none
    | some x => (s.accRead x false r.consumer.toNat 64).map fun bs => some (fld (leNat bs) 0 8)

/-- Whether a ring names an engine. One whose descriptor cannot be read now may: a record that it holds is not overtaken. -/
def feedsEngine (s : State) (n : Nat) (r : Ring) : Bool := match encEngine s r with
  | .ok m => m == some n
  | .error _ => true

/-- `FRAME_RECORD`: an idle engine takes the next frame record. -/
def execFrameRecord (ring : Nat) (s : State) : Result :=
  match s.rings[ring]? with
  | none => .next s
  | some r => match s.session? r.session with
    | none => .next s
    | some x => match encEngine s r with
      | .ok none => .next s
      | .error t => if r.order.isEmpty then .next s else .next (s.unitRun x 3 (fun _ => .error t) fun u => u.consume r)
      | .ok (some n) =>
        if (s.encoders.any fun f => f.engine == n) || !s.isNext r (feedsEngine s n) then .next s
        else .next (s.unitRun x 3 (fun u => (recordOf u x r 64).map fun bs =>
            { u.consume r with encoders := u.encoders ++ [{ engine := n, session := r.session, record := bs }] }) fun u => u.consume r)

/-- The limits of a frame record. -/
def frameOk (v : Nat) : Bool :=
  let c := fld v 36 32
  fld v 0 64 % 256 == 0 && fld v 8 64 % 256 == 0 && fld v 16 32 % 256 == 0 && decide (64 ≤ fld v 20 16) && decide (fld v 20 16 ≤ 4096) &&
  fld v 20 16 % 8 == 0 && decide (64 ≤ fld v 22 16) && decide (fld v 22 16 ≤ 2304) && fld v 22 16 % 8 == 0 && bitsOf c 31 12 == 0 &&
  bitsOf c 3 2 ≤ 1 && fld v 44 32 == 0

/-- The rows of a plane. -/
def plane (s : State) (x : Session) (a pitch w h : Nat) : Except Trap (List Byte) :=
  (mapE (fun y => s.accRead x false (a + pitch * y) w) (List.range h)).map List.flatten

/-- The completion word of a frame. -/
def writeDone (s : State) (x : Session) (v bytes status : Nat) : Except Trap State :=
  s.accWrite x false (fld v 48 64) (toLE 4 bytes ++ toLE 1 status ++ toLE 3 0)

/-- What an engine has encoded since module reset, oldest frame first. -/
def State.encHistory (s : State) (engine : Nat) : List (List Byte) := (s.encDone.filter fun e => e.1 == engine).map (·.2)

/-- A size in the code of AV1's low-overhead format: seven bits a byte, the lowest first. -/
def leb128 : Nat → Nat → List Byte
  | 0, _ => []
  | fuel + 1, n => if n < 128 then [BitVec.ofNat 8 n] else BitVec.ofNat 8 (n % 128 + 128) :: leb128 fuel (n / 128)

/-- A unit of the low-overhead format: its header byte, its size and its payload. -/
def obu (type : Nat) (payload : List Byte) : List Byte := BitVec.ofNat 8 (8 * type + 2) :: leb128 10 payload.length ++ payload

/-- A payload whose first `n` bits are `v`. -/
def startsWith (n v : Nat) (bs : List Byte) : List Byte :=
  BitVec.ofNat 8 (v * 2 ^ (8 - n) + (bs.headD 0).toNat % 2 ^ (8 - n)) :: bs.drop 1

/-- The temporal unit of a frame (14 R317): a temporal delimiter, a sequence header of the Main profile before a key frame, and one
shown frame, which is a key frame where the record forces it or the engine has nothing to refer to. -/
def temporalUnit (past : List (List Byte)) (record planes : List Byte) : List Byte :=
  let key := bitOf (fld (leNat record) 36 32) 1 || past.isEmpty || Config.av1Key past record
  obu 2 [] ++ (if key then obu 1 (startsWith 5 0 (Config.av1 0 past record planes)) else []) ++
    obu 6 (startsWith 4 (if key then 1 else 3) (Config.av1 1 past record planes))

/-- A frame encoded: the bytes, then DONE. The unit depends on the frames the engine has encoded before (entry 9). -/
def encode1 (s : State) (x : Session) (engine : Nat) (record : List Byte) : Except Trap State :=
  let v := leNat record
  let free := Config.freeNat s.freeCtr % 2 ^ 32
  if !frameOk v then writeDone s x v 0 1
  else
    let w := fld v 20 16 * (if bitOf (fld v 36 32) 0 then 2 else 1)
    let h := fld v 22 16
    match plane s x (fld v 0 64) (fld v 16 32) w h, plane s x (fld v 8 64) (fld v 16 32) w (h / 2) with
    | .ok l, .ok c =>
      let out := temporalUnit (s.encHistory engine) record (l ++ c)
      let past (t : State) : State := { t with encDone := t.encDone ++ [(engine, record ++ (l ++ c))] }
      if fld v 32 32 < out.length then
        match s.accWrite x false (fld v 24 64) ((List.range (fld v 32 32)).map fun k => Config.freeByte (s.freeCtr + k)) with
        | .error t => .error t
        | .ok s1 => (writeDone s1 x v free 2).map past
      else match s.accWrite x false (fld v 24 64) out with
        | .error t => .error t
        | .ok s1 => (writeDone s1 x v out.length 0).map past
    | .error t, _ => .error t
    | _, .error t => .error t

/-- `ENCODE_DONE`. -/
def execEncodeDone (engine : Nat) (s : State) : Result :=
  match s.encoders.find? fun f => f.engine == engine with
  | none => .next s
  | some f =>
    let drop (u : State) : State := { u with encoders := u.encoders.filter fun g => g.engine != engine, freeCtr := u.freeCtr + 1 }
    match s.session? f.session with
    | none => .next (drop s)
    | some x => .next (s.unitRun x 3 (fun u => (encode1 u x engine f.record).map drop) fun u =>
        drop (match writeDone u x (leNat f.record) (Config.freeNat u.freeCtr % 2 ^ 32) 3 with
          | .ok u1 => u1
          | .error _ => u))

end Sys2Proof.Machine
end

