-- ==== Sys2Proof/Machine/Lanes.lean ====
section
/-! DEFINITION. Lane data movement (09 R185 to R189); `LFOLD` and `LPFX` stand with the floating-point operations. -/

namespace Sys2Proof.Machine

open Sys2Proof

/-- Modifiers of OP 0x60 to 0x64: only SEG. -/
def segMods : Mods := { seg := true }

/-- SEG of an R form and of an I form. -/
def segR (f : RForm) : Nat := f.low.toNat / 256 % 8
def segI (f : IForm) : Nat := f.low.toNat / 256 % 8

/-- Width of a segment and the first lane of a lane's segment (09 R185). -/
def segW (seg : Nat) : Nat := 32 >>> seg
def segLo (seg l : Nat) : Nat := l / segW seg * segW seg

/-- A source lane's register (09 R185): zero for a tail lane or one whose window does not include it. -/
def laneVal (s : State) (i : Iss) (ty : Ty) (sp : Spec) (l : Nat) : Except Halt Nat :=
  let x := i.group.lane i.band l
  let n := if tyWide ty then 2 else 1
  if sp.bank then rdT s i l ty sp
  else if x.status == .tail || x.size < sp.idx.toNat + n then .ok 0
  else rdT s i l ty sp

/-- Participating lanes of a lane's segment, ascending. -/
def segLanes (en : LaneMask) (seg l : Nat) : List Nat :=
  (List.range (segW seg)).filterMap fun j => if en.getLsbD (segLo seg l + j) then some (segLo seg l + j) else none

/-- The source lane of `LGET` for a lane whose b has this value (09 R186). -/
def lgetSrc (flip : Bool) (seg l : Nat) (b : Word) : Nat :=
  let n := b.toNat % 32 % segW seg
  if flip then l ^^^ n else segLo seg l + n

/-- `LGET` in both forms. -/
def lgetBody (flip : Bool) (ty : Ty) (seg : Nat) (d a : Spec) (b : Iss → State → Nat → Except Halt Word) : Body :=
  fun i en s => perLane i en s (fun l => match b i s l with
      | .error e => .error e
      | .ok v => laneVal s i ty a (lgetSrc flip seg l v))
    fun t l v => wrT t i l ty d v

def viewLget (f : AForm) : View :=
  { (match f with
    | .r f => viewR 0x60 [.b32, .b64] f segMods [.dstT f.ty f.d, .srcT f.ty f.a, .src f.b, .off f.c]
    | .i f => viewI 0x64 [.b32, .b64] f segMods [.dstT f.ty f.d, .srcT f.ty f.a]) with lead := false }

def lgetA (flip : Bool) (f : AForm) : Body := match f with
  | .r f => lgetBody flip f.ty (segR f) f.d f.a fun i s l => rd1 s i l f.b
  | .i f => lgetBody flip f.ty (segI f) f.d f.a fun _ _ _ => .ok f.imm

/-- `LGET.at`. -/
def execLgetAt (f : AForm) (s : State) : Result :=
  issue s (fun i => viewLget (strideA f i.rep)) false false fun i en s => lgetA false (strideA f i.rep) i en s

/-- `LGET.flip`. -/
def execLgetFlip (f : AForm) (s : State) : Result :=
  issue s (fun i => viewLget (strideA f i.rep)) false false fun i en s => lgetA true (strideA f i.rep) i en s

def viewLsh (f : RForm) : View :=
  { viewR 0x60 [.b32, .b64] f segMods [.dstT f.ty f.d, .srcT f.ty f.a, .src f.b, .srcT f.ty f.c] with lead := false }

/-- The source lane of a shift by `n` lanes, if it lies in the segment (09 R187). -/
def lshSrc (up : Bool) (seg l n : Nat) : Option Nat :=
  let lo := segLo seg l
  if up then (if lo + n ≤ l then some (l - n) else none) else (if l + n < lo + segW seg then some (l + n) else none)

def lshBody (up : Bool) (f : RForm) : Body := fun i en s =>
  perLane i en s (fun l => match rd1 s i l f.b with
      | .error e => .error e
      | .ok b => match lshSrc up (segR f) l (min (b.toNat % 64) 32) with
        | some m => laneVal s i f.ty f.a m
        | none => rdT s i l f.ty f.c)
    fun t l v => wrT t i l f.ty f.d v

/-- `LSHUP`. -/
def execLshup (f : RForm) (s : State) : Result :=
  issue s (fun i => viewLsh (strideR f i.rep)) false false fun i en s => lshBody true (strideR f i.rep) i en s

/-- `LSHDN`. -/
def execLshdn (f : RForm) (s : State) : Result :=
  issue s (fun i => viewLsh (strideR f i.rep)) false false fun i en s => lshBody false (strideR f i.rep) i en s

def viewKpoll (f : RForm) : View :=
  { viewR 0x61 [.b32] f segMods [.mask f.d, .off f.a, .mask f.b, .off f.c] with lead := false }

def viewKpollWord (f : RForm) : View :=
  { viewR 0x61 [.b32] f segMods [.dst f.d, .off f.a, .mask f.b, .off f.c] with lead := false }

/-- `KPOLL.all`: 1 where every participating lane of the segment has the bit (09 R188). -/
def execKpollAll (f : RForm) (s : State) : Result :=
  issue s (fun i => viewKpoll (strideR f i.rep)) false false fun i en s =>
    perLane i en s (fun l => .ok ((segLanes en (segR f) l).all fun m => i.kAt m f.b.idx.toNat))
      fun t l v => .ok (t.wrK i l f.d.idx.toNat v)

/-- `KPOLL.any`. -/
def execKpollAny (f : RForm) (s : State) : Result :=
  issue s (fun i => viewKpoll (strideR f i.rep)) false false fun i en s =>
    perLane i en s (fun l => .ok ((segLanes en (segR f) l).any fun m => i.kAt m f.b.idx.toNat))
      fun t l v => .ok (t.wrK i l f.d.idx.toNat v)

/-- `KPOLL.word`. -/
def execKpollWord (f : RForm) (s : State) : Result :=
  issue s (fun i => viewKpollWord (strideR f i.rep)) false false fun i en s =>
    let f := strideR f i.rep
    perLane i en s (fun l => .ok (maskOf fun m => (segLanes en (segR f) l).contains m && i.kAt m f.b.idx.toNat))
      fun t l v => wr1 t i l .b32 f.d v

def viewLpeer (f : RForm) : View :=
  { viewR 0x61 [.b32, .b64] f segMods [.dst f.d, .srcT f.ty f.a, .off f.b, .off f.c] with lead := false }

/-- The values of a over the participating lanes of a lane's segment. -/
def segVals (s : State) (i : Iss) (en : LaneMask) (ty : Ty) (seg : Nat) (a : Spec) (l : Nat) :
    Except Halt (List (Nat × Nat)) :=
  mapE (fun m => (rdT s i m ty a).map fun v => (m, v)) (segLanes en seg l)

/-- `LPEER.eq` (09 R189). -/
def execLpeerEq (f : RForm) (s : State) : Result :=
  issue s (fun i => viewLpeer (strideR f i.rep)) false false fun i en s =>
    let f := strideR f i.rep
    perLane i en s (fun l => match segVals s i en f.ty (segR f) f.a l, rdT s i l f.ty f.a with
        | .ok vs, .ok v => .ok (maskOf fun m => vs.contains (m, v))
        | .error e, _ => .error e
        | _, .error e => .error e)
      fun t l v => wr1 t i l .b32 f.d v

/-- `LPEER.uni`. -/
def execLpeerUni (f : RForm) (s : State) : Result :=
  issue s (fun i => viewLpeer (strideR f i.rep)) false false fun i en s =>
    let f := strideR f i.rep
    perLane i en s (fun l => (segVals s i en f.ty (segR f) f.a l).map fun vs =>
        if vs.all fun x => some x.2 == vs.head?.map (·.2) then maskOf fun m => vs.any fun x => x.1 == m else 0)
      fun t l v => wr1 t i l .b32 f.d v

end Sys2Proof.Machine
end

