-- ==== Sys2Proof/Machine/Fold.lean ====
section
/-! DEFINITION. Folds and prefixes over the lanes of a segment, OP 0x62 and 0x63 (09 R190, R191). -/

namespace Sys2Proof.Machine

open Sys2Proof

/-- One step of a fold: the running value, an operand, and the flags so far. -/
def foldStep (x : FoldOp) (t : Ty) (acc : Nat × Nat) (v : Nat) : Nat × Nat :=
  let w := (tyElem t).1
  let sg := tySigned t
  let less := decide (elemInt sg w acc.1 < elemInt sg w v)
  let fl (r : FRes) : Nat × Nat :=
    let o := fmtF32.deliver 0 .none false 0 r
    (o.bits, acc.2 ||| o.fl)
  match x with
  | .add => if t == .f32 then fl (faddX false (fmtF32.decode acc.1) (fmtF32.decode v)) else ((acc.1 + v) % 2 ^ w, acc.2)
  | .min => if t == .f32 then fl (fminX false (fmtF32.decode acc.1) (fmtF32.decode v)) else (if less then acc.1 else v, acc.2)
  | .max => if t == .f32 then fl (fminX true (fmtF32.decode acc.1) (fmtF32.decode v)) else (if less then v else acc.1, acc.2)
  | .and => (acc.1 &&& v, acc.2)
  | .or => (acc.1 ||| v, acc.2)
  | .xor => (acc.1 ^^^ v, acc.2)

/-- Values combined in ascending lane order; the result and the flags of every step. A single value is delivered as it is
(entry 70). -/
def foldVals (x : FoldOp) (t : Ty) : List Nat → Nat × Nat
  | [] => (0, 0)
  | v :: vs => vs.foldl (foldStep x t) (v, 0)

/-- Types of a fold: min and max need a signedness; bitwise operations take integers. -/
def foldTys : FoldOp → List Ty
  | .add => i32 ++ i64 ++ [.f32]
  | .min => [.s32, .n32, .s64, .n64, .f32]
  | .max => [.s32, .n32, .s64, .n64, .f32]
  | .and => i32 ++ i64
  | .or => i32 ++ i64
  | .xor => i32 ++ i64

def viewLfold (x : FoldOp) (f : RForm) : View :=
  { viewR 0x62 (foldTys x) f segMods [.dstT f.ty f.d, .srcT f.ty f.a, .off f.b, .off f.c] with lead := false }

/-- The fold over the participating lanes of a lane's segment that satisfy `p`. -/
def foldBody (x : FoldOp) (f : RForm) (p : Nat → Nat → Bool) : Body := fun i en s =>
  perLane i en s (fun l => (segVals s i en f.ty (segR f) f.a l).map fun vs =>
      foldVals x f.ty ((vs.filter fun v => p l v.1).map (·.2)))
    fun t l r => (wrT t i l f.ty f.d r.1).map fun t1 => t1.settle i l r.2 0

/-- `LFOLD`. -/
def execLfold (x : FoldOp) (f : RForm) (s : State) : Result :=
  issue s (fun i => viewLfold x (strideR f i.rep)) false false fun i en s =>
    foldBody x (strideR f i.rep) (fun _ _ => true) i en s

def pfxFold : PfxOp → FoldOp
  | .add => .add
  | .min => .min
  | .max => .max

def viewLpfx (x : PfxOp) (f : RForm) : View :=
  { viewR 0x63 (if x == .add then i32 ++ [.f32] else [.s32, .n32, .f32]) f segMods
      [.dst f.d, .src f.a, .off f.b, .off f.c] with lead := false }

/-- `LPFX`: each lane folds the lanes up to and including itself. -/
def execLpfx (x : PfxOp) (f : RForm) (s : State) : Result :=
  issue s (fun i => viewLpfx x (strideR f i.rep)) false false fun i en s =>
    foldBody (pfxFold x) (strideR f i.rep) (fun l m => decide (m ≤ l)) i en s

end Sys2Proof.Machine
end

