-- ==== Sys2Proof/Machine/Fork.lean ====
section
/-! DEFINITION. `FORK` (12 R285, 21 R376, R377, 22 R387, 25 R429 to R431). -/

namespace Sys2Proof.Machine

open Sys2Proof

/-! ### The template's tables -/

/-- Tables and list frames for private pages and overlays under a table at the first of the given levels. -/
def State.countTables (s : State) : List Nat → Nat → Nat × Nat
  | [], _ => (0, 0)
  | _ :: ns, table =>
    (List.range 512).foldl (fun (acc : Nat × Nat) i =>
      let e := s.dev0 (table + 16 * i) 16
      if !bitOf e 0 then acc
      else if bitOf e 2 then (acc.1, acc.2 + b2n (!bitOf e 11) + b2n (bitsOf e 87 80 != 0))
      else
        let r := s.countTables ns (bitsOf e 51 13 * 2 ^ 13)
        (acc.1 + r.1, acc.2 + r.2)) (1, 0)

/-- A copy under way: the state, and the list frames not used yet. -/
structure ForkCopy where
  s : State
  tables : List Nat
  frames : List Nat

/-- Bytes copied under the new session's key; a line that the template cannot read leaves its copy poisoned, and is found out
(23 R413). -/
def State.copyFrame (s : State) (x : Session) (own : Owner) (src dst n : Nat) : State :=
  let bad := (linesOf src n).filter fun l => s.poisoned x (64 * l) 64
  let closed := (linesOf src n).filter fun l => !s.lineOpen x l
  let t := (closed.foldl (fun (u : State) l => u.tagCheck x (poisonTrap 0 (some l))) s).copyPhys (some own) .device src dst n
  { t with phys := { t.phys with poison := bad.foldl (fun p l => insNat p (l - src / 64 + dst / 64)) t.phys.poison } }

/-- A leaf's copy (21 R377 step 3): content shared, private pages and overlays copied into the next list frames. A private
2 MiB page is copied whole to the address its list entry gives (entry 19). -/
def ForkCopy.leaf (c : ForkCopy) (x : Session) (own : Owner) (dom e level : Nat) : ForkCopy × Nat :=
  let n := if level == 2 then 2 ^ 21 else 4096
  let (c1, e1) :=
    if bitOf e 11 then
      ({ c with s := { c.s with hh := updFirst (fun (h : HhEntry) => h.domain == dom && h.frame == bitsOf e 51 12)
                                         (fun (h : HhEntry) => { h with count := h.count + 1 }) c.s.hh } }, e)
    else
      let f := c.frames.headD 0
      ({ c with s := c.s.copyFrame x own (4096 * bitsOf e 51 12) f n, frames := c.frames.tail },
        e - bitsOf e 51 12 * 2 ^ 12 + f / 4096 % 2 ^ 40 * 2 ^ 12)
  if bitsOf e 87 80 == 0 then (c1, e1)
  else
    let f := c1.frames.headD 0
    ({ c1 with s := c1.s.copyFrame x own (4096 * bitsOf e 127 88) f 4096, frames := c1.frames.tail },
      e1 % 2 ^ 88 + f / 4096 % 2 ^ 40 * 2 ^ 88)

/-- Copies a table depth first, in ascending entry order. -/
def ForkCopy.table (x : Session) (own : Owner) (dom : Nat) : List Nat → Nat → Nat → ForkCopy → ForkCopy
  | [], _, _, c => c
  | n :: ns, src, dst, c =>
    (List.range 512).foldl (fun (c : ForkCopy) i =>
      let e := c.s.dev0 (src + 16 * i) 16
      let put (c : ForkCopy) (v : Nat) : ForkCopy := { c with s := c.s.devPutNum (dst + 16 * i) 16 v }
      if !bitOf e 0 then put c e
      else if bitOf e 2 then
        let r := c.leaf x own dom e n
        put r.1 r.2
      else
        let t := c.tables.headD 0
        let c1 := put { c with tables := c.tables.tail } (e - bitsOf e 51 13 * 2 ^ 13 + t / 8192 % 2 ^ 39 * 2 ^ 13)
        ForkCopy.table x own dom ns (bitsOf e 51 13 * 2 ^ 13) t c1) c

/-! ### The instruction -/

/-- Why a `FORK` creates nothing, or the session it creates. -/
inductive ForkCheck where
  | fails (status : Nat)
  | ok (slot : Nat) (template : Session) (tables frames : List Nat) (record : Nat)

/-- The limits of the fork descriptor itself. -/
def forkDescOk (v : Nat) : Bool :=
  fld v 0 64 % 256 == 0 && decide (fld v 0 64 + 256 ≤ lpddrSize) && fld v 32 64 % 4096 == 0 && fld v 40 64 % 4096 == 0 &&
  within 6 16 (fld v 50 8) && within 6 16 (fld v 51 8) && fld v 52 96 == 0

/-- A list of physical addresses that a descriptor names. -/
def readAddrs (s : State) (x : Session) (va n : Nat) : Option (List Nat) :=
  match s.sxRead x va (8 * n) with
  | .ok bs => some ((List.range n).map fun j => leNat ((bs.drop (8 * j)).take 8))
  | .error _ => none

/-- Whether a template may be forked now. -/
def State.forkable (s : State) (t : Session) : Bool :=
  t.st == .frozen && bitOf (s.trecFlags t) 0 && (s.coresOf t.slot).isEmpty && t.saved.isEmpty

/-- Every check, in the order of 21 R377. -/
def State.forkCheck (s : State) (x : Session) (a slot : Nat) : ForkCheck :=
  match if a % 64 == 0 then s.sxNum x a 64 else .error (mkTrap misaligned 0) with
  | .error _ => .fails 1
  | .ok v =>
    let t := s.session? slot
    let need := match t with
      | some t => s.countTables [0, 1, 2, 3] (s.ptRoot t)
      | none => (0, 0)
    match readAddrs s x (fld v 8 64) (fld v 16 32), readAddrs s x (fld v 24 64) (fld v 20 32) with
    | some tl, some pl =>
      if !forkDescOk v || tl.length < need.1 || pl.length < need.2 || (tl.any fun f => f % 8192 != 0) || (pl.any fun f => f % 4096 != 0) then
        .fails 1
      else match t with
        | none => .fails 2
        | some t =>
          if !s.forkable t then .fails 2
          else match s.freeSessionSlot with
            | none => .fails 3
            | some n =>
              let owned := (s.queuesOwned t.slot).length
              if ((List.range queueCount).filter fun q => s.queueUnused q).length < owned then .fails 3
              else match s.dev (s.recordAt n) 256 with
                | none => .fails 1
                | some r =>
                  if !recordOk r then .fails 1 else if s.freeWorld.isNone then .fails 4 else .ok n t tl pl r
    | _, _ => .fails 1

/-- A copy of a queue entry for a new owner (22 R387). -/
def queueCopy (v slot : Nat) : List Byte :=
  toLE 8 (qRing v) ++ toLE 16 0 ++ [BitVec.ofNat 8 (fld v 24 8), BitVec.ofNat 8 slot, BitVec.ofNat 8 (qPrio v), 1, 0, 0xFF] ++
  toLE 2 0 ++ toLE 4 (qWdog v) ++ toLE 28 0

/-- The session a `FORK` creates (21 R377, 25 R429). -/
def State.forkCreate (s : State) (v slot : Nat) (t : Session) (tables frames : List Nat) (record : Nat) : State :=
  let inc := s.nextIncarnation slot
  let y : Session :=
    { newSession slot record inc with
      handle := BitVec.ofNat 16 (fld v 48 16), trec := fld v 0 64, tensors := t.tensors, tvec := t.tvec, tdeleg := t.tdeleg,
      tring := t.tring, tringcap := t.tringcap, keySlot := t.keySlot, sessMeas := t.sessMeas, logCount := t.logCount }
  let unused := (List.range queueCount).filter fun q => s.queueUnused q
  let owned := (s.queuesOwned t.slot).map s.queueEntry
  let root := tables.headD 0
  -- the new translation record
  let old := s.dev0 t.trec 256
  let flags := fld old 9 8 - b2n (bitOf (fld old 9 8) 0) - 4 * b2n (bitOf (fld old 9 8) 2)
  let s1 := s.devPut (fld v 0 64) (toLE 8 root ++ toLE 1 (fld old 8 8) ++ toLE 1 flags ++ toLE 6 (fld old 10 48) ++
    toLE 8 (fld v 32 64) ++ toLE 1 (fld v 50 8) ++ toLE 7 (fld old 25 56) ++ toLE 8 (fld v 40 64) ++ toLE 1 (fld v 51 8) ++
    toLE 215 (fld old 41 1720))
  -- tables, private pages and overlays
  let c := ForkCopy.table t (s.memKey y) (s.sdom t) [0, 1, 2, 3] (s.ptRoot t) root { s := s1, tables := tables.tail, frames := frames }
  -- queues
  let s2 := (owned.zip unused).foldl (fun (u : State) e => u.devPut (u.queueAt e.2) (queueCopy e.1 slot)) c.s
  -- key slot, measurement and record
  let vault : Vault := match t.keySlot with
    | some k => { s2.vault with keys := updAt (fun (z : KeySlot) => { z with bindings := z.bindings + 1 }) s2.vault.keys k }
    | none => s2.vault
  let at_ := s2.recordAt slot
  (((({ s2 with vault := vault }).addSession (y.measure 2 t.sessMeas)).devPutNum (at_ + 4) 2 (fld v 48 16)).devPutNum (at_ + 16) 8
    (fld v 0 64)).postSession slot

/-- One `FORK`: the state and the result word. -/
def State.fork (s : State) (x : Session) (a slot : Nat) : State × Word :=
  match s.forkCheck x a slot with
  | .fails n => (s, BitVec.ofNat 32 (0xFFFF0000 + n))
  | .ok n t tl pl r => (s.forkCreate ((s.sxNum x a 64).toOption.getD 0) n t tl pl r, BitVec.ofNat 32 (n * 65536))

def viewFork (f : RForm) : View :=
  { viewR 0xFA ty0 f plain [.dst f.d, .pair f.a, .src f.b, .off f.c] with priv := true }

/-- `FORK`: served lane by lane (25 R430). -/
def execFork (f : RForm) (s : State) : Result :=
  issue s (fun _ => viewFork f) false false fun i en s =>
    perLane i en s (fun l => match rd2 s i l f.a, rd1 s i l f.b with
        | .ok a, .ok b => if b.toNat > 127 then .error (if i.lead then illOp else illOpAt l) else .ok (a.toNat, b.toNat)
        | .error e, _ => .error e
        | _, .error e => .error e)
      fun t l v =>
        let r := t.fork i.sess v.1 v.2
        wr1 r.1 i l .b32 f.d r.2

end Sys2Proof.Machine
end

