-- ==== Sys2Proof/Machine/Matrix.lean ====
section
/-! DEFINITION. Matrix and tensor-table instructions, OP 0xC0 to 0xC8 (11 R233 to R246), and the steps of the matrix engine
and the slot-load port (13 R287 to R291). -/

namespace Sys2Proof.Machine

open Sys2Proof

/-! ### Rules they share (11 R233) -/

/-- The view of a T-form instruction; `used`: whether the fields it does not use are zero; `crds`: g registers read. -/
def viewT (op : Nat) (f : TForm) (used : Bool) (crds : Nat) : View :=
  { op := op, ty := f.ty, types := ty0, g := f.g, lead := false, noGuard := true, bad := f.low != 0 || !used
    uses := [.off f.d, if crds == 0 then .off f.crd else .greg f.crd true crds] }

/-- A whole band issues the instruction. -/
def wholeBand (i : Iss) : Except Halt Unit :=
  if !i.bandOf.frags.isEmpty then .error (.trap { mkTrap illegalConvergence 1 with field := 8 })
  else if i.active != BitVec.allOnes 32 then .error (.trap { mkTrap illegalConvergence 0 with field := 8 })
  else .ok ()

/-- A body behind the checks of every matrix and tensor-table instruction. -/
def matBody (body : Body) : Body := fun i en s => match wholeBand i with
  | .error e => .error e
  | .ok () => body i en s

/-- A valid tensor entry (03 R65). -/
def tensor (i : Iss) (tid : Nat) : Except Halt Nat :=
  let e := (spGet i.sess.tensors tid).toNat
  if teValid e then .ok e else .error illOp

/-- Where `n` bytes of session memory fall, on RC, SQ or UN pages of one type. -/
def matPlace (s : State) (i : Iss) (acc : Access) (va n : Nat) : Except Trap Place :=
  let ea := BitVec.ofNat 64 va
  if n == 0 then .ok (.virt [])
  else if !sessionSpace ea.toNat then .error ((mkTrap protection 0).at ea)
  else match pieces s i acc ea n with
    | .error t => .error t
    | .ok ps => match ps.find? fun p => i.launch.desc.versioned && (p.leaf.type == 4 || p.leaf.type == 5) with
      | some p => .error ((mkTrap protection 3).at p.va)
      | none => match ps.find? fun p => !matTypes.contains p.leaf.type with
        | some p => .error ((mkTrap protection 6).at p.va)
        | none => if (ps.map fun p => p.leaf.type).dedup.length > 1 then .error ((mkTrap typeStraddle 0).at ea) else .ok (.virt ps)

/-- Tiles an instruction reads and writes, and whether it sets OPEN (11 R240). -/
def selectTile (i : Iss) (j : Nat) (shadow : Bool) : Except Halt (Nat × Nat × Bool) :=
  if i.launch.desc.acc ≤ j || (shadow && (decide (16 ≤ j) || decide (i.launch.desc.acc ≤ j + 16))) then .error illOp
  else if !shadow then .ok (j, j, false)
  else if i.group.opens.getLsbD j then .ok (j + 16, j + 16, false)
  else .ok (j, j + 16, true)

def setOpen (o : BitVec 16) (j : Nat) (v : Bool) : BitVec 16 :=
  if v then o ||| BitVec.ofNat 16 (2 ^ j) else o &&& ~~~ (BitVec.ofNat 16 (2 ^ j))

/-- A matrix instruction reaches the engine, which has room for 8 beside the one that runs (13 R287). -/
def reach (i : Iss) (o : MatOp) (opn : Option (Nat × Bool)) (s : State) : Except Halt State :=
  if 8 ≤ (s.core i.core).mqueue.length then .error (.wait (.bounded [] true))
  else
    let s1 := s.modCore i.core fun c => { c with mqueue := c.mqueue ++ [o] }
    .ok (match opn with
      | none => s1
      | some (j, v) => s1.modGroupOn i.core i.group.gid fun g => { g with opens := setOpen g.opens j v })

/-! ### Weight slots (11 R236, R237) -/

/-- What a load puts into a slot, and the places it reads. -/
structure SlotData where
  places : List (Nat × Dword × Place)
  elems : Sparse 16
  scales : Sparse 16

/-- Bytes of a row that hold elements `[i0, i0 + n)`: address and length. -/
def elemSpan (e i0 i1 i2 i3 n : Nat) : Nat × Nat :=
  let w := tfWidth (teFmt e)
  ((rowAddr e i1 i2 i3 + i0 * w / 8) % 2 ^ 64, if n = 0 then 0 else (i0 * w % 8 + n * w + 7) / 8)

/-- Bytes of a row that hold the scales of elements `[i0, i0 + n)`, by the scale base and stride of `es`. -/
def scaleSpan (es e i0 i1 i2 i3 n : Nat) : Nat × Nat :=
  let f := teFmt e
  let sp := max 1 (tfSpan f)
  ((scaleAddr es e i1 i2 i3 + tfRec f * (i0 / sp)) % 2 ^ 64, tfRec f * (n / sp))

/-- One column of a load: element codes and scale records, empty beyond the tensor. -/
structure SlotCol where
  elems : List Nat
  recs : List Byte
  inside : Bool

/-- The data of a load (11 R236): every page checked, then poison, then the data read. -/
def slotData (s : State) (i : Iss) (e i0 i1 i2 i3 : Nat) : Except Trap SlotData :=
  let f := teFmt e
  let w := tfWidth f
  let n := min 128 (teSize e 0 - i0)
  let rows := (List.range 64).filter fun j => decide (0 < n) && decide (i1 + j < teSize e 1)
  let spans := rows.flatMap fun j => [elemSpan e i0 (i1 + j) i2 i3 n, scaleSpan e e i0 (i1 + j) i2 i3 n]
  match mapE (fun b => (matPlace s i .read b.1 b.2).map fun p => (b.2, BitVec.ofNat 64 b.1, p)) spans with
  | .error t => .error t
  | .ok ps => match ps.find? fun p => s.placePoison i.sess p.2.2 p.1 with
    | some p => .error (s.poisonAt i.sess p.2.2 p.2.1)
    | none =>
      let bytes (k : Nat) : List Byte := match ps[k]? with
        | some p => s.bytesAt i.sess i.group.gid p.2.2 p.1
        | none => []
      let cols : List SlotCol := (List.range 64).map fun j =>
        if j < rows.length then
          let v := leNat (bytes (2 * j)) / 2 ^ (i0 * w % 8)
          { elems := (List.range n).map (codeAt w v), recs := bytes (2 * j + 1), inside := true }
        else { elems := [], recs := [], inside := false }
      let col (j : Nat) : SlotCol := cols.getD j { elems := [], recs := [], inside := false }
      let scale (x : Nat) : Nat :=
        if x < 16384 then
          let c := col (x / 128)
          if c.inside && decide (x % 128 * tfBlock f < n) then blockCode f c.recs (x % 128) else neutralBlock f
        else
          let c := col ((x - 16384) / 128)
          if c.inside && decide (x % 128 * 64 < n) then bandCode f c.recs (x % 128) else neutralBand f
      .ok { places := ps
            elems := spOfFn 8192 fun x => BitVec.ofNat 16 ((col (x % 64)).elems.getD (x / 64) 0)
            scales := spOfFn (2 * 16384) fun x => BitVec.ofNat 16 (scale x) }

/-- The slots a load of a format fills. -/
def slotsFilled (f j : Nat) : List Nat := if tfWide f then [j, j + 1] else [j]

/-- The other member of a BF16 or F16 pair that a slot belongs to. -/
def pairOf (g : Group) (j : Nat) : Option Nat := match g.slots[j]? with
  | some x => if x.hasRecord && tfWide x.fmt.toNat then some (if j % 2 == 0 then j + 1 else j - 1) else none
  | none => none

/-- The slots a load changes: those it fills and the other member of a pair it breaks. -/
def slotsChanged (g : Group) (f j : Nat) : List Nat :=
  (slotsFilled f j ++ (slotsFilled f j).filterMap (pairOf g)).dedup

/-- A group's slots after a load. -/
def Group.fillSlot (g : Group) (j e i0 i1 i2 i3 : Nat) (d : SlotData) : Group :=
  let f := teFmt e
  let clear := (slotsChanged g f j).foldl (fun (xs : List WSlot) k => updAt (fun _ => WSlot.init) xs k) g.slots
  let full : WSlot :=
    { elems := d.elems, scales := d.scales, hasRecord := true, fmt := BitVec.ofNat 5 f, entry := BitVec.ofNat 512 e,
      i0 := i0, i1 := i1, i2 := i2, i3 := i3, valid := true, loading := true }
  { g with slots := (slotsFilled f j).foldl (fun (xs : List WSlot) k =>
      updAt (fun _ => if k == j then full else { full with elems := [], scales := [] }) xs k) clear }

/-- A load's data and record in its slot; its reads enter the signatures of a versioned task. -/
def State.fillLoad (s : State) (i : Iss) (j e i0 i1 i2 i3 : Nat) (d : SlotData) : State :=
  (d.places.foldl (fun (t : State) p => t.sign i.group.gid p.2.2 true false) s).modGroupOn i.core i.group.gid fun g =>
    g.fillSlot j e i0 i1 i2 i3 d

/-- A load takes its place at the port (13 R290): in the order in which loads and reloads issue. -/
def State.joinPort (s : State) (i : Iss) (j : Nat) (reload : Bool) : State :=
  s.modCore i.core fun c => { c with port := c.port ++ [{ gid := i.group.gid, band := i.band, slot := j, reload := reload }] }

/-- Whether a load at the port, its data read or not, is of one of the slots. -/
def Core.portHolds (c : Core) (g : Group) (js : List Nat) : Bool :=
  c.port.any fun p => p.gid == g.gid && (slotsFilled ((g.slots.getD p.slot WSlot.init).fmt.toNat) p.slot).any js.contains

/-- Whether a matrix instruction of the group still reads one of the slots. -/
def Core.slotsRead (c : Core) (gid : Nat) (js : List Nat) : Bool :=
  c.matOps.any fun o => o.gid == gid && o.slot.any fun k => js.contains k

/-- Whether a load may take some slots: none is being loaded, or read by an earlier instruction (11 R236). -/
def Core.slotsFree (c : Core) (g : Group) (js : List Nat) : Bool :=
  !c.slotsRead g.gid js && !js.any (fun k => (g.slots.getD k WSlot.init).loading) && !c.portHolds g js

def slotAt (i : Iss) (j : Nat) : WSlot := i.group.slots.getD j WSlot.init

/-- The four coordinates in two g registers. -/
def coords (i : Iss) (c : Nat) : Nat × Nat × Nat × Nat :=
  let a := (i.gReg c).toNat
  let b := (i.gReg (c + 1)).toNat
  (bitsOf a 31 0, bitsOf a 63 32, bitsOf b 31 0, bitsOf b 63 32)

def viewMloadb (f : TForm) : View :=
  viewT 0xC0 f (f.tidA == 0 && f.tidC == 0 && f.tile == 0 && !f.shd && f.rnd == 0) 2

/-- `MLOADB`. -/
def execMloadb (f : TForm) (s : State) : Result :=
  issue s (fun _ => viewMloadb f) false false <| matBody fun i _ s =>
    match tensor i f.tidB.toNat with
    | .error e => .error e
    | .ok e =>
      let j := f.wslot.toNat
      let fm := teFmt e
      let n := i.launch.desc.slots
      let (i0, i1, i2, i3) := coords i f.crd.idx.toNat
      if fm == 12 || n ≤ j || (tfWide fm && (j % 2 == 1 || decide (n ≤ j + 1))) ||
         (tfSpan fm != 0 && i0 % tfSpan fm != 0) || teSize e 2 ≤ i2 || teSize e 3 ≤ i3 then .error illOp
      else
        let js := slotsChanged i.group fm j
        if !(s.core i.core).slotsFree i.group js then .error (.wait (.slot js))
        else match slotData s i e i0 i1 i2 i3 with
          | .error t => .error (.trap { t with field := 8 })
          | .ok d => .ok ((s.fillLoad i j e i0 i1 i2 i3 d).joinPort i j false)

/-- The slots of a load that has arrived. -/
def Group.slotArrived (g : Group) (j : Nat) : Group :=
  { g with slots := (slotsFilled ((g.slots.getD j WSlot.init).fmt.toNat) j).foldl
             (fun (xs : List WSlot) k => updAt (fun x => { x with loading := false }) xs k) g.slots }

/-- The read of a slot's record, by the band of a load (11 R237). -/
def reloadData (s : State) (core : Nat) (p : SlotLoad) : Option (Iss × WSlot × Except Trap SlotData) :=
  match s.issOf core p.gid (.lanes p.band (BitVec.allOnes 32)) with
  | none => none
  | some i =>
    let x := slotAt i p.slot
    if !x.hasRecord || x.valid then none else some (i, x, slotData s i x.entry.toNat x.i0 x.i1 x.i2 x.i3)

/-- `SLOT_LOAD_COMPLETE`: the port has filled the slot of its first load (13 R290). An `MLOADB` that a swap found in flight is
reissued here from its record (11 R245); where its read fails, the slot stays invalid, and the next `MMA` that names it reads
again and takes the fault (entry 67). A reload whose read has not been made waits for it (`SLOT_RELOAD`). -/
def execSlotLoadComplete (core : Nat) (s : State) : Result :=
  match (s.core core).port with
  | [] => .next s
  | p :: ps =>
    let gone (t : State) : State := t.modCore core fun c => { c with port := ps }
    match (s.core core).active.groups.find? fun g => g.gid == p.gid with
    | none => .next (gone s)
    | some g =>
      if (g.slots.getD p.slot WSlot.init).loading then .next (gone (s.modGroupOn core p.gid fun h => h.slotArrived p.slot))
      else if p.reload then .next s
      else match reloadData s core p with
        | some (i, x, .ok d) =>
          .next (gone ((s.fillLoad i p.slot x.entry.toNat x.i0 x.i1 x.i2 x.i3 d).modGroupOn core p.gid fun h => h.slotArrived p.slot))
        | _ => .next (gone s)

/-- The lanes of a band, as the unit that waits for a slot. -/
def waitingReload (g : Group) (band : Nat) : Option Nat :=
  match (g.lane band 0).wait with
  | .reload k => some k
  | _ => none

/-- `SLOT_RELOAD`: the reload that a waiting `MMA` has put at the port reads memory as it stands (11 R237). A fault is taken at
the `MMA`, and its load leaves the port. -/
def execSlotReload (core rgs band : Nat) (s : State) : Result :=
  match s.groupAt? core rgs with
  | none => .next s
  | some g => match waitingReload g band with
    | none => .next s
    | some k =>
      let p : SlotLoad := { gid := g.gid, band := band, slot := k, reload := true }
      let gone (t : State) : State := t.modCore core fun c => { c with port := c.port.erase p }
      match s.issOf core g.gid (.lanes band (BitVec.allOnes 32)), reloadData s core p with
      | some i, some (_, x, .ok d) =>
        .next ((s.fillLoad i k x.entry.toNat x.i0 x.i1 x.i2 x.i3 d).modLanes i (BitVec.allOnes 32) fun _ y => { y with wait := .slot [k] })
      | some i, some (_, _, .error t) =>
        .next (((gone s).modLanes i (BitVec.allOnes 32) fun _ y => { y with wait := .none }).takeTrap i (BitVec.allOnes 32)
          { t with field := 8, reload := true })
      | some i, none => .next ((gone s).modLanes i (BitVec.allOnes 32) fun _ y => { y with wait := .none })
      | none, _ => .next s

/-! ### MMA (11 R238, R239) -/

def viewMma (f : TForm) : View := viewT 0xC1 f (f.tidB == 0 && f.tidC == 0 && f.rnd == 0) 1

/-- `MMA`. One whose slot has a record and is not valid puts a reload at the port and waits for it (11 R237). -/
def execMma (f : TForm) (s : State) : Result :=
  issue s (fun _ => viewMma f) true false <| matBody fun i en s =>
    match tensor i f.tidA.toNat with
    | .error e => .error e
    | .ok e =>
      let k := f.wslot.toNat
      let x := slotAt i k
      let fm := teFmt e
      let c := (i.gReg f.crd.idx.toNat).toNat
      let aoff := bitsOf c 17 0
      let soff := bitsOf c 49 32
      let scaled := tfSpan fm != 0
      if fm == 12 || (x.hasRecord && tfInt fm != tfInt x.fmt.toNat) || i.launch.desc.slots ≤ k ||
         (x.hasRecord && tfWide x.fmt.toNat && k % 2 == 1) || aoff % 16 != 0 || soff % 2 != 0 || (!scaled && soff != 0) ||
         bitsOf c 31 18 != 0 || bitsOf c 63 50 != 0 then .error illOp
      else match selectTile i f.tile.toNat f.shd with
        | .error e => .error e
        | .ok (src, dst, opn) =>
          let la := 128 * tfWidth fm / 8
          let ls := if scaled then tfRec fm * (128 / tfSpan fm) else 0
          let rowA (r : Nat) : Nat := aoff + teStride e 1 * r
          let rowS (r : Nat) : Nat := soff + teSstride e * r
          let lim := i.group.scratchBytes
          let past := (List.range 32).flatMap fun r =>
            (if lim < rowA r + la then [rowA r] else []) ++ (if 0 < ls && decide (lim < rowS r + ls) then [rowS r] else [])
          match past with
          | o :: _ =>
            .error (.trap { (mkTrap protection 1).at (BitVec.ofNat 64 (0x4000 * 2 ^ 48 + o)) with field := 8 })
          | [] =>
            if x.loading || (s.core i.core).portHolds i.group [k] then .error (.wait (.slot [k]))
            else if x.hasRecord && !x.valid then
              .ok ((s.joinPort i k true).modLanes i en fun _ y => { y with wait := .reload k })
            else
              let rd (o n : Nat) : List Byte := spGetList i.group.scratch o n
              (reach i (.mma i.group.gid (BitVec.ofNat 5 fm) ((List.range 32).map fun r => rd (rowA r) la)
                ((List.range 32).map fun r => rd (rowS r) ls) src dst k) (if opn then some (f.tile.toNat, true) else none) s).map
                fun t => t.advance i en

/-- Column `j` of a slot; zeros under scales of 1 when it has never been loaded. -/
def WSlot.line (x : WSlot) (j : Nat) : Line :=
  if !x.hasRecord then { vals := List.replicate 128 (.fin false 0 0 false), s0 := .fin false 1 0 false, s1 := .fin false 1 0 false }
  else
    let f := x.fmt.toNat
    let b := tfBlock f
    let band (h : Nat) : FVal := tfBandScale f (spGet x.scales (16384 + 128 * j + h)).toNat
    { vals := (List.range 128).map fun k =>
        scaledIn (band (k / 64)) (tfElem f (spGet x.elems (64 * k + j)).toNat)
          (tfBlockScale f (if b == 0 then 0 else (spGet x.scales (128 * j + k / b)).toNat) k)
      s0 := band 0, s1 := band 1 }

/-- A row of A from its bytes and scale records. -/
def rowLine (f : Nat) (bytes recs : List Byte) : Line :=
  let v := leNat bytes
  let b := tfBlock f
  { vals := (List.range 128).map fun k =>
      scaledIn (tfBandScale f (bandCode f recs (k / 64))) (tfElem f (codeAt (tfWidth f) v k)) (tfBlockScale f (if b == 0 then 0 else blockCode f recs (k / b)) k)
    s0 := tfBandScale f (bandCode f recs 0), s1 := tfBandScale f (bandCode f recs 1) }

/-- The product of an `MMA`, element by element (04 R90, R91). -/
def mmaTiles (g : Group) (fmt : Nat) (a sc : List (List Byte)) (src dst slot : Nat) : Sparse 32 :=
  let x := g.slots.getD slot WSlot.init
  let rows := (List.range 32).map fun i => rowLine fmt (a.getD i []) (sc.getD i [])
  let cols := (List.range 64).map x.line
  let none : Line := { vals := [], s0 := .fin false 1 0 false, s1 := .fin false 1 0 false }
  spBlock g.tiles (2048 * dst) 2048 fun n =>
    BitVec.ofNat 32 (mmaElem (spGet g.tiles (2048 * src + n)).toNat (rows.getD (n / 64) none) (cols.getD (n % 64) none))

/-! ### Shadow tiles (11 R240 to R242) -/

/-- `MCOMMIT` and `MDISCARD` name a tile and nothing else. -/
def viewResolve (f : TForm) : View :=
  viewT 0xC2 f (f.tidA == 0 && f.tidB == 0 && f.tidC == 0 && f.wslot == 0 && !f.shd && f.rnd == 0) 0

/-- Resolves a shadow twin; `commit` copies it first. -/
def resolveBody (f : TForm) (commit : Bool) : Body := fun i _ s =>
  let j := f.tile.toNat
  if 16 ≤ j || i.launch.desc.acc ≤ j + 16 then .error illOp
  else if i.group.opens.getLsbD j then
    reach i (if commit then .copy i.group.gid (j + 16) j else .none i.group.gid) (some (j, false)) s
  else reach i (.none i.group.gid) none s

/-- `MCOMMIT`. -/
def execMcommit (f : TForm) (s : State) : Result :=
  issue s (fun _ => viewResolve f) false false (matBody (resolveBody f true))

/-- `MDISCARD`. -/
def execMdiscard (f : TForm) (s : State) : Result :=
  issue s (fun _ => viewResolve f) false false (matBody (resolveBody f false))

def viewMzero (f : TForm) : View :=
  viewT 0xC3 f (f.tidA == 0 && f.tidB == 0 && f.tidC == 0 && f.wslot == 0 && f.rnd == 0) 0

/-- `MZERO`. -/
def execMzero (f : TForm) (s : State) : Result :=
  issue s (fun _ => viewMzero f) false false <| matBody fun i _ s =>
    match selectTile i f.tile.toNat f.shd with
    | .error e => .error e
    | .ok (_, dst, opn) => reach i (.zero i.group.gid dst) (if opn then some (f.tile.toNat, true) else none) s

/-! ### MDRAIN (11 R243, R244) -/

def viewMdrain (f : TForm) : View :=
  viewT 0xC4 f (f.tidC == 0 && f.wslot == 0 && !f.shd && decide (f.rnd.toNat < 6)) 3

/-- The pieces of a place as a drain keeps them. -/
def Place.spans (p : Place) : List (Dword × Nat × Nat × BitVec 128) :=
  match p with
  | .virt ps => ps.map fun q => (q.va, q.pa, q.len, BitVec.ofNat 128 q.leaf.bits)
  | _ => []

/-- The place that pieces name. -/
def spansPlace (xs : List (Dword × Nat × Nat × BitVec 128)) : Place :=
  .virt (xs.map fun x => { va := x.1, pa := x.2.1, len := x.2.2.1, leaf := { bits := x.2.2.2.toNat, big := false, at_ := 0 } })

/-- The pieces of `n` bytes from `off` on. -/
def cutSpans : List (Dword × Nat × Nat × BitVec 128) → Nat → Nat → List (Dword × Nat × Nat × BitVec 128)
  | [], _, _ => []
  | (va, pa, k, l) :: xs, off, n =>
    if k ≤ off then cutSpans xs (off - k) n
    else if off + n ≤ k then [(va + BitVec.ofNat 64 off, pa + off, n, l)]
    else (va + BitVec.ofNat 64 off, pa + off, k - off, l) :: cutSpans xs 0 (n - (k - off))

/-- The accesses of a drain: lane, address, place of each row's elements and scales. -/
def drainAccs (s : State) (i : Iss) (e es i0 i1 i2 i3 n : Nat) : Except Halt (List Acc) :=
  let rows := (List.range 32).filter fun r => decide (0 < n) && decide (i1 + r < teSize e 1)
  let one (r : Nat) (b : Nat × Nat) : Nat × Except Trap Acc :=
    (r, (matPlace s i .write b.1 b.2).map fun p => { lane := r, ea := BitVec.ofNat 64 b.1, place := p })
  match gather false (rows.flatMap fun r => [one r (elemSpan e i0 (i1 + r) i2 i3 n), one r (scaleSpan es e i0 (i1 + r) i2 i3 n)]) with
  | .error h => .error h
  | .ok as => match as.find? fun a => s.placePoisonW i.sess a.place 1 with
    | some a => .error (memTrap false a.lane (s.poisonAt i.sess a.place a.ea))
    | none => .ok as

/-- Copy-on-write for every row of a drain, and the accesses as they then stand. -/
def drainPrepare (s : State) (i : Iss) (e es i0 i1 i2 i3 n : Nat) : Except Halt (State × List Acc) :=
  match drainAccs s i e es i0 i1 i2 i3 n with
  | .error h => .error h
  | .ok as =>
    if as.any fun a => s.heldFrom i.group (i.self a.lane) (a.place.holdLines i 1) then
      .error (.wait (holdWait (maskOf fun l => as.any fun a => a.lane == l) (laneLines i 1 as)))
    else match if i.group.buffering then s.overCapacity i.group (as.flatMap fun a => a.place.vas) else none with
      | some sub => .error (.trap { mkTrap versionCapacity sub with field := 8 })
      | none =>
        if i.group.buffering then .ok (s, as)
        else match foldLanes (fun (t : State) (a : Acc) => match t.cowPlace i.sess (i.self a.lane) a.place with
            | .ok u => .ok u
            | .error x => .error (memTrap false a.lane x)) s as with
          | .error h => .error h
          | .ok s1 => (drainAccs s1 i e es i0 i1 i2 i3 n).map fun bs => (s1, bs)

/-- `MDRAIN`. -/
def execMdrain (f : TForm) (s : State) : Result :=
  issue s (fun _ => viewMdrain f) false false <| matBody fun i _ s =>
    match tensor i f.tidA.toNat with
    | .error h => .error h
    | .ok e =>
      let fm := teFmt e
      let scaled := tfSpan fm != 0
      match if scaled then tensor i f.tidB.toNat else .ok e with
      | .error h => .error h
      | .ok es =>
        let (i0, i1, i2, i3) := coords i f.crd.idx.toNat
        let c2 := (i.gReg (f.crd.idx.toNat + 2)).toNat
        if i.launch.desc.acc ≤ f.tile.toNat ||
           (scaled && (teFmt es != fm || teNdim es != teNdim e || (List.range 4).any fun d => teSize es d != teSize e d)) ||
           (!scaled && f.tidB != 0) || (scaled && i0 % tfSpan fm != 0) || (fm == 0 && i0 % 2 != 0) || teSize e 2 ≤ i2 ||
           teSize e 3 ≤ i3 || bitsOf c2 63 32 != 0 || (fm == 12 && f.rnd != 0) then .error illOp
        else if 8 ≤ (s.core i.core).mqueue.length then .error (.wait (.bounded [] true))
        else
          let n := min 64 (teSize e 0 - i0)
          match drainPrepare s i e es i0 i1 i2 i3 n with
          | .error h => .error h
          | .ok (s1, as) =>
            let rows : List DrainRow := (List.range 32).filterMap fun r =>
              match as.filter fun a => a.lane == r with
              | [a, b] => some { row := r, elems := a.place.spans, scales := b.place.spans }
              | _ => none
            let seeds := (List.range 32).map fun l => let x := i.group.lane i.band l; (x.dseed, x.dcount)
            let s2 := if f.rnd == 5 then
                s1.modLanes i (maskOf fun l => rows.any fun r => r.row == l) fun _ x => { x with dcount := x.dcount + BitVec.ofNat 32 n }
              else s1
            reach i (.drain i.group.gid i.band f.tile.toNat (BitVec.ofNat 512 e) i0 n (BitVec.ofNat 32 (bitsOf c2 31 0)) f.rnd seeds
              rows) none s2

/-- The bits of codes placed in the bytes that hold them, other bits kept. -/
def mergeCodes (w sh : Nat) (codes : List Nat) (old : List Byte) : List Byte :=
  let v := codes.zipIdx.foldl (fun a c => a + c.1 % 2 ^ w * 2 ^ (w * c.2)) 0
  let o := leNat old
  let hi := sh + w * codes.length
  toLE old.length (o % 2 ^ sh + v * 2 ^ sh + o / 2 ^ hi * 2 ^ hi)

/-- One row of a drain stored by its lane: block by block, each block's scale and then its elements; an unscaled format in one
run of elements. -/
def drainRow (s : State) (x : Session) (g : Group) (band tile e i0 n : Nat) (factor mode : Nat) (seed : Dword × Word) (r : DrainRow) :
    State :=
  let fm := teFmt e
  let w := tfWidth fm
  let sp := tfSpan fm
  let xs := (List.range n).map fun j =>
    rneF32 (fmulX (fmtF32.decode (spGet g.tiles (2048 * tile + 64 * r.row + j)).toNat) (fmtF32.decode factor)).v
  let us := (List.range n).map fun j => (drawFn seed.1 (seed.2 + BitVec.ofNat 32 j).toNat).toNat / 2 ^ 40
  let self : Option LaneRef := some { gid := g.gid, band := band, lane := r.row }
  let put (t : State) (q : List (Dword × Nat × Nat × BitVec 128)) (bs : List Byte) : State :=
    (t.putAt x g.gid self (spansPlace q) bs).sign g.gid (spansPlace q) false true
  let some_ (t : State) (q : List (Dword × Nat × Nat × BitVec 128)) (sh : Nat) (codes : List Nat) : State :=
    put t q (mergeCodes w sh codes (t.bytesAt x g.gid (spansPlace q) (q.map fun p => p.2.2.1).sum))
  if sp = 0 then some_ s r.elems (i0 * w % 8) ((xs.zip us).map fun y => drainOne fm mode y.2 y.1)
  else (List.range ((n + sp - 1) / sp)).foldl (fun t b =>
    let (rec_, codes) := drainBlock fm mode ((us.drop (sp * b)).take sp) ((xs.drop (sp * b)).take sp)
    some_ (put t (cutSpans r.scales (tfRec fm * b) (tfRec fm)) rec_) (cutSpans r.elems (sp * w / 8 * b) (sp * w / 8)) 0 codes) s

/-- The stores of a drain. -/
def drainStores (s : State) (g : Group) (band tile e i0 n : Nat) (factor mode : Nat) (seeds : List (Dword × Word))
    (rows : List DrainRow) : State :=
  match s.session? g.session with
  | none => s
  | some x => rows.foldl (fun t r => drainRow t x g band tile e i0 n factor mode (seeds.getD r.row (0, 0)) r) s

/-- `MATRIX_ENGINE_START`: the engine takes its next instruction; the stores of a drain leave (13 R288). -/
def execMatrixEngineStart (core : Nat) (s : State) : Result :=
  let c := s.core core
  match c.mrun, c.mqueue with
  | none, o :: os =>
    let s1 := s.modCore core fun c => { c with mrun := some o, mqueue := os }
    match o, c.active.groups.find? fun g => g.gid == o.gid with
    | .drain _ band tile ent i0 n factor rnd seeds rows, some g =>
      .next (drainStores s1 g band tile ent.toNat i0 n factor.toNat rnd.toNat seeds rows)
    | _, _ => .next s1
  | _, _ => .next s

/-- The tiles a matrix instruction leaves. -/
def MatOp.apply (o : MatOp) (g : Group) : Sparse 32 :=
  match o with
  | .mma _ fmt a sc src dst slot => mmaTiles g fmt.toNat a sc src dst slot
  | .copy _ src dst => spBlock g.tiles (2048 * dst) 2048 fun n => spGet g.tiles (2048 * src + n)
  | .none _ => g.tiles
  | .zero _ dst => spClear g.tiles (2048 * dst) (2048 * dst + 2048)
  | .drain _ _ _ _ _ _ _ _ _ _ => g.tiles

/-- `MATRIX_ENGINE_END`: the running instruction ends and its tile is written. -/
def execMatrixEngineEnd (core : Nat) (s : State) : Result :=
  match (s.core core).mrun with
  | none => .next s
  | some o => .next ((s.modGroupOn core o.gid fun g => { g with tiles := o.apply g }).modCore core fun c => { c with mrun := none })

/-- The engine's running instruction ends, and its next one starts. -/
def State.engineTurn (s : State) (core : Nat) : State :=
  let next (r : Result) (t : State) : State := match r with
    | .next u => u
    | _ => t
  let s1 := next (execMatrixEngineEnd core s) s
  next (execMatrixEngineStart core s1) s1

/-- The engine goes on until no instruction of a group is at it: what the group issued is complete. -/
def State.finishOps (core gid : Nat) : Nat → State → State
  | 0, s => s
  | n + 1, s => if (s.core core).matOps.any fun o => o.gid == gid then State.finishOps core gid n (s.engineTurn core) else s

/-- The group's matrix instructions completed. -/
def State.opsDone (s : State) (core gid : Nat) : State := State.finishOps core gid ((s.core core).matOps.length + 1) s

/-! ### The tensor table (11 R246) -/

/-- View of a tensor-table instruction. -/
def viewTt (f : RForm) (uses : List Use) : View :=
  { viewR 0xC8 ty0 f plain uses with lead := false, noGuard := true }

/-- The 64 bytes of a tensor-table access, made by lane 0. -/
def ttPlace (s : State) (i : Iss) (acc : Access) (ea : Dword) : Except Halt Place :=
  match checkAccess s i { acc := acc, aligned := true, types := matTypes } ea 64 with
  | .error t => .error (memTrap false 0 t)
  | .ok p =>
    if tilesBusy s i [{ lane := 0, ea := ea, place := p }] then .error (.wait (tileWait [{ lane := 0, ea := ea, place := p }]))
    else if (if acc == .write then s.placePoisonW i.sess p 64 else s.placePoison i.sess p 64) then
      .error (memTrap false 0 (s.poisonAt i.sess p ea))
    else .ok p

def versionedTrap : Halt := .trap { mkTrap protection 3 with field := 8 }

def viewTtld (f : RForm) : View := viewTt f [.tid f.d, .greg f.a false 1, .off f.b, .off f.c]
def viewTtst (f : RForm) : View := viewTt f [.off f.d, .greg f.a false 1, .tid f.b, .off f.c]
def viewTtinv (f : RForm) : View := viewTt f [.tid f.d, .off f.a, .off f.b, .off f.c]

/-- `TTLD`. -/
def execTtld (f : RForm) (s : State) : Result :=
  issue s (fun _ => viewTtld f) false false <| matBody fun i _ s =>
    if i.launch.desc.versioned then .error versionedTrap
    else match ttPlace s i .read (i.gReg f.a.idx.toNat) with
      | .error e => .error e
      | .ok p =>
        let v := leNat (s.bytesAt i.sess i.group.gid p 64)
        if entryOk v then
          .ok (s.modSession i.sess.slot fun x => { x with tensors := spSet x.tensors f.d.idx.toNat (BitVec.ofNat 512 v) })
        else .error illOp

/-- `TTST`. -/
def execTtst (f : RForm) (s : State) : Result :=
  issue s (fun _ => viewTtst f) false false <| matBody fun i _ s =>
    let ea := i.gReg f.a.idx.toNat
    match ttPlace s i .write ea with
    | .error e => .error e
    | .ok p => match prepareStore s i { acc := .write, aligned := true, types := matTypes } 64 [{ lane := 0, ea := ea, place := p }] with
      | .error e => .error e
      | .ok (s1, as) => .ok (as.foldl (fun (t : State) (a : Acc) =>
          (t.putAt i.sess i.group.gid (i.self 0) a.place (toLE 64 (spGet i.sess.tensors f.b.idx.toNat).toNat)).sign i.group.gid a.place
            false true) s1)

/-- `TTINV`. -/
def execTtinv (f : RForm) (s : State) : Result :=
  issue s (fun _ => viewTtinv f) false false <| matBody fun i _ s =>
    if i.launch.desc.versioned then .error versionedTrap
    else .ok (s.modSession i.sess.slot fun x =>
      { x with tensors := spSet x.tensors f.d.idx.toNat (spGet x.tensors f.d.idx.toNat &&& ~~~ (1 : BitVec 512)) })

end Sys2Proof.Machine
end

