-- ==== Sys2Proof/Machine/Groups.lean ====
section
/-! DEFINITION. The distributor (02 R33 to R39): placing groups and clusters, the end of a group (01 R15) and of a launch
(22 R393). -/

namespace Sys2Proof.Machine

open Sys2Proof

/-! ### Room on a core (01 R31, 02 R36) -/

/-- The first `n` free places of one block below `cap`. -/
def firstFit (used : Nat → Bool) (cap n : Nat) : Option Nat :=
  (List.range (cap + 1 - n)).find? fun a => (List.range n).all fun j => !used (a + j)

/-- The `n` lowest free places below `cap`. -/
def lowestFree (used : Nat → Bool) (cap n : Nat) : Option (List Nat) :=
  let fs := ((List.range cap).filter fun a => !used a).take n
  if fs.length == n then some fs else none

/-- The groups that still hold their bands and their group slot (02 R38). -/
def Core.holding (c : Core) : List Group := c.active.groups.filter fun g => g.phase != .retiring

/-- Register blocks taken on a core: slot, first granule and granules. -/
def Core.blocks (c : Core) : List (Nat × Nat × Nat) :=
  c.active.groups.flatMap fun g => g.bands.map fun b => (b.slot, b.granule, b.granules)

/-- Register granules of a slot that are taken. -/
def slotTaken (t : List (Nat × Nat × Nat)) (slot : Nat) : Nat := ((t.filter fun e => e.1 == slot).map fun e => e.2.2).sum

def granTaken (t : List (Nat × Nat × Nat)) (slot a : Nat) : Bool :=
  t.any fun e => e.1 == slot && decide (e.2.1 ≤ a) && decide (a < e.2.1 + e.2.2)

/-- The block of the next band: the slot with the most free granules among those with a free block, the lowest on a tie. -/
def nextBlock (t : List (Nat × Nat × Nat)) (n : Nat) : Option (Nat × Nat × Nat) :=
  argMin (fun (e : Nat × Nat × Nat) => slotTaken t e.1 * 4 + e.1) <|
    (List.range 4).filterMap fun k => (firstFit (granTaken t k) 256 n).map fun a => (k, a, n)

/-- Blocks of `m` bands in ascending band number. -/
def placeBlocks (n : Nat) : Nat → List (Nat × Nat × Nat) → Option (List (Nat × Nat × Nat))
  | 0, _ => some []
  | m + 1, t => match nextBlock t n with
    | none => none
    | some e => (placeBlocks n m (t ++ [e])).map fun es => e :: es

/-- Where a group of a launch would stand on a core. -/
structure Spot where
  blocks : List (Nat × Nat × Nat)
  pos : List Nat
  scratchAt : Nat
  acc : List Nat
  slots : List Nat
  rgs : Nat
  deriving DecidableEq, Repr

def Core.bandsHeld (c : Core) : Nat := (c.holding.map fun g => g.bands.length).sum

def Core.scratchTaken (c : Core) (a : Nat) : Bool :=
  c.active.groups.any fun g => decide (g.scratchAt ≤ a) && decide (a < g.scratchAt + g.scratchGran)

def Core.accTaken (c : Core) (a : Nat) : Bool := c.active.groups.any fun g => g.accGran.contains a
def Core.slotsTaken (c : Core) (a : Nat) : Bool := c.active.groups.any fun g => g.slotPhys.contains a
def Core.posTaken (c : Core) (a : Nat) : Bool := c.holding.any fun g => g.bands.any fun b => b.pos == a
def Core.rgsTaken (c : Core) (a : Nat) : Bool := c.holding.any fun g => g.rgs == a

/-- The arrangement of 02 R36, where everything fits. -/
def Core.spot (c : Core) (d : LaunchDesc) : Option Spot :=
  match placeBlocks d.regGran d.bandCount c.blocks, lowestFree c.posTaken 48 d.bandCount,
        firstFit c.scratchTaken 128 d.scratchGran, lowestFree c.accTaken 32 d.accGran, lowestFree c.slotsTaken 16 d.slots,
        leastFree (c.holding.map (·.rgs)) 16 0 with
  | some bs, some ps, some sc, some ac, some sl, some r =>
    if r < 16 then some { blocks := bs, pos := ps, scratchAt := sc, acc := ac, slots := sl, rgs := r } else none
  | _, _, _, _, _, _ => none

/-- Whether the counts alone would do, were the free granules of every slot and of the scratchpad one block (02 R37). -/
def Core.fitsInTotal (c : Core) (d : LaunchDesc) : Bool :=
  decide (c.bandsHeld + d.bandCount ≤ 48) && decide (c.holding.length < 16) &&
  decide (d.bandCount ≤ ((List.range 4).map fun k => (256 - slotTaken c.blocks k) / max 1 d.regGran).sum) &&
  decide (((List.range 128).filter c.scratchTaken).length + d.scratchGran ≤ 128) &&
  (lowestFree c.accTaken 32 d.accGran).isSome && (lowestFree c.slotsTaken 16 d.slots).isSome

/-- A core on which the distributor may place groups of a session (20 R360). -/
def Core.placeable (c : Core) (slot : Nat) : Bool :=
  c.session == some slot && match c.swap with
    | .none => true
    | .named _ => true
    | _ => false

/-- The lowest free register-stack areas of a session (22 R386). -/
def State.freeAreas (s : State) (x : Session) (n : Nat) : Option (List Nat) :=
  let gs := ((s.residents.map (·.2)).filter fun g => g.phase != .retiring) ++ s.parked
  let used := (gs.filter fun g => g.session == x.slot).flatMap fun g => g.bands.map (·.area)
  lowestFree used.contains x.rsBands n

/-! ### Placing (02 R34 to R39) -/

/-- The head launch of a session (02 R34). -/
def State.headLaunch (s : State) (slot : Nat) : Option Launch :=
  s.launches.find? fun l => l.session == slot && l.ended.isNone && l.toPlace

/-- The indices the distributor places next: one group, or the members of one cluster. 02 R39 does not say how a cluster is placed of
which `FETCHWK` has withdrawn a member: the members that are left are placed as a smaller cluster (entry 20). -/
def Launch.headGroups (l : Launch) : List Nat :=
  let n := max 1 l.desc.cluster
  match l.returned with
  | r :: _ => l.returned.filter fun k => k / n == r / n
  | [] => ((List.range n).map (l.nextGroup / n * n + ·)).filter fun k => decide (l.nextGroup ≤ k) && decide (k < l.desc.groups)

/-- The groups are counted as placed. -/
def Launch.markPlaced (l : Launch) (ks : List Nat) : Launch :=
  { l with
    returned := l.returned.filter fun k => !ks.contains k
    nextGroup := if l.returned.isEmpty then ks.foldl (fun a k => max a (k + 1)) l.nextGroup else l.nextGroup }

/-- A group at placement; its bands count as having ended a run then (02 R41). -/
def newGroup (gid : Nat) (l : Launch) (index : Nat) (p : Spot) (areas : List Nat) (ended : Nat) : Group :=
  let d := l.desc
  let band (n : Nat) : Band :=
    let e := p.blocks.getD n (0, 0, 0)
    { slot := e.1, pos := p.pos.getD n 0, granule := e.2.1, granules := e.2.2, area := areas.getD n 0, lanes := [], fq := [],
      frags := [], fresh := true, started := true, lastRun := 0, lastEnd := ended }
  let g : Group :=
    { gid := gid, rgs := p.rgs, session := l.session, launch := l.number, index := index, rank := index % max 1 d.cluster,
      scratchAt := p.scratchAt, scratchGran := d.scratchGran, accGran := p.acc, slotPhys := p.slots, phase := .running,
      lead := Lead.atEntry d, bands := (List.range d.bandCount).map band, g := [], bq := [], streams := [], scratch := [],
      tiles := [], opens := 0, slots := [], barGrp := 0, barClu := 0, ver := none, withdrawn := [], collectives := 0, age := 0 }
  g.atEntry d l.commitNo false

/-- The core 02 R35 chooses among some, and the arrangement on it. -/
def State.chooseCore (s : State) (d : LaunchDesc) (cores : List Nat) : Option (Nat × Spot) :=
  argMin (fun (e : Nat × Spot) =>
      let c := s.core e.1
      (c.bandsHeld * 1025 + ((List.range 4).map (slotTaken c.blocks)).sum) * 64 + c.rel)
    (cores.filterMap fun n => ((s.core n).spot d).map fun p => (n, p))

/-- Places the members of a cluster, or one group, on some cores: all or none. The start of a node is an acquire at `.dev`, made on
each core on which a group of it is placed (06 R130). -/
def State.placeAll (s : State) (x : Session) (l : Launch) (cores : List Nat) : List Nat → Option State
  | [] => some s
  | k :: ks =>
    match s.chooseCore l.desc cores, s.freeAreas x l.desc.bandCount with
    | some (c, p), some areas =>
      let g := newGroup s.nextGid l k p areas s.runCtr
      State.placeAll
        { (s.acquire c 3).modCore c (fun y => { y with active := { y.active with session := x.slot, groups := y.active.groups ++ [g] } }) with
          nextGid := s.nextGid + 1, runCtr := s.runCtr + 1 } x l cores ks
    | _, _ => none

/-- The cores a session's groups may be placed on. -/
def State.placeCores (s : State) (slot : Nat) : List Nat := (List.range 64).filter fun c => (s.core c).placeable slot

/-- Places the head of a session on the first of some sets of cores that holds it. -/
def State.placeHead (s : State) (slot : Nat) (cluster : Bool) (sets : List (List Nat)) : State :=
  match s.session? slot, s.headLaunch slot with
  | some x, some l =>
    if (decide (1 < l.desc.cluster)) != cluster then s
    else
      let ks := l.headGroups
      match sets.findSome? fun cs => s.placeAll x l cs ks with
      | some t => t.modLaunch slot l.number fun y => y.markPlaced ks
      | none => s
  | _, _ => s

/-- `PLACE_GROUP`. -/
def execPlaceGroup (session : Nat) (s : State) : Result := .next (s.placeHead session false [s.placeCores session])

/-- `PLACE_CLUSTER`: the dies in ascending order. -/
def execPlaceCluster (session : Nat) (s : State) : Result :=
  .next (s.placeHead session true ((List.range 4).map fun d => (s.placeCores session).filter fun c => dieOf c == d))

/-- Whether a session's head waits only for one block, or for the register-stack areas of all its members (02 R37, 22 R386):
each base-die cycle of that wait counts in its FRAGSTALL. -/
def State.fragWait (s : State) (slot : Nat) : Bool :=
  match s.session? slot, s.headLaunch slot with
  | some x, some l =>
    let cs := s.placeCores slot
    let fits := cs.any fun c => ((s.core c).spot l.desc).isSome
    (s.freeAreas x (l.desc.bandCount * l.headGroups.length)).isNone || (!fits && cs.any fun c => (s.core c).fitsInTotal l.desc)
  | _, _ => false

/-! ### The end of a group (01 R15) -/

/-- Every stream of a group has ended. -/
def Group.over (g : Group) : Bool := g.lead.status == .exited && g.bands.all fun b => b.lanes.all fun x => !x.live

/-- The watchdog counter of a launch's queue returns to 0 (22 R400). -/
def State.petWatchdog (s : State) (sess no : Nat) : State :=
  match (s.launch? sess no).bind (·.queue) with
  | none => s
  | some n => { s with queues := s.queues.map fun (q : QueueCtx) => if q.session == sess && q.queue == n then { q with wdog := 0 } else q }

/-- `GROUP_FINISH`: the group enters RETIRING. A task waits there for its verdict (20 R352): its phase is then `committing`, in
which it keeps its bands and its group slot (20 R353, entry 68). -/
def execGroupFinish (core rgs : Nat) (s : State) : Result :=
  match s.groupAt? core rgs with
  | none => .next s
  | some g =>
    if g.phase != .running || !g.over then .next s
    else
      let task := g.ver.isSome
      let s1 := (s.petWatchdog g.session g.launch).modGroupOn core g.gid fun h =>
        { h with
          phase := if task then .committing else .retiring
          bq := [], streams := h.streams.map fun x => { x with running := false }
          bands := h.bands.map fun b => { b with fq := [] } }
      .next (if task then s1.modLaunch g.session g.launch fun l => { l with commitQueue := l.commitQueue ++ [g.gid] } else s1)

/-- A group taken off its core: its granules return. -/
def State.dropGroup (s : State) (core gid : Nat) : State :=
  { s.modCore core (fun c =>
      { c with
        active := { c.active with groups := c.active.groups.filter fun (g : Group) => g.gid != gid }
        slots := c.slots.map fun (x : IssueSlot) => { x with loops := x.loops.filter fun (e : LoopEntry) => e.gid != gid } }) with
    fetches := s.fetches.filter fun (r : FetchReq) => r.gid != gid }

/-- `RETIRING_END`: the copies into its scratchpad have landed, the distributor has answered its requests (02 R49) and the scrub has
run. What the group still had at the matrix engine is complete before its granules are released, and every write of its threads,
whatever its type, is performed at the LLC: the release at `.dev` of its launch's end (06 R130). -/
def execRetiringEnd (core gid : Nat) (s : State) : Result :=
  match (s.core core).active.groups.find? fun g => g.gid == gid with
  | none => .next s
  | some g =>
    if g.phase == .retiring && !s.copiesInto gid && !(s.fetches.any fun r => r.gid == gid) then
      .next (((s.opsDone core gid).performAll core).dropGroup core gid)
    else .next s

/-! ### The end of a launch (22 R393) -/

/-- Fixed-function nodes that a launch feeds. -/
def State.nodesOfLaunch (s : State) (l : Launch) : List Ring :=
  s.rings.filter fun r => r.session == l.session && r.launch == l.number && r.kind != 0

/-- Every group of a launch has ended, and its fixed-function nodes have read their records and committed their bins. -/
def State.launchOver (s : State) (l : Launch) : Bool :=
  (l.ended.isSome || (decide (l.desc.groups ≤ l.nextGroup) && l.returned.isEmpty)) && (s.allGroupsOf l.session l.number).isEmpty &&
  (l.ended.isSome ||
    ((s.nodesOfLaunch l).all (fun r => r.head == r.tail) &&
     !(s.bins.any fun b => b.session == l.session && (s.nodesOfLaunch l).any fun r => r.consumer == b.node) &&
     (!((s.nodesOfLaunch l).any fun r => r.kind == 3) || s.encoders.all fun e => e.session != l.session)))

/-- Queue and list entries that a completion discards. -/
def State.pqLeft (s : State) (l : Launch) : Nat := (s.pq.filter fun e => e.session == l.session && e.launch == l.number).length
def Launch.listLeft (l : Launch) : Nat := (l.lists.map fun w => w.tail - w.head).sum

/-- Counters that the launch's node will decrement in groups that have retired (05 R112). -/
def State.deadCounters (s : State) (l : Launch) : Nat :=
  match l.node.bind fun a => s.nodes.find? fun n => n.session == l.session && n.addr == a with
  | none => 0
  | some n => (n.succs.filter fun x => match x with
    | .node _ => false
    | .counter gid _ => (s.anyGroup gid).isNone).length

/-- Completion status (22 R393): one that was forced, or FAILED where a serial task has trapped (20 R356). -/
def Launch.status (l : Launch) : Nat := l.ended.getD (if l.failed then 5 else 0)

/-- The completion record. -/
def complRecord (s : State) (x : Session) (l : Launch) : List Byte :=
  toLE 1 l.status ++ toLE 1 0 ++ toLE 2 x.gen.toNat ++ toLE 4 l.restarts ++ toLE 4 (s.pqLeft l) ++ toLE 4 l.listLeft ++
  toLE 4 l.heldDrop ++ toLE 4 (l.ctrDrop + s.deadCounters l) ++ toLE 4 l.number ++ toLE 4 0

/-- What follows the record: the launch's entries are discarded, its world enters retirement (23 R411), and its node's body
has ended. -/
def State.closeLaunch (s : State) (l : Launch) : State :=
  let mine (a b : Nat) : Bool := a == l.session && b == l.number
  let status := l.status
  let s0 := s.petWatchdog l.session l.number
  let s1 : State :=
    { s0 with
      launches := s0.launches.filter fun (k : Launch) => !mine k.session k.number
      pq := s0.pq.filter fun (e : PqEntry) => !mine e.session e.launch
      pops := s.pops.filter fun (e : PqPop) => !mine e.session e.launch
      rings := s.rings.filter fun (r : Ring) => !mine r.session r.launch
      bins := s.bins.filter fun (b : Bin) =>
        !(b.session == l.session && (s.nodesOfLaunch l).any fun (r : Ring) => r.consumer == b.node)
      blended := s.blended.filter fun (e : Nat × Nat × Nat) => !mine e.1 e.2.1
      worlds := s.worlds.map fun (w : World) => if mine w.session w.launch then w.retire else w
      queues := s0.queues.map fun (q : QueueCtx) =>
        if q.session == l.session then { q with launches := q.launches.filter fun (n : Nat) => n != l.number } else q }
  match l.node with
  | none => s1
  | some a => { s1 with nodes := updFirst (fun (n : Node) => n.session == l.session && n.addr == a)
                          (fun (n : Node) => { n with st := .ended, status := status }) s1.nodes }

/-- `LAUNCH_COMPLETE`. A record that cannot be written is lost; a page fault of the write waits for the service. -/
def execLaunchComplete (session launch : Nat) (s : State) : Result :=
  match s.launch? session launch, s.session? session with
  | some l, some x =>
    if !s.launchOver l || l.complFault.isSome then .next s
    else if l.complLost then .next (s.closeLaunch l)
    else match s.sxWrite x l.desc.compl.toNat (complRecord s x l) with
      | .ok t => .next (t.closeLaunch l)
      | .error t =>
        if t.code.toNat == pageFault && s.fring x != 0 then
          match s.faultBatch x t.pages (t.sub.toNat % 4) true with
          | some (s1, b) => .next (s1.modLaunch session launch fun k => { k with complFault := some b })
          | none => .next s
        else .next ((s.tagCheck x t).closeLaunch l)
  | _, _ => .next s

end Sys2Proof.Machine
end

