-- ==== Sys2Proof/Machine/Zstd.lean ====
section
/-! DEFINITION. The decoder of streamed texture pages: the subset of Zstandard (RFC 8878) that 14 R309 names. Every function
answers none where the input is outside it, which fails the stream. -/

namespace Sys2Proof.Machine

open Sys2Proof

/-! ### Bit streams -/

/-- A stream read from its end: its value and the bits below the marker, the highest set bit of its last byte. -/
def revStart (bs : List Byte) : Option (Nat × Nat) :=
  if bs.getLast?.all (· == 0) then none else let v := leNat bs; some (v, v.log2)

/-- The next `k` bits below position `p`; bits before the start of the stream read as zero. -/
def revPeek (v p k : Nat) : Nat := if k ≤ p then v / 2 ^ (p - k) % 2 ^ k else v % 2 ^ p * 2 ^ (k - p)

/-! ### FSE tables -/

/-- A table's state: symbol, bits to read and base of the next state. -/
abbrev FseTable := Nat × Array (Nat × Nat × Nat)

/-- The zero probabilities that 2-bit repeat flags add: how many, and the position behind the flags. -/
def fseZeros (v : Nat) : Nat → Nat → Nat → Nat × Nat
  | 0, pos, n => (n, pos)
  | f + 1, pos, n => let r := v / 2 ^ pos % 4; if r == 3 then fseZeros v f (pos + 2) (n + 3) else (n + r, pos + 2)

/-- The probabilities of a table description, from a bit position on; −1 stands for less than one. -/
def fseNorm (v : Nat) : Nat → Nat → Nat → List Int → Option (List Int × Nat)
  | 0, _, _, _ => none
  | f + 1, pos, left, acc =>
    if left == 0 then some (acc, pos)
    else
      let bits := (left + 1).log2 + 1
      let raw := v / 2 ^ pos % 2 ^ bits
      let half := 2 ^ (bits - 1)
      let few := 2 ^ bits - 1 - (left + 1)
      let (x, used) := if raw % half < few then (raw % half, bits - 1) else if half ≤ raw then (raw - few, bits) else (raw, bits)
      let cost := if x == 0 then 1 else x - 1
      if left < cost then none
      else if x == 1 then
        let (n, p) := fseZeros v 128 (pos + used) 0
        fseNorm v f p left (acc ++ 0 :: List.replicate n 0)
      else fseNorm v f (pos + used) (left - cost) (acc ++ [(x : Int) - 1])

/-- The table of some probabilities. -/
def fseBuild (al : Nat) (norm : List Int) : FseTable :=
  let size := 2 ^ al
  let rare := (norm.zipIdx.filter fun e => e.1 == -1).map (·.2)
  let high := size - rare.length
  let step := size / 2 + size / 8 + 3
  let places := ((List.range size).map fun k => k * step % size).filter fun p => decide (p < high)
  let spread := norm.zipIdx.flatMap fun e => List.replicate e.1.toNat e.2
  let put (a : Array Nat) (e : Nat × Nat) : Array Nat := a.setIfInBounds e.1 e.2
  let syms := (rare.zipIdx.map fun e => (size - 1 - e.2, e.1)).foldl put ((places.zip spread).foldl put (Array.replicate size 0))
  let start := (norm.map fun n => if n == -1 then 1 else n.toNat).toArray
  let (_, out) := syms.toList.foldl (fun (st : Array Nat × Array (Nat × Nat × Nat)) s =>
    let n := st.1.getD s 0
    let b := al - n.log2
    (st.1.setIfInBounds s (n + 1), st.2.push (s, b, n * 2 ^ b - size))) (start, #[])
  (al, out)

/-- A table description at the start of some bytes: accuracy at most `maxLog`, symbols at most `maxSym`. -/
def fseRead (maxLog maxSym : Nat) (bs : List Byte) : Option (FseTable × List Byte) :=
  let v := leNat bs
  let al := v % 16 + 5
  if maxLog < al then none
  else match fseNorm v 300 4 (2 ^ al) [] with
    | none => none
    | some (norm, pos) =>
      let n := (pos + 7) / 8
      if bs.length < n || maxSym + 1 < norm.length then none else some (fseBuild al norm, bs.drop n)

def FseTable.at_ (t : FseTable) (state : Nat) : Nat × Nat × Nat := t.2.getD state (0, 0, 0)

/-! ### Huffman tables -/

/-- Symbol and code length by the next bits, for the longest length. -/
abbrev HuffTable := Nat × Array (Nat × Nat)

/-- Weights read with two states in turn, until a state cannot be renewed. -/
def fseWeights (t : FseTable) (v : Nat) : Nat → Nat → Nat → Nat → List Nat → Option (List Nat)
  | 0, _, _, _, _ => none
  | f + 1, pos, a, b, acc =>
    let (sym, bits, base) := t.at_ a
    if pos < bits then some (acc ++ [sym, (t.at_ b).1])
    else fseWeights t v f (pos - bits) b (base + revPeek v pos bits) (acc ++ [sym])

/-- The table of some weights, the last of which is not written down. -/
def huffBuild (ws : List Nat) : Option HuffTable :=
  let sum := (ws.map fun w => if w == 0 then 0 else 2 ^ (w - 1)).sum
  if sum == 0 || ws.any (fun w => decide (12 < w)) || 255 < ws.length then none
  else
    let top := sum.log2 + 1
    let left := 2 ^ top - sum
    if 11 < top || left != 2 ^ left.log2 then none
    else
      let all := (ws ++ [left.log2 + 1]).zipIdx
      let rows := (List.range top).flatMap fun k =>
        (all.filter fun e => e.1 == k + 1).flatMap fun e => List.replicate (2 ^ k) (e.2, top - k)
      some (top, rows.toArray)

/-- A tree description at the start of some bytes. -/
def huffRead (bs : List Byte) : Option (HuffTable × List Byte) :=
  match bs with
  | [] => none
  | h :: rest =>
    let n := h.toNat
    if 128 ≤ n then
      let count := n - 127
      let bytes := (count + 1) / 2
      if rest.length < bytes then none
      else
        let ws := (rest.take bytes).flatMap fun b => [b.toNat / 16, b.toNat % 16]
        (huffBuild (ws.take count)).map fun t => (t, rest.drop bytes)
    else if rest.length < n then none
    else match fseRead 6 255 (rest.take n) with
      | none => none
      | some (t, body) => match revStart body with
        | none => none
        | some (v, top) =>
          if top < 2 * t.1 then none
          else match fseWeights t v 256 (top - 2 * t.1) (revPeek v top t.1) (revPeek v (top - t.1) t.1) [] with
            | none => none
            | some ws => (huffBuild ws).map fun h => (h, rest.drop n)

/-- `n` symbols of a stream, which they use up. -/
def huffSymbols (t : HuffTable) (v : Nat) : Nat → Nat → List Byte → Option (List Byte)
  | 0, pos, acc => if pos == 0 then some acc.reverse else none
  | n + 1, pos, acc =>
    let (sym, bits) := t.2.getD (revPeek v pos t.1) (0, 0)
    if pos < bits then none else huffSymbols t v n (pos - bits) (BitVec.ofNat 8 sym :: acc)

def huffStream (t : HuffTable) (bs : List Byte) (n : Nat) : Option (List Byte) :=
  match revStart bs with
  | none => none
  | some (v, top) => huffSymbols t v n top []

/-- One stream, or four behind their jump table. -/
def huffStreams (t : HuffTable) (four : Bool) (bs : List Byte) (n : Nat) : Option (List Byte) :=
  if !four then huffStream t bs n
  else if bs.length < 6 then none
  else
    let size (k : Nat) : Nat := leNat ((bs.drop (2 * k)).take 2)
    let body := bs.drop 6
    let part := (n + 3) / 4
    if body.length < size 0 + size 1 + size 2 || n < 3 * part then none
    else match huffStream t (body.take (size 0)) part, huffStream t ((body.drop (size 0)).take (size 1)) part,
        huffStream t ((body.drop (size 0 + size 1)).take (size 2)) part,
        huffStream t (body.drop (size 0 + size 1 + size 2)) (n - 3 * part) with
      | some a, some b, some c, some d => some (a ++ b ++ c ++ d)
      | _, _, _, _ => none

/-! ### A frame -/

/-- What one block of a frame leaves to the next: the last tables, the three last offsets, and the bytes decoded. -/
structure Zframe where
  huff : Option HuffTable
  ll : Option FseTable
  off : Option FseTable
  ml : Option FseTable
  reps : Nat × Nat × Nat
  out : Array Byte

/-- Literals of a block, the frame with its Huffman table, and the bytes behind the section. -/
def zLiterals (z : Zframe) (bs : List Byte) : Option (List Byte × Zframe × List Byte) :=
  let v := leNat (bs.take 5)
  let kind := v % 4
  let fmt := v / 4 % 4
  if kind < 2 then
    let (hdr, size) := if fmt % 2 == 0 then (1, v / 8 % 32) else if fmt == 1 then (2, v / 16 % 2 ^ 12) else (3, v / 16 % 2 ^ 20)
    let need := if kind == 0 then size else 1
    if bs.length < hdr + need || 65536 < size then none
    else
      let body := (bs.drop hdr).take need
      some (if kind == 0 then body else List.replicate size (body.headD 0), z, bs.drop (hdr + need))
  else
    let (hdr, w) := if fmt < 2 then (3, 10) else if fmt == 2 then (4, 14) else (5, 18)
    let size := v / 16 % 2 ^ w
    let comp := v / 2 ^ (4 + w) % 2 ^ w
    if bs.length < hdr + comp || 65536 < size then none
    else
      let body := (bs.drop hdr).take comp
      match if kind == 2 then huffRead body else z.huff.map fun t => (t, body) with
      | none => none
      | some (t, streams) => (huffStreams t (fmt != 0) streams size).map fun xs => (xs, { z with huff := some t }, bs.drop (hdr + comp))

/-- The predefined tables. -/
def llDefault : FseTable := fseBuild 6
  [4, 3, 2, 2, 2, 2, 2, 2, 2, 2, 2, 2, 2, 1, 1, 1, 2, 2, 2, 2, 2, 2, 2, 2, 2, 3, 2, 1, 1, 1, 1, 1, -1, -1, -1, -1]
def mlDefault : FseTable := fseBuild 6
  ([1, 4, 3, 2, 2, 2, 2, 2, 2] ++ List.replicate 37 1 ++ List.replicate 7 (-1))
def offDefault : FseTable := fseBuild 5
  ([1, 1, 1, 1, 1, 1, 2, 2, 2] ++ List.replicate 15 1 ++ List.replicate 5 (-1))

/-- Base and extra bits of a literal-length code. -/
def llCode (c : Nat) : Nat × Nat :=
  if c < 16 then (c, 0)
  else ([(16, 1), (18, 1), (20, 1), (22, 1), (24, 2), (28, 2), (32, 3), (40, 3), (48, 4)].getD (c - 16) (2 ^ (c - 19), c - 19))

/-- Base and extra bits of a match-length code. -/
def mlCode (c : Nat) : Nat × Nat :=
  if c < 32 then (c + 3, 0)
  else ([(35, 1), (37, 1), (39, 1), (41, 1), (43, 2), (47, 2), (51, 3), (59, 3), (67, 4), (83, 4), (99, 5)].getD (c - 32)
    (2 ^ (c - 36) + 3, c - 36))

/-- The table of one of the three codes, by its mode. -/
def zTable (mode maxLog maxSym : Nat) (dflt : FseTable) (prev : Option FseTable) (bs : List Byte) : Option (FseTable × List Byte) :=
  match mode with
  | 0 => some (dflt, bs)
  | 1 => match bs with
    | [] => none
    | b :: rest => if maxSym < b.toNat then none else some ((0, #[(b.toNat, 0, 0)]), rest)
  | 2 => fseRead maxLog maxSym bs
  | _ => prev.map fun t => (t, bs)

/-- The offset of a sequence and the three last offsets after it. -/
def zOffset (reps : Nat × Nat × Nat) (value ll : Nat) : Nat × (Nat × Nat × Nat) :=
  let (a, b, c) := reps
  if 3 < value then (value - 3, (value - 3, a, b))
  else match value - 1 + (if ll == 0 then 1 else 0) with
    | 0 => (a, (a, b, c))
    | 1 => (b, (b, a, c))
    | 2 => (c, (c, a, b))
    | _ => (a - 1, (a - 1, a, b))

/-- `n` bytes copied from `off` back. -/
def zCopy (off : Nat) : Nat → Array Byte → Array Byte
  | 0, out => out
  | n + 1, out => zCopy off n (out.push (out.getD (out.size - off) 0))

/-- The sequences of a block carried out: the frame and the literals left. -/
def zSequences (tl to_ tm : FseTable) (v : Nat) : Nat → Nat → Nat → Nat → Nat → Zframe → List Byte → Option (Zframe × List Byte)
  | 0, pos, _, _, _, z, lits => if pos == 0 then some (z, lits) else none
  | n + 1, pos, sl, so, sm, z, lits =>
    let (cl, bl, nl) := tl.at_ sl
    let (co, bo, no) := to_.at_ so
    let (cm, bm, nm) := tm.at_ sm
    let (llBase, llBits) := llCode cl
    let (mlBase, mlBits) := mlCode cm
    let extra := co + mlBits + llBits
    let renew := if n == 0 then 0 else bl + bm + bo
    if pos < extra + renew then none
    else
      let value := 2 ^ co + revPeek v pos co
      let ml := mlBase + revPeek v (pos - co) mlBits
      let ll := llBase + revPeek v (pos - co - mlBits) llBits
      let p := pos - extra
      let (off, reps) := zOffset z.reps value ll
      let out := z.out ++ (lits.take ll).toArray
      if lits.length < ll || off == 0 || out.size < off || 65536 < off || 65536 < out.size + ml then none
      else
        let z1 := { z with reps := reps, out := zCopy off ml out }
        if n == 0 then zSequences tl to_ tm v n p sl so sm z1 (lits.drop ll)
        else zSequences tl to_ tm v n (p - renew) (nl + revPeek v p bl) (no + revPeek v (p - bl - bm) bo) (nm + revPeek v (p - bl) bm)
          z1 (lits.drop ll)

/-- The number of sequences and the bytes behind it. -/
def zCount (bs : List Byte) : Option (Nat × List Byte) :=
  match bs with
  | [] => none
  | a :: rest =>
    if a.toNat < 128 then some (a.toNat, rest)
    else match rest with
      | [] => none
      | b :: rest2 =>
        if a.toNat < 255 then some ((a.toNat - 128) * 256 + b.toNat, rest2)
        else match rest2 with
          | [] => none
          | c :: rest3 => some (b.toNat + 256 * c.toNat + 0x7F00, rest3)

/-- A compressed block. -/
def zBlock (z : Zframe) (bs : List Byte) : Option Zframe :=
  match zLiterals z bs with
  | none => none
  | some (lits, z1, rest) => match zCount rest with
    | none => none
    | some (0, tail) => if tail.isEmpty then some { z1 with out := z1.out ++ lits.toArray } else none
    | some (_, []) => none
    | some (n, modes :: r0) =>
      let m := modes.toNat
      if m % 4 != 0 then none
      else match zTable (m / 64) 9 35 llDefault z1.ll r0 with
        | none => none
        | some (tl, r1) => match zTable (m / 16 % 4) 8 31 offDefault z1.off r1 with
          | none => none
          | some (to_, r2) => match zTable (m / 4 % 4) 9 52 mlDefault z1.ml r2 with
            | none => none
            | some (tm, r3) => match revStart r3 with
              | none => none
              | some (v, top) =>
                if top < tl.1 + to_.1 + tm.1 then none
                else
                  let z2 := { z1 with ll := some tl, off := some to_, ml := some tm }
                  (zSequences tl to_ tm v n (top - tl.1 - to_.1 - tm.1) (revPeek v top tl.1) (revPeek v (top - tl.1) to_.1)
                    (revPeek v (top - tl.1 - to_.1) tm.1) z2 lits).map fun e => { e.1 with out := e.1.out ++ e.2.toArray }

/-- The blocks of a frame, and the bytes behind the last. -/
def zBlocks : Nat → Zframe → List Byte → Option (Zframe × List Byte)
  | 0, _, _ => none
  | f + 1, z, bs =>
    let v := leNat (bs.take 3)
    let size := v / 8
    let body := bs.drop 3
    let kind := v / 2 % 4
    let need := if kind == 1 then 1 else size
    if bs.length < 3 || body.length < need || 65536 < size then none
    else match (match kind with
        | 0 => some { z with out := z.out ++ (body.take size).toArray }
        | 1 => some { z with out := z.out ++ Array.replicate size (body.headD 0) }
        | 2 => zBlock z (body.take size)
        | _ => none) with
      | none => none
      | some z1 =>
        if 65536 < z1.out.size then none
        else if v % 2 == 1 then some (z1, body.drop need)
        else zBlocks f z1 (body.drop need)

/-! ### The content checksum: the low 32 bits of XXH64 -/

def xxP1 : Nat := 0x9E3779B185EBCA87
def xxP2 : Nat := 0xC2B2AE3D27D4EB4F
def xxP3 : Nat := 0x165667B19E3779F9
def xxP4 : Nat := 0x85EBCA77C2B2AE63

def xxRotl (x k : Nat) : Nat := x * 2 ^ k % 2 ^ 64 + x / 2 ^ (64 - k)
def xxRound (acc lane : Nat) : Nat := xxRotl ((acc + lane * xxP2) % 2 ^ 64) 31 * xxP1 % 2 ^ 64

/-- The four accumulators over stripes of 32 bytes. -/
def xxStripes : Nat → List Byte → Nat × Nat × Nat × Nat → Nat × Nat × Nat × Nat
  | 0, _, a => a
  | n + 1, bs, (a, b, c, d) =>
    let lane (k : Nat) : Nat := leNat ((bs.drop (8 * k)).take 8)
    xxStripes n (bs.drop 32) (xxRound a (lane 0), xxRound b (lane 1), xxRound c (lane 2), xxRound d (lane 3))

/-- XXH64 of a list whose length is a multiple of 32. -/
def xxh64 (bs : List Byte) : Nat :=
  let (a, b, c, d) := xxStripes (bs.length / 32) bs ((xxP1 + xxP2) % 2 ^ 64, xxP2, 0, 2 ^ 64 - xxP1)
  let h := (xxRotl a 1 + xxRotl b 7 + xxRotl c 12 + xxRotl d 18) % 2 ^ 64
  let h := [a, b, c, d].foldl (fun h v => ((h ^^^ xxRound 0 v) * xxP1 + xxP4) % 2 ^ 64) h
  let h := (h + bs.length) % 2 ^ 64
  let h := (h ^^^ (h / 2 ^ 33)) * xxP2 % 2 ^ 64
  let h := (h ^^^ (h / 2 ^ 29)) * xxP3 % 2 ^ 64
  h ^^^ (h / 2 ^ 32)

/-- Decodes a streamed page (14 R309): the 65536 bytes of exactly one frame of one segment without a dictionary. -/
def zstdPage (bs : List Byte) : Option (List Byte) :=
  match bs with
  | m0 :: m1 :: m2 :: m3 :: d :: rest =>
    let h := d.toNat
    let (n, bias) := match h / 64 with
      | 0 => (1, 0)
      | 1 => (2, 256)
      | 2 => (4, 0)
      | _ => (8, 0)
    if [m0, m1, m2, m3] != [0x28, 0xB5, 0x2F, 0xFD] || h / 32 % 2 == 0 || h / 8 % 2 == 1 || h % 4 != 0 || rest.length < n ||
       leNat (rest.take n) + bias != 65536 then none
    else
      match zBlocks (rest.length + 1) { huff := none, ll := none, off := none, ml := none, reps := (1, 4, 8), out := #[] } (rest.drop n) with
      | none => none
      | some (z, tail) =>
        let out := z.out.toList
        if out.length != 65536 then none
        else if h / 4 % 2 == 1 then (if tail.length == 4 && leNat tail == xxh64 out % 2 ^ 32 then some out else none)
        else if tail.isEmpty then some out else none
  | _ => none

end Sys2Proof.Machine
end

