-- ==== Sys2Proof/Machine/Textures.lean ====
section
/-! DEFINITION. `TEX`, `TEX.wait` and `TLD` (12 R273, R274), filtering (14 R306, R307) and the streaming engine (14 R308,
R309). -/

namespace Sys2Proof.Machine

open Sys2Proof

/-! ### Coordinates (14 R307) -/

/-- `a / b` rounded half to even. -/
def rhe (a b : Nat) : Nat :=
  let q := a / b
  let r := a % b
  if b < 2 * r || (2 * r == b && q % 2 == 1) then q + 1 else q

/-- `u·W − 0.5` as a numerator over `2 ^ K`. -/
def coordN (u : FVal) (w : Nat) : Int × Nat :=
  match u with
  | .fin s m e _ =>
    let k := max 1 (-e).toNat
    let n : Nat := m * w * 2 ^ (e + k).toNat
    ((if s then -(n : Int) else n) - (2 ^ (k - 1) : Nat), k)
  | _ => (0, 1)

/-- Index and fraction in 1/256 of a bilinear coordinate. -/
def coordLinear (u : FVal) (w : Nat) : Int × Nat :=
  let (n, k) := coordN u w
  let q := rhe ((n % (2 ^ k : Nat)).toNat * 256) (2 ^ k)
  if q == 256 then (n / (2 ^ k : Nat) + 1, 0) else (n / (2 ^ k : Nat), q)

/-- Index of the nearest texel. -/
def coordNearest (u : FVal) (w : Nat) : Int :=
  let (n, k) := coordN u w
  Int.neg (Int.neg (n - (2 ^ (k - 1) : Nat)) / (2 ^ k : Nat))

/-- A texel index wrapped or clamped. -/
def fitIndex (wrap : Bool) (i : Int) (w : Nat) : Nat :=
  if wrap then (i % (w : Int)).toNat else (max 0 (min i ((w : Int) - 1))).toNat

def levelDim (w l : Nat) : Nat := max 1 (w / 2 ^ l)

/-- A texel that takes part in a sample: weight over `2 ^ 24`, level and position. -/
structure Tap where
  weight : Nat
  level : Nat
  x : Nat
  y : Nat
  deriving DecidableEq, Repr

/-- A coordinate of a level: one or two indices with weights over 256. An infinite coordinate clamps to its edge; where it
wraps, the device does not say to which texel (`free`). -/
def axisTaps (t : Tex) (free : Nat) (u : FVal) (w : Nat) : List (Nat × Nat) :=
  match u with
  | .inf s => [(if t.wrap then free % w else if s then 0 else w - 1, 256)]
  | .nan _ => []
  | v =>
    if t.filter == 0 then [(fitIndex t.wrap (coordNearest v w) w, 256)]
    else
      let (i, f) := coordLinear v w
      [(fitIndex t.wrap i w, 256 - f), (fitIndex t.wrap (i + 1) w, f)].filter fun p => p.2 != 0

/-- The texels of one level, their weights times `scale` over 256. -/
def levelTaps (t : Tex) (free : Nat) (u v : FVal) (l scale : Nat) : List Tap :=
  (axisTaps t (free + 1) v (levelDim t.h l)).flatMap fun b => (axisTaps t free u (levelDim t.w l)).map fun a =>
    { weight := a.2 * b.2 * scale, level := l, x := a.1, y := b.1 }

/-- The level of detail clamped, over `2 ^ K`. -/
def lodN (t : Tex) (lod : FVal) : Nat × Nat :=
  match lod with
  | .nan _ => (0, 0)
  | .inf s => (if s then 0 else t.levels - 1, 0)
  | .fin s m e _ => if s then (0, 0) else let k := (-e).toNat; (min (m * 2 ^ (e + k).toNat) ((t.levels - 1) * 2 ^ k), k)

/-- The level requested and the texels of the sample. -/
def sampleTaps (t : Tex) (free : Nat) (u v lod : FVal) : Nat × List Tap :=
  let (n, k) := lodN t lod
  if t.filter == 2 then
    let l := n / 2 ^ k
    let q := rhe (n % 2 ^ k * 256) (2 ^ k)
    (l, (levelTaps t free u v l (256 - q) ++ levelTaps t free u v (l + 1) q).filter fun p => p.weight != 0)
  else let l := rhe n (2 ^ k); (l, levelTaps t free u v l 256)

/-! ### Texels -/

def Tex.size (t : Tex) : Nat := match t.fmt with
  | 0 => 4
  | 1 => 8
  | 2 => 16
  | _ => 4

/-- The four channels of a texel as FP32 bits. -/
def texel (fmt : Nat) (bs : List Byte) : List Word :=
  let part (n k : Nat) : Nat := leNat ((bs.drop (n * k)).take n)
  match fmt with
  | 0 => (List.range 4).map fun k => rne (fdivX (.fin false (part 1 k) 0 false) (.fin false 255 0 false)).v
  | 1 => (List.range 4).map fun k => rne (fmtF16.decode (part 2 k))
  | 2 => (List.range 4).map fun k => BitVec.ofNat 32 (part 4 k)
  | _ => [BitVec.ofNat 32 (part 4 0), 0, 0, 0x3F800000]

/-- A level of a texture and its offset; an offset that is no multiple of 65536 breaks a limit. -/
def levelAt (s : State) (i : Iss) (t : Tex) (l : Nat) : Except Trap Nat :=
  match laneBytes s i (t.loff + 8 * l) 8 with
  | .error e => .error e
  | .ok bs => if leNat bs % 65536 == 0 then .ok (t.base + leNat bs) else .error (mkTrap illegalOperand 0)

def texelAddr (t : Tex) (at_ l x y : Nat) : Nat := (at_ + (y * levelDim t.w l + x) * t.size) % 2 ^ 64

/-- A 64 KiB page of a texture: its address and its number counted from BASE. -/
def texPage (t : Tex) (a : Nat) : Nat × Nat := (t.base + (a - t.base) / 65536 * 65536, (a - t.base) / 65536)

/-- Whether the page of an address is resident. -/
def isResident (s : State) (i : Iss) (t : Tex) (a : Nat) : Except Trap Bool :=
  if t.ctier == 0 then .ok true
  else (laneBytes s i (t.resmask + (texPage t a).2 / 8) 1).map fun bs => bitOf (leNat bs) ((texPage t a).2 % 8)

/-- Addresses of the texels of a sample. -/
def tapAddrs (s : State) (i : Iss) (t : Tex) (ts : List Tap) : Except Trap (List Nat) :=
  mapE (fun p => (levelAt s i t p.level).map fun a => texelAddr t a p.level p.x p.y) ts

/-- The pages of a sample that are not resident. -/
def missing (s : State) (i : Iss) (t : Tex) (as : List Nat) : Except Trap (List Nat) :=
  (mapE (fun a => (isResident s i t a).map fun r => (a, r)) as).map fun rs => (rs.filter fun r => !r.2).map (·.1)

/-- The exact weighted sum of a channel, rounded once. A NaN or an infinity among the texels of non-zero weight makes it the
canonical NaN, but for texels that all are infinities of one sign. -/
def blendTaps (ts : List Tap) (vals : List (List Word)) (k : Nat) : Word :=
  let ps := (ts.zip vals).filter fun p => p.1.weight != 0
  let us := ps.map fun p => f32 (p.2.getD k 0)
  if us.any fun u => u.isNan || u == .inf true || u == .inf false then
    match us with
    | u :: rest => if !u.isNan && rest.all (· == u) then rne u else rne (.nan false)
    | [] => 0
  else match ps.map fun p => (fmulX (.fin false p.1.weight (-24) false) (f32 (p.2.getD k 0))).v with
    | [] => 0
    | v :: vs => rne (vs.foldl (fun a b => (faddX false a b).v) v)

/-- The sample at addresses that are resident. -/
def sampleAt (s : State) (i : Iss) (t : Tex) (ts : List Tap) (as : List Nat) : Except Trap (List Word) :=
  (mapE (fun a => (laneBytes s i a t.size).map (texel t.fmt)) as).map fun vals => (List.range 4).map (blendTaps ts vals)

/-- What one lane's request finds. -/
inductive TexLane where
  /-- its value and its bit, the pages to stream and the texels read -/
  | done (v : List Word) (bit : Bool) (pages : List Nat) (reads : List Nat)
  /-- it waits for all of these pages -/
  | need (pages : List Nat)

/-- The finest resident level coarser than `l` (12 R273). -/
def texFallback (s : State) (i : Iss) (t : Tex) (free : Nat) (u v : FVal) (pages : List Nat) : Nat → Nat → Except Trap TexLane
  | 0, _ => .ok (.need pages)
  | fuel + 1, l =>
    if t.levels ≤ l then .ok (.need pages)
    else
      let ts := levelTaps t free u v l 256
      match tapAddrs s i t ts with
      | .error e => .error e
      | .ok as => match missing s i t as with
        | .error e => .error e
        | .ok [] => (sampleAt s i t ts as).map fun c => .done c true pages as
        | .ok (_ :: _) => texFallback s i t free u v pages fuel (l + 1)

/-- One lane of `TEX` (`wait` false) or `TEX.wait`. -/
def texLane (s : State) (i : Iss) (t : Tex) (wait : Bool) (u v lod : Word) : Except Trap TexLane :=
  let z (w : Word) : FVal := match f32 w with
    | .nan _ => .fin false 0 0 false
    | x => x
  let free := Config.freeNat s.freeCtr
  let (l, ts) := sampleTaps t free (z u) (z v) (f32 lod)
  match tapAddrs s i t ts with
  | .error e => .error e
  | .ok as => match missing s i t as with
    | .error e => .error e
    | .ok [] => (sampleAt s i t ts as).map fun c => .done c false [] as
    | .ok ms => if wait then .ok (.need ms) else texFallback s i t free (z u) (z v) ms 16 (l + 1)

/-- One lane of `TLD`. -/
def tldLane (s : State) (i : Iss) (t : Tex) (x y l : Word) : Except Trap TexLane :=
  if t.levels ≤ l.toNat || levelDim t.w l.toNat ≤ x.toNat || levelDim t.h l.toNat ≤ y.toNat then .ok (.done [0, 0, 0, 0] false [] [])
  else match levelAt s i t l.toNat with
    | .error e => .error e
    | .ok b =>
      let a := texelAddr t b l.toNat x.toNat y.toNat
      match missing s i t [a] with
      | .error e => .error e
      | .ok [] => (laneBytes s i a t.size).map fun bs => .done (texel t.fmt bs) false [] [a]
      | .ok ms => .ok (.need ms)

/-! ### The instructions -/

/-- Starts the streams of pages, where none is under way. -/
def startStreams (s : State) (x : Session) (t : Tex) (pages : List Nat) : State :=
  pages.foldl (fun (u : State) a =>
    let (p, n) := texPage t a
    let pg := BitVec.ofNat 64 p
    if u.textures.any fun y => y.session == x.slot && y.page == pg then u
    else { u with textures := u.textures ++ [{ session := x.slot, page := pg, index := n, resmask := BitVec.ofNat 64 t.resmask,
                                               ctier := BitVec.ofNat 64 t.ctier, age := 0 }] }) s

def Iss.ref (i : Iss) (l : Nat) : LaneRef := { gid := i.group.gid, band := i.band, lane := l }

/-- Whether a lane waited for a page whose stream has failed. -/
def State.texFailed (s : State) (r : LaneRef) : Bool := s.texFails.any fun f => f.lanes.contains r

def State.texForget (s : State) (rs : List LaneRef) : State :=
  { s with texFails := ((s.texFails.map fun (f : TexFail) => { f with lanes := f.lanes.filter fun r => !rs.contains r }).filter
      fun (f : TexFail) => !f.lanes.isEmpty) }

/-- The pages whose streams a lane of a texture instruction waits for. -/
def texPages (t : Tex) (as : List Nat) : List Dword := (as.map fun a => BitVec.ofNat 64 (texPage t a).1).dedup

/-- What the lanes of a texture instruction work with, each its descriptor and operands: those read at its issue where it has
waited, else read now. -/
def texOperands (s : State) (i : Iss) (en : LaneMask) (f : RForm) : Except Halt (List (Nat × Nat × List Word)) :=
  let held (l : Nat) : Option (BitVec 512 × List Word × List Dword) := (i.group.lane i.band l).tex
  match if (i.lanes en).all fun l => (held l).isSome then .ok none else (readDesc s i en f.b).map some with
  | .error e => .error e
  | .ok d =>
    if d.any fun v => !texOk v then .error illOp
    else mapLanes (i.lanes en) (fun l => match held l with
      | some h => .ok (l, h.1.toNat, h.2.1)
      | none => (rdRun s i l f.a 3).map fun a => (l, d.getD 0, a))

/-- What each lane of a texture instruction finds; a lane whose stream has failed is answered with zeros. -/
def texRun (s : State) (i : Iss) (en : LaneMask) (f : RForm) (lane : State → Iss → Tex → List Word → Except Trap TexLane) :
    Except Halt (List (Nat × Nat × List Word × TexLane)) :=
  match texOperands s i en f with
  | .error e => .error e
  | .ok xs => gather false (xs.map fun x => (x.1,
      (if s.texFailed (i.ref x.1) then .ok (TexLane.done [0, 0, 0, 0] true [] []) else lane s i (texOf x.2.1) x.2.2).map fun r =>
        (x.1, x.2.1, x.2.2, r)))

/-- The texture instruction of a unit is over: its lanes hold nothing of it. -/
def State.texEnd (s : State) (i : Iss) : State := s.modLanes i i.active fun _ y => { y with tex := none }

/-- A texture instruction: every lane answered, or the unit waits for pages. `k`: the mask of the fallback bits. -/
def texBody (f : RForm) (k : Option Nat) (lane : State → Iss → Tex → List Word → Except Trap TexLane) : Body := fun i en s =>
  let refs := (i.lanes en).map i.ref
  let fail (e : Halt) : Except Halt State := match e with
    | .trap t => .ok ((((s.unkill i).texEnd i).texForget refs).takeTrap i en t)
    | .wait w => .error (.wait w)
  match texRun s i en f lane with
  | .error e => fail e
  | .ok rs =>
    -- the descriptor has been read now where a lane has not issued the instruction before
    let s0 := if (i.lanes en).all fun l => (i.group.lane i.band l).tex.isSome then s else noteDesc s i f.b
    let s1 := rs.foldl (fun (u : State) r => match r.2.2.2 with
      | .done _ _ ps _ => startStreams u i.sess (texOf r.2.1) ps
      | .need ps => startStreams u i.sess (texOf r.2.1) ps) s0
    let needs (r : Nat × Nat × List Word × TexLane) : List Dword := match r.2.2.2 with
      | .done _ _ _ _ => []
      | .need ps => texPages (texOf r.2.1) ps
    if rs.all fun r => (needs r).isEmpty then
      match foldLanes (fun (u : State) (r : Nat × Nat × List Word × TexLane) => match r.2.2.2 with
        | .need _ => .ok u
        | .done v b _ as =>
          let u1 := as.foldl (fun (q : State) a => noteRead q i a (texOf r.2.1).size) u
          (wrRun u1 i r.1 f.d 0 v).map fun u2 => match k with
            | some n => u2.wrK i r.1 n b
            | none => u2) s1 rs with
      | .error e => fail e
      | .ok u => .ok (((u.texEnd i).texForget refs).advance i i.active)
    else .ok ((s1.unkill i).modLanes i i.active fun l y =>
      { y with wait := .texture
               tex := (rs.find? fun r => r.1 == l).map fun r => (BitVec.ofNat 512 r.2.1, r.2.2.1, needs r) })

def viewTex (f : RForm) : View := viewGfx 0xE8 f [.drun f.d 4, .run f.a 3, .greg f.b false 1, .mask f.c]

/-- The three words of a texture request. -/
def with3 (g : Word → Word → Word → Except Trap TexLane) (xs : List Word) : Except Trap TexLane := g (xs.getD 0 0) (xs.getD 1 0) (xs.getD 2 0)

/-- `TEX`. -/
def execTex (f : RForm) (s : State) : Result :=
  issueHold s (fun _ => viewTex f) (texBody f (some f.c.idx.toNat) fun s i t => with3 (texLane s i t false))

/-- `TEX.wait`. -/
def execTexWait (f : RForm) (s : State) : Result :=
  issueHold s (fun _ => viewTex f) (texBody f (some f.c.idx.toNat) fun s i t => with3 (texLane s i t true))

def viewTld (f : RForm) : View := viewGfx 0xE9 f [.drun f.d 4, .run f.a 3, .greg f.b false 1, .off f.c]

/-- `TLD`. -/
def execTld (f : RForm) (s : State) : Result :=
  issueHold s (fun _ => viewTld f) (texBody f none fun s i t => with3 (tldLane s i t))

/-! ### The streaming engine (14 R308, R309) -/

/-- The bytes of a streamed page; none where the stream fails. -/
def streamPage (s : State) (x : Session) (t : TexStream) : Except Trap (Option (List Byte)) :=
  (s.accRead x false (t.ctier.toNat + 16 * t.index) 16).map fun bs =>
    let v := leNat bs
    let off := fld v 0 64
    let size := fld v 8 32
    let flags := fld v 12 32
    if !s.ctrl.linkUp || flags > 1 || size == 0 || 131072 < size then none
    else
      let raw := Config.hostBytes s.freeCtr off size
      if flags == 1 then (if size == 65536 then some raw else none)
      else match zstdPage raw with
        | some d => if d.length == 65536 then some d else none
        | none => none

/-- Whether a lane waits for a page. -/
def Lane.awaitsPage (y : Lane) (page : Dword) : Bool := y.tex.any fun h => h.2.2.contains page

/-- Lanes that wait for a page. -/
def waitingFor (s : State) (sess : Nat) (page : Dword) : List LaneRef :=
  (s.residents.filter fun r => r.2.session == sess).flatMap fun r => (List.range r.2.bands.length).flatMap fun b =>
    (List.range 32).filterMap fun l => if (r.2.lane b l).awaitsPage page then some { gid := r.2.gid, band := b, lane := l } else none

/-- A lane after the stream of a page has ended: with a failure it is answered, whatever else it waits for. -/
def Lane.pageEnd (y : Lane) (page : Dword) (failed : Bool) : Lane :=
  if y.awaitsPage page then
    { y with tex := y.tex.map fun h => (h.1, h.2.1, if failed then [] else h.2.2.filter fun p => p != page) }
  else y

/-- The texture instructions of a band no lane of which waits for a page any more issue again. -/
def Band.texWake (b : Band) : Band :=
  { b with lanes := b.lanes.map fun y =>
      if y.wait == .texture && b.lanes.all (fun z => !(z.wait == .texture && z.pc == y.pc) || z.tex.all fun h => h.2.2.isEmpty) then
        { y with wait := .none }
      else y }

/-- What the end of a page's stream does to the lanes that wait for it. -/
def wakeTexture (s : State) (sess : Nat) (page : Dword) (failed : Bool) : State :=
  let one (g : Group) : Group :=
    if g.session != sess then g
    else { g with bands := g.bands.map fun b =>
      if b.lanes.any fun y => y.awaitsPage page then ({ b with lanes := b.lanes.map fun y => y.pageEnd page failed } : Band).texWake else b }
  { s with cores := s.cores.map fun c => { c with active := { c.active with groups := c.active.groups.map one } } }

/-- A stream ends. -/
def dropStream (s : State) (t : TexStream) (failed : Bool) : State :=
  wakeTexture { s with textures := s.textures.filter fun y => y != t, freeCtr := s.freeCtr + 1 } t.session t.page failed

/-- A stream fails: its lanes will be answered with zeros. -/
def failStream (s : State) (t : TexStream) : State :=
  let s1 := dropStream { s with texFails := s.texFails ++ [{ session := t.session, page := t.page, lanes := waitingFor s t.session t.page }] } t true
  s1.modSession t.session fun x => { x with streamFails := x.streamFails + 1 }

/-- Steps 3 and 4 of 14 R308. -/
def storePage (s : State) (x : Session) (t : TexStream) (d : List Byte) : Except Trap State :=
  match s.accWrite x false t.page.toNat d with
  | .error e => .error e
  | .ok s1 =>
    let a := t.resmask.toNat + t.index / 8
    match s1.accRead x false a 1 with
    | .error e => .error e
    | .ok bs => (s1.accWrite x false a [BitVec.ofNat 8 (leNat bs ||| 2 ^ (t.index % 8))]).map fun s2 => dropStream s2 t false

/-- `TEXTURE_STREAM_COMPLETE`: a good page is written, its bit set, and its lanes go on. -/
def execTextureStreamComplete (n : Nat) (s : State) : Result :=
  match s.textures[n]? with
  | none => .next s
  | some t => match s.session? t.session with
    | none => .next s
    | some x => .next (s.unitRun x 0 (fun u => match streamPage u x t with
        | .error e => .error e
        | .ok none => .ok u
        | .ok (some d) => storePage u x t d) fun u => failStream u t)

/-- `TEXTURE_STREAM_FAIL`: a page the decoder refuses, or a host-link error. -/
def execTextureStreamFail (n : Nat) (s : State) : Result :=
  match s.textures[n]? with
  | none => .next s
  | some t => match s.session? t.session with
    | none => .next s
    | some x => .next (s.unitRun x 0 (fun u => match streamPage u x t with
        | .error e => .error e
        | .ok none => .ok (failStream u t)
        | .ok (some _) => .ok u) fun u => failStream u t)

end Sys2Proof.Machine
end

