-- ==== Sys2Proof/Machine/Txn.lean ====
section
/-! DEFINITION. Lane transactions, OP 0x76 and 0x77 (09 R206 to R213). -/

namespace Sys2Proof.Machine

open Sys2Proof

/-- A lane's transaction opened: empty sets, its abort target recorded (09 R206). -/
def Lane.openTxn (x : Lane) (serial : Bool) (target : Pc) : Lane :=
  { x with txn := { x.txn.closed with active := true, serial := serial, target := target } }

def viewXbegin (f : BForm) : View := { viewB 0x76 f false false [.off f.a] with lead := false }

/-- One lane's `XBEGIN`: nested, serial under the commit token (09 R213), or plain. The opening is an acquire at `.dev` (06 R126). -/
def beginLane (s : State) (i : Iss) (l : Nat) (target : Pc) : State :=
  let x := i.group.lane i.band l
  let r : LaneRef := { gid := i.group.gid, band := i.band, lane := l }
  if x.txn.active then s.abortLane i l 9 0
  else if x.txn.aborts == 8 then
    match s.session? i.sess.slot with
    | none => s
    | some y =>
      if y.tokenHolder.isNone && y.tokenQueue.isEmpty then
        (((s.acquire i.core 3).modSession i.sess.slot fun z => { z with tokenHolder := some r }).modLanes i (maskOf (· == l))
          fun _ z => z.openTxn true target).advance i (maskOf (· == l))
      else
        (s.modSession i.sess.slot fun z => { z with tokenQueue := z.tokenQueue ++ [r] }).modLanes i (maskOf (· == l))
          fun _ z => { z with wait := .token, txn := { z.txn with target := target } }
  else ((s.acquire i.core 3).modLanes i (maskOf (· == l)) fun _ z => z.openTxn false target).advance i (maskOf (· == l))

/-- `XBEGIN`. A transaction that opens is an acquire at `.dev`; one that waits for the token opens later. -/
def execXbegin (f : BForm) (s : State) : Result :=
  issue s (fun _ => viewXbegin f) true false fun i en s =>
    let target := directTarget i.pc f.loff f.slot 0
    match mapLanes (i.lanes en) (fun l => checkTarget s i l false target) with
    | .error e => .error e
    | .ok _ => .ok ((i.lanes en).foldl (fun t l => beginLane t i l target) s)

def noTxn (l : Nat) : Halt := memTrap false l (mkTrap illegalInstr 3)

/-- The lowest enabled lane with no open transaction stops `XEND` and `XABORT`. -/
def needTxn (i : Iss) (en : LaneMask) : Except Halt Unit :=
  eachE (fun l => if (i.group.lane i.band l).txn.active then .ok () else .error (noTxn l)) (i.lanes en)

/-- The lines a transaction has stored to. -/
def Txn.stores (x : Txn) : List TxLine := x.touched.filter fun e => e.wr

/-- A commit that meets a trap before its stores are performed: in an unversioned launch a page on which the transaction has stored may
have become a content page since, whose sub-page is copied first (05 R110), and a line may have been poisoned. -/
def commitReady (s : State) (i : Iss) (l : Nat) : Except Trap State :=
  if i.group.buffering then .ok s
  else
    let ea (e : TxLine) : Dword := BitVec.ofNat 64 (64 * e.vline)
    let cow (t : State) (e : TxLine) : Except Trap State :=
      match t.walk i.sess (64 * e.vline % 2 ^ 48) with
      | .leaf lf => if lf.content && !bitOf lf.omask (64 * e.vline % 4096 / 512) then
          t.cowPage i.sess (i.self l) (ea e) (subsOf (64 * e.vline) 64) else .ok t
      | _ => .ok t
    match foldE cow s (txnOf s i l).stores with
    | .error t => .error t
    | .ok s1 => match (txnOf s1 i l).stores.find? fun e => (s1.badIn i.sess [e.pline]).isSome with
      | some e => .error (poisonTrap (ea e) (some e.pline))
      | none => .ok s1

/-- The buffered bytes of a transaction performed at one point: in memory through the caches its pages and hints allow, or in the
task's version (09 R209, R214); its lines enter the write signature of a versioned task (20 R350). -/
def commitBuf (s : State) (i : Iss) (l : Nat) (x : Txn) : State :=
  let line? (va : Nat) : Option TxLine := x.touched.find? fun e => e.vline == va / 64
  let put (t : State) (e : Nat × Byte) : State :=
    let u := match line? e.1 with
      | some o => t.useFor i.sess i.group.gid o.hint { bits := o.leaf.toNat, big := false, at_ := 0 } e.1
      | none => .llc
    t.putByte i.sess i.group.gid (i.self l) u (x.pa e.1) [e.2]
  let s1 := if i.group.buffering then
      (s.doom (fun g => g.gid == i.group.gid) (i.self l) x.wset).modGroup i.group.gid fun g =>
        { g with
          ver := g.ver.map fun v =>
            { v with
              bytes := x.buf.foldl (fun m e => alSet m e.1 e.2) v.bytes
              hints := x.stores.foldl (fun m e => noteHint e.hint m e.vline) v.hints } }
    else x.buf.foldl put (s.doom (fun g => !g.buffering) (i.self l) x.wset)
  s1.modGroup i.group.gid fun g =>
    { g with ver := g.ver.map fun v => { v with ws := x.stores.foldl (fun a e => a ||| sigBits (64 * e.vline)) v.ws } }

/-- One lane's commit, or its abort with CONFLICT (09 R209), or with FAULT where its stores meet a trap. -/
def endLane (s : State) (i : Iss) (l : Nat) : State :=
  let x := txnOf s i l
  let holds := i.group.buffering || x.rvals.all fun e => s.physByte i.sess i.group.gid (x.pa e.1) == e.2
  if x.doomed || !holds then s.abortLane i l 1 0
  else match commitReady s i l with
  | .error t => (s.tagCheck i.sess t).abortLane i l 8 t.code.toNat
  | .ok s1 =>
    (((commitBuf s1 i l (txnOf s1 i l)).modLanes i (maskOf (· == l)) fun _ z =>
      { z with txn := { z.txn.closed with aborts := 0, cause := 0 } }).freeToken i.sess.slot
        { gid := i.group.gid, band := i.band, lane := l }).advance i (maskOf (· == l))

/-- Every field of `XEND` below TY is zero, the guard too. -/
def viewXend (f : RForm) : View :=
  { viewR 0x77 ty0 f plain [.off f.d, .off f.a, .off f.b, .off f.c] with lead := false, noGuard := true }

/-- `XEND`: the lanes commit one after another; a commit is a release at `.dev`. A lane whose lines another serial transaction
holds waits for its end; a trap of a serial transaction's stores is taken (09 R213). -/
def execXend (f : RForm) (s : State) : Result :=
  issue s (fun _ => viewXend f) true false fun i en s =>
    match needTxn i en with
    | .error e => .error e
    | .ok () =>
      let lines (l : Nat) : List Nat := (txnOf s i l).wset
      let held := maskOf fun l => en.getLsbD l && s.heldFrom i.group (i.self l) (lines l)
      let ls := (i.lanes en).filter fun l => !held.getLsbD l
      let commit : State := (ls.foldl (fun t l => endLane t i l) (s.releaseAt i.core 3)).holdLanes i held lines
      if held != 0 && !i.tokenHere then .error (.wait (holdWait held lines))
      else match eachE (fun l => if (txnOf s i l).serial then (match commitReady s i l with
          | .error t => .error (memTrap false l t)
          | .ok _ => .ok ()) else .ok ()) ls with
      | .error e => .error e
      | .ok () => match s.overCapacity i.group (ls.flatMap fun l => (txnOf s i l).buf.map (·.1)) with
        | some sub => if i.group.buffering then .error (.trap { mkTrap versionCapacity sub with field := 8 }) else .ok commit
        | none => .ok commit

def viewXabort (f : RForm) : View :=
  { viewR 0x77 ty0 f plain [.off f.d, .off f.a, .src f.b, .off f.c] with lead := false }

/-- `XABORT`. -/
def execXabort (f : RForm) (s : State) : Result :=
  issue s (fun _ => viewXabort f) true false fun i en s =>
    match needTxn i en with
    | .error e => .error e
    | .ok () => perLane i en s (fun l => rd1 s i l f.b) fun t l v => .ok (t.abortLane i l 4 (v.toNat % 256))

/-- The transaction status word (09 R211). -/
def Txn.status (x : Txn) : Word :=
  BitVec.ofNat 32 (b2n x.active * 2 ^ 21 + b2n (x.active && x.serial) * 2 ^ 20 + x.aborts % 16 * 2 ^ 16 + x.detail.toNat * 256 +
    x.cause.toNat)

def viewXtest (f : RForm) : View :=
  { viewR 0x77 ty0 f plain [.dst f.d, .off f.a, .off f.b, .off f.c] with lead := false }

/-- `XTEST`. -/
def execXtest (f : RForm) (s : State) : Result :=
  issue s (fun _ => viewXtest f) false false fun i en s =>
    perLane i en s (fun l => .ok (i.group.lane i.band l).txn.status) fun t l v => wr1 t i l .b32 f.d v

end Sys2Proof.Machine
end

