-- ==== Sys2Proof/Machine/Queues.lean ====
section
/-! DEFINITION. Forward and back queues and the configuration of affine streams, OP 0xA0 to 0xA4 (10 R223 to R225;
01 R17 to R20). -/

namespace Sys2Proof.Machine

open Sys2Proof

/-- Places of a forward queue and of the back queue. -/
def fqCap : Nat := 32
def bqCap : Nat := 64

def Band.fqFull (b : Band) : Bool := decide (fqCap ≤ b.fq.length)

def Band.push (b : Band) (row : List Dword) : Band := { b with fq := b.fq ++ [row] }

/-- Bands of a group named by a mask. -/
def Group.bandsIn (g : Group) (m : LaneMask) : List Nat := (List.range g.bands.length).filter fun b => m.getLsbD b

/-- A row pushed to the bands of a mask. -/
def Group.pushRow (g : Group) (m : LaneMask) (row : List Dword) : Group :=
  { g with bands := g.bands.mapIdx fun b x => if m.getLsbD b then x.push row else x }

def Group.anyFull (g : Group) (m : LaneMask) : Bool := (g.bandsIn m).any fun b => match g.bands[b]? with
  | some x => x.fqFull
  | none => false

/-- Every band of the group. -/
def Group.allBands (g : Group) : LaneMask := maskOf fun b => decide (b < g.bands.length)

/-- View of a lead-stream push; `row`: 32 g registers; `all`: B unused. -/
def viewPushf (f : RForm) (row all : Bool) : View :=
  { viewR 0xA0 ty0 f plain [.off f.d, .greg f.a false (if row then 32 else 1), if all then .off f.b else .greg f.b false 1, .off f.c] with
    lane := false }

/-- The four pushes of the lead stream: to one band or to all, one value or 32. -/
def pushfBody (f : RForm) (row all : Bool) : Body := fun i _ s =>
  let b := (i.gReg f.b.idx.toNat).toNat % 32
  if !all && decide (i.group.bands.length ≤ b) then .error illOp
  else
    let m := if all then i.group.allBands else maskOf (· == b)
    let vs := if row then spGetList i.group.g f.a.idx.toNat 32 else List.replicate 32 (i.gReg f.a.idx.toNat)
    if i.group.anyFull m then .error (.wait (.fqPush m))
    else .ok (s.modGroupOn i.core i.group.gid fun g => g.pushRow m vs)

/-- `PUSHF`. -/
def execPushf (f : RForm) (s : State) : Result := issue s (fun _ => viewPushf f false false) false false (pushfBody f false false)

/-- `PUSHF.row`. -/
def execPushfRow (f : RForm) (s : State) : Result := issue s (fun _ => viewPushf f true false) false false (pushfBody f true false)

/-- `PUSHF.all`. -/
def execPushfAll (f : RForm) (s : State) : Result := issue s (fun _ => viewPushf f false true) false false (pushfBody f false true)

/-- `PUSHF.all.row`. -/
def execPushfAllRow (f : RForm) (s : State) : Result := issue s (fun _ => viewPushf f true true) false false (pushfBody f true true)

def queueTypes : List Ty := [.b32, .b64]

def viewPopf (f : RForm) : View :=
  { viewR 0xA1 queueTypes f plain [.dstT f.ty f.d, .off f.a, .off f.b, .off f.c] with lead := false }

/-- `POPF`: waits for an entry and removes it even where no lane is enabled (01 R17, 07 R138). -/
def execPopf (f : RForm) (s : State) : Result :=
  issue s (fun _ => viewPopf f) false true fun i en s =>
    match i.bandOf.fq with
    | [] => .error (.wait .fqPop)
    | row :: rest =>
      perLane i en (s.modGroupOn i.core i.group.gid fun g => g.modBand i.band fun b => { b with fq := rest })
        (fun l => .ok (row.getD l 0).toNat) fun t l v => wrT t i l f.ty f.d v

def viewPushb (f : RForm) : View :=
  { viewR 0xA2 queueTypes f plain [.off f.d, .srcT f.ty f.a, .off f.b, .off f.c] with lead := false }

/-- `PUSHB`: one entry per enabled lane, in ascending lane order. -/
def execPushb (f : RForm) (s : State) : Result :=
  issue s (fun _ => viewPushb f) false false fun i en s =>
    match mapLanes (lanesOf en) (fun l => (rdT s i l f.ty f.a).map fun v => (BitVec.ofNat 64 v, i.band, l)) with
    | .error e => .error e
    | .ok es =>
      if bqCap < i.group.bq.length + es.length then .error (.wait (.bqPush es.length))
      else .ok (s.modGroupOn i.core i.group.gid fun g => { g with bq := g.bq ++ es })

def viewPopb (f : RForm) : View :=
  { viewR 0xA3 ty0 f plain [.greg f.d true 2, .off f.a, .off f.b, .off f.c] with lane := false }

/-- `POPB`: value and tag. -/
def execPopb (f : RForm) (s : State) : Result :=
  issue s (fun _ => viewPopb f) false false fun i _ s =>
    match i.group.bq with
    | [] => .error (.wait .bqPop)
    | (v, b, l) :: rest =>
      .ok (((s.modGroupOn i.core i.group.gid fun g => { g with bq := rest }).putG i f.d.idx.toNat v).putG i (f.d.idx.toNat + 1)
        (BitVec.ofNat 64 (32 * b + l)))

/-! ### Affine streams (10 R224, R225) -/

/-- The stream number in C: bit 0, the rest zero. -/
def badStreamNo (c : Spec) : Bool := c.kill || c.bank || decide (2 ≤ c.idx.toNat)

def viewStream (f : RForm) (cfg : Bool) : View :=
  { viewR 0xA4 ty0 f plain [.off f.d, if cfg then .greg f.a false 5 else .off f.a, .off f.b] with
    lane := false, bad := badR f plain || badStreamNo f.c }

/-- A stream's configuration from its five registers. -/
def streamOf (r0 r1 r2 r3 r4 : Dword) : Stream :=
  { Stream.init with
    configured := true, base := r0
    n0 := bitsOf r1.toNat 15 0, n1 := bitsOf r1.toNat 31 16, n2 := bitsOf r1.toNat 47 32, n3 := bitsOf r1.toNat 63 48
    s0 := r2.setWidth 32, s1 := r2.extractLsb' 32 32, s2 := r3.setWidth 32, s3 := r3.extractLsb' 32 32
    ctrl := r4.setWidth 16 }

def Stream.all (x : Stream) : Bool := x.ctrl.getLsbD 10
def Stream.mode (x : Stream) : Bool := x.ctrl.getLsbD 9
def Stream.signed (x : Stream) : Bool := x.ctrl.getLsbD 8
def Stream.esize (x : Stream) : Nat := 2 ^ bitsOf x.ctrl.toNat 7 6
def Stream.band (x : Stream) : Nat := bitsOf x.ctrl.toNat 15 11

/-- A stream of a group by number. -/
def Group.stream (g : Group) (n : Nat) : Stream := g.streams.getD n Stream.init

def Group.modStream (g : Group) (n : Nat) (f : Stream → Stream) : Group := { g with streams := updAt f g.streams n }

/-- `STREAM.cfg`. -/
def execStreamCfg (f : RForm) (s : State) : Result :=
  issue s (fun _ => viewStream f true) false false fun i _ s =>
    let n := f.c.idx.toNat
    let r (j : Nat) : Dword := i.gReg (f.a.idx.toNat + j)
    let x := streamOf (r 0) (r 1) (r 2) (r 3) (r 4)
    if x.n0 == 0 || x.n1 == 0 || x.n2 == 0 || x.n3 == 0 || bitsOf (r 4).toNat 63 16 != 0 || bitsOf (r 4).toNat 5 0 != 0 ||
       (!x.all && decide (i.group.bands.length ≤ x.band)) then .error illOp
    else if (i.group.stream n).running then .error (.wait (.streamBusy n))
    else .ok (s.modGroupOn i.core i.group.gid fun g => g.modStream n fun _ => x)

/-- `STREAM.go`. -/
def execStreamGo (f : RForm) (s : State) : Result :=
  issue s (fun _ => viewStream f false) false false fun i _ s =>
    let n := f.c.idx.toNat
    let x := i.group.stream n
    if !x.configured then .error illOp
    else if x.running then .error (.wait (.streamBusy n))
    else .ok (s.modGroupOn i.core i.group.gid fun g => g.modStream n fun y =>
      { y with running := true, pos := 0, row := [], goPc := i.pc, status := .running })

end Sys2Proof.Machine
end

