-- ==== Sys2Proof/Machine/Issue.lean ====
section
/-! DEFINITION. What happens between the instructions of a core: runs (02 R40 to R43, 01 R25), arrivals, queue trouble
(01 R22), affine streams (10 R225), release at `REJOIN` (01 R27), barriers (09 R204, R205), `WAITF` (09 R203) and the
transactions' two steps (09 R212, R213). -/

namespace Sys2Proof.Machine

open Sys2Proof

/-! ### Runs -/

/-- A core issues while it is not between two contexts (20 R357). -/
def Core.mayIssue (c : Core) : Bool := match c.swap with
  | .quiesce _ => false
  | .exchange _ => false
  | _ => true

/-- Whether the members of a group's cluster are resident together (01 R7): none of them is swapped out. -/
def State.together (s : State) (g : Group) : Bool :=
  s.parked.all fun h => !(h.session == g.session && h.launch == g.launch && h.clusterFirst == g.clusterFirst)

/-- A band that may start a run (02 R41). -/
def Band.mayRun (g : Group) (b : Band) : Bool := g.phase == .running && b.started && b.lanes.any Lane.ready

/-- The bands of a slot that may start a run: group, band number and band. -/
def Core.eligible (c : Core) (slot : Nat) : List (Nat × Nat × Band) :=
  c.active.groups.flatMap fun g => (g.bands.zipIdx.filter fun (e : Band × Nat) => e.1.slot == slot && e.1.mayRun g).map
    fun (e : Band × Nat) => (g.gid, e.2, e.1)

/-- The captured instruction of a lane at a PC (01 R26). -/
def IssueSlot.hit? (x : IssueSlot) (gid band lane : Nat) (pc : Pc) : Option (BitVec 96) :=
  (x.loops.find? fun e => e.gid == gid && e.band == band && e.lane == lane && e.pc == pc).map (·.word)

/-- The broadcast address of a run (01 R25): the smallest waiting PC above the start of the previous run, or the
smallest. -/
def broadcast (last : Pc) (ps : List Pc) : Option Pc :=
  match argMin (fun (p : Pc) => p.toNat) (ps.filter fun (p : Pc) => decide (last.toNat < p.toNat)) with
  | some p => some p
  | none => argMin (fun (p : Pc) => p.toNat) ps

/-- PCs of the lanes of a band that wait for a broadcast: those that miss in their loop buffers, or all that are ready when
none misses. -/
def Band.waitingPcs (x : IssueSlot) (gid bi : Nat) (b : Band) : List Pc :=
  let ready := (List.range 32).filter fun l => (b.lane l).ready
  let miss := ready.filter fun l => (x.hit? gid bi l (b.lane l).pc).isNone
  (if miss.isEmpty then ready else miss).map fun l => (b.lane l).pc

/-- The order of 02 R41: the band whose last run ended longest ago, the lowest position among equals. -/
def Band.turnKey (b : Band) : Nat := b.lastEnd * 64 + b.pos

/-- `RUN_START`: a free slot starts a run. -/
def execRunStart (core slot : Nat) (s : State) : Result :=
  let c := s.core core
  match c.slots[slot]? with
  | none => .next s
  | some x =>
    if x.run.isSome || !c.mayIssue then .next s
    else match argMin (fun (e : Nat × Nat × Band) => e.2.2.turnKey)
        ((c.eligible slot).filter fun (e : Nat × Nat × Band) => (s.anyGroup e.1).any s.together) with
      | none => .next s
      | some (gid, bi, b) => match broadcast b.lastRun (b.waitingPcs x gid bi) with
        | none => .next s
        | some pc => .next ((s.modGroupOn core gid fun g => g.modBand bi fun y => { y with lastRun := pc }).modCore core
            fun k => { k with slots := updAt (fun y => { y with run := some { gid := gid, band := bi, pc := pc, count := 0 } }) k.slots slot })

/-- The lanes that execute an instruction together: ready, at one PC, of one fragment, in the same iteration of a
`REPEAT`. -/
def Band.activeAt (b : Band) (pc : Pc) : LaneMask :=
  match (List.range 32).find? fun l => (b.lane l).ready && (b.lane l).pc == pc with
  | none => 0
  | some m => maskOf fun l => (b.lane l).ready && (b.lane l).pc == pc && (b.partOf m).getLsbD l &&
      (b.lane l).rep == (b.lane m).rep && (b.lane l).priv == (b.lane m).priv

/-! ### Arrivals -/

/-- Whether a result that a unit waits for has arrived. -/
def Group.resultHere (g : Group) (band : Option Nat) (r : Option Nat × Nat) : Bool :=
  match r.1, band with
  | some l, some b => !(g.lane b l).pending.contains r.2
  | _, _ => !g.lead.pending.contains r.2

/-- Whether the reason of a wait has gone, so that the instruction may issue again (02 R42, R43, 01 R19); of a lane of a band, or
of the lead stream. -/
def State.lifted (s : State) (core : Nat) (g : Group) (band : Option Nat) (lane : Nat) : Wait → Bool
  | .fqPop => band.any fun b => !((g.band b).getD Band.absent).fq.isEmpty
  | .fqPush m => !g.anyFull m
  | .bqPush n => decide (g.bq.length + n ≤ bqCap)
  | .bqPop => !g.bq.isEmpty
  | .streamBusy n => !(g.stream n).running
  | .result rs drain => rs.all (g.resultHere band) && !(drain && band.any fun b => (s.core core).draining g.gid b)
  | .room n => decide (s.inFlight core + n ≤ 64)
  | .bounded ts place => !(ts.any ((s.core core).tileBusy g.gid)) && !(place && decide (8 ≤ (s.core core).mqueue.length))
  | .slot ks => (s.core core).slotsFree g ks
  | .txnHold lines => !s.heldFrom g (band.map fun b => { gid := g.gid, band := b, lane := lane }) lines
  | _ => false

/-- A unit of a resident group slot. -/
def State.unit? (s : State) (u : UnitRef) : Option (Group × Iss) :=
  match s.groupAt? u.core u.rgs with
  | none => none
  | some g => (s.issOf u.core g.gid u.who).map fun i => (g, i)

/-- `RESULT_ARRIVAL`: what a unit waits for has arrived, or its block has lifted; it issues its instruction again. -/
def execResultArrival (u : UnitRef) (s : State) : Result :=
  match s.unit? u with
  | none => .next s
  | some (g, i) =>
    .next (match u.who with
      | .lanes b m => s.modLanes i m fun l x => if s.lifted u.core g (some b) l x.wait then { x with wait := .none } else x
      | .lead => s.modLead i fun x => if s.lifted u.core g none 0 x.wait then { x with wait := .none } else x
      | .stream _ => s)

/-- `SPILL_TRANSFER_DONE`: the stores of zeros that a band's placement makes below the resident positions have finished,
the last of them for this lane (03 R56). -/
def execSpillTransferDone (core rgs band lane : Nat) (s : State) : Result :=
  match s.groupAt? core rgs with
  | none => .next s
  | some g => match g.bands[band]? with
    | none => .next s
    | some b =>
      let all := maskOf fun l => (b.lane l).status != .tail
      if b.started || !all.getLsbD lane then .next s
      else match s.issOf core g.gid (.lanes band all) with
        | none => .next s
        | some i =>
          let one (t : State) (l : Nat) : Except Halt State :=
            foldE (fun u p => areaStore u i l (BitVec.ofNat 64 (stackAddr i.sess b p l)) (toLE 4 0)) t (List.range (b.lane l).lo)
          match foldE one s (lanesOf all) with
          | .ok t => .next (t.modGroupOn core g.gid fun h => h.modBand band fun y => { y with started := true })
          | .error (.trap t) => .next (s.takeTrap i all t)
          | .error (.wait _) => .next s

/-! ### Queues that cannot progress (01 R22) -/

/-- Whether a stream still has rows to push to a band; parked or trapped it counts (10 R225). -/
def Stream.feeds (x : Stream) (b : Nat) : Bool := x.running && (x.all || x.band == b)

/-- The lanes of a band blocked popping, and those blocked on a queue at all. -/
def Band.popping (b : Band) : LaneMask := maskOf fun l => (b.lane l).status == .running && (b.lane l).wait == .fqPop && b.fq.isEmpty

def laneBlocked (g : Group) (b : Band) (x : Lane) : Bool :=
  x.status == .running && match x.wait with
    | .fqPop => b.fq.isEmpty
    | .bqPush n => decide (bqCap < g.bq.length + n)
    | _ => false

/-- A band blocked on the group's queues: some lane is, and every lane that can execute is. -/
def Band.blocked (g : Group) (b : Band) : Bool :=
  b.lanes.any (laneBlocked g b) && b.lanes.all fun x => !x.runnable || laneBlocked g b x

def Band.ended (b : Band) : Bool := b.lanes.all fun x => !x.live

def Group.leadBlocked (g : Group) : Bool :=
  g.lead.status == .running && match g.lead.wait with
    | .fqPush m => g.anyFull m
    | .bqPop => g.bq.isEmpty
    | _ => false

/-- The unit and the case of R22, if the queues of a group cannot progress. -/
def Group.queueTrouble (g : Group) : Option (Who × Nat) :=
  let first := (List.range g.bands.length).find? fun n =>
    ((g.bands.getD n Band.absent).popping != 0) && !(g.streams.any fun x => x.feeds n)
  match first, g.lead.status == .exited with
  | some n, true =>
    let b := g.bands.getD n Band.absent
    let l0 := (lanesOf b.popping).headD 0
    some (.lanes n (maskOf fun l => b.popping.getLsbD l && (b.lane l).pc == (b.lane l0).pc && (b.partOf l0).getLsbD l), 1)
  | _, _ =>
    if g.lead.status == .running && g.lead.wait == .bqPop && g.bq.isEmpty && g.bands.all Band.ended then some (.lead, 2)
    else if g.leadBlocked && (g.bands.all fun b => b.ended || b.blocked g) && !(g.streams.any fun x => x.running) then some (.lead, 3)
    else none

/-- The enabled lanes of the pop that a band is blocked at. -/
def poppingEnabled (s : State) (i : Iss) : LaneMask :=
  match fetchChecked s i i.pc with
  | .error _ => i.active
  | .ok line => match decode (slotWord line (i.pc.toNat % 64)) with
    | .popf f => i.enabled f.g
    | _ => i.active

/-- `QUEUE_PROTOCOL_DETECT`. -/
def execQueueProtocolDetect (core rgs : Nat) (s : State) : Result :=
  match s.groupAt? core rgs with
  | none => .next s
  | some g =>
    if g.phase != .running then .next s
    else match g.queueTrouble with
      | none => .next s
      | some (who, k) => match s.issOf core g.gid who with
        | none => .next s
        | some i => .next (s.takeTrap i (poppingEnabled s i) (mkTrap queueProtocol k))

/-! ### Affine streams (10 R224, R225) -/

/-- Indices of element `e`. -/
def Stream.indices (x : Stream) (e : Nat) : Nat × Nat × Nat × Nat :=
  (e % x.n0, e / x.n0 % x.n1, e / (x.n0 * x.n1) % x.n2, e / (x.n0 * x.n1 * x.n2))

/-- Address of element `e`. -/
def Stream.ea (x : Stream) (e : Nat) : Dword :=
  let (i0, i1, i2, i3) := x.indices e
  x.base + BitVec.ofNat 64 i0 * x.s0.signExtend 64 + BitVec.ofNat 64 i1 * x.s1.signExtend 64 +
    BitVec.ofNat 64 i2 * x.s2.signExtend 64 + BitVec.ofNat 64 i3 * x.s3.signExtend 64

/-- ADDR of a stream's trap (20 R341). -/
def Stream.position (x : Stream) : Dword :=
  let (i0, i1, i2, i3) := x.indices x.pos
  BitVec.ofNat 64 (i3 * 2 ^ 48 + i2 * 2 ^ 32 + i1 * 2 ^ 16 + i0)

/-- An element extended to 64 bits. -/
def extendElem (signed : Bool) (n v : Nat) : Dword := if signed then BitVec.ofInt 64 (sextNat (8 * n) v) else BitVec.ofNat 64 v

/-- The next element of a stream: an address, or loaded data. -/
def streamElem (s : State) (i : Iss) (x : Stream) : Except Trap (State × Dword) :=
  let ea := x.ea x.pos
  if x.mode then .ok (s, ea)
  else match checkAccess s i { acc := .read, aligned := false, types := anyType } ea x.esize with
    | .error t => .error t
    | .ok p =>
      if s.placePoison i.sess p x.esize then .error (s.poisonAt i.sess p ea)
      else .ok (s.sign i.group.gid p true false, extendElem x.signed x.esize (leNat (s.bytesAt i.sess i.group.gid p x.esize)))

/-- Elements formed until a row of 32 is full, the stream has ended, or an element fails. -/
def streamFill (i : Iss) : Nat → State → Stream → State × Stream × Option Trap
  | 0, s, x => (s, x, none)
  | f + 1, s, x =>
    if decide (32 ≤ x.row.length) || decide (x.total ≤ x.pos) then (s, x, none)
    else match streamElem s i x with
      | .error t => (s, x, some t)
      | .ok (s1, v) => streamFill i f s1 { x with row := x.row ++ [v], pos := x.pos + 1 }

/-- The bands a stream pushes to. -/
def Stream.targets (g : Group) (x : Stream) : LaneMask := if x.all then g.allBands else maskOf (· == x.band)

/-- `STREAM_PUSH`: a running stream forms one row and pushes it where there is room. -/
def execStreamPush (core rgs stream : Nat) (s : State) : Result :=
  match s.groupAt? core rgs with
  | none => .next s
  | some g =>
    let x := g.stream stream
    if !x.running || x.status != .running || g.phase != .running || g.anyFull (x.targets g) then .next s
    else match s.issOf core g.gid (.stream stream) with
      | none => .next s
      | some i => match streamFill i 32 s x with
        | (s1, y, some t) =>
          .next ((s1.modGroupOn core g.gid fun h => h.modStream stream fun _ => y).takeTrap i 0
            { t with addr := y.position, lane := 255, field := 0, detail := BitVec.ofNat 16 stream })
        | (s1, y, none) =>
          let row := y.row ++ List.replicate (32 - y.row.length) 0
          .next (s1.modGroupOn core g.gid fun h => (if y.row.isEmpty then h else h.pushRow (x.targets g) row).modStream stream
            fun _ => { y with row := [], running := decide (y.pos < y.total) })

/-! ### REJOIN (01 R27, R28) -/

/-- Whether a lane of a mask has arrived at the `REJOIN` at a PC, or ended. -/
def Band.arrived (b : Band) (pc : Pc) (l : Nat) : Bool :=
  !(b.lane l).live || match (b.lane l).status with
    | .parked _ => (b.lane l).pc == pc
    | _ => false

/-- A lane parked at a `REJOIN`, and the mask it holds there. -/
def Band.parkedMask (b : Band) (l : Nat) : Option LaneMask :=
  match (b.lane l).status with
  | .parked m => some m
  | _ => none

/-- Whether the lanes parked at one `REJOIN` are met: every lane of every one of their masks has arrived there, or ended
(10 R221). -/
def Band.setMet (b : Band) (pc : Pc) : Bool :=
  (List.range 32).all fun l => match b.parkedMask l with
    | some m => (b.lane l).pc != pc || (lanesOf m).all (b.arrived pc)
    | none => true

/-- The lanes released together: those parked at the lowest PC whose parked set is met. -/
def Band.released (b : Band) : LaneMask :=
  match argMin (fun l => (b.lane l).pc.toNat) ((List.range 32).filter fun l => (b.parkedMask l).isSome && b.setMet (b.lane l).pc) with
  | none => 0
  | some l0 => maskOf fun l => (b.parkedMask l).isSome && (b.lane l).pc == (b.lane l0).pc

/-- Fragments after a release: the released lanes are one, and one fragment alone is a whole band. -/
def Band.reunite (b : Band) (m : LaneMask) : List LaneMask :=
  if b.frags.isEmpty then []
  else
    let rest := (b.frags.map fun f => f &&& ~~~ m).filter fun f => (lanesOf f).any fun l => (b.lane l).live
    let fs := rest ++ [m]
    if fs.length ≤ 1 then [] else fs

/-- `REJOIN_RELEASE`. -/
def execRejoinRelease (core rgs band : Nat) (s : State) : Result :=
  match s.groupAt? core rgs with
  | none => .next s
  | some g => match g.bands[band]? with
    | none => .next s
    | some b =>
      let m := b.released
      if m == 0 then .next s
      else .next (s.modGroupOn core g.gid fun h => h.modBand band fun x =>
        { x with
          lanes := x.lanes.mapIdx fun l y => if m.getLsbD l then { y with status := .running }.advance else y
          frags := b.reunite m })

/-! ### Barriers (09 R204, R205) -/

/-- Whether every participant of a group has arrived at instance `k` of a kind of barrier. -/
def Group.arrivedAll (g : Group) (cluster : Bool) (k : Nat) : Bool :=
  (g.lead.status == .exited || (if cluster then g.lead.barClu else g.lead.barGrp) == k) &&
  g.bands.all fun b => b.lanes.all fun x => !x.live || (if cluster then x.barClu else x.barGrp) == k

/-- Whether a participant of a group waits at instance `k`. -/
def Group.waitsAt (g : Group) (cluster : Bool) (k : Nat) : Bool :=
  g.lead.wait == .barrier cluster k || g.bands.any fun b => b.lanes.any fun x => x.wait == .barrier cluster k

/-- An instance completed: the participants that wait at it move on. -/
def Group.passBarrier (g : Group) (cluster : Bool) (k : Nat) : Group :=
  { g with
    barGrp := if cluster then g.barGrp else k
    barClu := if cluster then k else g.barClu
    lead := if g.lead.wait == .barrier cluster k then { g.lead with wait := .none }.advance else g.lead
    bands := g.bands.map fun b =>
      { b with lanes := b.lanes.map fun x => if x.wait == .barrier cluster k then { x with wait := .none }.advance else x } }

/-- The groups that take part in a group's barrier; none when a member of the cluster is swapped out. -/
def State.barrierGroups (s : State) (core : Nat) (g : Group) (cluster : Bool) : Option (List (Nat × Group)) :=
  if !cluster then some [(core, g)]
  else
    let ms := s.cluster g
    if (List.range 4).all fun r => (ms.any fun m => m.2.rank == r) || (s.member g r).isNone then some ms else none

/-- `BARRIER_COMPLETE`. That of a `BAR.clu` is an acquire at `.clu` on the participants' cores (09 R204, 05 R108). -/
def execBarrierComplete (core rgs : Nat) (cluster : Bool) (s : State) : Result :=
  match s.groupAt? core rgs with
  | none => .next s
  | some g => match s.barrierGroups core g cluster with
    | none => .next s
    | some gs =>
      let k := (if cluster then g.barClu else g.barGrp) + 1
      if gs.any (fun e => e.2.waitsAt cluster k) && gs.all (fun e => e.2.arrivedAll cluster k) then
        let s1 := if cluster then s.acquireOn ((gs.map (·.1)).dedup) 1 else s
        .next (gs.foldl (fun (t : State) e => t.modGroupOn e.1 e.2.gid fun h => h.passBarrier cluster k) s1)
      else .next s

/-! ### WAITF (09 R203) -/

/-- Whether a value meets a condition. -/
def condMet (c : WCond) (v cmp : Nat) : Bool :=
  match c with
  | .eq => v == cmp
  | .ne => v != cmp
  | .ge => decide (cmp ≤ v)
  | .lt => decide (v < cmp)

/-- What a unit's `WAITF` stands at for one participant. -/
def waitOf (i : Iss) (l : Nat) : Wait := if i.lead then i.group.lead.wait else (i.group.lane i.band l).wait

def setMet (s : State) (i : Iss) (l : Nat) (v : Dword) : State :=
  let f (w : Wait) : Wait := match w with
    | .waitf c wide ea cmp m d acq k _ => .waitf c wide ea cmp m d acq k (some v)
    | w => w
  if i.lead then s.modLead i fun x => { x with wait := f x.wait } else s.modLanes i (maskOf (· == l)) fun _ x => { x with wait := f x.wait }

/-- The lanes held by the same `WAITF` as a lane. -/
def heldWith (i : Iss) (l : Nat) : LaneMask :=
  if i.lead then 1
  else match i.group.bands[i.band]? with
    | none => 0
    | some b => maskOf fun m => (b.lane m).pc == (b.lane l).pc && (b.partOf l).getLsbD m && match (b.lane m).wait, (b.lane l).wait with
      | .waitf _ _ _ _ x _ _ _ _, .waitf _ _ _ _ y _ _ _ _ => x == y
      | _, _ => false

/-- The participants of a `WAITF` have all met their conditions: the values are written and the unit moves on. -/
def finishWaitf (s : State) (i : Iss) (m : LaneMask) : State :=
  let val (l : Nat) : Option (Bool × Spec × Dword × LaneMask) := match waitOf i l with
    | .waitf _ wide _ _ p d _ _ (some v) => some (wide, d, v, p)
    | _ => none
  let write (t : State) (l : Nat) : Except Halt State := match val l with
    | some (wide, d, v, p) => if i.lead || p.getLsbD l then wrT t i l (if wide then .b64 else .b32) d v.toNat else .ok t
    | none => .ok t
  if (lanesOf m).all fun l => (val l).isSome then
    match foldLanes write s (lanesOf m) with
    | .error (.trap t) => s.takeTrap { i with active := m } m t
    | .error (.wait _) => s
    | .ok t =>
      if i.lead then t.modLead i fun x => { x with wait := .none }.advance
      else t.modLanes i m fun _ x => { x with wait := .none }.advance
  else s

/-- `WAITF_SATISFY`: a read of a waiting lane meets its condition, an acquire at its scope where its order or the type of the page
makes it one (06 R120). A read that fails its checks traps. -/
def execWaitfSatisfy (u : UnitRef) (lane : Nat) (s : State) : Result :=
  match s.unit? u with
  | none => .next s
  | some (_, i) => match waitOf i lane with
    | .waitf c wide ea cmp _ _ acq k none =>
      let n := if wide then 8 else 4
      let m := heldWith i lane
      let fail (t : Trap) : Result := match memTrap i.lead lane t with
        | .trap t => .next (s.takeTrap { i with active := m } (lanesOf m |>.foldl (fun a l => match waitOf i l with
            | .waitf _ _ _ _ p _ _ _ _ => a ||| (p &&& m)
            | _ => a) 0) t)
        | .wait _ => .next s
      match waitCheck s i ea n with
      | .error t => fail t
      | .ok p =>
        if s.placePoison i.sess p n then fail (s.poisonAt i.sess p ea)
        else
          let v := leNat (s.bytesAt i.sess i.group.gid p n)
          if !condMet c v cmp.toNat then .next s
          else
            let s0 := if p.fences acq then s.acquire i.core (p.scope k) else s
            let s1 := setMet (s0.sign i.group.gid p true false) i lane (BitVec.ofNat 64 v)
            match s1.unit? u with
            | none => .next s1
            | some (_, j) => .next (finishWaitf s1 j m)
    | _ => .next s

/-! ### Transactions (09 R212, R213) -/

/-- `TRANSACTION_CONFLICT`: another party has written a line of a lane's open transaction, which aborts. -/
def execTransactionConflict (core rgs band lane : Nat) (s : State) : Result :=
  match s.groupAt? core rgs with
  | none => .next s
  | some g => match s.issOf core g.gid (.lanes band (maskOf (· == lane))) with
    | none => .next s
    | some i =>
      let x := (g.lane band lane).txn
      if x.active && x.doomed then .next (s.abortLane i lane 1 0) else .next s

/-- Whether a request for the commit token still stands. -/
def State.wantsToken (s : State) (r : LaneRef) : Bool := (s.laneOf r).wait == .token

/-- `COMMIT_TOKEN_GRANT`: the token goes to the first `XBEGIN` that waits for it, which opens its transaction with an acquire at
`.dev` (06 R126). -/
def execCommitTokenGrant (session : Nat) (s : State) : Result :=
  match s.session? session with
  | none => .next s
  | some x =>
    if x.tokenHolder.isSome then .next s
    else match x.tokenQueue with
      | [] => .next s
      | r :: rs =>
        let take (h : Option LaneRef) : State := s.modSession session fun y => { y with tokenHolder := h, tokenQueue := rs }
        if s.wantsToken r then
          .next (((take (some r)).acquireFor? r.gid 3).modLane r.gid r.band r.lane fun y => ({ y with wait := .none }.openTxn true y.txn.target).advance)
        else .next (take none)

end Sys2Proof.Machine
end

