-- ==== Sys2Proof/Machine/Sched.lean ====
section
/-! DEFINITION. The time-allowance scheduler (22 R396 to R399, R438) and the context swap (20 R357 to R362). -/

namespace Sys2Proof.Machine

open Sys2Proof

/-! ### Holding cores (22 R384, R396, R438) -/

/-- The lowest session-relative index that no core a session holds has. -/
def State.freeRel (s : State) (slot : Nat) : Nat := (leastFree ((s.coresOf slot).map fun c => (s.core c).rel) 64 0).getD 0

/-- The state a session without cores is in. -/
def State.restState (s : State) (slot : Nat) : State :=
  if (s.coresOf slot).isEmpty then
    (s.modSession slot fun x => if x.st == .running then { x with st := if s.hasWork slot then .runnable else .idle } else x).postSession slot
  else s.postSession slot

/-- A core leaves its session. -/
def State.releaseCore (s : State) (core : Nat) : State :=
  match (s.core core).session with
  | none => s
  | some slot => (s.modCore core fun c => { c with session := none, active := { session := 0, groups := [] } }).restState slot

/-- A core is given to a session. -/
def State.takeCore (s : State) (core slot : Nat) : State :=
  let r := s.freeRel slot
  ((s.modCore core fun c => { c with session := some slot, rel := r, active := { session := slot, groups := [] }, clockBase := c.clock, count := 0, waited := 0 }).modSession slot
    fun x => { x with st := .running }).postSession slot

def SessState.mayRun : SessState → Bool
  | .idle => true
  | .runnable => true
  | .running => true
  | .resetting => false
  | .frozen => false

/-- The sessions a core may choose (22 R396, step 1). -/
def State.candidates (s : State) (core : Nat) : List Session :=
  let c := s.core core
  s.sessions.filter fun x => x.st.mayRun &&
    ((s.hasWork x.slot && decide (((s.coresOf x.slot).filter (· != core)).length < x.cap)) ||
     (c.session == some x.slot && !c.active.groups.isEmpty))

/-- Step 2: the smallest virtual time, the lowest slot among equals. -/
def State.choose (s : State) (core : Nat) : Option Nat :=
  if s.ctrl.schedEnable then (argMin (fun (x : Session) => x.vt.toNat * 128 + x.slot) (s.candidates core)).map (·.slot) else none

/-- Whether a discarded group of a session awaits placement (20 R362). -/
def State.awaitsDiscarded (s : State) (slot : Nat) : Bool := s.launches.any fun l => l.session == slot && l.ended.isNone && !l.returned.isEmpty

/-- Whether a grant to a session now restores a saved context: it has one, and no discarded group awaits placement. -/
def State.restores (s : State) (slot : Nat) : Bool :=
  !s.awaitsDiscarded slot && (s.session? slot).any fun x => !x.saved.isEmpty

/-- A preloaded context goes back to its session's saved contexts, in front. -/
def State.unload (s : State) (core : Nat) : State :=
  match (s.core core).shadow with
  | .loaded x => (s.modCore core fun c => { c with shadow := .empty }).modSession x.session fun y => { y with saved := x :: y.saved }
  | _ => s

/-- The core keeps its session: a new count starts. -/
def State.keepSession (s : State) (core : Nat) : State :=
  let s1 := (s.unload core).modCore core fun c => { c with swap := .none, count := 0 }
  match (s.core core).session with
  | some slot => s1.postSession slot
  | none => s1

/-- An empty core is given to a session: at once with an empty context, or once a saved context has been preloaded. -/
def State.grantEmpty (s : State) (core slot : Nat) : State :=
  (s.takeCore core slot).modCore core fun c => { c with swap := if s.restores slot then .exchange slot else .none }

/-- Whether a session has anything left to place. -/
def State.canPlace (s : State) (slot : Nat) : Bool := s.launches.any fun l => l.session == slot && l.ended.isNone && l.toPlace

/-- A core whose session has no resident group and nothing to place. -/
def State.idleCore (s : State) (core : Nat) : Bool :=
  let c := s.core core
  match c.session, c.swap with
  | none, _ => true
  | some x, .none => c.active.groups.isEmpty && !s.canPlace x
  | some x, .named _ => c.active.groups.isEmpty && !s.canPlace x
  | _, _ => false

/-- `CORE_GRANT`: an empty core, or one whose session has nothing to do on it, chooses a session. -/
def execCoreGrant (core : Nat) (s : State) : Result :=
  if 64 ≤ core || !s.idleCore core then .next s
  else
    let s1 := ((s.unload core).releaseCore core).modCore core fun c => { c with swap := .none }
    match s1.choose core with
    | none => .next s1
    | some w => .next (s1.grantEmpty core w)

/-! ### The end of a slice (20 R360, R361) -/

/-- Bytes of a group's register, scratchpad and accumulator allotment. -/
def Group.bytesHeld (g : Group) : Nat :=
  1024 * (g.bands.map (·.granules)).sum + 2048 * g.scratchGran + 8192 * g.accGran.length

inductive Fate where
  | drain | discard | save
  deriving DecidableEq, Repr

/-- The choice of a cluster (20 R360); `first`: step 1 applies. -/
def fateOf (l : LaunchDesc) (gs : List Group) (grace : Nat) (first : Bool) : Fate :=
  let age := (gs.map (·.age)).foldl max 0
  let bytes := (gs.map Group.bytesHeld).sum
  if first && l.groupCycles != 0 && decide (l.groupCycles - age ≤ grace) then .drain
  else if (l.versioned || l.idempotent) && decide (age ≤ 2 * bytes / 256) then .discard
  else .save

/-- The groups of a cluster that have not finished stop and go back to the head of their launch's placement, with every group
they had withdrawn. What they have asked of the engines, the distributor and the lists is withdrawn with them. -/
def State.discard (s : State) (gs : List (Nat × Group)) : State :=
  let live := gs.filter fun e => e.2.phase != .retiring
  let gone (gid : Nat) : Bool := live.any fun e => e.2.gid == gid
  let s1 := live.foldl (fun (t : State) e =>
    ((t.modGroupOn e.1 e.2.gid fun g => { g.endStreams with ver := none, phase := .retiring }).modLaunch e.2.session e.2.launch
      fun l => { l with
                 returned := (e.2.index :: e.2.withdrawn).foldl insNat l.returned
                 commitQueue := l.commitQueue.filter fun (n : Nat) => n != e.2.gid
                 serialQueue := l.serialQueue.filter fun (n : Nat) => n != e.2.gid })) s
  let s2 := s1.withdraw gone
  { s2 with fetches := s2.fetches.filter fun (r : FetchReq) => !gone r.gid }

/-- The clusters of a core, each once, in ascending resident group slot. -/
def State.clustersOn (s : State) (core : Nat) : List (List (Nat × Group)) :=
  let gs := ((List.range 16).filterMap fun r => (s.core core).groupAt? r)
  (gs.foldl (fun (acc : List (List (Nat × Group))) g =>
    if acc.any fun c => c.any fun e => e.2.gid == g.gid then acc else acc ++ [s.cluster g]) [])

/-- The cluster's choice carried out; a cluster that drains is kept for the end of the grace. -/
def State.settleCluster (s : State) (first : Bool) (acc : State × List (List Nat)) (gs : List (Nat × Group)) : State × List (List Nat) :=
  match gs with
  | [] => acc
  | e :: _ => match s.launchOf? e.2 with
    | none => acc
    | some l => match fateOf l.desc (gs.map (·.2)) s.ctrl.grace.toNat first with
      | .drain => (acc.1, acc.2 ++ [gs.map fun x => x.2.gid])
      | .discard => (acc.1.discard gs, acc.2)
      | .save => acc

/-- A session's slice on a core ends in favour of another session. -/
def State.startGrace (s : State) (core next : Nat) : State :=
  let (s1, ds) := (s.clustersOn core).foldl (s.settleCluster true) (s, [])
  s1.modCore core fun c => { c with swap := .grace next ds, count := 0 }

/-- `SLICE_END`. -/
def execSliceEnd (core : Nat) (s : State) : Result :=
  let c := s.core core
  let open_ := match c.swap with
    | .none => true
    | .named _ => true
    | _ => false
  match c.session with
  | none => .next s
  | some cur =>
    if !open_ then .next s
    else match s.choose core with
      | none => .next (s.keepSession core)
      | some w => if w == cur then .next (s.keepSession core) else .next ((s.postSession cur).startGrace core w)

/-- `SLICE_HALFWAY`: the core names the candidate that it would pick now. -/
def execSliceHalfway (core : Nat) (s : State) : Result :=
  let c := s.core core
  match c.session, c.swap, s.choose core with
  | some cur, .none, some w => if w == cur then .next s else .next (s.modCore core fun k => { k with swap := .named w })
  | _, _, _ => .next s

/-- Whether a group of a drain still runs. -/
def State.stillRuns (s : State) (gid : Nat) : Bool := match s.find? gid with
  | some (_, g) => g.phase != .retiring
  | none => false

/-- `GRACE_EXPIRE`: clusters that still drain are decided again without step 1, and the core quiesces. -/
def execGraceExpire (core : Nat) (s : State) : Result :=
  match (s.core core).swap with
  | .grace next ds =>
    let live := ds.filter fun gids => gids.any s.stillRuns
    let (s1, _) := (live.map fun gids => gids.filterMap s.find?).foldl (s.settleCluster false) (s, [])
    .next (s1.modCore core fun c => { c with swap := .quiesce next })
  | _ => .next s

/-! ### Quiesce (20 R357, R359) -/

/-- A request of 12 R264 that a list or an output has accepted. -/
def CmdKind.accepted : CmdKind → Bool
  | .wlpush _ _ => true
  | .wlpop _ => true
  | .emit _ _ => true
  | _ => false

/-- Whether a list request stands behind one that is held for a context that is swapped out: Delphinium has not taken it up. -/
def State.behindHeld (s : State) (c : Cmd) : Bool :=
  (s.asks c).isSome && s.cmds.any fun d => d.held && d.session == c.session && decide (d.id < c.id) && s.asks d == s.asks c

/-- What some groups of a core have under way has settled: their matrix instructions, and the requests that the queues, lists
and outputs have accepted (12 R264). One behind a request that is held for another swapped-out context is not accepted yet, and
its result is held over the swap (entry 69). -/
def State.settledFor (s : State) (core : Nat) (gids : List Nat) : Bool :=
  !((s.core core).matOps.any fun o => gids.contains o.gid) && !(s.pops.any fun p => gids.contains p.dest.gid) &&
  !(s.cmds.any fun c => gids.contains c.gid && c.kind.accepted && !s.behindHeld c)

/-- The members on other cores of the clusters that a core is about to save: they are saved with them (01 R7, 20 R361). -/
def State.partners (s : State) (core : Nat) : List (Nat × Group) :=
  ((s.core core).active.groups.filter fun g => g.phase != .retiring).flatMap fun g =>
    (s.cluster g).filter fun e => e.1 != core && e.2.phase != .retiring

/-- Everything that the quiesce of a core waits for. -/
def State.settled (s : State) (core : Nat) : Bool :=
  s.settledFor core ((s.core core).active.groups.map (·.gid)) && (s.partners core).all fun e => s.settledFor e.1 [e.2.gid]

/-- What becomes of a wait: the instruction issues afresh, but for arrivals at barriers and serial tasks. -/
def Wait.atSwap : Wait → Wait
  | .barrier c k => .barrier c k
  | .serial => .serial
  | _ => .none

/-- A unit parked on a page fault replays once its context is resident again (20 R349). -/
def Status.atSwap : Status → Status
  | .faulted _ _ _ => .running
  | .heldFault _ => .running
  | .held t _ => .held t none
  | x => x

/-- A lane at the quiesce: its forwarding window empties (02 R46), and its transaction aborts with PREEMPT (09 R214). -/
def Lane.atSwap (x : Lane) : Lane :=
  let x := { x.emptyWindow with status := x.status.atSwap, tex := none }
  let y := if x.wait == .atlasDone then { x with wait := .none }.advance else { x with wait := x.wait.atSwap }
  if y.txn.active then y.abort 5 0 else y

def WSlot.atSwap (x : WSlot) : WSlot := { x with valid := false, loading := false }

/-- A group at the quiesce; weight slots clear VALID (03 R64). -/
def Group.atSwap (g : Group) : Group :=
  { g with
    lead := { g.lead with wait := g.lead.wait.atSwap, status := g.lead.status.atSwap }
    bands := g.bands.map fun b => { b with lanes := b.lanes.map Lane.atSwap }
    streams := g.streams.map fun x => { x with status := x.status.atSwap }
    slots := g.slots.map WSlot.atSwap }

/-- The `MLOADB`s of some groups in flight at a core's port: they are reissued when their context is restored (11 R245). -/
def Core.loadsOf (c : Core) (p : Nat → Bool) : List SlotLoad := c.port.filter fun l => p l.gid && !l.reload

/-- The bands of a core's runs, and that their runs have ended (02 R41). -/
def Core.endRuns (c : Core) (n : Nat) (p : Nat → Bool) : Core :=
  let runs := (c.slots.filterMap (·.run)).filter fun r => p r.gid
  let ended (g : Group) (r : Run) : Group := if r.gid == g.gid then g.modBand r.band fun b => { b with lastEnd := n } else g
  { c with
    slots := c.slots.map fun (x : IssueSlot) => if x.run.any (fun r => p r.gid) then { x with run := none } else x
    active := { c.active with groups := c.active.groups.map fun (g : Group) => runs.foldl ended g } }

/-- The lines from `lo` on written whole under one key. -/
def Phys.keyLines (p : Phys) (o : Owner) (lo n : Nat) : Phys :=
  let out (l : Nat) : Bool := decide (l < lo) || decide (lo + n ≤ l)
  { p with
    owners := (p.owners.filter fun e => decide (e.1 < lo)) ++ (List.range n).map (fun k => (lo + k, o)) ++
      p.owners.filter fun e => decide (lo + n ≤ e.1)
    poison := p.poison.filter fun l => out l || p.hostPoison.contains l
    hostOwned := p.hostOwned.filter out }

/-- Groups written to their session's context save area (20 R358): their granules and 64 KiB, under the session's key (23 R436), in
one of the area's parts of 1600 KiB, which the spec does not name. The area's layout is the device's own, and software does not read
it: the bytes there are left (entry 88). The 64 KiB units written are marked (21 R381). -/
def State.saveArea (s : State) (x : Session) (gs : List Group) : State :=
  let (k, t) := s.fresh
  let bytes := 65536 + (gs.map Group.bytesHeld).sum
  let at_ := x.save + 1638400 * (Config.freeNat k % max 1 x.cap)
  ({ t with phys := t.phys.keyLines (t.memKey x) (at_ / 64) (bytes / 64) } : State).markUnits
    ((List.range ((at_ + bytes - 1) / 65536 - at_ / 65536 + 1)).map (at_ / 65536 + ·))

/-- Groups saved for a session, where it exists still. -/
def State.saveFor (s : State) (slot : Nat) (gs : List Group) : State :=
  match s.session? slot with
  | some x => s.saveArea x gs
  | none => s

/-- A member of a saved cluster on another core leaves that core for the save area; its stores are performed at `.dev` first. -/
def State.savePartner (s0 : State) (e : Nat × Group) : State :=
  let s := (s0.performAll e.1).saveFor e.2.session [e.2]
  let is (gid : Nat) : Bool := gid == e.2.gid
  let c := (s.core e.1).endRuns s.runCtr is
  match c.active.groups.find? fun g => g.gid == e.2.gid with
  | none => s
  | some g =>
    ((s.modCore e.1 fun _ =>
      { c with
        port := c.port.filter fun l => !is l.gid
        slots := c.slots.map fun (x : IssueSlot) => { x with loops := x.loops.filter fun (y : LoopEntry) => !is y.gid }
        active := { c.active with groups := c.active.groups.filter fun (h : Group) => h.gid != g.gid } }).modSession g.session fun x =>
      { x with saved := x.saved ++ [{ session := g.session, groups := [g.atSwap], loads := c.loadsOf is }] })

/-- `CONTEXT_QUIESCE`: issue has stopped and what was in flight has settled; every store that the context issued is performed at
`.dev` (06 R132). -/
def execContextQuiesce (core : Nat) (s : State) : Result :=
  let c := s.core core
  match c.swap with
  | .quiesce next =>
    if !s.settled core then .next s
    else
      let others := s.partners core
      let gids := c.active.groups.map (·.gid) ++ others.map fun e => e.2.gid
      let mine (r : LaneRef) : Bool := gids.contains r.gid
      let s1 := (s.performAll core).modCore core fun k0 =>
        let k := k0.endRuns s.runCtr fun _ => true
        { k with
          swap := .exchange next, port := []
          active := { k.active with groups := k.active.groups.map Group.atSwap, loads := k.loadsOf fun _ => true } }
      let s2 := others.foldl State.savePartner s1
      .next (({ s2 with runCtr := s2.runCtr + 1 } : State).modSession c.active.session fun x =>
        { x with
          tokenQueue := x.tokenQueue.filter fun r => !mine r
          tokenHolder := if x.tokenHolder.any mine then none else x.tokenHolder })
  | _ => .next s

/-! ### Exchange (20 R357, 02 R37) -/

/-- A restored group at a new place. -/
def Group.moved (g : Group) (p : Spot) : Group :=
  { g with
    rgs := p.rgs, scratchAt := p.scratchAt, accGran := p.acc, slotPhys := p.slots
    bands := g.bands.mapIdx fun n b =>
      let e := p.blocks.getD n (b.slot, b.granule, b.granules)
      { b with slot := e.1, granule := e.2.1, granules := e.2.2, pos := p.pos.getD n b.pos } }

/-- The groups of a restored context placed on an empty core in ascending resident group slot; one for which no block is
left stands where it stood. -/
def State.restoreGroups (s : State) (gs : List Group) : List Group :=
  let sorted := (List.range 16).flatMap fun r => gs.filter fun g => g.rgs == r
  sorted.foldl (fun (acc : List Group) g =>
    let c : Core := { Core.init with active := { session := g.session, groups := acc } }
    acc ++ [match (s.launchOf? g).bind fun l => c.spot l.desc with
      | some p => g.moved p
      | none => g]) []

/-- The slots of a core after an exchange: no run, and empty loop buffers. -/
def emptySlots : List IssueSlot := List.replicate 4 { run := none, loops := [] }

/-- Copies into the scratchpad of a group in RETIRING, a task that awaits its verdict among them, have not landed. -/
def State.landing (s : State) (core : Nat) : Bool :=
  (s.core core).active.groups.any fun g => (g.phase == .retiring || g.phase == .committing) && s.copiesInto g.gid

/-- The context that the exchange brings in, once it may take place: the outgoing groups' copies have landed, the shadow
bank is free for them, and a context to be restored is preloaded. -/
def State.incoming (s : State) (core next : Nat) : Option Context :=
  let c := s.core core
  if s.landing core then none
  else match c.shadow with
    | .outgoing _ => none
    | .loaded x => if x.session == next then some x else none
    | .empty => if s.restores next then none else some { session := next, groups := [] }

/-- The session that may still be brought in: the one chosen, or another choice when it can no longer run (22 R401). -/
def State.nextNow (s : State) (core next : Nat) : Option Nat :=
  if (s.session? next).any fun x => x.st.mayRun then some next else s.choose core

/-- The outgoing context leaves the active bank: its groups that are not in RETIRING go to the shadow bank. -/
def State.bankOut (s : State) (core : Nat) : State :=
  let c := s.core core
  let out : Context := { c.active with groups := c.active.groups.filter fun (g : Group) => g.phase != .retiring }
  s.modCore core fun k =>
    { k with
      active := { session := c.active.session, groups := [] }
      shadow := if out.groups.isEmpty then .empty else .outgoing out
      slots := emptySlots }

/-- Active and shadow banks exchange roles; before the incoming context issues, a `.dev` acquire takes place (06 R132). -/
def State.exchange (s : State) (core : Nat) (inc : Context) : State :=
  let cur := (s.core core).session
  let gs := s.restoreGroups inc.groups
  let s1 := s.bankOut core
  let s2 := if cur == some inc.session then s1 else (s1.releaseCore core).takeCore core inc.session
  ((s2.acquire core 3).modCore core fun k =>
    { k with
      active := { session := inc.session, groups := gs }, slots := emptySlots, swap := .none, port := inc.loads
      clockBase := k.clock, count := 0, waited := 0 }).postSession inc.session

/-- `CONTEXT_EXCHANGE`. A core whose own session wins first sends its context out, then waits for it, or for an earlier one
(22 R399). -/
def execContextExchange (core : Nat) (s : State) : Result :=
  let c := s.core core
  match c.swap with
  | .exchange next => match s.nextNow core next with
    | none =>
      let s1 := s.unload core
      if s.landing core || (s1.core core).shadow != .empty then .next s
      else .next (((s1.bankOut core).releaseCore core).modCore core fun k => { k with swap := .none })
    | some w =>
      if w != next || (s.awaitsDiscarded w && (s.unload core).core core != c) then
        .next ((s.unload core).modCore core fun k => { k with swap := .exchange w })
      else if c.session == some w && c.shadow == .empty && !s.landing core && !s.awaitsDiscarded w &&
              c.active.groups.any fun g => g.phase != .retiring then .next (s.bankOut core)
      else match s.incoming core next with
        | none => .next s
        | some x => .next (s.exchange core x)
  | _ => .next s

/-- `CONTEXT_SPILL`: the outgoing context has reached the save area. -/
def execContextSpill (core : Nat) (s : State) : Result :=
  match (s.core core).shadow with
  | .outgoing x => .next (((s.saveFor x.session x.groups).modCore core fun c => { c with shadow := .empty }).modSession x.session fun y => { y with saved := y.saved ++ [x] })
  | _ => .next s

/-- The session whose context a core would have preloaded. -/
def Swap.next? : Swap → Option Nat
  | .none => Option.none
  | .named n => some n
  | .grace n _ => some n
  | .quiesce n => some n
  | .exchange n => some n

/-- `CONTEXT_PRELOAD`: the named session's earliest-saved context has reached the shadow bank. -/
def execContextPreload (core : Nat) (s : State) : Result :=
  match (s.core core).swap.next? with
  | none => .next s
  | some n =>
    let s1 := match (s.core core).shadow with
      | .loaded x => if x.session == n then s else s.unload core
      | _ => s
    match (s1.core core).shadow, s1.session? n with
    | .empty, some x => match x.saved with
      | [] => .next s1
      | y :: rest =>
        if !s1.restores n then .next s1
        else .next ((s1.modSession n fun z => { z with saved := rest }).modCore core fun c => { c with shadow := .loaded y })
    | _, _ => .next s1

/-! ### Waiting budgets (22 R398, R399) -/

/-- Whether a command that `p` selects has a reply to give to a unit. -/
def State.repliesTo (s : State) (gid : Nat) (band : Option Nat) (lane : Nat) (p : Cmd → Bool) : Bool :=
  s.cmds.any fun c => p c && c.reply.any fun d => d.gid == gid && d.band == band && d.lane == lane

/-- What a snapshot record says of a wait: KIND, ADDR and VALUE. -/
def waitKind (s : State) (gid : Nat) (band : Option Nat) (lane : Nat) (w : Wait) : Option (Nat × Nat × Nat) :=
  let replies := s.repliesTo gid band lane
  match w with
  | .waitf _ _ ea cmp m _ _ _ met => if met.isNone && (band.isNone || m.getLsbD lane) then some (1, ea.toNat, cmp.toNat) else none
  | .barrier false k => some (2, 0, k)
  | .barrier true k => some (3, 0, k)
  | .fqPop => some (4, 0, 0)
  | .bqPush _ => some (5, 0, 0)
  | .fqPush _ => some (6, 0, 0)
  | .bqPop => some (6, 0, 0)
  | .quiesce _ _ => some (7, 0, 0)
  | .token => some (8, 0, 0)
  | .texture => some (9, 0, 0)
  | .ray _ => some (9, 0, 0)
  | .result _ _ =>
    if replies fun c => match c.kind with
        | .collective _ _ _ _ _ _ _ => true
        | _ => false then some (10, 0, 0)
    else if (replies fun c => match c.kind with
        | .wlpush _ _ => true
        | .wlpop _ => true
        | .emit _ _ => true
        | .dappend _ _ _ => true
        | .ddrain _ _ _ => true
        | _ => false) || s.pops.any fun p => p.dest.gid == gid && p.dest.band == band && p.dest.lane == lane then some (11, 0, 0)
    else none
  | _ => none

/-- The snapshot records of a group: its lead stream, then its bands, a record for every fragment that is blocked. -/
def snapRecords (s : State) (g : Group) : List (List Byte) :=
  let rec_ (k a v band lanes : Nat) : List Byte :=
    toLE 8 a ++ toLE 8 v ++ toLE 4 g.launch ++ toLE 4 g.index ++ toLE 1 k ++ toLE 1 band ++ toLE 2 0 ++ toLE 4 lanes
  let lead := match waitKind s g.gid none 0 g.lead.wait with
    | some (k, a, v) => if g.lead.status == .running then [rec_ k a v 255 0] else []
    | none => []
  let kindOf (n : Nat) (b : Band) (l : Nat) : Option (Nat × Nat × Nat) :=
    if (b.lane l).status == .running then waitKind s g.gid (some n) l (b.lane l).wait else none
  let part (n : Nat) (b : Band) (m : LaneMask) : List (List Byte) :=
    let ls := (lanesOf m).filter fun l => (kindOf n b l).isSome
    match ls.head?.bind (kindOf n b) with
    | some (k, a, v) => [rec_ k a v n (maskOf ls.contains).toNat]
    | none => []
  lead ++ (g.bands.zipIdx.flatMap fun (e : Band × Nat) =>
    (if e.1.frags.isEmpty then [BitVec.allOnes 32] else e.1.frags).flatMap (part e.2 e.1))

/-- A trap record that names no unit (22 R399, R400). -/
def plainRecord (x : Session) (code core : Nat) (addr clock : Dword) : List Byte :=
  toLE 64 (addr.toNat * 2 ^ 384 + x.gen.toNat * 2 ^ 208 + x.slot % 256 * 2 ^ 200 + code * 2 ^ 192 + 255 * 2 ^ 176 + core % 64 * 2 ^ 122 +
    dieOf core % 4 * 2 ^ 120 + clock.toNat * 2 ^ 32)

/-- The records that the queue scheduler, Verbena and a core write on a session's behalf, as a unit of `State.unitRun`. -/
def recordUnit : Nat := 6

/-- A record put where its ring has room: the state, and its number. A page fault waits for the translation service (22 R437)
unless `skip`; a record whose write fails is not written. -/
def tryPut (s : State) (skip : Bool) (r : Except Trap (Option (State × Nat))) : Except Trap (State × Option Nat) :=
  match r with
  | .ok (some (t, n)) => .ok (t, some n)
  | .ok none => .ok (s, none)
  | .error t => if t.code.toNat == pageFault && !skip then .error t else .ok (s, none)

/-- A `WATCHDOG` or `WAIT_BUDGET` record. -/
def State.tryRecord (s : State) (x : Session) (skip : Bool) (bs : List Byte) : Except Trap State :=
  if x.tring == 0 then .ok s else (tryPut s skip (s.trapPut x bs)).map (·.1)

/-- Every snapshot record of a save: the state, and the index of the first one written. -/
def State.snapshot (s : State) (x : Session) (skip : Bool) (bss : List (List Byte)) : Except Trap (State × Option Nat) :=
  foldE (fun (acc : State × Option Nat) bs =>
    (tryPut acc.1 skip (acc.1.ringPut x x.snap.toNat (x.snap.toNat + 64) (2 ^ x.snapCap) bs)).map fun r =>
      (r.1, match acc.2 with
        | some n => some n
        | none => r.2)) (s, none) bss

/-- A lead stream may issue: it is ready, and none of its group's affine streams has stopped on a trap or a fault. -/
def Group.leadReady (g : Group) : Bool :=
  g.phase == .running && g.lead.status == .running && g.lead.wait == .none &&
  g.streams.all fun x => !x.running || x.status == .running

/-- Some unit of a core can issue. -/
def Core.canIssue (c : Core) : Bool :=
  c.active.groups.any fun g => g.leadReady || (g.phase == .running && g.bands.any fun b => b.lanes.any Lane.ready)

/-- The records of a save that the waiting budget forces (22 R399). -/
def State.budgetRecords (s : State) (x : Session) (core : Nat) (skip : Bool) : Except Trap State :=
  let c := s.core core
  match s.snapshot x skip (((List.range 16).filterMap c.groupAt?).flatMap (snapRecords s)) with
  | .error t => .error t
  | .ok (s1, first) =>
    let w := (s1.sxNum x x.snap.toNat 8).toOption.getD 0
    s1.tryRecord x skip (plainRecord x waitBudgetCode core (BitVec.ofNat 64 (first.getD w)) c.clock)

/-- `WAIT_BUDGET_EXPIRE`: snapshot and record, then every cluster of the core is saved. -/
def execWaitBudgetExpire (core : Nat) (s : State) : Result :=
  let c := s.core core
  match c.session.bind s.session? with
  | none => .next s
  | some x =>
    let free := match c.swap with
      | .none => true
      | .named _ => true
      | .grace _ _ => true
      | _ => false
    let save (t : State) : State :=
      (t.postSession x.slot).modCore core fun k => { k with swap := .quiesce ((t.choose core).getD x.slot) }
    if x.waitBudget == 0 || c.canIssue || (((List.range 16).filterMap c.groupAt?).flatMap (snapRecords s)).isEmpty || !free then .next s
    else .next (s.unitRun x recordUnit (fun u => (u.budgetRecords x core false).map save) fun u =>
      save ((u.budgetRecords x core true).toOption.getD u))

end Sys2Proof.Machine
end

