-- ==== Sys2Proof/Machine/Sessions.lean ====
section
/-! DEFINITION. The life of a session (22 R384, R400 to R404): creation and destruction, freezing, watchdogs and resets. -/

namespace Sys2Proof.Machine

open Sys2Proof

/-! ### Resets (22 R401, R402) -/

/-- The generation after a reset: 0xFFFF is followed by 1. -/
def nextGen (g : BitVec 16) : BitVec 16 := if g == 0xFFFF then 1 else g + 1

/-- A core stops a session at once, without saving; a copy of it in the shadow bank is discarded. -/
def Core.cut (slot : Nat) (c : Core) : Core :=
  let c1 := match c.shadow with
    | .empty => c
    | .outgoing x => if x.session == slot then { c with shadow := .empty } else c
    | .loaded x => if x.session == slot then { c with shadow := .empty } else c
  let c2 := { c1 with tlb := c1.tlb.filter fun (e : TlbEntry) => e.session != slot }
  if c.session == some slot then
    { c2 with
      session := none, active := { session := 0, groups := [] }, swap := .none, slots := emptySlots, mqueue := []
      mrun := none, port := [] }
  else c2

/-- Everything of a session that is under way is discarded: its requests, queue entries and TLB entries; its worlds enter
retirement. -/
def State.purge (s : State) (slot : Nat) : State :=
  { s with
    cores := s.cores.map (Core.cut slot)
    tlb2 := s.tlb2.filter fun (e : Nat × TlbEntry) => e.2.session != slot
    cmds := s.cmds.filter fun (c : Cmd) => c.session != slot
    fetches := s.fetches.filter fun (r : FetchReq) => r.session != slot
    pq := s.pq.filter fun (e : PqEntry) => e.session != slot
    pops := s.pops.filter fun (p : PqPop) => p.session != slot
    textures := s.textures.filter fun (t : TexStream) => t.session != slot
    texFails := s.texFails.filter fun (t : TexFail) => t.session != slot
    unitFaults := s.unitFaults.filter fun (f : UnitFault) => f.session != slot
    encoders := s.encoders.filter fun (e : EncFrame) => e.session != slot
    worlds := s.worlds.map fun (w : World) => if w.session == slot then w.retire else w }

/-- An unfinished launch of a session that is reset: it completes with RESET, and what its lists hold is discarded. -/
def Launch.cut (l : Launch) : Launch :=
  { l with
    ended := some 4, nextGroup := l.desc.groups, returned := [], lists := [], commitQueue := [], serialQueue := []
    complFault := none }

/-- A graph node of a session that is reset: a copy under way, or a node whose start had to wait, ends with an error. -/
def Node.cut (n : Node) : Node :=
  let copying := n.st == .running && !n.launch
  let held := n.st == .waiting && n.pred == 0
  if copying || held then { n with st := .ended, status := 4, fault := none } else { n with fault := none }

/-- FROZEN of a session's translation record. -/
def State.setFrozen (s : State) (x : Session) (b : Bool) : State :=
  let f := s.trecFlags x
  s.devPutNum (x.trec + 9) 1 (f - b2n (bitOf f 0) + b2n b)

/-- Steps 1 to 3 of a reset, and the marking of its launches (step 4). A session already RESETTING keeps its reset. -/
def State.beginReset (s : State) (slot : Nat) : State :=
  match s.session? slot with
  | none => s
  | some x =>
    if x.st == .resetting then s
    else
      let s1 := if x.st == .frozen then s.setFrozen x false else s
      let s2 := (s1.purge slot).modSession slot fun y =>
        { y with st := .resetting, gen := nextGen y.gen, saved := [], tokenHolder := none, tokenQueue := [] }
      let s3 : State :=
        { s2 with
          launches := s2.launches.map fun (l : Launch) => if l.session == slot then l.cut else l
          nodes := s2.nodes.map fun (n : Node) => if n.session == slot then n.cut else n
          queues := s2.queues.map fun (q : QueueCtx) =>
            if q.session == slot then { q with fault := none, declined := false, cmds := [] } else q }
      s3.postSession slot

/-- Steps 5 and 6 of a reset. -/
def State.endReset (s : State) (x : Session) : State :=
  let s1 := (s.queuesOwned x.slot).foldl (fun (t : State) q => t.stopQueue q (if x.watchdogs.contains q then 3 else 4)) s
  (s1.modSession x.slot fun y =>
    { y.measure 4 (sha512 (toLE 2 y.gen.toNat)) with st := .idle, resets := y.resets + 1, watchdogs := [] }).postSession x.slot

/-- `RESET_COMPLETE`: every launch of the session has completed. -/
def execResetComplete (session : Nat) (s : State) : Result :=
  match s.session? session with
  | none => .next s
  | some x =>
    if x.st == .resetting && !(s.launches.any fun l => l.session == session) then .next (s.endReset x) else .next s

/-! ### Watchdogs (22 R400, R403) -/

/-- A mapped queue whose watchdog counts: it has a started, unfinished launch and its session holds a core, or is in a reset
that another watchdog has begun. -/
def State.watched (s : State) (x : Session) (queue : Nat) : Bool :=
  (s.ctxOf queue).isSome && qWdog (s.queueEntry queue) != 0 && !x.watchdogs.contains queue &&
  (s.launches.any fun l => l.session == x.slot && l.queue == some queue) &&
  (!(s.coresOf x.slot).isEmpty || (x.st == .resetting && !x.watchdogs.isEmpty))

/-- `WATCHDOG_FIRE`: a record, and the reset of the owning session. -/
def execWatchdogFire (queue : Nat) (s : State) : Result :=
  match (s.ctxOf queue).bind fun q => s.session? q.session with
  | none => .next s
  | some x =>
    if !s.watched x queue then .next s
    else
      let bs := plainRecord x watchdogCode 0 (BitVec.ofNat 64 queue) 0
      let fire (t : State) : State := (t.modSession x.slot fun y => { y with watchdogs := y.watchdogs ++ [queue] }).beginReset x.slot
      .next (s.unitRun x recordUnit (fun u => (u.tryRecord x false bs).map fire) fun u => fire ((u.tryRecord x true bs).toOption.getD u))

/-! ### Session commands (22 R404) -/

def scmdOp (v : Dword) : Nat := bitsOf v.toNat 10 8
def scmdSlot (v : Dword) : Nat := v.toNat % 128

/-- The command ends with a STATUS: 0 OK, 1 RECORD, 2 STATE, 3 QUEUES. -/
def State.scmdEnd (s : State) (status : Nat) : State := { s with ctrl := { s.ctrl with sstatBusy := false, sstatStatus := status } }

/-- `CREATE`. -/
def execCreate (s : State) : Result :=
  let slot := scmdSlot s.ctrl.scmd
  if scmdOp s.ctrl.scmd != 1 then .next s
  else if (s.session? slot).isSome then .next (s.scmdEnd 2)
  else match s.dev (s.recordAt slot) 256 with
    | none => .next (s.scmdEnd 1)
    | some v =>
      if !recordOk v || !s.goodTrec (fld v 16 64) then .next (s.scmdEnd 1)
      else
        let x := (newSession slot v (s.nextIncarnation slot)).measure 1 (sha512 (s.phys.bytesAt (fld v 16 64) 256))
        .next (((s.addSession x).postSession slot).scmdEnd 0)

/-- A session taken out of its slot: its binding ends (23 R407). -/
def State.removeSession (s : State) (x : Session) : State :=
  let s1 := (s.launches.filter fun l => l.session == x.slot).foldl State.closeLaunch (s.purge x.slot)
  let s2 : State :=
    { s1 with
      sessions := s1.sessions.filter fun (y : Session) => y.slot != x.slot
      nodes := s1.nodes.filter fun (n : Node) => n.session != x.slot
      queues := s1.queues.filter fun (q : QueueCtx) => q.session != x.slot
      vault := match x.keySlot with
        | some k => { s1.vault with keys := updAt (fun (z : KeySlot) => { z with bindings := z.bindings - 1 }) s1.vault.keys k }
        | none => s1.vault }
  s2.postSession x.slot

/-- `DESTROY`: from IDLE, for a session without an enabled queue. -/
def execDestroy (s : State) : Result :=
  if scmdOp s.ctrl.scmd != 2 then .next s
  else match s.session? (scmdSlot s.ctrl.scmd) with
    | none => .next (s.scmdEnd 2)
    | some x =>
      if x.st != .idle then .next (s.scmdEnd 2)
      else if !(s.queuesOwned x.slot).isEmpty then .next (s.scmdEnd 3)
      else .next ((s.removeSession x).scmdEnd 0)

/-- A session command that changes a session in one state. -/
def State.scmdOn (s : State) (op : Nat) (ok : SessState → Bool) (act : State → Session → State) : Result :=
  if scmdOp s.ctrl.scmd != op then .next s
  else match s.session? (scmdSlot s.ctrl.scmd) with
    | none => .next (s.scmdEnd 2)
    | some x => if ok x.st then .next ((act s x).scmdEnd 0) else .next (s.scmdEnd 2)

/-- `FREEZE`: from IDLE. -/
def execFreeze (s : State) : Result :=
  s.scmdOn 3 (· == .idle) fun t x => ((t.setFrozen x true).modSession x.slot fun y => { y with st := .frozen }).postSession x.slot

/-- `THAW`: from FROZEN; a session with work then becomes RUNNABLE. -/
def execThaw (s : State) : Result :=
  s.scmdOn 4 (· == .frozen) fun t x =>
    (((t.setFrozen x false).modSession x.slot fun y => { y with st := .idle }).postSession x.slot).wake x.slot

/-- `SCMD_RESET`: from any state but FREE and RESETTING. -/
def execScmdReset (s : State) : Result := s.scmdOn 5 (· != .resetting) fun t x => t.beginReset x.slot

end Sys2Proof.Machine
end

