-- ==== Sys2Proof/WellFormed.lean ====
section
/-! DEFINITION. Which instructions are well formed: the types that the opcode map allows each (07 R146 to R149), the rules of
the instruction formats (07 R139 to R145), and the ranges of the numbers that name cores, slots and ports. -/

namespace Sys2Proof

/-! ### Types (07 R146 to R149) -/

def int32 : List Ty := [.b32, .s32, .n32]
def int32or64 : List Ty := [.b32, .s32, .n32, .b64, .s64, .n64]
def packedInts : List Ty := [.s16x2, .n16x2, .s8x4, .n8x4]
def intAll : List Ty := int32or64 ++ packedInts
def floatTypes : List Ty := [.f32, .f64, .f16, .bf16]
def floatAll : List Ty := floatTypes ++ [.f16x2, .bf16x2]
def packedAll : List Ty := [.f16x2, .bf16x2] ++ packedInts ++ [.b32]
def bits32 : List Ty := [.b32]
def bits32or64 : List Ty := [.b32, .b64]
def addrTypes : List Ty := [.b64, .n64]
/-- Code 0, of instructions whose TY is 0. -/
def noType : List Ty := [.b32]
def everyType : List Ty :=
  [.b32, .s32, .n32, .b64, .s64, .n64, .f32, .f64, .f16, .bf16, .f16x2, .bf16x2, .s16x2, .n16x2, .s8x4, .n8x4]

/-! ### Fields of the formats -/

/-- Bit [79] needs a mask register other than `k0` (07 R138). -/
def Guard.ok (g : Guard) : Bool := !g.neg || g.mask != 0

/-- A source: a lane register index below 640, or any group register (07 R139). -/
def Spec.source (x : Spec) : Bool := x.bank || decide (x.idx.toNat < 640)

/-- A destination: a source without a kill mark. -/
def Spec.dest (x : Spec) : Bool := !x.kill && x.source

/-- A field that the instruction does not use. -/
def Spec.empty (x : Spec) : Bool := !x.kill && !x.bank && x.idx == 0

/-- RND below 6 (07 R141). -/
def rndOk (r : BitVec 3) : Bool := decide (r.toNat < 6)

/-- `seg`: bits [10:8] are SEG, below 6 (09 R185). -/
def RForm.ok (f : RForm) (ts : List Ty) (seg : Bool) : Bool :=
  ts.contains f.ty && f.g.ok && f.d.dest && f.a.source && f.b.source && f.c.source && f.hi == 0 && rndOk f.rnd &&
  (if seg then f.low &&& 0x8FF == 0 && decide (f.low.toNat / 256 % 8 < 6) else f.low == 0)

def IForm.ok (f : IForm) (ts : List Ty) (seg : Bool) : Bool :=
  ts.contains f.ty && f.g.ok && f.d.dest && f.a.source && rndOk f.rnd &&
  (if seg then f.low &&& 0x38FF == 0 && decide (f.low.toNat / 256 % 8 < 6) else f.low == 0)

def AForm.ok (f : AForm) (ts : List Ty) (seg : Bool) : Bool :=
  match f with
  | .r x => x.ok ts seg
  | .i x => x.ok ts seg

/-- SCOPE at most 4; without an index B is empty (07 R142). -/
def MForm.ok (f : MForm) (ts : List Ty) : Bool :=
  ts.contains f.ty && f.g.ok && f.d.dest && f.a.source && f.b.source && f.c.source && decide (f.scope.toNat ≤ 4) &&
  (f.idx || f.b.empty)

/-- D is empty and SLOT at most 4; `shift`: WSH is used, at most 79 (07 R143). -/
def BForm.ok (f : BForm) (shift : Bool) : Bool :=
  f.ty == .b32 && f.g.ok && f.d.empty && f.a.source && decide (f.slot.toNat ≤ 4) && f.low == 0 &&
  (if shift then decide (f.wsh.toNat ≤ 79) else f.wsh == 0)

/-- Without a reply D is empty (07 R144). -/
def EForm.ok (f : EForm) : Bool :=
  f.ty == .b32 && f.g.ok && f.d.dest && f.a.source && f.b.source && f.mid == 0 && f.low == 0 && (f.reply || f.d.empty)

def TForm.ok (f : TForm) : Bool := f.ty == .b32 && f.g.ok && f.d.dest && f.crd.source && rndOk f.rnd && f.low == 0

/-! ### Numbers of the steps of other agents -/

def Who.ok : Who → Bool
  | .lanes b _ => decide (b < 32)
  | .lead => true
  | .stream n => decide (n < 2)

def coreOk (n : Nat) : Bool := decide (n < 64)
def rgsOk (n : Nat) : Bool := decide (n < 16)
def sessionOk (n : Nat) : Bool := decide (n < 128)
def laneOk (n : Nat) : Bool := decide (n < 32)

def UnitRef.ok (u : UnitRef) : Bool := coreOk u.core && rgsOk u.rgs && u.who.ok

def ErrorSite.ok : ErrorSite → Bool
  | .line pa => decide (pa < 2 ^ 52)
  | .unit u => u.ok

/-- 16 slices of a die's L2, 64 of the LLC (00 R2), and two memory channels of each of the 6 pairs (24 R427). -/
def Region.ok : Region → Bool
  | .array c _ => coreOk c
  | .l2 d n => decide (d < 4) && decide (n < 16)
  | .llc n => decide (n < 64)
  | .channel n => decide (n < 12)

def PowerDomain.ok : PowerDomain → Bool
  | .core n => coreOk n
  | .die n => decide (n < 4)
  | .encoder n => decide (n < 8)
  | .channel n => decide (n < 6)

/-- The well-formed instructions, and steps of other agents. -/
def Instr.wf : Instr → Bool
  | .nop f => f.ok noType false
  | .bra f => f.ok false
  | .jmp f => f.ok false
  | .brx f => f.ok false
  | .call f => f.ok true
  | .calli f => f.ok true
  | .ret f => f.ok noType false
  | .exit f => f.ok noType false
  | .alloc f => f.ok noType false
  | .split f => f.ok bits32 false
  | .rejoin f => f.ok bits32 false
  | .repeatImm f => f.ok noType false
  | .repeatReg f => f.ok noType false
  | .iadd f => f.ok intAll false
  | .isub f => f.ok intAll false
  | .imul f => f.ok intAll false
  | .imulhi f => f.ok intAll false
  | .imad f => f.ok intAll false
  | .iadd3 f => f.ok intAll false
  | .addmin f => f.ok intAll false
  | .addmax f => f.ok intAll false
  | .imin f => f.ok intAll false
  | .imax f => f.ok intAll false
  | .min3 f => f.ok intAll false
  | .max3 f => f.ok intAll false
  | .iabs f => f.ok intAll false
  | .ineg f => f.ok intAll false
  | .isad f => f.ok intAll false
  | .idiv f => f.ok int32or64 false
  | .irem f => f.ok int32or64 false
  | .land f => f.ok bits32or64 false
  | .lor f => f.ok bits32or64 false
  | .lxor f => f.ok bits32or64 false
  | .landn f => f.ok bits32or64 false
  | .lorn f => f.ok bits32or64 false
  | .lnot f => f.ok bits32or64 false
  | .shl f => f.ok int32or64 false
  | .shr f => f.ok int32or64 false
  | .sar f => f.ok int32or64 false
  | .rol f => f.ok int32or64 false
  | .ror f => f.ok int32or64 false
  | .fshl f => f.ok int32or64 false
  | .fshr f => f.ok int32or64 false
  | .bfx f => f.ok int32or64 false
  | .bfi f => f.ok int32or64 false
  | .popc f => f.ok int32or64 false
  | .clz f => f.ok int32or64 false
  | .ctz f => f.ok int32or64 false
  | .brev f => f.ok int32or64 false
  | .icmp _ f => f.ok int32or64 false
  | .mov f => f.ok everyType false
  | .sel f => f.ok everyType false
  | .kand f => f.ok bits32 false
  | .kor f => f.ok bits32 false
  | .kxor f => f.ok bits32 false
  | .kandn f => f.ok bits32 false
  | .knot f => f.ok bits32 false
  | .kget f => f.ok bits32 false
  | .kset f => f.ok bits32 false
  | .lea f => f.ok addrTypes false
  | .fadd f => f.ok floatAll false
  | .fsub f => f.ok floatAll false
  | .fmul f => f.ok floatAll false
  | .ffma f => f.ok floatAll false
  | .fmin f => f.ok floatAll false
  | .fmax f => f.ok floatAll false
  | .fabs f => f.ok floatAll false
  | .fdiv f => f.ok [.f32, .f64] false
  | .fsqrt f => f.ok [.f32, .f64] false
  | .frcp f => f.ok [.f32, .f64] false
  | .frsq f => f.ok [.f32, .f64] false
  | .fexp2 f => f.ok [.f32, .f16] false
  | .flog2 f => f.ok [.f32, .f16] false
  | .fsin f => f.ok [.f32, .f16] false
  | .fcos f => f.ok [.f32, .f16] false
  | .ftanh f => f.ok [.f32, .f16] false
  | .fcmp _ f => f.ok floatTypes false
  | .fclass f => f.ok floatTypes false
  | .cvt _ f => f.ok everyType false
  | .cvtq _ f => f.ok [.f32, .f16x2] false
  | .cvtw _ f => f.ok [.f32, .f16x2] false
  | .dot2 f => f.ok packedAll false
  | .dot4 f => f.ok packedAll false
  | .pack f => f.ok packedAll false
  | .bsel f => f.ok packedAll false
  | .lgetAt f => f.ok bits32or64 true
  | .lgetFlip f => f.ok bits32or64 true
  | .lshup f => f.ok bits32or64 true
  | .lshdn f => f.ok bits32or64 true
  | .kpollAll f => f.ok bits32or64 true
  | .kpollAny f => f.ok bits32or64 true
  | .kpollWord f => f.ok bits32or64 true
  | .lpeerEq f => f.ok bits32or64 true
  | .lpeerUni f => f.ok bits32or64 true
  | .lfold _ f => f.ok (int32or64 ++ [.f32]) true
  | .lpfx _ f => f.ok (int32 ++ [.f32]) true
  | .ld f => f.ok everyType
  | .ldN8 f => f.ok bits32
  | .ldS8 f => f.ok bits32
  | .ldN16 f => f.ok bits32
  | .ldS16 f => f.ok bits32
  | .st f => f.ok everyType
  | .stB8 f => f.ok bits32
  | .stB16 f => f.ok bits32
  | .pref f => f.ok noType
  | .atom _ f => f.ok (int32or64 ++ [.f32])
  | .red x f => x != .exch && x != .cas && f.ok (int32or64 ++ [.f32])
  | .fence f => f.ok noType
  | .fenceUn f => f.ok noType
  | .waitf _ f => f.ok bits32or64
  | .barGrp f => f.ok noType false
  | .barClu f => f.ok noType false
  | .xbegin f => f.ok false
  | .xend f => f.ok noType false
  | .xabort f => f.ok noType false
  | .xtest f => f.ok noType false
  | .pushf f => f.ok noType false
  | .pushfRow f => f.ok noType false
  | .pushfAll f => f.ok noType false
  | .pushfAllRow f => f.ok noType false
  | .popf f => f.ok bits32or64 false
  | .pushb f => f.ok bits32or64 false
  | .popb f => f.ok noType false
  | .streamCfg f => f.ok noType false
  | .streamGo f => f.ok noType false
  | .engCopy f => f.ok
  | .engFill f => f.ok
  | .engGsubmit f => f.ok
  | .engGsignal f => f.ok
  | .engGwatch f => f.ok
  | .engDappend f => f.ok
  | .engDdrain f => f.ok
  | .engAllreduce f => f.ok
  | .engAllgather f => f.ok
  | .engBcast f => f.ok
  | .mloadb f => f.ok
  | .mma f => f.ok
  | .mcommit f => f.ok
  | .mdiscard f => f.ok
  | .mzero f => f.ok
  | .mdrain f => f.ok
  | .ttld f => f.ok noType false
  | .ttst f => f.ok noType false
  | .ttinv f => f.ok noType false
  | .rsvinit f => f.ok [.f32] false
  | .rsvupd f => f.ok [.f32] false
  | .rsvmrg f => f.ok [.f32] false
  | .rsvfin f => f.ok [.f32] false
  | .rsvget _ f => f.ok bits32or64 false
  | .rsvput _ f => f.ok bits32or64 false
  | .rsvseed f => f.ok [.b64] false
  | .cainit f => f.ok [.f32] false
  | .caadd f => f.ok [.f32] false
  | .caflush f => f.ok [.f32] false
  | .caresolve f => f.ok [.f32] false
  | .careplay f => f.ok [.f32] false
  | .castat f => f.ok [.f32] false
  | .fetchwk f => f.ok noType
  | .pqpush f => f.ok noType false
  | .pqpop f => f.ok noType false
  | .wlpush f => f.ok noType false
  | .wlpop f => f.ok noType false
  | .quiesce f => f.ok noType false
  | .tex f => f.ok noType false
  | .texWait f => f.ok noType false
  | .tld f => f.ok noType false
  | .rayq f => f.ok noType false
  | .rayres f => f.ok noType false
  | .atlasreq f => f.ok noType false
  | .emit f => f.ok noType false
  | .trap f => f.ok noType false
  | .brkpt f => f.ok noType false
  | .rdsr f => f.ok noType false
  | .wrsr f => f.ok noType false
  | .tret f => f.ok noType false
  | .tlbinv f => f.ok noType false
  | .fork f => f.ok noType false
  | .cflush f => f.ok noType false
  | .runStart core slot => coreOk core && decide (slot < 4)
  | .resultArrival u => u.ok
  | .spillTransferDone core rgs band lane => coreOk core && rgsOk rgs && laneOk band && laneOk lane
  | .queueProtocolDetect core rgs => coreOk core && rgsOk rgs
  | .placeGroup session => sessionOk session
  | .placeCluster session => sessionOk session
  | .fetchwkServe session => sessionOk session
  | .groupFinish core rgs => coreOk core && rgsOk rgs
  | .retiringEnd core _ => coreOk core
  | .streamPush core rgs stream => coreOk core && rgsOk rgs && decide (stream < 2)
  | .rejoinRelease core rgs band => coreOk core && rgsOk rgs && laneOk band
  | .barrierComplete core rgs _ => coreOk core && rgsOk rgs
  | .waitfSatisfy u lane => u.ok && laneOk lane
  | .transactionConflict core rgs band lane => coreOk core && rgsOk rgs && laneOk band && laneOk lane
  | .commitTokenGrant session => sessionOk session
  | .matrixEngineStart core => coreOk core
  | .matrixEngineEnd core => coreOk core
  | .slotLoadComplete core => coreOk core
  | .slotReload core rgs band => coreOk core && rgsOk rgs && laneOk band
  | .pqPopServe die => decide (die < 4)
  | .listRequestServe session _ list => sessionOk session && decide (list < 64)
  | .quiescenceVerdict session _ => sessionOk session
  | .copyComplete _ => true
  | .nodeFinish session _ => sessionOk session
  | .collectiveComplete session _ => sessionOk session
  | .heldEngineWrite _ => true
  | .textureStreamComplete _ => true
  | .textureStreamFail _ => true
  | .rayTraversed core rgs band lane _ => coreOk core && rgsOk rgs && laneOk band && laneOk lane
  | .triangleRecord _ => true
  | .binCommit _ => true
  | .binReplay _ => true
  | .splatRecord _ => true
  | .flushRecord _ => true
  | .frameRecord _ => true
  | .encodeDone engine => decide (engine < 8)
  | .atlasRecordAccept core rgs band lane => coreOk core && rgsOk rgs && laneOk band && laneOk lane
  | .versionCommit session _ => sessionOk session
  | .serialTokenGrant session _ => sessionOk session
  | .trapRecordWrite u => u.ok
  | .faultServiceResult session _ => sessionOk session
  | .tlbWalk core session _ => coreOk core && sessionOk session
  | .copyOnWrite session _ _ => sessionOk session
  | .mergePage => true
  | .sliceEnd core => coreOk core
  | .sliceHalfway core => coreOk core
  | .graceExpire core => coreOk core
  | .contextQuiesce core => coreOk core
  | .contextExchange core => coreOk core
  | .contextSpill core => coreOk core
  | .contextPreload core => coreOk core
  | .coreGrant core => coreOk core
  | .waitBudgetExpire core => coreOk core
  | .watchdogFire queue => decide (queue < 16384)
  | .resetComplete session => sessionOk session
  | .doorbell => true
  | .queueMap => true
  | .queueUnmapIdle => true
  | .cpNop => true
  | .launch => true
  | .launchi => true
  | .cpCopy => true
  | .cpWait => true
  | .signal => true
  | .loop => true
  | .endloop => true
  | .cond => true
  | .graph => true
  | .snapshotOpen => true
  | .snapshotPublish => true
  | .snapshotClose => true
  | .resume => true
  | .launchComplete session _ => sessionOk session
  | .worldFree => true
  | .create => true
  | .destroy => true
  | .freeze => true
  | .thaw => true
  | .scmdReset => true
  | .provision => true
  | .activate => true
  | .bind => true
  | .retire => true
  | .revoke => true
  | .clear => true
  | .evidence => true
  | .unlock => true
  | .domainKey => true
  | .keySlotEmpty => true
  | .alarmpolWrite => true
  | .errorCorrected region => region.ok
  | .errorUncorrected site => site.ok
  | .euWindowEnd => true
  | .lock => true
  | .run => true
  | .hlScrub => true
  | .hhDrop => true
  | .dbmSwap => true
  | .dbmSwapComplete => true
  | .registerWrite _ _ => true
  | .hostWrite pa _ => decide (pa < 2 ^ 52)
  | .hostRead (.control _) _ => true
  | .hostRead (.memory pa) _ => decide (pa < 2 ^ 52)
  | .linkDown => true
  | .linkRequestTimeout _ => true
  | .moduleReset => true
  | .powerGate d => d.ok
  | .powerWake d => d.ok
  | .unassignedOpcode _ => false
  | .hostAtomic _ pa _ _ _ => decide (pa < 2 ^ 52)
  | .faultRecordWrite u => u.ok
  | .releasedFramePush => true
  | .sensorAlarm => true
  | .keystoreAlarm => true
  | .linkUp => true

end Sys2Proof
end

