-- ==== Sys2Proof/Machine/Trust.lean ====
section
/-! DEFINITION. Verbena and the error unit (23 R405 to R419): key slots, worlds, evidence, debug unlock, alarms and errors. -/

namespace Sys2Proof.Machine

open Sys2Proof

/-! ### Key slots (23 R406, R407) -/

def noKey : KeySlot := { st := .empty, key := 0, domainKind := false, epoch := 0, bindings := 0, domain := 0 }

def State.keySlot (s : State) (n : Nat) : KeySlot := s.vault.keys.getD n noKey

def State.modKey (s : State) (n : Nat) (f : KeySlot → KeySlot) : State :=
  { s with vault := { s.vault with keys := updAt f s.vault.keys n } }

/-- An empty slot keeps its EPOCH and its binding count. -/
def KeySlot.emptied (k : KeySlot) : KeySlot := { k with st := .empty, key := 0, domainKind := false, domain := 0 }

/-- Sessions that an end of a key slot resets: those bound to it, and those of its share domain. -/
def State.keyUsers (s : State) (n : Nat) : List Nat :=
  let k := s.keySlot n
  (s.sessions.filter fun x =>
    x.keySlot == some n || (k.domainKind && k.domain != 0 && s.sdom x == k.domain)).map (·.slot)

/-- A slot becomes REVOKED: its key is zeroised, its worlds are retired and its sessions are reset. -/
def State.revokeKey (s : State) (n : Nat) : State :=
  let s1 := s.modKey n fun k => { k with st := .revoked, key := 0 }
  let s2 : State := { s1 with worlds := s1.worlds.map fun (w : World) => if w.key == n then w.retire else w }
  (s.keyUsers n).foldl State.beginReset s2

/-- Every slot that is not EMPTY is erased. -/
def State.eraseKeys (s : State) : State :=
  (List.range 64).foldl (fun (t : State) n => if (t.keySlot n).st == .empty then t else t.revokeKey n) s

/-- What the alarms raised so far still have to do (23 R418). -/
def State.settleAlarms (s : State) : State :=
  s.alarmTodo.foldl (fun (t : State) e => if e.1 then t.eraseKeys else match e.2 with
    | some x => t.beginReset x
    | none => t) { s with alarmTodo := [] }

/-! ### Commands (23 R405, R407) -/

def vbOp (v : Dword) : Nat := v.toNat % 256
def vbSlot (v : Dword) : Nat := bitsOf v.toNat 13 8
def vbSession (v : Dword) : Nat := bitsOf v.toNat 22 16
def vbDomain (v : Dword) : Nat := bitsOf v.toNat 29 24

/-- The command ends with a STATUS and a REPLY. -/
def State.vbEnd (s : State) (status reply : Nat) : State :=
  { s with ctrl := { s.ctrl with vbBusy := false, vbStatus := status, vbReply := BitVec.ofNat 32 reply } }

def vbOk : Nat := 0
def vbBadOp : Nat := 1
def vbBadState : Nat := 2
def vbInUse : Nat := 3
def vbBlob : Nat := 4
def vbToken : Nat := 5
def vbIsBusy : Nat := 6
def vbLocked : Nat := 7

/-- A command of OP `op` on its key slot, for slots that satisfy `ok`; every other slot gives STATE. -/
def State.vbOn (s : State) (op : Nat) (ok : KeySlot → Bool) (act : State → Nat → KeySlot → State) : Result :=
  let n := vbSlot s.ctrl.vbCmd
  if vbOp s.ctrl.vbCmd != op then .next s
  else if ok (s.keySlot n) then .next (act s n (s.keySlot n)) else .next (s.vbEnd vbBadState 0)

/-- Bytes of the parameter block; none where the device cannot read them. -/
def State.vbBytes (s : State) (n : Nat) : Option (List Byte) :=
  (s.dev s.ctrl.vbParam.toNat n).map fun _ => s.phys.bytesAt s.ctrl.vbParam.toNat n

/-- The key and KIND of a good PROVISION block for a slot (23 R408). -/
def provisionBlob (n : Nat) (bs : List Byte) : Option (Nat × Bool) :=
  (Config.oaep bs).bind fun p =>
    let v := leNat p
    if p.length == 42 && decide (fld v 32 8 ≤ 1) && fld v 33 8 == n && fld v 34 64 == Config.deviceId.toNat then
      some (fld v 0 256, fld v 32 8 == 1)
    else none

/-- `PROVISION`. -/
def execProvision (s : State) : Result :=
  s.vbOn 1 (fun k => k.st == .empty) fun t n _ => match (t.vbBytes 512).bind (provisionBlob n) with
    | none => t.vbEnd vbBlob 0
    | some (key, dom) =>
      (t.modKey n fun k => { k with st := .provisioned, key := BitVec.ofNat 256 key, domainKind := dom, domain := 0 }).vbEnd vbOk 0

/-- `ACTIVATE`. -/
def execActivate (s : State) : Result :=
  s.vbOn 2 (fun k => k.st == .provisioned) fun t n _ =>
    (t.modKey n fun k => { k with st := .active, epoch := k.epoch + 1 }).vbEnd vbOk 0

/-- `BIND` (25 R431). -/
def execBind (s : State) : Result :=
  s.vbOn 3 (fun k => k.st == .active && !k.domainKind) fun t n k => match t.session? (vbSession t.ctrl.vbCmd) with
    | none => t.vbEnd vbInUse 0
    | some x =>
      if x.st != .idle && x.st != .frozen then t.vbEnd vbInUse 0
      else match x.keySlot with
        | some m => if m == n then t.vbEnd vbOk (handleOf t.vault n k x) else t.vbEnd vbInUse 0
        | none =>
          ((t.modSession x.slot fun y => { y with keySlot := some n }).modKey n fun z => { z with bindings := z.bindings + 1 }).vbEnd vbOk
            (handleOf t.vault n k x)

/-- `DOMAIN`. -/
def execDomainKey (s : State) : Result :=
  let d := vbDomain s.ctrl.vbCmd
  s.vbOn 9 (fun k => k.st == .active && k.domainKind) fun t n _ =>
    if (t.domainKey d).isSome || d == 0 then t.vbEnd vbInUse 0
    else (t.modKey n fun k => { k with domain := d }).vbEnd vbOk 0

/-- `RETIRE`. -/
def execRetire (s : State) : Result :=
  s.vbOn 4 (fun k => k.st == .active) fun t n _ => (t.modKey n fun k => { k with st := .retiring }).vbEnd vbOk 0

/-- `REVOKE`. -/
def execRevoke (s : State) : Result :=
  s.vbOn 5 (fun k => k.st == .provisioned || k.st == .active || k.st == .retiring) fun t n _ => (t.revokeKey n).vbEnd vbOk 0

/-- `CLEAR`. -/
def execClear (s : State) : Result :=
  s.vbOn 6 (fun k => k.st == .revoked) fun t n _ => (t.modKey n KeySlot.emptied).vbEnd vbOk 0

/-! ### The ends of worlds and of retiring slots (23 R407, R411) -/

/-- A world in retirement whose granules have been released. -/
def State.worldGone (s : State) (w : World) : Bool := w.retiring && (s.allGroupsOf w.session w.launch).isEmpty

/-- `WORLD_FREE`: the lowest index whose retirement ends. -/
def execWorldFree (s : State) : Result :=
  match argMin (fun (w : World) => w.index) (s.worlds.filter s.worldGone) with
  | none => .next s
  | some w => .next { s with worlds := s.worlds.filter fun (v : World) => v.index != w.index }

/-- A retiring slot whose last binding has ended and whose last world is free. -/
def State.keyGone (s : State) (n : Nat) : Bool :=
  let k := s.keySlot n
  k.st == .retiring && !(s.worlds.any fun w => w.key == n) &&
  (if k.domainKind then k.domain == 0 || !(s.sessions.any fun x => s.sdom x == k.domain) && !(s.hh.any fun e => e.domain == k.domain)
   else k.bindings == 0)

/-- `KEY_SLOT_EMPTY`: the lowest such slot. -/
def execKeySlotEmpty (s : State) : Result :=
  match (List.range 64).find? s.keyGone with
  | none => .next s
  | some n => .next (s.modKey n KeySlot.emptied)

/-! ### Evidence (23 R415) -/

/-- The first 512 bytes of an evidence record. -/
def evidenceBytes (s : State) (x : Session) (nonce : List Byte) : List Byte :=
  let gated := s.ctrl.pwrChan.getLsbD (Config.channelPair x.save % 6)
  let flags := b2n s.ctrl.debug + 2 * b2n (x.st == .running) + 4 * b2n (gated && !x.saved.isEmpty) + 8 * b2n (x.st == .resetting)
  nonce ++ toLE 8 Config.deviceId.toNat ++ toLE 1 Config.life.toNat ++ toLE 1 flags ++ toLE 2 x.slot ++ toLE 2 x.gen.toNat ++
  toLE 2 x.handle.toNat ++ toLE 8 x.logCount.toNat ++ toLE 64 s.vault.devMeas.toNat ++ toLE 64 x.sessMeas.toNat ++ toLE 296 0

/-- `EVIDENCE`. -/
def execEvidence (s : State) : Result :=
  if vbOp s.ctrl.vbCmd != 7 then .next s
  else match s.session? (vbSession s.ctrl.vbCmd) with
    | none => .next (s.vbEnd vbBadState 0)
    | some x => match s.vbBytes 64 with
      | none => .next (s.vbEnd vbBlob 0)
      | some nonce =>
        let r := evidenceBytes s x nonce
        .next ((s.devPut (s.ctrl.vbParam.toNat + 64) (r ++ toLE 512 (Config.attest r).toNat)).vbEnd vbOk 0)

/-! ### Debug unlock (23 R417) -/

/-- Whether a token is good: signature, identifier, LIFE, nonce and zeros. -/
def tokenOk (s : State) (bs : List Byte) : Bool :=
  let v := leNat bs
  Config.tokenSig bs && fld v 0 64 == Config.deviceId.toNat && fld v 8 8 == Config.life.toNat && fld v 9 64 == s.ctrl.vbNonce.toNat &&
  fld v 17 3960 == 0

/-- VB_NONCE renewed. -/
def State.newNonce (s : State) : State :=
  { s with ctrl := { s.ctrl with vbNonce := BitVec.ofNat 64 (Config.freeNat s.freeCtr) }, freeCtr := s.freeCtr + 1 }

/-- Sessions that an unlock resets: those with a world or a binding. -/
def State.worldUsers (s : State) : List Nat :=
  (s.sessions.filter fun x => x.keySlot.isSome || s.worlds.any fun w => w.session == x.slot).map (·.slot)

/-- `UNLOCK`. -/
def execUnlock (s : State) : Result :=
  if vbOp s.ctrl.vbCmd != 8 then .next s
  else if 4 ≤ s.vault.unlockFails then .next (s.vbEnd vbLocked 0)
  else match (s.vbBytes 1024).filter (tokenOk s) with
    | none =>
      let s1 := (s.raise alarmToken none).newNonce
      let s2 : State := { s1 with vault := { s1.vault with unlockFails := s1.vault.unlockFails + 1 } }
      .next (s2.settleAlarms.vbEnd vbToken 0)
    | some bs =>
      let s1 := s.worldUsers.foldl State.beginReset s.newNonce.eraseKeys
      let m := sha512 (toLE 64 s1.vault.devMeas.toNat ++ toLE 8 5 ++ toLE 64 (sha512 bs).toNat)
      let s2 : State :=
        { s1 with
          vault := { s1.vault with sealNo := s1.vault.sealNo + 1, devMeas := m }
          ctrl := { s1.ctrl with debug := true } }
      .next (s2.vbEnd vbOk 0)

/-! ### Alarms (23 R418) -/

/-- `SENSOR_ALARM`. -/
def execSensorAlarm (s : State) : Result := .next (s.raise alarmSensor none).settleAlarms

/-- `KEYSTORE_ALARM`. -/
def execKeystoreAlarm (s : State) : Result := .next (s.raise alarmKeystore none).settleAlarms

/-- A policy that lowers no field. -/
def raisesPolicy (old new : Nat) : Bool := (List.range 8).all fun i => decide (bitsOf old (2 * i + 1) (2 * i) ≤ bitsOf new (2 * i + 1) (2 * i))

/-- CFG_ERR gains a cause (24 R423). -/
def State.cfgError (s : State) (cause : Nat) : State := { s with ctrl := { s.ctrl with cfgErr := s.ctrl.cfgErr ||| BitVec.ofNat 5 (2 ^ cause) } }

def errLocked : Nat := 0
def errWidth : Nat := 1
def errHole : Nat := 2
def errLimit : Nat := 3
def errState : Nat := 4

/-- `ALARMPOL_WRITE`: only module reset lowers a policy. -/
def execAlarmpolWrite (s : State) : Result :=
  let v := s.ctrl.polWrite.toNat
  if decide (v < 65536) && raisesPolicy s.ctrl.alarmPol.toNat v then .next { s with ctrl := { s.ctrl with alarmPol := BitVec.ofNat 16 v } }
  else .next (s.cfgError errLimit)

/-! ### Errors (23 R419) -/

/-- The windows whose end is due have ended. -/
def State.windowed (s : State) : State :=
  if decide (s.ctrl.euWindow.toNat ≤ s.euCount) then
    { s with errCount := [], euCount := s.euCount % s.ctrl.euWindow.toNat }
  else s

/-- The corrected errors of a region in the window. -/
def State.errors (s : State) (region : Region) : Nat := ((s.errCount.find? fun e => e.1 == region).map (·.2)).getD 0

/-- `ERROR_CORRECTED`: the error that brings a region's counter to LIMIT marks a lasting fault. One that comes with a window's end
counts in the new window. What is no region counts nowhere. -/
def execErrorCorrected (region : Region) (s : State) : Result :=
  let w := s.windowed
  let n := w.errors region + 1
  let s1 : State := { w with errCount := (region, n) :: w.errCount.filter fun (e : Region × Nat) => e.1 != region }
  if !region.ok then .next s
  else .next (if n == w.ctrl.euLimit.toNat then
      (({ s1 with lasting := if s1.lasting.contains region then s1.lasting else region :: s1.lasting } : State).raise alarmFault none).settleAlarms
    else s1)

/-- `ERROR_UNCORRECTED`: a line is poisoned; on-chip state raises `MACHINE_CHECK` subcode UNCORRECTED. -/
def execErrorUncorrected (site : ErrorSite) (s : State) : Result :=
  match site with
  | .line pa => .next { s with phys := { s.phys with poison := insNat s.phys.poison (pa / 64) } }
  | .unit u => match s.groupAt? u.core u.rgs with
    | none => .next s
    | some g => match s.issOf u.core g.gid (g.widen u.who) with
      | none => .next s
      | some i =>
        if statusOf g u.who == .running then .next (s.takeTrap i i.active (mkTrap machineCheck 0)) else .next s

/-- `EU_WINDOW_END`: the counters return to zero, and the next window counts from this one's end. -/
def execEuWindowEnd (s : State) : Result :=
  if s.ctrl.euWindow.toNat ≤ s.euCount then .next { s with errCount := [], euCount := s.euCount - s.ctrl.euWindow.toNat } else .next s

end Sys2Proof.Machine
end

