-- ==== Sys2Proof/Machine/Host.lean ====
section
/-! DEFINITION. The host's side (24 R420 to R428, 23 R436): control-space registers, host reads and writes of LPDDR, the
host link, boot, and the power domains. -/

namespace Sys2Proof.Machine

open Sys2Proof

/-! ### Control-space registers (24 R423, R424, R426; 22 R404; 21 R382; 23 R405; 24 R428) -/

def State.setCtrl (s : State) (f : Ctrl → Ctrl) : State := { s with ctrl := f s.ctrl }

/-- A step that follows at once. -/
def State.queueStep (s : State) (i : Instr) : State := { s with agenda := i :: s.agenda }

/-- The limits of the lockable registers. -/
def limit4k (v : Nat) : Bool := v % 4096 == 0
def limit32 (lo v : Nat) : Bool := within lo 0xFFFFFFFF v
def limitRelCap (v : Nat) : Bool := within 6 20 v
def limitEu (v : Nat) : Bool := within 2 65535 v

/-- A lockable register: writable in CONFIG_OPEN only. -/
def State.lockable (s : State) (ok : Bool) (f : Ctrl → Ctrl) : State :=
  if s.ctrl.cfgState != 0 then s.cfgError errLocked else if ok then s.setCtrl f else s.cfgError errLimit

/-- A register that acts only in RUN. -/
def State.inRun (s : State) (ok : Bool) (f : State → State) : State :=
  if s.ctrl.cfgState != 2 then s.cfgError errState else if ok then f s else s.cfgError errLimit

/-- Any other writable register. -/
def State.writable (s : State) (ok : Bool) (f : State → State) : State := if ok then f s else s.cfgError errLimit

/-- The step that an SCMD asks for; other OPs are ignored. -/
def scmdStep (v : Dword) : Option Instr :=
  match scmdOp v with
  | 1 => some .create
  | 2 => some .destroy
  | 3 => some .freeze
  | 4 => some .thaw
  | 5 => some .scmdReset
  | _ => none

/-- The step that a VB_CMD asks for. -/
def vbStep (v : Dword) : Option Instr :=
  match vbOp v with
  | 1 => some .provision
  | 2 => some .activate
  | 3 => some .bind
  | 4 => some .retire
  | 5 => some .revoke
  | 6 => some .clear
  | 7 => some .evidence
  | 8 => some .unlock
  | 9 => some .domainKey
  | _ => none

/-- A write to VB_CMD: BUSY while a command is in progress, OP for an unassigned OP. -/
def State.writeVbCmd (s : State) (v : Dword) : State :=
  if s.ctrl.vbBusy then s.setCtrl fun c => { c with vbStatus := vbIsBusy }
  else match vbStep v with
    | some i => (s.setCtrl fun c => { c with vbCmd := v, vbBusy := true }).queueStep i
    | none => s.vbEnd vbBadOp 0

/-- A write to SCMD. -/
def State.writeScmd (s : State) (v : Dword) : State :=
  match scmdStep v with
  | some i => (s.setCtrl fun c => { c with scmd := v, sstatBusy := true }).queueStep i
  | none => s

/-- The zero fields of VB_CMD, and a share domain of 1 to 63 for DOMAIN. -/
def vbCmdOk (n : Nat) : Bool :=
  decide (n < 2 ^ 30) && !bitOf n 23 && bitsOf n 15 14 == 0 && (n % 256 != 9 || bitsOf n 29 24 != 0)

/-- A 64-bit write to a control-space register, at its offset in BAR0, once boot has ended. -/
def State.writeRegister (s : State) (off : Nat) (v : Dword) : State :=
  let n := v.toNat
  match off with
  | 0x000 => s
  | 0x008 => s
  | 0x010 => s.writable (decide (n < 4)) fun t => match n with
    | 1 => t.queueStep .lock
    | 2 => t.queueStep .run
    | _ => t
  | 0x018 => s.setCtrl fun c => { c with cfgErr := c.cfgErr &&& ~~~ (v.setWidth 5) }
  | 0x020 => s.lockable true fun c => { c with cpPrivq := v }
  | 0x028 => s.setCtrl fun c => { c with hostLoss := c.hostLoss && !bitOf n 1 }
  | 0x030 => s.writable (decide (n < 2)) fun t => if n == 1 then t.queueStep .hlScrub else t
  | 0x1000 => s.inRun (decide (n < 2)) fun t => t.setCtrl fun c => { c with schedEnable := n == 1 }
  | 0x1008 => s.lockable (limit4k n) fun c => { c with stabBase := v }
  | 0x1010 => s.lockable (limit4k n) fun c => { c with mqtBase := v }
  | 0x1018 => s.lockable (limit32 10000 n) fun c => { c with slice := v.setWidth 32 }
  | 0x1020 => s.lockable (limit32 0 n) fun c => { c with grace := v.setWidth 32 }
  | 0x1028 => s.inRun (decide (n < 2 ^ 14)) fun t => (t.setCtrl fun c => { c with doorbell := v }).queueStep .doorbell
  | 0x1030 => s.inRun (decide (n < 2 ^ 11) && !bitOf n 7) fun t => t.writeScmd v
  | 0x1038 => s
  | 0x2000 => s.writable (decide (n < 2)) fun t => t.setCtrl fun c => { c with mergeEn := n == 1 }
  | 0x2008 => s.lockable (limit4k n) fun c => { c with relBase := v }
  | 0x2010 => s.lockable (limitRelCap n) fun c => { c with relCap := n }
  | 0x2018 => s.writable (decide (n < 2 ^ 52) && bitsOf n 11 6 == 0) fun t => (t.setCtrl fun c => { c with hhDrop := v }).queueStep .hhDrop
  | 0x2020 => s
  | 0x2040 => s.lockable (limit4k n) fun c => { c with dbmBase0 := v }
  | 0x2048 => s.lockable (limit4k n) fun c => { c with dbmBase1 := v }
  | 0x2050 => s.writable (decide (n < 4)) fun t => t.setCtrl fun c => { c with dbmEnable := bitOf n 0 }
  | 0x2058 => s.writable (decide (n < 2)) fun t => (t.setCtrl fun c => { c with dbmSwap := v }).queueStep .dbmSwap
  | 0x2060 => s
  | 0x3000 => s.writable (n % 64 == 0) fun t => t.setCtrl fun c => { c with vbParam := v }
  | 0x3008 => s.inRun (vbCmdOk n) fun t => t.writeVbCmd v
  | 0x3010 => s
  | 0x3018 => s
  | 0x3020 => s
  | 0x3028 => (s.setCtrl fun c => { c with polWrite := v }).queueStep .alarmpolWrite
  | 0x3030 => s.setCtrl fun c => { c with alarms := c.alarms &&& ~~~ (v.setWidth 8) }
  | 0x3038 => s.lockable (limit32 (2 ^ 20) n) fun c => { c with euWindow := v.setWidth 32 }
  | 0x3040 => s.lockable (limitEu n) fun c => { c with euLimit := v.setWidth 16 }
  | 0x4000 => s.lockable (limit32 10000 n) fun c => { c with pwrIdle := v.setWidth 32 }
  | 0x4008 => s
  | 0x4010 => s
  | _ => s.cfgError errHole

/-- Whether an access of `width` bytes at a BAR0 offset is one that the control space answers. -/
def registerAccess (off width : Nat) : Bool := width == 8 && off % 8 == 0

/-- `REGISTER_WRITE`: a host write at a BAR0 offset. Until boot has ended every write outside CFG_ERR has status
STATE (24 R425). -/
def execRegisterWrite (a : BarAccess) (v : Dword) (s : State) : Result :=
  if a.off / 8 != 3 && s.ctrl.bootResult != 1 then .next (s.cfgError errState)
  else if !registerAccess a.off a.width then .next (s.cfgError errWidth)
  else .next (s.writeRegister a.off v)

/-- The value a 64-bit read of a register returns; none at an offset that holds no register. -/
def State.register (s : State) (off : Nat) : Option Nat :=
  let c := s.ctrl
  match off with
  | 0x000 => some (16 * c.bootStep + c.bootResult)
  | 0x008 => some c.cfgState
  | 0x010 => some 0
  | 0x018 => some c.cfgErr.toNat
  | 0x020 => some c.cpPrivq.toNat
  | 0x028 => some (2 ^ 32 * c.poisoned.toNat + 2 * b2n c.hostLoss + b2n c.linkUp)
  | 0x030 => some 0
  | 0x1000 => some (b2n c.schedEnable)
  | 0x1008 => some c.stabBase.toNat
  | 0x1010 => some c.mqtBase.toNat
  | 0x1018 => some c.slice.toNat
  | 0x1020 => some c.grace.toNat
  | 0x1028 => some 0
  | 0x1030 => some 0
  | 0x1038 => some (256 * b2n c.sstatBusy + c.sstatStatus)
  | 0x2000 => some (b2n c.mergeEn)
  | 0x2008 => some c.relBase.toNat
  | 0x2010 => some c.relCap
  | 0x2018 => some 0
  | 0x2020 => some (2 ^ 32 * c.merges.toNat + 2 ^ 16 * c.collide + 2 ^ 8 * c.full + c.badDrop)
  | 0x2040 => some c.dbmBase0.toNat
  | 0x2048 => some c.dbmBase1.toNat
  | 0x2050 => some (2 * b2n c.dbmActive + b2n c.dbmEnable)
  | 0x2058 => some 0
  | 0x2060 => some c.dbmSwaps.toNat
  | 0x3000 => some c.vbParam.toNat
  | 0x3008 => some 0
  | 0x3010 => some (2 ^ 32 * c.vbReply.toNat + 256 * b2n c.vbBusy + c.vbStatus)
  | 0x3018 => some c.vbNonce.toNat
  | 0x3020 => some (4 * b2n c.debug + Config.life.toNat)
  | 0x3028 => some c.alarmPol.toNat
  | 0x3030 => some c.alarms.toNat
  | 0x3038 => some c.euWindow.toNat
  | 0x3040 => some c.euLimit.toNat
  | 0x4000 => some c.pwrIdle.toNat
  | 0x4008 => some (2 ^ 12 * c.pwrChan.toNat + 2 ^ 4 * c.pwrEnc.toNat + c.pwrDie.toNat)
  | 0x4010 => some c.pwrCores.toNat
  | _ => none

/-- A read of the control space by the host. Before boot has ended, and after it has failed, only the configuration block answers
(24 R425). -/
def State.readRegister (s : State) (off width : Nat) : State :=
  if 0x1000 ≤ off && s.ctrl.bootResult != 1 then { s with hostData := none }
  else if !registerAccess off width then { s.cfgError errWidth with hostData := some (toLE width 0) }
  else match s.register off with
    | some v => { s with hostData := some (toLE 8 v) }
    | none => { s.cfgError errHole with hostData := some (toLE 8 0) }

/-- `LOCK`. -/
def execLock (s : State) : Result :=
  let c := s.ctrl
  if c.cfgState != 0 then .next (s.cfgError errState)
  else if limit4k c.stabBase.toNat && limit4k c.mqtBase.toNat && limit32 10000 c.slice.toNat && limit32 0 c.grace.toNat &&
          limit4k c.relBase.toNat && limitRelCap c.relCap && limit4k c.dbmBase0.toNat && limit4k c.dbmBase1.toNat &&
          limit32 (2 ^ 20) c.euWindow.toNat && limitEu c.euLimit.toNat && limit32 10000 c.pwrIdle.toNat then
    .next (s.setCtrl fun d => { d with cfgState := 1 })
  else .next (s.cfgError errLimit)

/-- `RUN`. -/
def execRun (s : State) : Result :=
  if s.ctrl.cfgState == 1 then .next (s.setCtrl fun d => { d with cfgState := 2 }) else .next (s.cfgError errState)

/-! ### Host accesses to LPDDR (23 R436) -/

/-- A host write of bytes on one line. The host may hold the line from then on (24 R421). -/
def State.hostPut (s : State) (a : Nat) (bs : List Byte) : State :=
  let own := Config.freeBool s.freeCtr
  let t := { s with freeCtr := s.freeCtr + 1 }.plainLine .past a bs
  { t with phys := { t.phys with hostOwned := if own then insNat t.phys.hostOwned (a / 64) else t.phys.hostOwned } }

/-- `HOST_WRITE`. Offsets at and above 384 GiB discard writes (24 R420). Until boot has ended only the configuration block answers
(24 R425). -/
def execHostWrite (pa : Nat) (data : List Byte) (s : State) : Result :=
  if s.ctrl.bootResult != 1 then .next (s.cfgError errState)
  else .next (((lineParts pa data).filter fun p => decide (p.1 < lpddrSize)).foldl (fun (t : State) p => t.hostPut p.1 p.2) s).settleAlarms

/-- A host read of LPDDR: the data, or nothing where a line is poisoned or held under a key. -/
def State.hostRead (s : State) (pa len : Nat) : State :=
  let ls := (linesOf pa len).filter fun l => decide (64 * l < lpddrSize)
  let bad := ls.filter s.keyed
  let s1 := bad.foldl (fun (t : State) l => t.raise alarmTag (t.ownerOf l)) s
  let poisoned := !bad.isEmpty || ls.any fun l => s.phys.poison.contains l
  let bytes := (List.range len).map fun j => if pa + j < lpddrSize then spGet s.phys.bytes (pa + j) else 0
  { s1 with
    hostData := if poisoned then none else some bytes
    freeCtr := s1.freeCtr + 1
    phys := { s1.phys with
      hostOwned := if Config.freeBool s1.freeCtr && !poisoned then ls.foldl insNat s1.phys.hostOwned else s1.phys.hostOwned } }

/-- `HOST_READ`: a read of the control space, or of LPDDR once boot has ended. -/
def execHostRead (a : HostAddr) (len : Nat) (s : State) : Result :=
  match a with
  | .control off => .next (s.readRegister off len)
  | .memory pa => if s.ctrl.bootResult != 1 then .next { s with hostData := none } else .next (s.hostRead pa len).settleAlarms

/-- The value a host AtomicOp leaves. -/
def hostAtomicNew (op : HostAtomicOp) (w old operand compare : Nat) : Nat :=
  match op with
  | .fetchAdd => (old + operand) % 2 ^ w
  | .swap => operand % 2 ^ w
  | .cas => if old == compare % 2 ^ w then operand % 2 ^ w else old

/-- `HOST_ATOMIC`: the old value, or nothing where the line is poisoned or held under a key. Above 384 GiB it reads zero. -/
def execHostAtomic (op : HostAtomicOp) (pa : Nat) (wide : Bool) (operand compare : Dword) (s : State) : Result :=
  let n := if wide then 8 else 4
  let refused : State := { s with hostData := none }
  if s.ctrl.bootResult != 1 then .next (refused.cfgError errState)
  else if pa % n != 0 then .next refused
  else if lpddrSize ≤ pa then .next { s with hostData := some (toLE n 0) }
  else if s.keyed (pa / 64) then .next (refused.tagLine (pa / 64)).settleAlarms
  else if s.phys.poison.contains (pa / 64) then .next refused
  else
    let old := s.phys.num pa n
    let t := s.hostPut pa (toLE n (hostAtomicNew op (8 * n) old operand.toNat compare.toNat))
    .next { t with hostData := some (toLE n old) }

/-! ### The host link (24 R421, R422, R424) -/

/-- `LINK_REQUEST_TIMEOUT`: a request that has been outstanding for longer than 100000000 base-die cycles fails. A texture page's
request stands across steps; the others fail in the next step (entry 86). -/
def execLinkRequestTimeout (req : LinkRequest) (s : State) : Result :=
  match req with
  | .access => .next (if s.ctrl.linkUp then { s with linkLate := 2 } else s)
  | .texture n => match s.textures[n]? with
    | none => .next s
    | some t => .next (if 100000000 < t.age then failStream s t else s)

/-- Host-owned lines poisoned, when the host that holds them is lost (24 R421). -/
def State.hostLost (s : State) : State :=
  let ls := s.phys.hostOwned
  let new := ls.filter fun l => !s.phys.hostPoison.contains l
  { s with
    phys := { s.phys with poison := ls.foldl insNat s.phys.poison, hostPoison := ls.foldl insNat s.phys.hostPoison }
    ctrl := { s.ctrl with hostLoss := true, poisoned := BitVec.ofNat 32 (min (2 ^ 32 - 1) (s.ctrl.poisoned.toNat + new.length)) } }

/-- `LINK_DOWN`: what was outstanding fails. Without an orderly shutdown the host-owned lines are poisoned; before an orderly one
the host has given them back. Whether it was orderly is a free choice (entry 38). -/
def execLinkDown (s : State) : Result :=
  let s1 := if Config.freeBool (s.freeCtr + 65306) then s else s.hostLost
  .next (s.textures.foldl failStream
    { s1 with phys := { s1.phys with hostOwned := [] }, ctrl := { s1.ctrl with linkUp := false } })

/-- `LINK_UP`. -/
def execLinkUp (s : State) : Result := .next (s.setCtrl fun c => { c with linkUp := true })

/-- Zero written to a line, under the key it was held under. -/
def State.scrub (s : State) (l : Nat) : State :=
  let t := (s.contend none [l]).cacheWrite .past (64 * l) 64
  { t with
    phys := { t.phys with
      bytes := spClear t.phys.bytes (64 * l) (64 * l + 64)
      poison := t.phys.poison.filter fun (k : Nat) => k != l } }

/-- `HL_SCRUB`: zero to every host-poisoned line. -/
def execHlScrub (s : State) : Result :=
  let t := s.phys.hostPoison.foldl State.scrub s
  .next { t with
    phys := { t.phys with hostPoison := [] }
    ctrl := { t.ctrl with poisoned := 0 } }

/-! ### Boot (24 R425) -/

/-- Whether one of the two flash copies of an image is accepted, and the measurement with it. -/
def bootImage (step image : Nat) (m : BitVec 512) : Option (BitVec 512) :=
  ((List.range 2).find? fun c => Config.imageGood image c).map fun c =>
    sha512 (toLE 64 m.toNat ++ toLE 8 step ++ toLE 64 (Config.imageHash image c).toNat)

/-- Images in order, until one is rejected: the measurement with those accepted, and whether all were. -/
def bootImages (step : Nat) : List Nat → BitVec 512 → BitVec 512 × Bool
  | [], m => (m, true)
  | i :: is, m => match bootImage step i m with
    | none => (m, false)
    | some m1 => bootImages step is m1

/-- The state at module reset: bytes outside LPDDR belong to the host and stand; so do the sealing key and the incarnation
numbers. -/
def State.afterReset (s : State) : State :=
  { State.reset with
    phys := { State.reset.phys with bytes := s.phys.bytes.filter fun (e : Nat × Byte) => decide (lpddrSize ≤ e.1) }
    vault := { State.reset.vault with sealNo := s.vault.sealNo }
    incarnations := s.incarnations, freeCtr := s.freeCtr, agenda := s.agenda, irqs := s.irqs
    ctrl := { Ctrl.reset with linkUp := true } }

/-- `MODULE_RESET`: the boot steps in order. Image 0 is the base-die manager's, images 1 to 32 the command processors'. -/
def execModuleReset (s : State) : Result :=
  let t := s.afterReset
  let stop (step result : Nat) (m : BitVec 512) : State :=
    { t with
      vault := { t.vault with devMeas := m }
      ctrl := { t.ctrl with bootStep := step, bootResult := result } }
  match bootImage 2 0 0 with
  | none => .next (stop 1 2 0)
  | some m => match bootImages 4 ((List.range 32).map (· + 1)) m with
    | (m2, false) => .next (stop 3 2 m2)
    | (m2, true) => .next (stop 5 1 m2).newNonce

/-! ### Power domains (24 R427, R428) -/

/-- Keys of the idle timers: cores, encoders, channel pairs. -/
def coreTimer (n : Nat) : Nat := n
def encoderTimer (n : Nat) : Nat := 64 + n
def channelTimer (n : Nat) : Nat := 72 + n

/-- No context is resident on a core, not even an empty one of a grant, and none in its shadow bank; an encoder has no frame
record. -/
def State.coreEmpty (s : State) (n : Nat) : Bool :=
  (s.core n).session.isNone && (s.core n).active.groups.isEmpty && (s.core n).shadow == .empty
def State.encoderEmpty (s : State) (n : Nat) : Bool := s.encoders.all fun e => e.engine != n

/-- A unit has been idle for PWR_IDLE cycles of its clock; 0xFFFFFFFF never gates. -/
def State.idleLong (s : State) (timer : Nat) : Bool :=
  s.ctrl.pwrIdle != 0xFFFFFFFF && decide (s.ctrl.pwrIdle.toNat ≤ (alGet? s.idle timer).getD 0)

/-- Whether the gate of a domain closes. -/
def State.mayGate (s : State) (d : PowerDomain) : Bool :=
  match d with
  | .core n => decide (n < 64) && s.coreEmpty n && s.idleLong (coreTimer n)
  | .die n => decide (n < 4) && (List.range 16).all fun k => s.ctrl.pwrCores.getLsbD (16 * n + k)
  | .encoder n => decide (n < 8) && s.encoderEmpty n && s.idleLong (encoderTimer n)
  | .channel n => decide (n < 6) && s.idleLong (channelTimer n)

/-- Whether a domain is gated. -/
def State.isGated (s : State) (d : PowerDomain) : Bool :=
  match d with
  | .core n => s.ctrl.pwrCores.getLsbD n
  | .die n => s.ctrl.pwrDie.getLsbD n
  | .encoder n => s.ctrl.pwrEnc.getLsbD n
  | .channel n => s.ctrl.pwrChan.getLsbD n

/-- The idle timers after a number of cycles of each unit: a timer counts while its unit is idle, and begins again with an access
that reaches the channel pair. -/
def State.idleTick (s : State) (coreCycles : Nat → Nat) (dieCycles : Nat) (touched : Nat → Bool) : List (Nat × Nat) :=
  let on (timer k : Nat) : Nat × Nat := (timer, (alGet? s.idle timer).getD 0 + k)
  (((List.range 64).filter s.coreEmpty).map fun n => on (coreTimer n) (coreCycles n)) ++
  (((List.range 8).filter s.encoderEmpty).map fun n => on (encoderTimer n) dieCycles) ++
  (((List.range 6).filter fun n => !touched n).map fun n => on (channelTimer n) dieCycles)

/-- A gated core keeps nothing. -/
def Core.gated (c : Core) : Core :=
  { c with tlb := [], slots := c.slots.map fun (x : IssueSlot) => { x with run := none, loops := [] } }

/-- A cache that loses its power: what is dirty is written back, and nothing is kept. -/
def State.gateCache (s : State) (c : CacheAt) : State := (s.phys.caches.filter fun b => b.at_ == c).foldl State.evict s

/-- `POWER_GATE`. -/
def execPowerGate (d : PowerDomain) (s : State) : Result :=
  if !s.mayGate d then .next s
  else match d with
    | .core n => .next (((s.gateCache (.l1 n)).modCore n Core.gated).setCtrl fun c => { c with pwrCores := c.pwrCores ||| BitVec.ofNat 64 (2 ^ n) })
    | .die n =>
      .next ({ s.gateCache (.l2 n) with tlb2 := s.tlb2.filter fun (e : Nat × TlbEntry) => e.1 != n }.setCtrl fun c => { c with pwrDie := c.pwrDie ||| BitVec.ofNat 4 (2 ^ n) })
    | .encoder n =>
      .next ({ s with encDone := s.encDone.filter fun (e : Nat × List Byte) => e.1 != n }.setCtrl fun c => { c with pwrEnc := c.pwrEnc ||| BitVec.ofNat 8 (2 ^ n) })
    | .channel n => .next (s.setCtrl fun c => { c with pwrChan := c.pwrChan ||| BitVec.ofNat 6 (2 ^ n) })

/-- A domain woken: its idle time begins again. -/
def State.woken (s : State) (timer : Nat) : State := { s with idle := alDel s.idle timer }

/-- `POWER_WAKE`. -/
def execPowerWake (d : PowerDomain) (s : State) : Result :=
  match d with
  | .core n => .next ((s.woken (coreTimer n)).setCtrl fun c => { c with pwrCores := c.pwrCores &&& ~~~ (BitVec.ofNat 64 (2 ^ n)) })
  | .die n => .next (s.setCtrl fun c => { c with pwrDie := c.pwrDie &&& ~~~ (BitVec.ofNat 4 (2 ^ n)) })
  | .encoder n => .next ((s.woken (encoderTimer n)).setCtrl fun c => { c with pwrEnc := c.pwrEnc &&& ~~~ (BitVec.ofNat 8 (2 ^ n)) })
  | .channel n => .next ((s.woken (channelTimer n)).setCtrl fun c => { c with pwrChan := c.pwrChan &&& ~~~ (BitVec.ofNat 6 (2 ^ n)) })

end Sys2Proof.Machine
end

