-- ==== Sys2Proof/Machine/Rays.lean ====
section
/-! DEFINITION. Rays: `RAYQ`, `RAYRES` (12 R275, R276) and the traversal unit (14 R310 to R313). -/

namespace Sys2Proof.Machine

open Sys2Proof

/-! ### RAYQ -/

/-- The limits of an acceleration-structure descriptor (14 R310). -/
def accelOk (v : Nat) : Bool :=
  fld v 0 64 % 128 == 0 && fld v 8 64 % 64 == 0 && decide (16 ≤ fld v 16 16) && decide (fld v 16 16 ≤ 1024) && fld v 16 16 % 8 == 0 &&
  fld v 18 368 == 0

def viewRayq (f : RForm) : View := viewGfx 0xEA f [.dst f.d, .run f.a 8, .greg f.b false 1, .src f.c]

/-- The lowest handle of four a lane does not hold. -/
def freeHandle (x : Lane) : Option Nat := (List.range 4).find? fun h => !(x.rays.any fun r => r.handle == h)

/-- `RAYQ`. -/
def execRayq (f : RForm) (s : State) : Result :=
  issue s (fun _ => viewRayq f) false false fun i en s =>
    match readDesc s i en f.b with
    | .error e => .error e
    | .ok v =>
      if !accelOk v then .error illOp
      else perLane i en (noteDesc s i f.b) (fun l => match rdRun s i l f.a 8, rd1 s i l f.c with
          | .error e, _ => .error e
          | _, .error e => .error e
          | .ok q, .ok fl => match freeHandle (i.group.lane i.band l) with
            | none => .error (illOpAt l)
            | some h => if fl &&& 0xFFFF00FC != 0 then .error (illOpAt l)
                        else .ok { handle := h, query := q, flags := fl, root := BitVec.ofNat 64 (fld v 0 64)
                                   spill := BitVec.ofNat 64 (fld v 8 64), stkcap := fld v 16 16, result := none : Ray })
        fun t l r => wr1 (t.modLanes i (maskOf (· == l)) fun _ x => { x with rays := x.rays ++ [r] }) i l .b32 f.d
          (BitVec.ofNat 32 r.handle)

/-! ### RAYRES -/

def viewRayres (f : RForm) : View := viewGfx 0xEB f [.drun f.d 6, .src f.a, .off f.b, .off f.c]

/-- The six words of a result. -/
def RayResult.words : RayResult → List Word
  | .miss => [0, 0x7F800000, 0xFFFFFFFF, 0xFFFFFFFF, 0, 0]
  | .hit t p n b1 b2 => [1, t, p, n, b1, b2]
  | .exhausted => []
  | .fault _ => []

/-- The trap a collected ray raises. -/
def Ray.trap (r : Ray) : Option Trap := match r.result with
  | some .exhausted => some (mkTrap stackLimit 3)
  | some (.fault t) => some t
  | _ => none

/-- Rays whose traversal faulted are traversed afresh when the `RAYRES` replays (14 R313). -/
def retryRays (x : Lane) : Lane :=
  { x with rays := x.rays.map fun r => match r.result with
    | some (.fault _) => { r with result := none }
    | _ => r }

/-- `RAYRES`. -/
def execRayres (f : RForm) (s : State) : Result :=
  issueHold s (fun _ => viewRayres f) fun i en s =>
    match mapLanes (i.lanes en) (fun l => match rd1 s i l f.a with
        | .error e => .error e
        | .ok a => match (i.group.lane i.band l).rays.find? fun r => r.handle == a.toNat with
          | some r => .ok (l, r)
          | none => .error (illOpAt l)) with
    | .error e => .error e
    | .ok rs =>
      let open_ := rs.filter fun x => x.2.result.isNone
      if !open_.isEmpty then .error (.wait (.ray (open_.map fun x => (x.1, x.2.handle))))
      else match gather false (rs.map fun x => (x.1, match x.2.trap with
          | some t => .error t
          | none => .ok x)) with
        | .error (.trap t) => .ok (((s.unkill i).modLanes i en fun _ x => retryRays x).takeTrap i en t)
        | .error e => .error e
        | .ok ys => (foldLanes (fun (t : State) (x : Nat × Ray) =>
            wrRun (t.modLanes i (maskOf (· == x.1)) fun _ y => { y with rays := y.rays.filter fun r => r.handle != x.2.handle }) i x.1 f.d 0
              ((x.2.result.map RayResult.words).getD [])) s ys).map fun t => t.advance i i.active

/-! ### Traversal -/

/-- A ray in the space of the structure it meets: origin, tmin, direction, tmax. -/
abbrev RayQ := List Word

def vec3 (q : RayQ) (n : Nat) : List FVal := (List.range 3).map fun k => f32 (q.getD (n + k) 0)

/-- The six bounds of child `k`, rounded outward, from a node's bytes (14 R311). -/
def childBox (v k : Nat) : List Word :=
  let o (a : Nat) : FVal := fmtF32.decode (fld v (4 * a) 32)
  let e (a : Nat) : Int := sextNat 8 (fld v (12 + a) 8)
  let q (a : Nat) : Nat := fld v (40 + 6 * k + a) 8
  let at_ (a n : Nat) (mode : Nat) : Word :=
    BitVec.ofNat 32 (fmtF32.deliver mode .none false 0 (faddX false (o a) (.fin false n (e a) false))).bits
  ((List.range 3).map fun a => at_ a (q a) 2) ++ (List.range 3).map fun a => at_ a (q (3 + a) + 1) 3

/-- A node that breaks a rule of 14 R311. -/
def badNode (v : Nat) : Bool :=
  fld v 88 320 != 0 || fld v 16 64 % 64 != 0 || (List.range 8).any fun k =>
    let kind := bitsOf (fld v (24 + k) 8) 7 6
    let cnt := fld v (32 + k) 8
    bitOf (fld v 15 8) k && (kind == 3 || (kind == 1 && cnt == 0) || (kind != 1 && cnt != 0) ||
      (List.range 3).any fun a => decide (fld v (40 + 6 * k + 3 + a) 8 < fld v (40 + 6 * k + a) 8))

/-- An entry of the traversal stack. -/
inductive StackEntry where
  /-- a child to visit: its kind, address, triangle count -/
  | child (kind addr cnt : Nat)
  /-- return to the space an instance was entered from -/
  | ret (ray : List Word) (inst : Option Word)
  deriving DecidableEq, Repr

/-- Where a traversal stands. -/
structure Trav where
  s : State
  stack : List StackEntry
  /-- blocks of 8 entries written to the spill area, and entries on chip -/
  spilled : Nat
  onchip : Nat
  /-- the ray in the current space, and the instance it is in -/
  ray : RayQ
  inst : Option Word
  best : Option (Word × Word × Word × Word × Word)
  /-- ended by exhaustion, a fault, a malformed structure, or a first hit -/
  stop : Option RayResult
  malformed : Bool

/-- What traversal needs of its ray. -/
structure TravEnv where
  i : Iss
  ray : Ray
  /-- start of the ray's spill area -/
  area : Nat

/-- Stores a block of the spill area; what a stack entry looks like there is not given. -/
def spillBlock (e : TravEnv) (s : State) (n : Nat) : Except Trap State :=
  let ea := BitVec.ofNat 64 (e.area + 64 * n)
  let bs := (List.range 64).map fun k => Config.freeByte (s.freeCtr + k)
  let nd : Need := { acc := .write, aligned := false, types := anyType }
  match checkAccess s e.i nd ea 64 with
  | .error t => .error t
  | .ok p =>
    if s.placePoisonW e.i.sess p 64 then .error (s.poisonAt e.i.sess p ea)
    else match s.overCapacity e.i.group (if sessionSpace ea.toNat then (List.range 64).map (ea.toNat + ·) else []) with
    | some k => .error ((mkTrap versionCapacity k).at ea)
    | none => match if e.i.group.buffering then .ok s else s.cowPlace e.i.sess none p with
      | .error t => .error t
      | .ok s1 => match checkAccess s1 e.i nd ea 64 with
        | .error t => .error t
        | .ok q => .ok ({ (s1.putAt e.i.sess e.i.group.gid none q bs).sign e.i.group.gid q false true with freeCtr := s1.freeCtr + 64 })

/-- Pushes an entry (14 R313). -/
def travPush (e : TravEnv) (t : Trav) (x : StackEntry) : Trav :=
  if t.stop.isSome then t
  else if e.ray.stkcap ≤ t.stack.length then { t with stop := some .exhausted }
  else if t.onchip < 16 then { t with stack := x :: t.stack, onchip := t.onchip + 1 }
  else match spillBlock e t.s t.spilled with
    | .error f => { t with stop := some (.fault f) }
    | .ok s1 => { t with s := s1, stack := x :: t.stack, onchip := t.onchip - 7, spilled := t.spilled + 1 }

/-- Pops an entry, a block being read back when none is on chip. -/
def travPop (e : TravEnv) (t : Trav) : Option (StackEntry × Trav) :=
  match t.stack with
  | [] => none
  | x :: xs =>
    if 0 < t.onchip then some (x, { t with stack := xs, onchip := t.onchip - 1 })
    else match laneBytes t.s e.i (e.area + 64 * (t.spilled - 1)) 64 with
      | .error f => some (x, { t with stop := some (.fault f) })
      | .ok _ => some (x, { t with
          s := unitRead t.s e.i (e.area + 64 * (t.spilled - 1)) 64, stack := xs, onchip := 7, spilled := t.spilled - 1 })

/-- A hit that beats the best so far: smaller t, then lower instance, then lower primitive. -/
def better (a b : Word × Word × Word × Word × Word) : Bool :=
  let c := fcmpX (f32 a.1) (f32 b.1)
  decide (c < 0) || (c == 0 && (decide (a.2.2.1 < b.2.2.1) || (a.2.2.1 == b.2.2.1 && decide (a.2.1 < b.2.1))))

/-- Whether the triangle faces away: (V1 − V0) × (V2 − V0) has a positive dot product with the direction. -/
def backFace (q : RayQ) (tri : List Word) : Bool :=
  let v (n k : Nat) : FVal := f32 (tri.getD (3 * n + k) 0)
  let sub (a b : FVal) : FVal := (faddX false a b.flip).v
  let mul (a b : FVal) : FVal := (fmulX a b).v
  let a (k : Nat) : FVal := sub (v 1 k) (v 0 k)
  let b (k : Nat) : FVal := sub (v 2 k) (v 0 k)
  let cross (x y : Nat) : FVal := sub (mul (a x) (b y)) (mul (a y) (b x))
  let d := vec3 q 4
  let dot := (faddX false (faddX false (mul (cross 1 2) (d.getD 0 (fzero false))) (mul (cross 2 0) (d.getD 1 (fzero false)))).v
    (mul (cross 0 1) (d.getD 2 (fzero false)))).v
  !dot.isNan && !dot.isZero && !dot.neg

/-- A finite FP32 value as a multiple of 2^-149. -/
def fixed32 (w : Word) : Option Int := match f32 w with
  | .fin s m e _ => let n : Int := m * 2 ^ (e + 149).toNat; some (if s then -n else n)
  | _ => none

/-- Finite FP32 values as multiples of 2^-149. -/
def fixedAll : List Word → Option (List Int)
  | [] => some []
  | w :: ws => match fixed32 w, fixedAll ws with
    | some n, some ns => some (n :: ns)
    | _, _ => none

/-- A condition `a·t ≥ b`. -/
abbrev HalfLine := Int × Int

/-- Whether one t meets every condition. -/
def feasible (cs : List HalfLine) : Bool :=
  (cs.all fun c => c.1 != 0 || decide (c.2 ≤ 0)) &&
  ((cs.filter fun c => decide (0 < c.1)).all fun p => (cs.filter fun c => decide (c.1 < 0)).all fun n =>
    decide (p.2 * -n.1 ≤ -n.2 * p.1))

/-- `a·t ≥ w − o`, or its mirror `a·t ≥ o − w`, for a bound that may be infinite; none for a NaN. An infinite bound on the open
side is no condition, on the other one that nothing meets. -/
def boundOf (w : Word) (upper : Bool) (o a : Int) : Option (List HalfLine) := match f32 w with
  | .nan _ => none
  | .inf s => some (if s == upper then [(0, 1)] else [])
  | .fin _ _ _ _ => (fixed32 w).map fun n => [if upper then (-a, o - n) else (a, n - o)]

/-- Conditions gathered; none where one is not defined. -/
def allOf : List (Option (List HalfLine)) → Option (List HalfLine)
  | [] => some []
  | none :: _ => none
  | some c :: cs => (allOf cs).map (c ++ ·)

/-- The range of t. -/
def rangeConds (q : RayQ) : List (Option (List HalfLine)) :=
  [boundOf (q.getD 3 0) false 0 (2 ^ 149), boundOf (q.getD 7 0) true 0 (2 ^ 149)]

/-- The conditions on t under which a ray is in a box in [tmin, tmax]; none where an operand that the test needs is no number. -/
def boxConds (q : RayQ) (box : List Word) : Option (List HalfLine) :=
  match fixedAll [q.getD 0 0, q.getD 1 0, q.getD 2 0, q.getD 4 0, q.getD 5 0, q.getD 6 0] with
  | none => none
  | some v => allOf (rangeConds q ++ (List.range 3).flatMap fun a =>
      [boundOf (box.getD a 0) false (v.getD a 0) (v.getD (3 + a) 0), boundOf (box.getD (3 + a) 0) true (v.getD a 0) (v.getD (3 + a) 0)])

/-- The greater of two lower bounds `b / a`. -/
def maxBound (x y : HalfLine) : HalfLine := if x.2 * y.1 < y.2 * x.1 then y else x

/-- The least t that meets conditions which some t meets; none where there is no least. -/
def entryOf (cs : List HalfLine) : Option HalfLine :=
  match cs.filter fun c => decide (0 < c.1) with
  | [] => none
  | c :: more => some (more.foldl maxBound c)

/-- The box test: it never rejects a box that the ray touches, and is a fixed function of its input bits. Entry distance: the least
t of [tmin, tmax] at which the ray is in the box (entry 9). -/
def boxHit (q : RayQ) (box : List Word) : Option (Option HalfLine) :=
  match boxConds q box with
  | none => if Config.boxExtra q box then some (some (2 ^ 149, (fixed32 (Config.boxEntry q box)).getD 0)) else none
  | some cs =>
    if feasible cs then some (entryOf cs)
    else if Config.boxExtra q box then some (some (2 ^ 149, (fixed32 (Config.boxEntry q box)).getD 0)) else none

/-- Whether an entry distance is at most another. -/
def entryLe (x y : Option HalfLine) : Bool := match x, y with
  | none, _ => true
  | some _, none => false
  | some a, some b => decide (a.2 * b.1 ≤ b.2 * a.1)

/-- `rne()` of a quotient of integers. -/
def rneQuot (a b : Int) : Word :=
  rne (fdivX (.fin (decide (a < 0)) a.natAbs 0 false) (.fin (decide (b < 0)) b.natAbs 0 false)).v

/-- Vectors of three integers, by axis. -/
def crossI (f g : Nat → Int) (a : Nat) : Int := f ((a + 1) % 3) * g ((a + 2) % 3) - f ((a + 2) % 3) * g ((a + 1) % 3)
def dotI (f g : Nat → Int) : Int := f 0 * g 0 + f 1 * g 1 + f 2 * g 2

/-- `a·t + b ≥ 0`, and `a·t + b = 0`. -/
def atLeast (a b : Int) : HalfLine := (a, -b)
def equalTo (a b : Int) : List HalfLine := [atLeast a b, atLeast (-a) (-b)]

/-- The conditions on t under which a ray from `o` along `d` is in a triangle `p` whose plane it runs parallel to, or which has no area:
in the plane and on the inner side of every edge; or on the line of the vertices and between them. -/
def flatConds (o d : Nat → Int) (p : Nat → Nat → Int) : List HalfLine :=
  let sub (f g : Nat → Int) (a : Nat) : Int := f a - g a
  let w (n : Nat) : Nat → Int := sub o (p n)
  let zero (f : Nat → Int) : Bool := f 0 == 0 && f 1 == 0 && f 2 == 0
  let n := crossI (sub (p 1) (p 0)) (sub (p 2) (p 0))
  if !zero n then
    equalTo (dotI d n) (dotI (w 0) n) ++ (List.range 3).map fun k =>
      let e := sub (p ((k + 1) % 3)) (p k)
      atLeast (dotI (crossI e d) n) (dotI (crossI e (w k)) n)
  else
    let u := if !zero (sub (p 1) (p 0)) then sub (p 1) (p 0) else sub (p 2) (p 0)
    if zero u then (List.range 3).flatMap fun a => equalTo (d a) (w 0 a)
    else
      let at_ (k : Nat) : Int := dotI (p k) u
      ((List.range 3).flatMap fun a => equalTo (crossI d u a) (crossI (w 0) u a)) ++
        [atLeast (dotI d u) (dotI o u - min (at_ 0) (min (at_ 1) (at_ 2))), atLeast (-(dotI d u)) (max (at_ 0) (max (at_ 1) (at_ 2)) - dotI o u)]

/-- Whether a t lies in [tmin, tmax]. -/
def tInRange (q : RayQ) (t : Word) : Bool :=
  decide (0 ≤ fcmpX (f32 t) (f32 (q.getD 3 0))) && decide (fcmpX (f32 t) (f32 (q.getD 7 0)) ≤ 0)

/-- The triangle test: the ray meets the triangle at a t in [tmin, tmax], edges and vertices included; t and the barycentrics of V1
and V2, each the exact value rounded once. Where it meets it at more than one t, the t is one of the range and the barycentrics are
what the test makes them (entry 9). -/
def triHit (q : RayQ) (tri : List Word) : Option (Word × Word × Word) :=
  match fixedAll ([q.getD 0 0, q.getD 1 0, q.getD 2 0, q.getD 4 0, q.getD 5 0, q.getD 6 0] ++ (List.range 9).map fun k => tri.getD k 0),
        allOf (rangeConds q) with
  | some v, some range =>
    let o (a : Nat) : Int := v.getD a 0
    let d (a : Nat) : Int := v.getD (3 + a) 0
    let p (n a : Nat) : Int := v.getD (6 + 3 * n + a) 0
    let e1 (a : Nat) : Int := p 1 a - p 0 a
    let e2 (a : Nat) : Int := p 2 a - p 0 a
    let w (a : Nat) : Int := o a - p 0 a
    let det := dotI e1 (crossI d e2)
    if det = 0 then
      if feasible (flatConds o d p ++ range) then
        let t := Config.triFlat q tri 0
        some (if tInRange q t then t else q.getD 3 0, Config.triFlat q tri 1, Config.triFlat q tri 2)
      else none
    else
      let sg : Int := if det < 0 then -1 else 1
      let n := det * sg
      let b1 := dotI w (crossI d e2) * sg
      let b2 := dotI d (crossI w e1) * sg
      let t := dotI e2 (crossI w e1) * sg
      if 0 ≤ b1 ∧ 0 ≤ b2 ∧ b1 + b2 ≤ n ∧ feasible ([(n, t), (-n, -t)] ++ range) then some (rneQuot t n, rneQuot b1 n, rneQuot b2 n) else none
  | _, _ => Config.triOdd q tri

/-- A triangle of 48 bytes tested. -/
def travTri (e : TravEnv) (t : Trav) (v : Nat) : Trav :=
  if t.stop.isSome then t
  else
    let tri := (List.range 9).map fun k => BitVec.ofNat 32 (fld v (4 * k) 32)
    if fld v 40 64 != 0 then { t with stop := some .miss, malformed := true }
    else if e.ray.flags.getLsbD 1 && backFace t.ray tri then t
    else match triHit t.ray tri with
      | none => t
      | some (d, b1, b2) =>
        let h := (d, BitVec.ofNat 32 (fld v 36 32), t.inst.getD Config.topInstance, b1, b2)
        if !tInRange t.ray d then t
        else if e.ray.flags.getLsbD 0 then { t with best := some h, stop := some (.hit h.1 h.2.1 h.2.2.1 b1 b2) }
        else match t.best with
          | none => { t with best := some h }
          | some b => if better h b then { t with best := some h } else t

/-- Coordinates of a point or direction under a 3×4 matrix, by rne() fused multiply-adds in row order. -/
def transform (m : List Word) (p : List FVal) (point : Bool) : List Word :=
  (List.range 3).map fun r =>
    let c (k : Nat) : FVal := f32 (m.getD (4 * r + k) 0)
    (List.range 3).foldl (fun acc k => rne (faddX false (f32 acc) (fmulX (c k) (p.getD k (fzero false))).v).v) (if point then m.getD (4 * r + 3) 0 else 0)

/-- The hit children of a node by ascending entry distance, ties by index. -/
def hitChildren (q : RayQ) (v : Nat) : List Nat :=
  let hits := (List.range 8).filterMap fun k =>
    if bitOf (fld v 15 8) k then (boxHit q (childBox v k)).map fun d => (d, k) else none
  let ins (x : Option HalfLine × Nat) (ys : List (Option HalfLine × Nat)) : List (Option HalfLine × Nat) :=
    let (a, b) := ys.span fun y => entryLe y.1 x.1
    a ++ x :: b
  (hits.foldl (fun ys x => ins x ys) []).map (·.2)

/-- Child `k` of a node as a stack entry. -/
def childEntry (v k : Nat) : StackEntry :=
  let meta_ := fld v (24 + k) 8
  let kind := bitsOf meta_ 7 6
  let m := bitsOf meta_ 5 0
  .child kind (fld v 16 64 + (match kind with
    | 0 => 128 * m
    | 1 => 48 * m
    | _ => 64 * m)) (fld v (32 + k) 8)

/-- Visits one entry. -/
def travVisit (e : TravEnv) (t : Trav) (x : StackEntry) : Trav :=
  let fail (f : Trap) : Trav := { t with stop := some (.fault f) }
  let bad : Trav := { t with stop := some .miss, malformed := true }
  match x with
  | .ret q n => { t with ray := q, inst := n }
  | .child 0 a _ => match laneBytes t.s e.i a 128 with
    | .error f => fail f
    | .ok bs =>
      let v := leNat bs
      if badNode v then bad
      else
        let t1 := { t with s := unitRead t.s e.i a 128 }
        -- the nearest child is visited next: it is pushed last
        match hitChildren t.ray v with
        | [] => t1
        | k :: ks =>
          let t2 := (ks.reverse.map (childEntry v)).foldl (travPush e) t1
          if t2.stop.isSome then t2 else { t2 with stack := childEntry v k :: t2.stack, onchip := t2.onchip + 1 }
  | .child 1 a n => match mapE (fun j => (laneBytes t.s e.i (a + 48 * j) 48).map leNat) (List.range n) with
    | .error f => fail f
    | .ok vs => vs.foldl (travTri e) { t with s := unitRead t.s e.i a (48 * n) }
  | .child _ a _ => match laneBytes t.s e.i a 64 with
    | .error f => fail f
    | .ok bs =>
      let t := { t with s := unitRead t.s e.i a 64 }
      let v := leNat bs
      if fld v 60 32 != 0 then bad
      else if fld v 59 8 &&& bitsOf e.ray.flags.toNat 15 8 == 0 then t
      else
        let m := (List.range 12).map fun k => BitVec.ofNat 32 (fld v (4 * k) 32)
        let o := transform m (vec3 t.ray 0) true
        let d := transform m (vec3 t.ray 4) false
        let t1 := travPush e (travPush e t (.ret t.ray t.inst)) (.child 0 (fld v 48 64) 0)
        { t1 with ray := o ++ [t.ray.getD 3 0] ++ d ++ [t.ray.getD 7 0], inst := some (BitVec.ofNat 32 (fld v 56 24)) }

/-- Entries visited until the stack is empty or the ray has ended; none when `fuel` runs out. -/
def travRun (e : TravEnv) : Nat → Trav → Option Trav
  | 0, _ => none
  | fuel + 1, t =>
    if t.stop.isSome then some t
    else match travPop e t with
      | none => some t
      | some (x, t1) => if t1.stop.isSome then some t1 else travRun e fuel (travVisit e t1 x)

/-- Entries a traversal may visit; a structure with more never ends a ray (its `RAYRES` waits). -/
def travFuel : Nat := 2 ^ 32

/-- The `RAYRES`s of a band whose rays have all been traversed issue again. -/
def Band.rayWake (b : Band) : Band :=
  let ended (r : Nat × Nat) : Bool := (b.lane r.1).rays.all fun q => q.handle != r.2 || q.result.isSome
  { b with lanes := b.lanes.map fun z => match z.wait with
    | .ray rs => if rs.all ended then { z with wait := .none } else z
    | _ => z }

/-- `RAY_TRAVERSED`: the traversal unit finishes a ray. -/
def execRayTraversed (core rgs band lane handle : Nat) (s : State) : Result :=
  match s.groupAt? core rgs with
  | none => .next s
  | some g => match (g.lane band lane).rays.find? fun r => r.handle == handle && r.result.isNone, s.issOf core g.gid (.lanes band (maskOf (· == lane))) with
    | some r, some i =>
      let b := (g.bands[band]?).elim 0 (·.pos)
      let e : TravEnv := { i := i, ray := r
                           area := r.spill.toNat + 8 * (r.stkcap - 16) * (((48 * (s.core core).rel + b) * 32 + lane) * 4 + handle) }
      let t0 : Trav := { s := s, stack := [.child 0 r.root.toNat 0], spilled := 0, onchip := 1, ray := r.query, inst := none, best := none,
                         stop := none, malformed := false }
      match travRun e travFuel t0 with
      | none => .next s
      | some t =>
        let res : RayResult := match t.stop, t.best with
          | some x, _ => x
          | none, some h => .hit h.1 h.2.1 h.2.2.1 h.2.2.2.1 h.2.2.2.2
          | none, none => .miss
        let s1 := if t.malformed then t.s.modSession g.session fun x => { x with malformed := x.malformed + 1 } else t.s
        .next (s1.modGroup g.gid fun h => h.modBand band fun y => Band.rayWake <|
          y.modLane lane fun z => { z with rays := z.rays.map fun q => if q.handle == handle then { q with result := some res } else q })
    | _, _ => .next s

end Sys2Proof.Machine
end

