-- ==== Sys2Proof/Machine/Repeat.lean ====
section
/-! DEFINITION. `REPEAT` (10 R222): the checks of the instruction that follows it, and the bounds of its iterations; and words
that are no instruction (07 R151, R153). -/

namespace Sys2Proof.Machine

open Sys2Proof

def viewRepeatImm (f : IForm) : View :=
  { op := 0x07, ty := f.ty, types := ty0, g := f.g, noGuard := true,
    bad := badI f plain || decide (65536 ≤ f.imm.toNat), uses := [.off f.a] }

def viewRepeatReg (f : IForm) : View :=
  { op := 0x07, ty := f.ty, types := ty0, g := f.g, noGuard := true, bad := badI f plain || f.imm != 0, uses := [.greg f.a false 1] }

/-- What steps 4 to 7 of 07 R153 check of an instruction; nothing for words that are none. -/
def viewOf : Instr → Option (Iss → View)
  | .nop f => some fun _ => viewNop f
  | .bra f => some fun _ => viewBra f
  | .jmp f => some fun _ => viewJmp f
  | .brx f => some fun _ => viewBrx f
  | .call f => some fun _ => viewCall f
  | .calli f => some fun _ => viewCalli f
  | .ret f => some fun _ => viewRet f
  | .exit f => some fun _ => viewExit f
  | .alloc f => some fun _ => viewAlloc f
  | .split f => some fun _ => viewSplit f
  | .rejoin f => some fun _ => viewRejoin f
  | .repeatImm f => some fun _ => viewRepeatImm f
  | .repeatReg f => some fun _ => viewRepeatReg f
  | .iadd f => some fun _ => viewIadd f
  | .isub f => some fun _ => viewIadd f
  | .imul f => some fun _ => viewIadd f
  | .imulhi f => some fun _ => viewImulhi f
  | .imad f => some fun _ => viewImad f
  | .iadd3 f => some fun _ => viewImad f
  | .addmin f => some fun _ => viewAddmin f
  | .addmax f => some fun _ => viewAddmin f
  | .imin f => some fun _ => viewImin f
  | .imax f => some fun _ => viewImin f
  | .min3 f => some fun _ => viewMin3 f
  | .max3 f => some fun _ => viewMin3 f
  | .iabs f => some fun _ => viewIabs f
  | .ineg f => some fun _ => viewIneg f
  | .isad f => some fun _ => viewIsad f
  | .idiv f => some fun _ => viewIdiv true f
  | .irem f => some fun _ => viewIdiv false f
  | .land f => some fun _ => viewLogic f
  | .lor f => some fun _ => viewLogic f
  | .lxor f => some fun _ => viewLogic f
  | .landn f => some fun _ => viewLogic f
  | .lorn f => some fun _ => viewLogic f
  | .lnot f => some fun _ => viewNot f
  | .shl f => some fun _ => viewShift f
  | .shr f => some fun _ => viewShift f
  | .sar f => some fun _ => viewShift f
  | .rol f => some fun _ => viewShift f
  | .ror f => some fun _ => viewShift f
  | .fshl f => some fun _ => viewFsh f
  | .fshr f => some fun _ => viewFsh f
  | .bfx f => some fun _ => viewBfx f
  | .bfi f => some fun _ => viewBfi f
  | .popc f => some fun _ => viewCount f
  | .clz f => some fun _ => viewCount f
  | .ctz f => some fun _ => viewCount f
  | .brev f => some fun _ => viewCount f
  | .icmp _ f => some fun _ => viewIcmp f
  | .mov f => some fun _ => viewMov f
  | .sel f => some fun _ => viewSel f
  | .kand f => some fun _ => viewK f
  | .kor f => some fun _ => viewK f
  | .kxor f => some fun _ => viewK f
  | .kandn f => some fun _ => viewK f
  | .knot f => some fun _ => viewKnot f
  | .kget f => some fun _ => viewKget f
  | .kset f => some fun _ => viewKset f
  | .lea f => some fun _ => viewLea f
  | .fadd f => some fun _ => viewFadd f
  | .fsub f => some fun _ => viewFadd f
  | .fmul f => some fun _ => viewFadd f
  | .ffma f => some fun _ => viewFfma f
  | .fmin f => some fun _ => viewFmin f
  | .fmax f => some fun _ => viewFmin f
  | .fabs f => some fun _ => viewFabs f
  | .fdiv f => some fun _ => viewFdiv f
  | .fsqrt f => some fun _ => viewFsqrt f
  | .frcp f => some fun _ => viewFsqrt f
  | .frsq f => some fun _ => viewFrsq f
  | .fexp2 f => some fun _ => viewApprox f
  | .flog2 f => some fun _ => viewApprox f
  | .fsin f => some fun _ => viewApprox f
  | .fcos f => some fun _ => viewApprox f
  | .ftanh f => some fun _ => viewApprox f
  | .fcmp _ f => some fun _ => viewFcmp f
  | .fclass f => some fun _ => viewFclass f
  | .cvt x f => some fun _ => viewCvt x f
  | .cvtq x f => some fun _ => viewCvtq x f
  | .cvtw _ f => some fun _ => viewCvtw f
  | .dot2 f => some fun _ => viewDot2 f
  | .dot4 f => some fun _ => viewDot4 f
  | .pack f => some fun _ => viewPack f
  | .bsel f => some fun _ => viewBsel f
  | .lgetAt f => some fun _ => viewLget f
  | .lgetFlip f => some fun _ => viewLget f
  | .lshup f => some fun _ => viewLsh f
  | .lshdn f => some fun _ => viewLsh f
  | .kpollAll f => some fun _ => viewKpoll f
  | .kpollAny f => some fun _ => viewKpoll f
  | .kpollWord f => some fun _ => viewKpollWord f
  | .lpeerEq f => some fun _ => viewLpeer f
  | .lpeerUni f => some fun _ => viewLpeer f
  | .lfold x f => some fun _ => viewLfold x f
  | .lpfx x f => some fun _ => viewLpfx x f
  | .ld f => some fun _ => viewLd f
  | .ldN8 f => some fun _ => viewLdNarrow f
  | .ldS8 f => some fun _ => viewLdNarrow f
  | .ldN16 f => some fun _ => viewLdNarrow f
  | .ldS16 f => some fun _ => viewLdNarrow f
  | .st f => some fun _ => viewSt f
  | .stB8 f => some fun _ => viewStNarrow f
  | .stB16 f => some fun _ => viewStNarrow f
  | .pref f => some fun _ => viewPref f
  | .atom x f => some fun _ => viewAtom x f
  | .red x f => some fun _ => viewRed x f
  | .fence f => some fun _ => viewFence f true
  | .fenceUn f => some fun _ => viewFenceUn f
  | .waitf _ f => some fun _ => viewWaitf f
  | .barGrp f => some fun _ => viewBar f
  | .barClu f => some fun _ => viewBar f
  | .xbegin f => some fun _ => viewXbegin f
  | .xend f => some fun _ => viewXend f
  | .xabort f => some fun _ => viewXabort f
  | .xtest f => some fun _ => viewXtest f
  | .pushf f => some fun _ => viewPushf f false false
  | .pushfRow f => some fun _ => viewPushf f true false
  | .pushfAll f => some fun _ => viewPushf f false true
  | .pushfAllRow f => some fun _ => viewPushf f true true
  | .popf f => some fun _ => viewPopf f
  | .pushb f => some fun _ => viewPushb f
  | .popb f => some fun _ => viewPopb f
  | .streamCfg f => some fun _ => viewStream f true
  | .streamGo f => some fun _ => viewStream f false
  | .engCopy f => some fun _ => viewE 0xB0 f false
  | .engFill f => some fun _ => viewE 0xB0 f false
  | .engGsubmit f => some fun _ => viewE 0xB1 f false
  | .engGsignal f => some fun _ => viewE 0xB1 f false
  | .engGwatch f => some fun _ => viewE 0xB1 f true
  | .engDappend f => some fun _ => viewE 0xB2 f true
  | .engDdrain f => some fun _ => viewDdrain f
  | .engAllreduce f => some fun _ => viewColl f
  | .engAllgather f => some fun _ => viewColl f
  | .engBcast f => some fun _ => viewColl f
  | .mloadb f => some fun _ => viewMloadb f
  | .mma f => some fun _ => viewMma f
  | .mcommit f => some fun _ => viewResolve f
  | .mdiscard f => some fun _ => viewResolve f
  | .mzero f => some fun _ => viewMzero f
  | .mdrain f => some fun _ => viewMdrain f
  | .ttld f => some fun _ => viewTtld f
  | .ttst f => some fun _ => viewTtst f
  | .ttinv f => some fun _ => viewTtinv f
  | .rsvinit f => some fun _ => viewRsvinit f
  | .rsvupd f => some fun _ => viewRsvupd f
  | .rsvmrg f => some fun _ => viewRsvmrg f
  | .rsvfin f => some fun _ => viewRsvfin f
  | .rsvget x f => some fun _ => viewRsvget x f
  | .rsvput x f => some fun _ => viewRsvput x f
  | .rsvseed f => some fun _ => viewRsvseed f
  | .cainit f => some fun _ => viewCainit f
  | .caadd f => some fun _ => viewCaadd f
  | .caflush f => some fun _ => viewCaflush f
  | .caresolve f => some fun _ => viewCaresolve f
  | .careplay f => some fun _ => viewCareplay f
  | .castat f => some fun _ => viewCastat f
  | .fetchwk f => some fun _ => viewFetchwk f
  | .pqpush f => some fun _ => viewPqpush f
  | .pqpop f => some fun _ => viewPqpop f
  | .wlpush f => some fun _ => viewWlpush f
  | .wlpop f => some fun _ => viewWlpop f
  | .quiesce f => some fun _ => viewQuiesce f
  | .tex f => some fun _ => viewTex f
  | .texWait f => some fun _ => viewTex f
  | .tld f => some fun _ => viewTld f
  | .rayq f => some fun _ => viewRayq f
  | .rayres f => some fun _ => viewRayres f
  | .atlasreq f => some fun _ => viewAtlasreq f
  | .emit f => some fun _ => viewEmit f
  | .trap f => some fun _ => viewTrap f
  | .brkpt f => some fun _ => viewBrkpt f
  | .rdsr f => some fun i => viewRdsr f i.lead
  | .wrsr f => some fun _ => viewWrsr f
  | .tret f => some fun _ => viewTret f
  | .tlbinv f => some fun _ => viewTlbinv f
  | .fork f => some fun _ => viewFork f
  | .cflush f => some fun _ => viewCflush f
  | .runStart _ _ => none
  | .resultArrival _ => none
  | .spillTransferDone _ _ _ _ => none
  | .queueProtocolDetect _ _ => none
  | .placeGroup _ => none
  | .placeCluster _ => none
  | .fetchwkServe _ => none
  | .groupFinish _ _ => none
  | .retiringEnd _ _ => none
  | .streamPush _ _ _ => none
  | .rejoinRelease _ _ _ => none
  | .barrierComplete _ _ _ => none
  | .waitfSatisfy _ _ => none
  | .transactionConflict _ _ _ _ => none
  | .commitTokenGrant _ => none
  | .matrixEngineStart _ => none
  | .matrixEngineEnd _ => none
  | .slotLoadComplete _ => none
  | .slotReload _ _ _ => none
  | .pqPopServe _ => none
  | .listRequestServe _ _ _ => none
  | .quiescenceVerdict _ _ => none
  | .copyComplete _ => none
  | .nodeFinish _ _ => none
  | .collectiveComplete _ _ => none
  | .heldEngineWrite _ => none
  | .textureStreamComplete _ => none
  | .textureStreamFail _ => none
  | .rayTraversed _ _ _ _ _ => none
  | .triangleRecord _ => none
  | .binCommit _ => none
  | .binReplay _ => none
  | .splatRecord _ => none
  | .flushRecord _ => none
  | .frameRecord _ => none
  | .encodeDone _ => none
  | .atlasRecordAccept _ _ _ _ => none
  | .versionCommit _ _ => none
  | .serialTokenGrant _ _ => none
  | .trapRecordWrite _ => none
  | .faultServiceResult _ _ => none
  | .tlbWalk _ _ _ => none
  | .copyOnWrite _ _ _ => none
  | .mergePage => none
  | .sliceEnd _ => none
  | .sliceHalfway _ => none
  | .graceExpire _ => none
  | .contextQuiesce _ => none
  | .contextExchange _ => none
  | .contextSpill _ => none
  | .contextPreload _ => none
  | .coreGrant _ => none
  | .waitBudgetExpire _ => none
  | .watchdogFire _ => none
  | .resetComplete _ => none
  | .doorbell => none
  | .queueMap => none
  | .queueUnmapIdle => none
  | .cpNop => none
  | .launch => none
  | .launchi => none
  | .cpCopy => none
  | .cpWait => none
  | .signal => none
  | .loop => none
  | .endloop => none
  | .cond => none
  | .graph => none
  | .snapshotOpen => none
  | .snapshotPublish => none
  | .snapshotClose => none
  | .resume => none
  | .launchComplete _ _ => none
  | .worldFree => none
  | .create => none
  | .destroy => none
  | .freeze => none
  | .thaw => none
  | .scmdReset => none
  | .provision => none
  | .activate => none
  | .bind => none
  | .retire => none
  | .revoke => none
  | .clear => none
  | .evidence => none
  | .unlock => none
  | .domainKey => none
  | .keySlotEmpty => none
  | .alarmpolWrite => none
  | .errorCorrected _ => none
  | .errorUncorrected _ => none
  | .euWindowEnd => none
  | .lock => none
  | .run => none
  | .hlScrub => none
  | .hhDrop => none
  | .dbmSwap => none
  | .dbmSwapComplete => none
  | .registerWrite _ _ => none
  | .hostWrite _ _ => none
  | .hostRead _ _ => none
  | .linkDown => none
  | .linkRequestTimeout _ => none
  | .moduleReset => none
  | .powerGate _ => none
  | .powerWake _ => none
  | .unassignedOpcode _ => none
  | .hostAtomic _ _ _ _ _ => none
  | .faultRecordWrite _ => none
  | .releasedFramePush => none
  | .sensorAlarm => none
  | .keystoreAlarm => none
  | .linkUp => none

/-- The part of a use that does not depend on its register index. -/
def Use.kindFails (i : Iss) (scope : LaneMask) : Use → Option Nat
  | .reg s dst _ _ _ _ => if (dst && s.kill) || (i.lead && !s.bank) || (!i.lead && s.bank && dst) then some 255 else none
  | .lreg s dst => if i.lead || s.bank || (dst && s.kill) then some 255 else none
  | .greg s dst _ => if s.bank && !(dst && s.kill) then none else some 255
  | u => u.fails i scope

/-- Whether a field holds a register specifier. -/
def Use.isReg : Use → Bool
  | .reg _ _ _ _ _ _ => true
  | .lreg _ _ => true
  | .greg _ _ _ => true
  | _ => false

/-- Whether registers from index `k` on break 03 R54, R56, 07 R139 or R140. -/
def Use.indexFails (i : Iss) (scope : LaneMask) (off : Nat) : Use → Bool
  | .reg s _ n ng nl even =>
    let k := s.idx.toNat + off
    if i.lead then decide (1024 < k + nl)
    else if s.bank then decide (1024 < k + ng)
    else decide (640 ≤ k) || (even && k % 2 == 1) || (lanesOf scope).any fun l => !(i.group.lane i.band l).holds k n
  | .lreg s _ => (lanesOf scope).any fun l => !(i.group.lane i.band l).holds (s.idx.toNat + off) 1
  | .greg s _ n => decide (1024 < s.idx.toNat + off + n)
  | _ => false

/-- Whether `REPEAT` may repeat an instruction. -/
def repeatable (op : Nat) : Bool := (decide (0x10 ≤ op) && decide (op ≤ 0x6F)) || op == 0x70 || op == 0x71

/-- Steps 4 to 7 of 07 R153 without the checks of register indices. -/
def View.checkKinds (v : View) (i : Iss) (scope : LaneMask) : Option Trap :=
  if !v.types.contains v.ty then some { mkTrap illegalInstr 0 with field := 4 }
  else if !(if i.lead then v.lead else v.lane) then some { mkTrap illegalInstr 2 with field := 5 }
  else if v.priv && !i.priv then some { mkTrap protection 4 with field := 6 }
  else if reservedGuard v.g || (v.noGuard && !unguarded v.g) || v.bad || (i.lead && v.leadBad) then
    some { mkTrap illegalOperand 0 with field := 7 }
  else (v.uses.findSome? (Use.kindFails i scope)).map fun l => { mkTrap illegalOperand 0 with field := 7, lane := l }

/-- The failing step of a word that is no instruction: an unassigned OP, or FN or EFN (07 R153). -/
def unassigned (w : BitVec 96) : Trap := { mkTrap illegalInstr 0 with field := if opAssigned (opOf w) then 3 else 2 }

/-- The checks of the instruction after a `REPEAT`, in their order. -/
def repeatCheck (s : State) (i : Iss) (strides : List Nat) (cnt : Nat) : Except Halt Unit :=
  let pc := nextPc i.pc
  match fetchChecked s i pc with
  | .error t => .error (.trap t)
  | .ok line =>
    let w := slotWord line (pc.toNat % 64)
    match viewOf (decode w) with
    | none => .error (.trap (unassigned w))
    | some f =>
      let v := f i
      let scope := if 0x60 ≤ v.op && v.op ≤ 0x64 then i.enabled v.g else i.active
      let uses := (List.range 4).map fun j => (v.uses[j]?, strides.getD j 0)
      match v.checkKinds i scope with
      | some t => .error (.trap t)
      | none =>
        if !repeatable v.op then .error illInstr
        else if uses.any fun u => u.2 != 0 && !(u.1.any Use.isReg) then .error illOp
        else if cnt > 65535 then .error (.trap { mkTrap repeatBounds 0 with field := 8 })
        else if (List.range cnt).any fun k => uses.any fun u => u.2 != 0 && u.1.any (Use.indexFails i scope (k * u.2)) then
          .error (.trap { mkTrap repeatBounds 0 with field := 8 })
        else .ok ()

/-- A `REPEAT` of a count: skips two slots, or sets the repeat state of the unit. -/
def repeatBody (f : IForm) (count : Iss → Nat) : Body := fun i _ s =>
  let d := (if f.d.kill then 2 ^ 11 else 0) + (if f.d.bank then 2 ^ 10 else 0) + f.d.idx.toNat
  let st (j : Nat) : Nat := d / 8 ^ j % 8
  let cnt := count i
  let go (pc : Pc) (r : Option RepState) : State :=
    if i.lead then s.modLead i fun x => { x with pc := pc, rep := r }
    else s.modLanes i i.active fun _ x => { x with pc := pc, rep := r }
  if cnt == 0 then .ok (go (nextPc (nextPc i.pc)) none)
  else (repeatCheck s i [st 3, st 2, st 1, st 0] cnt).map fun _ =>
    go (nextPc i.pc) (some { remain := BitVec.ofNat 16 cnt, iter := 0, sd := BitVec.ofNat 3 (st 3), sa := BitVec.ofNat 3 (st 2),
                             sb := BitVec.ofNat 3 (st 1), sc := BitVec.ofNat 3 (st 0) })

/-- `REPEAT n`. -/
def execRepeatImm (f : IForm) (s : State) : Result :=
  issue s (fun _ => viewRepeatImm f) true false (repeatBody f fun _ => f.imm.toNat)

/-- `REPEAT ga`. -/
def execRepeatReg (f : IForm) (s : State) : Result :=
  issue s (fun _ => viewRepeatReg f) true false (repeatBody f fun i => (i.gReg f.a.idx.toNat).toNat % 2 ^ 32)

/-- A word with an unassigned OP, FN or EFN (07 R151, R153): `ILLEGAL_INSTR`, whatever its guard. -/
def execUnassignedOpcode (w : BitVec 96) (s : State) : Result :=
  match s.iss? with
  | none => .fault .noIssuer
  | some i =>
    let d := i.doomed
    let s1 := s.abortLanes i d 1 0
    let j := { i with active := i.active &&& ~~~ d }
    if j.active == 0 then .next s1 else .next (s1.takeTrap j (j.enabled (wGuard w)) (unassigned w))

end Sys2Proof.Machine
end

