-- ==== Sys2Proof/Machine/Snapshots.lean ====
section
/-! DEFINITION. Pooled snapshot regions: the SNAPSHOT command (21 R378, R379). -/

namespace Sys2Proof.Machine

open Sys2Proof

/-- How an operation ends: its STATUS, or an access of it that failed. -/
inductive SnapRes where
  | status (s : State) (code : Nat)
  | fault (t : Trap)

/-- The header of a region: VWORD, NPAGES and MAPS. -/
structure SnapHead where
  vword : Nat
  pages : Nat
  maps : Nat

/-- A read of the header, on an SO translation. -/
def snapRead (s : State) (x : Session) (va n : Nat) : Except Trap Nat :=
  match s.sxPieces x .read va n with
  | .error t => .error t
  | .ok ps => if ps.all fun p => p.leaf.type == 5 then s.sxNum x va n else .error ((mkTrap protection 6).at (BitVec.ofNat 64 va))

/-- A word of the header changed; carried by the host link as an atomic where the memory lies behind it (24 R422). -/
def snapWrite8 (s : State) (x : Session) (va v : Nat) : Except Trap State :=
  match snapRead s x va 8 with
  | .error t => .error t
  | .ok _ => s.sxWriteNum x va 8 v

def snapHead (s : State) (x : Session) (base : Nat) : Except Trap SnapHead :=
  (snapRead s x base 16).map fun v => { vword := fld v 0 64, pages := fld v 8 32, maps := fld v 12 16 }

def headOk (h : SnapHead) : Bool := within 1 (2 ^ 20) h.pages && within 2 256 h.maps && decide (h.vword % 256 < h.maps)

def readersAt (base slot : Nat) : Nat := base + 64 + 8 * slot

/-- Address of entry `i` of map `slot`. -/
def mapEntry (base pages slot i : Nat) : Nat := base + 4096 + slot * 4096 * ((pages + 511) / 512) + 8 * i

/-- Address of the level-3 entry of a page, if its tables are present. -/
def State.entryAt (s : State) (va : Nat) : List Nat → Nat → Option Nat
  | [], _ => none
  | n :: ns, table =>
    let at_ := table + 16 * bitsOf va (47 - 9 * n) (39 - 9 * n)
    if n == 3 then some at_
    else match s.dev at_ 16 with
      | none => none
      | some e => if bitOf e 0 && !bitOf e 2 && !badTable e n then s.entryAt va ns (bitsOf e 51 13 * 2 ^ 13) else none

def State.leafAt (s : State) (x : Session) (va : Nat) : Option Nat := s.entryAt va [0, 1, 2, 3] (s.ptRoot x)

/-- A reference to a content frame; a frame that the domain does not hold yet gets an entry (21 R373). -/
def State.addRef (s : State) (dom frame : Nat) : State :=
  if s.hh.any fun y => y.domain == dom && y.frame == frame then
    { s with hh := updFirst (fun (y : HhEntry) => y.domain == dom && y.frame == frame) (fun (y : HhEntry) => { y with count := y.count + 1 }) s.hh }
  else match s.domainKey dom with
    | none => s
    | some k =>
      if hhCap ≤ s.hh.length then { s with ctrl := { s.ctrl with full := incSat 255 s.ctrl.full } }
      else { s with hh := s.hh ++ [{ domain := dom, tag := cmac k (s.phys.bytesAt (4096 * frame) 4096), frame := frame, count := 1 }] }

/-- The pages of a range: the entry of each, if every table is present. -/
def State.rangeEntries (s : State) (x : Session) (vbase pages : Nat) : Option (List (Nat × Nat)) :=
  let es := (List.range pages).map fun i => (s.leafAt x ((vbase + 4096 * i) % 2 ^ 48)).map fun a => (i, a)
  if es.all Option.isSome then some (es.filterMap id) else none

/-- Open: the readers' count, the leaves, and the VWORD opened; an acquire at `.sys` (06 R131). -/
def snapOpen (s : State) (x : Session) (block base vbase : Nat) (content : Bool) (h : SnapHead) : SnapRes :=
  let slot := h.vword % 256
  match snapRead s x (readersAt base slot) 8 with
  | .error t => .fault t
  | .ok r => match mapE (fun i => s.sxNum x (mapEntry base h.pages slot i) 8) (List.range h.pages) with
    | .error t => .fault t
    | .ok frames => match s.rangeEntries x vbase h.pages with
      | none => .status s 4
      | some es => match snapWrite8 s x (readersAt base slot) (r + 1) with
        | .error t => .fault t
        | .ok s1 =>
          let put (t : State) (e : Nat × Nat) : State :=
            let f := bitsOf (frames.getD e.1 0) 51 12
            let t1 := t.devPutNum e.2 16 (f * 2 ^ 12 + b2n content * 2 ^ 11 + 13)
            if content then t1.addRef (s.sdom x) f else t1
          match (es.foldl put s1).sxWriteNum x (block + 24) 8 h.vword with
          | .error t => .fault t
          | .ok s2 => .status (s2.acquireOn (s2.coresOf x.slot) 4) 0

/-- Publish: a release of the session's writes at `.sys`, then a compare-and-swap of VWORD. -/
def snapPublish (s : State) (x : Session) (base basevw new : Nat) (h : SnapHead) : SnapRes :=
  if h.maps ≤ new then .status s 1
  else match snapRead s x (readersAt base new) 8 with
    | .error t => .fault t
    | .ok r =>
      if new == h.vword % 256 || r != 0 then .status s 3
      else
        let s0 := s.releaseOn (s.coresOf x.slot) 4
        if h.vword != basevw then .status s0 2
        else match snapWrite8 s0 x base (((h.vword / 256 + 1) * 256 + new) % 2 ^ 64) with
        | .error t => .fault t
        | .ok s1 => .status s1 0

/-- Close: the leaves, the TLBs, the references and the readers' count. -/
def snapClose (s : State) (x : Session) (base vbase basevw : Nat) (h : SnapHead) : SnapRes :=
  let slot := basevw % 256
  if h.maps ≤ slot then .status s 1
  else match snapRead s x (readersAt base slot) 8 with
    | .error t => .fault t
    | .ok r =>
      let drop (t : State) (i : Nat) : State :=
        let va := (vbase + 4096 * i) % 2 ^ 48
        match t.leafAt x va with
        | none => t
        | some a => match t.dev a 16 with
          | none => t
          | some e =>
            if !bitOf e 0 then t
            else
              let t1 := (t.devPutNum a 16 (e - 1)).tlbDropPage x.slot va
              if bitOf e 11 then t1.dropRef (s.sdom x) (bitsOf e 51 12) else t1
      match snapWrite8 ((List.range h.pages).foldl drop s) x (readersAt base slot) ((r + 2 ^ 64 - 1) % 2 ^ 64) with
      | .error t => .fault t
      | .ok s1 => .status s1 0

/-- The operation of a block. -/
def snapDo (s : State) (x : Session) (block v : Nat) : SnapRes :=
  let base := fld v 0 64
  let op := fld v 8 8
  let vbase := fld v 16 64
  if 2 < op || 2 ≤ fld v 9 8 || fld v 10 48 != 0 || fld v 34 240 != 0 || base % 4096 != 0 || vbase % 4096 != 0 then .status s 1
  else match snapHead s x base with
    | .error t => .fault t
    | .ok h =>
      if !headOk h then .status s 1
      else match op with
        | 0 => snapOpen s x block base vbase (bitOf (fld v 9 8) 0) h
        | 1 => snapPublish s x base (fld v 24 64) (fld v 32 8) h
        | _ => snapClose s x base vbase (fld v 24 64) h

/-- The operation of a block, as the link answers it. Of the requests of a publish that times out, the swap may be the one that
fails: STATUS is FAULT, the swap performed or not (24 R422). -/
def snapRun (s : State) (x : Session) (block v : Nat) : SnapRes :=
  let (n, s1) := s.fresh
  let (m, t) := s1.fresh
  let late (u : State) : State := { u with linkLate := 1 }
  if s.linkLate == 1 && fld v 8 8 == 1 && Config.freeBool n then
    match snapDo { t with linkLate := 0 } x block v with
    | .status u k =>
      if k == 0 || k == 2 then .status (if Config.freeBool m then late u else t) 4 else .status (late u) k
    | .fault e => .fault e
  else snapDo s x block v

/-- SNAPSHOT with a block whose OP satisfies `p`. STATUS is written at completion. -/
def cpSnapshot (p : Nat → Bool) (s : State) : Result :=
  match s.cpHead s.cpTurn with
  | .cmd x q v =>
    let block := fld v 8 64
    match s.sxNum x block 64 with
    | .error t => if p 0 then cpRun 10 (fun _ _ _ w => if zeroFrom w 16 then .fault t else .bad) s else .next s
    | .ok b =>
      if !p (fld b 8 8) then .next s
      else cpRun 10 (fun t _ _ w =>
        let fin (u : State) (code : Nat) : CpRes := match u.sxWriteNum x (block + 33) 1 code with
          | .ok u1 => .done u1 nextCmdOf
          | .error e => .fault e
        if !zeroFrom w 16 then .bad
        else match snapRun t x block b with
          | .status u code => fin u code
          | .fault e => if e.code.toNat == pageFault && !q.declined && t.fring x != 0 then .fault e else fin t 4) s
  | _ => .next s

/-- `SNAPSHOT_OPEN`; a block with no OP of R379 ends here, with BLOCK. -/
def execSnapshotOpen (s : State) : Result := cpSnapshot (fun op => op == 0 || 2 < op) s

/-- `SNAPSHOT_PUBLISH`. -/
def execSnapshotPublish (s : State) : Result := cpSnapshot (fun op => op == 1) s

/-- `SNAPSHOT_CLOSE`. -/
def execSnapshotClose (s : State) : Result := cpSnapshot (fun op => op == 2) s

end Sys2Proof.Machine
end

