-- ==== Sys2Proof/Machine/Versions.lean ====
section
/-! DEFINITION. The commit arbiter of versioned tasks (20 R350 to R356). -/

namespace Sys2Proof.Machine

open Sys2Proof

/-- Why a commit that cannot be completed now is not made. -/
def commitUnit : Nat := 4

/-- The test of 20 R351 on a task's version. -/
def conflicts (l : Launch) (v : Version) : Bool :=
  v.ws != 0 && !v.serial &&
  (decide (256 < l.commitNo - v.base) || l.commits.any fun c => decide (v.base < c.1) && (v.rs &&& c.2) != 0)

/-- Consecutive bytes of a version as runs of at most one 512-byte block: address and bytes. -/
def runsOf : List (Nat × Byte) → List (Nat × List Byte)
  | [] => []
  | (a, b) :: rest => match runsOf rest with
    | (c, bs) :: more => if c == a + 1 && c % 512 != 0 then (a, b :: bs) :: more else (a, [b]) :: (c, bs) :: more
    | [] => [(a, [b])]

/-- Every byte of a version stored as the session's (20 R352), each line under the hint of the last store to it (05 R106). -/
def performBytes (x : Session) (priv : Bool) (v : Version) (s : State) : Except Trap State :=
  foldE (fun (t : State) (r : Nat × List Byte) => t.accPut x priv ((alGet? v.hints (r.1 / 64)).getD 0) r.1 r.2) s
    ((runsOf v.bytes).flatMap fun r => lineParts r.1 r.2)

/-- One held operation performed; one that finds no room, or cannot be stored, is dropped and counted (12 R265). -/
def performHeld (x : Session) (priv : Bool) (launch : Nat) (s : State) (h : Held) : State :=
  let drop := s.modLaunch x.slot launch fun l => { l with heldDrop := l.heldDrop + 1 }
  match h with
  | .pq die key value => (s.pqPush die x.slot launch key value).getD drop
  | .wl list item => match s.list? x.slot launch list with
    | none => drop
    | some w => match s.appendItem x launch list w (item.flatMap fun y => toLE 4 y.toNat) with
      | .ok (some t) => t.endQuiesce x.slot launch 0
      | .ok none => drop
      | .error _ => drop
  | .emit out bs => match (s.launch? x.slot launch).bind fun l => s.output? l out with
    | none => drop
    | some r => match s.accept x priv r out bs none with
      | .ok t => t
      | _ => drop

/-- Whether a held operation has to wait for a request to its list that came before it (13 R296). -/
def heldWaits (sess launch : Nat) (s : State) (h : Held) : Bool :=
  match h with
  | .pq _ _ _ => false
  | .wl list _ => s.listBusy sess launch list none
  | .emit out _ => ((s.launch? sess launch).bind fun l => s.output? l out).any fun r =>
      r.kind == 0 && (s.consumer? r).any fun l => s.listBusy sess l.number r.list none

/-- The task leaves the queue; its commit takes the next number. -/
def Launch.commitWs (l : Launch) (gid : Nat) (ws : BitVec 1024) : Launch :=
  { l with
    commitQueue := l.commitQueue.filter (· != gid), commitNo := l.commitNo + 1
    commits := ((l.commitNo + 1, ws) :: l.commits).take 256 }

/-- The task that a launch judges next: the holder of the serial token alone while it is held (20 R356), else the first to
have entered RETIRING. -/
def State.nextTask (s : State) (l : Launch) : Option Nat :=
  match (s.allGroupsOf l.session l.number).find? fun g => (g.ver.map (·.token)).getD false with
  | some h => if l.commitQueue.contains h.gid then some h.gid else none
  | none => l.commitQueue.head?

/-- A task of a launch whose restart had to wait for copies (20 R353). -/
def State.toRestart (s : State) (l : Launch) : Option (Nat × Bool) :=
  (s.groupsOf l.session l.number).findSome? fun e => match e.2.phase with
    | .restarting serial => if s.copiesInto e.2.gid then none else some (e.2.gid, serial)
    | _ => none

/-- One task judged: it restarts, or commits. A byte that cannot be stored waits for the translation service; where the
service declines, the launch fails. -/
def State.judge (s : State) (x : Session) (l : Launch) (gid : Nat) : State :=
  match s.find? gid with
  | none => if (s.anyGroup gid).isSome then s else s.modLaunch x.slot l.number fun k => { k with commitQueue := k.commitQueue.filter (· != gid) }
  | some (c, g) => match g.ver with
    | none => s.modLaunch x.slot l.number fun k => { k with commitQueue := k.commitQueue.filter (· != gid) }
    | some v =>
      if conflicts l v then
        (s.modLaunch x.slot l.number fun k => { k with commitQueue := k.commitQueue.filter (· != gid) }).restart gid false
      else if v.held.any (heldWaits x.slot l.number s) then s
      else
        s.unitRun x commitUnit
          (fun t => (performBytes x l.desc.priv v t).map fun t1 =>
            (((v.held.foldl (performHeld x l.desc.priv l.number) t1).modLaunch x.slot l.number fun k => k.commitWs gid v.ws).modGroupOn c gid
              fun h => { h with ver := none, phase := .retiring }))
          (fun t => t.endLaunch x.slot l.number 5)

/-- A task's matrix instructions are complete, its drains in its version. -/
def State.taskDone (s : State) (gid : Nat) : State := match s.find? gid with
  | some (c, _) => s.opsDone c gid
  | none => s

/-- `VERSION_COMMIT`: a restart that waited for copies goes on; else the next task of a launch is judged. -/
def execVersionCommit (session launch : Nat) (s : State) : Result :=
  match s.session? session, s.launch? session launch with
  | some x, some l =>
    match s.toRestart l with
    | some (gid, serial) => .next (s.restartNow gid serial)
    | none => match s.nextTask l with
      | some gid => .next ((s.taskDone gid).judge x l gid)
      | none => .next s
  | _, _ => .next s

/-- `SERIAL_TOKEN_GRANT`: the launch's serial token goes to the first task that waits for it (20 R356). -/
def execSerialTokenGrant (session launch : Nat) (s : State) : Result :=
  match s.launch? session launch with
  | none => .next s
  | some l =>
    if (s.allGroupsOf session launch).any fun g => (g.ver.map (·.token)).getD false then .next s
    else match l.serialQueue with
      | [] => .next s
      | gid :: rest =>
        let s1 := s.modLaunch session launch fun k => { k with serialQueue := rest }
        match s.find? gid with
        | none => if (s.anyGroup gid).isSome then .next s else .next s1
        | some (c, _) =>
          .next (s1.modGroupOn c gid fun g =>
            { g with
              ver := g.ver.map fun v => { v with token := true }
              lead := if g.lead.wait == .serial then { g.lead with wait := .none } else g.lead
              bands := g.bands.map fun b =>
                { b with lanes := b.lanes.map fun y => if y.wait == .serial then { y with wait := .none } else y } })

end Sys2Proof.Machine
end

