-- ==== Sys2Proof/Machine/Dispatch.lean ====
section
/-! DEFINITION. The meaning of each row of the opcode table: one arm per constructor. -/

namespace Sys2Proof.Machine

open Sys2Proof

def exec (i : Instr) (s : State) : Host.Outcome State Fault Refusal :=
  match i with
  | .nop f => Sys2Proof.Machine.execNop f s
  | .bra f => Sys2Proof.Machine.execBra f s
  | .jmp f => Sys2Proof.Machine.execJmp f s
  | .brx f => Sys2Proof.Machine.execBrx f s
  | .call f => Sys2Proof.Machine.execCall f s
  | .calli f => Sys2Proof.Machine.execCalli f s
  | .ret f => Sys2Proof.Machine.execRet f s
  | .exit f => Sys2Proof.Machine.execExit f s
  | .alloc f => Sys2Proof.Machine.execAlloc f s
  | .split f => Sys2Proof.Machine.execSplit f s
  | .rejoin f => Sys2Proof.Machine.execRejoin f s
  | .repeatImm f => Sys2Proof.Machine.execRepeatImm f s
  | .repeatReg f => Sys2Proof.Machine.execRepeatReg f s
  | .iadd f => Sys2Proof.Machine.execIadd f s
  | .isub f => Sys2Proof.Machine.execIsub f s
  | .imul f => Sys2Proof.Machine.execImul f s
  | .imulhi f => Sys2Proof.Machine.execImulhi f s
  | .imad f => Sys2Proof.Machine.execImad f s
  | .iadd3 f => Sys2Proof.Machine.execIadd3 f s
  | .addmin f => Sys2Proof.Machine.execAddmin f s
  | .addmax f => Sys2Proof.Machine.execAddmax f s
  | .imin f => Sys2Proof.Machine.execImin f s
  | .imax f => Sys2Proof.Machine.execImax f s
  | .min3 f => Sys2Proof.Machine.execMin3 f s
  | .max3 f => Sys2Proof.Machine.execMax3 f s
  | .iabs f => Sys2Proof.Machine.execIabs f s
  | .ineg f => Sys2Proof.Machine.execIneg f s
  | .isad f => Sys2Proof.Machine.execIsad f s
  | .idiv f => Sys2Proof.Machine.execIdiv f s
  | .irem f => Sys2Proof.Machine.execIrem f s
  | .land f => Sys2Proof.Machine.execLand f s
  | .lor f => Sys2Proof.Machine.execLor f s
  | .lxor f => Sys2Proof.Machine.execLxor f s
  | .landn f => Sys2Proof.Machine.execLandn f s
  | .lorn f => Sys2Proof.Machine.execLorn f s
  | .lnot f => Sys2Proof.Machine.execLnot f s
  | .shl f => Sys2Proof.Machine.execShl f s
  | .shr f => Sys2Proof.Machine.execShr f s
  | .sar f => Sys2Proof.Machine.execSar f s
  | .rol f => Sys2Proof.Machine.execRol f s
  | .ror f => Sys2Proof.Machine.execRor f s
  | .fshl f => Sys2Proof.Machine.execFshl f s
  | .fshr f => Sys2Proof.Machine.execFshr f s
  | .bfx f => Sys2Proof.Machine.execBfx f s
  | .bfi f => Sys2Proof.Machine.execBfi f s
  | .popc f => Sys2Proof.Machine.execPopc f s
  | .clz f => Sys2Proof.Machine.execClz f s
  | .ctz f => Sys2Proof.Machine.execCtz f s
  | .brev f => Sys2Proof.Machine.execBrev f s
  | .icmp x f => Sys2Proof.Machine.execIcmp x f s
  | .mov f => Sys2Proof.Machine.execMov f s
  | .sel f => Sys2Proof.Machine.execSel f s
  | .kand f => Sys2Proof.Machine.execKand f s
  | .kor f => Sys2Proof.Machine.execKor f s
  | .kxor f => Sys2Proof.Machine.execKxor f s
  | .kandn f => Sys2Proof.Machine.execKandn f s
  | .knot f => Sys2Proof.Machine.execKnot f s
  | .kget f => Sys2Proof.Machine.execKget f s
  | .kset f => Sys2Proof.Machine.execKset f s
  | .lea f => Sys2Proof.Machine.execLea f s
  | .fadd f => Sys2Proof.Machine.execFadd f s
  | .fsub f => Sys2Proof.Machine.execFsub f s
  | .fmul f => Sys2Proof.Machine.execFmul f s
  | .ffma f => Sys2Proof.Machine.execFfma f s
  | .fmin f => Sys2Proof.Machine.execFmin f s
  | .fmax f => Sys2Proof.Machine.execFmax f s
  | .fabs f => Sys2Proof.Machine.execFabs f s
  | .fdiv f => Sys2Proof.Machine.execFdiv f s
  | .fsqrt f => Sys2Proof.Machine.execFsqrt f s
  | .frcp f => Sys2Proof.Machine.execFrcp f s
  | .frsq f => Sys2Proof.Machine.execFrsq f s
  | .fexp2 f => Sys2Proof.Machine.execFexp2 f s
  | .flog2 f => Sys2Proof.Machine.execFlog2 f s
  | .fsin f => Sys2Proof.Machine.execFsin f s
  | .fcos f => Sys2Proof.Machine.execFcos f s
  | .ftanh f => Sys2Proof.Machine.execFtanh f s
  | .fcmp x f => Sys2Proof.Machine.execFcmp x f s
  | .fclass f => Sys2Proof.Machine.execFclass f s
  | .cvt x f => Sys2Proof.Machine.execCvt x f s
  | .cvtq x f => Sys2Proof.Machine.execCvtq x f s
  | .cvtw x f => Sys2Proof.Machine.execCvtw x f s
  | .dot2 f => Sys2Proof.Machine.execDot2 f s
  | .dot4 f => Sys2Proof.Machine.execDot4 f s
  | .pack f => Sys2Proof.Machine.execPack f s
  | .bsel f => Sys2Proof.Machine.execBsel f s
  | .lgetAt f => Sys2Proof.Machine.execLgetAt f s
  | .lgetFlip f => Sys2Proof.Machine.execLgetFlip f s
  | .lshup f => Sys2Proof.Machine.execLshup f s
  | .lshdn f => Sys2Proof.Machine.execLshdn f s
  | .kpollAll f => Sys2Proof.Machine.execKpollAll f s
  | .kpollAny f => Sys2Proof.Machine.execKpollAny f s
  | .kpollWord f => Sys2Proof.Machine.execKpollWord f s
  | .lpeerEq f => Sys2Proof.Machine.execLpeerEq f s
  | .lpeerUni f => Sys2Proof.Machine.execLpeerUni f s
  | .lfold x f => Sys2Proof.Machine.execLfold x f s
  | .lpfx x f => Sys2Proof.Machine.execLpfx x f s
  | .ld f => Sys2Proof.Machine.execLd f s
  | .ldN8 f => Sys2Proof.Machine.execLdN8 f s
  | .ldS8 f => Sys2Proof.Machine.execLdS8 f s
  | .ldN16 f => Sys2Proof.Machine.execLdN16 f s
  | .ldS16 f => Sys2Proof.Machine.execLdS16 f s
  | .st f => Sys2Proof.Machine.execSt f s
  | .stB8 f => Sys2Proof.Machine.execStB8 f s
  | .stB16 f => Sys2Proof.Machine.execStB16 f s
  | .pref f => Sys2Proof.Machine.execPref f s
  | .atom x f => Sys2Proof.Machine.execAtom x f s
  | .red x f => Sys2Proof.Machine.execRed x f s
  | .fence f => Sys2Proof.Machine.execFence f s
  | .fenceUn f => Sys2Proof.Machine.execFenceUn f s
  | .waitf x f => Sys2Proof.Machine.execWaitf x f s
  | .barGrp f => Sys2Proof.Machine.execBarGrp f s
  | .barClu f => Sys2Proof.Machine.execBarClu f s
  | .xbegin f => Sys2Proof.Machine.execXbegin f s
  | .xend f => Sys2Proof.Machine.execXend f s
  | .xabort f => Sys2Proof.Machine.execXabort f s
  | .xtest f => Sys2Proof.Machine.execXtest f s
  | .pushf f => Sys2Proof.Machine.execPushf f s
  | .pushfRow f => Sys2Proof.Machine.execPushfRow f s
  | .pushfAll f => Sys2Proof.Machine.execPushfAll f s
  | .pushfAllRow f => Sys2Proof.Machine.execPushfAllRow f s
  | .popf f => Sys2Proof.Machine.execPopf f s
  | .pushb f => Sys2Proof.Machine.execPushb f s
  | .popb f => Sys2Proof.Machine.execPopb f s
  | .streamCfg f => Sys2Proof.Machine.execStreamCfg f s
  | .streamGo f => Sys2Proof.Machine.execStreamGo f s
  | .engCopy f => Sys2Proof.Machine.execEngCopy f s
  | .engFill f => Sys2Proof.Machine.execEngFill f s
  | .engGsubmit f => Sys2Proof.Machine.execEngGsubmit f s
  | .engGsignal f => Sys2Proof.Machine.execEngGsignal f s
  | .engGwatch f => Sys2Proof.Machine.execEngGwatch f s
  | .engDappend f => Sys2Proof.Machine.execEngDappend f s
  | .engDdrain f => Sys2Proof.Machine.execEngDdrain f s
  | .engAllreduce f => Sys2Proof.Machine.execEngAllreduce f s
  | .engAllgather f => Sys2Proof.Machine.execEngAllgather f s
  | .engBcast f => Sys2Proof.Machine.execEngBcast f s
  | .mloadb f => Sys2Proof.Machine.execMloadb f s
  | .mma f => Sys2Proof.Machine.execMma f s
  | .mcommit f => Sys2Proof.Machine.execMcommit f s
  | .mdiscard f => Sys2Proof.Machine.execMdiscard f s
  | .mzero f => Sys2Proof.Machine.execMzero f s
  | .mdrain f => Sys2Proof.Machine.execMdrain f s
  | .ttld f => Sys2Proof.Machine.execTtld f s
  | .ttst f => Sys2Proof.Machine.execTtst f s
  | .ttinv f => Sys2Proof.Machine.execTtinv f s
  | .rsvinit f => Sys2Proof.Machine.execRsvinit f s
  | .rsvupd f => Sys2Proof.Machine.execRsvupd f s
  | .rsvmrg f => Sys2Proof.Machine.execRsvmrg f s
  | .rsvfin f => Sys2Proof.Machine.execRsvfin f s
  | .rsvget x f => Sys2Proof.Machine.execRsvget x f s
  | .rsvput x f => Sys2Proof.Machine.execRsvput x f s
  | .rsvseed f => Sys2Proof.Machine.execRsvseed f s
  | .cainit f => Sys2Proof.Machine.execCainit f s
  | .caadd f => Sys2Proof.Machine.execCaadd f s
  | .caflush f => Sys2Proof.Machine.execCaflush f s
  | .caresolve f => Sys2Proof.Machine.execCaresolve f s
  | .careplay f => Sys2Proof.Machine.execCareplay f s
  | .castat f => Sys2Proof.Machine.execCastat f s
  | .fetchwk f => Sys2Proof.Machine.execFetchwk f s
  | .pqpush f => Sys2Proof.Machine.execPqpush f s
  | .pqpop f => Sys2Proof.Machine.execPqpop f s
  | .wlpush f => Sys2Proof.Machine.execWlpush f s
  | .wlpop f => Sys2Proof.Machine.execWlpop f s
  | .quiesce f => Sys2Proof.Machine.execQuiesce f s
  | .tex f => Sys2Proof.Machine.execTex f s
  | .texWait f => Sys2Proof.Machine.execTexWait f s
  | .tld f => Sys2Proof.Machine.execTld f s
  | .rayq f => Sys2Proof.Machine.execRayq f s
  | .rayres f => Sys2Proof.Machine.execRayres f s
  | .atlasreq f => Sys2Proof.Machine.execAtlasreq f s
  | .emit f => Sys2Proof.Machine.execEmit f s
  | .trap f => Sys2Proof.Machine.execTrap f s
  | .brkpt f => Sys2Proof.Machine.execBrkpt f s
  | .rdsr f => Sys2Proof.Machine.execRdsr f s
  | .wrsr f => Sys2Proof.Machine.execWrsr f s
  | .tret f => Sys2Proof.Machine.execTret f s
  | .tlbinv f => Sys2Proof.Machine.execTlbinv f s
  | .fork f => Sys2Proof.Machine.execFork f s
  | .cflush f => Sys2Proof.Machine.execCflush f s
  | .runStart core slot => Sys2Proof.Machine.execRunStart core slot s
  | .resultArrival u => Sys2Proof.Machine.execResultArrival u s
  | .spillTransferDone core rgs band lane => Sys2Proof.Machine.execSpillTransferDone core rgs band lane s
  | .queueProtocolDetect core rgs => Sys2Proof.Machine.execQueueProtocolDetect core rgs s
  | .placeGroup session => Sys2Proof.Machine.execPlaceGroup session s
  | .placeCluster session => Sys2Proof.Machine.execPlaceCluster session s
  | .fetchwkServe session => Sys2Proof.Machine.execFetchwkServe session s
  | .groupFinish core rgs => Sys2Proof.Machine.execGroupFinish core rgs s
  | .retiringEnd core gid => Sys2Proof.Machine.execRetiringEnd core gid s
  | .streamPush core rgs stream => Sys2Proof.Machine.execStreamPush core rgs stream s
  | .rejoinRelease core rgs band => Sys2Proof.Machine.execRejoinRelease core rgs band s
  | .barrierComplete core rgs cluster => Sys2Proof.Machine.execBarrierComplete core rgs cluster s
  | .waitfSatisfy u lane => Sys2Proof.Machine.execWaitfSatisfy u lane s
  | .transactionConflict core rgs band lane => Sys2Proof.Machine.execTransactionConflict core rgs band lane s
  | .commitTokenGrant session => Sys2Proof.Machine.execCommitTokenGrant session s
  | .matrixEngineStart core => Sys2Proof.Machine.execMatrixEngineStart core s
  | .matrixEngineEnd core => Sys2Proof.Machine.execMatrixEngineEnd core s
  | .slotLoadComplete core => Sys2Proof.Machine.execSlotLoadComplete core s
  | .slotReload core rgs band => Sys2Proof.Machine.execSlotReload core rgs band s
  | .pqPopServe die => Sys2Proof.Machine.execPqPopServe die s
  | .listRequestServe session launch list => Sys2Proof.Machine.execListRequestServe session launch list s
  | .quiescenceVerdict session launch => Sys2Proof.Machine.execQuiescenceVerdict session launch s
  | .copyComplete cmd => Sys2Proof.Machine.execCopyComplete cmd s
  | .nodeFinish session node => Sys2Proof.Machine.execNodeFinish session node s
  | .collectiveComplete session cluster => Sys2Proof.Machine.execCollectiveComplete session cluster s
  | .heldEngineWrite cmd => Sys2Proof.Machine.execHeldEngineWrite cmd s
  | .textureStreamComplete stream => Sys2Proof.Machine.execTextureStreamComplete stream s
  | .textureStreamFail stream => Sys2Proof.Machine.execTextureStreamFail stream s
  | .rayTraversed core rgs band lane handle => Sys2Proof.Machine.execRayTraversed core rgs band lane handle s
  | .triangleRecord ring => Sys2Proof.Machine.execTriangleRecord ring s
  | .binCommit bin => Sys2Proof.Machine.execBinCommit bin s
  | .binReplay bin => Sys2Proof.Machine.execBinReplay bin s
  | .splatRecord ring => Sys2Proof.Machine.execSplatRecord ring s
  | .flushRecord ring => Sys2Proof.Machine.execFlushRecord ring s
  | .frameRecord ring => Sys2Proof.Machine.execFrameRecord ring s
  | .encodeDone engine => Sys2Proof.Machine.execEncodeDone engine s
  | .atlasRecordAccept core rgs band lane => Sys2Proof.Machine.execAtlasRecordAccept core rgs band lane s
  | .versionCommit session launch => Sys2Proof.Machine.execVersionCommit session launch s
  | .serialTokenGrant session launch => Sys2Proof.Machine.execSerialTokenGrant session launch s
  | .trapRecordWrite u => Sys2Proof.Machine.execTrapRecordWrite u s
  | .faultServiceResult session batch => Sys2Proof.Machine.execFaultServiceResult session batch s
  | .tlbWalk core session va => Sys2Proof.Machine.execTlbWalk core session va s
  | .copyOnWrite session va subs => Sys2Proof.Machine.execCopyOnWrite session va subs s
  | .sliceEnd core => Sys2Proof.Machine.execSliceEnd core s
  | .sliceHalfway core => Sys2Proof.Machine.execSliceHalfway core s
  | .graceExpire core => Sys2Proof.Machine.execGraceExpire core s
  | .contextQuiesce core => Sys2Proof.Machine.execContextQuiesce core s
  | .contextExchange core => Sys2Proof.Machine.execContextExchange core s
  | .contextSpill core => Sys2Proof.Machine.execContextSpill core s
  | .contextPreload core => Sys2Proof.Machine.execContextPreload core s
  | .coreGrant core => Sys2Proof.Machine.execCoreGrant core s
  | .waitBudgetExpire core => Sys2Proof.Machine.execWaitBudgetExpire core s
  | .watchdogFire queue => Sys2Proof.Machine.execWatchdogFire queue s
  | .resetComplete session => Sys2Proof.Machine.execResetComplete session s
  | .launchComplete session launch => Sys2Proof.Machine.execLaunchComplete session launch s
  | .errorCorrected region => Sys2Proof.Machine.execErrorCorrected region s
  | .errorUncorrected site => Sys2Proof.Machine.execErrorUncorrected site s
  | .registerWrite off value => Sys2Proof.Machine.execRegisterWrite off value s
  | .hostWrite pa data => Sys2Proof.Machine.execHostWrite pa data s
  | .hostRead pa len => Sys2Proof.Machine.execHostRead pa len s
  | .linkRequestTimeout req => Sys2Proof.Machine.execLinkRequestTimeout req s
  | .powerGate d => Sys2Proof.Machine.execPowerGate d s
  | .powerWake d => Sys2Proof.Machine.execPowerWake d s
  | .unassignedOpcode word => Sys2Proof.Machine.execUnassignedOpcode word s
  | .hostAtomic op pa wide operand compare => Sys2Proof.Machine.execHostAtomic op pa wide operand compare s
  | .faultRecordWrite u => Sys2Proof.Machine.execFaultRecordWrite u s
  | .mergePage => Sys2Proof.Machine.execMergePage s
  | .doorbell => Sys2Proof.Machine.execDoorbell s
  | .queueMap => Sys2Proof.Machine.execQueueMap s
  | .queueUnmapIdle => Sys2Proof.Machine.execQueueUnmapIdle s
  | .cpNop => Sys2Proof.Machine.execCpNop s
  | .launch => Sys2Proof.Machine.execLaunch s
  | .launchi => Sys2Proof.Machine.execLaunchi s
  | .cpCopy => Sys2Proof.Machine.execCpCopy s
  | .cpWait => Sys2Proof.Machine.execCpWait s
  | .signal => Sys2Proof.Machine.execSignal s
  | .loop => Sys2Proof.Machine.execLoop s
  | .endloop => Sys2Proof.Machine.execEndloop s
  | .cond => Sys2Proof.Machine.execCond s
  | .graph => Sys2Proof.Machine.execGraph s
  | .snapshotOpen => Sys2Proof.Machine.execSnapshotOpen s
  | .snapshotPublish => Sys2Proof.Machine.execSnapshotPublish s
  | .snapshotClose => Sys2Proof.Machine.execSnapshotClose s
  | .resume => Sys2Proof.Machine.execResume s
  | .worldFree => Sys2Proof.Machine.execWorldFree s
  | .create => Sys2Proof.Machine.execCreate s
  | .destroy => Sys2Proof.Machine.execDestroy s
  | .freeze => Sys2Proof.Machine.execFreeze s
  | .thaw => Sys2Proof.Machine.execThaw s
  | .scmdReset => Sys2Proof.Machine.execScmdReset s
  | .provision => Sys2Proof.Machine.execProvision s
  | .activate => Sys2Proof.Machine.execActivate s
  | .bind => Sys2Proof.Machine.execBind s
  | .retire => Sys2Proof.Machine.execRetire s
  | .revoke => Sys2Proof.Machine.execRevoke s
  | .clear => Sys2Proof.Machine.execClear s
  | .evidence => Sys2Proof.Machine.execEvidence s
  | .unlock => Sys2Proof.Machine.execUnlock s
  | .domainKey => Sys2Proof.Machine.execDomainKey s
  | .keySlotEmpty => Sys2Proof.Machine.execKeySlotEmpty s
  | .alarmpolWrite => Sys2Proof.Machine.execAlarmpolWrite s
  | .euWindowEnd => Sys2Proof.Machine.execEuWindowEnd s
  | .lock => Sys2Proof.Machine.execLock s
  | .run => Sys2Proof.Machine.execRun s
  | .hlScrub => Sys2Proof.Machine.execHlScrub s
  | .hhDrop => Sys2Proof.Machine.execHhDrop s
  | .dbmSwap => Sys2Proof.Machine.execDbmSwap s
  | .dbmSwapComplete => Sys2Proof.Machine.execDbmSwapComplete s
  | .linkDown => Sys2Proof.Machine.execLinkDown s
  | .moduleReset => Sys2Proof.Machine.execModuleReset s
  | .releasedFramePush => Sys2Proof.Machine.execReleasedFramePush s
  | .sensorAlarm => Sys2Proof.Machine.execSensorAlarm s
  | .keystoreAlarm => Sys2Proof.Machine.execKeystoreAlarm s
  | .linkUp => Sys2Proof.Machine.execLinkUp s

end Sys2Proof.Machine
end

