-- ==== Sys2Proof/Machine/Policy.lean ====
section
/-! DEFINITION. What a step of the module is made of: the steps of other agents that may come next, the unit that issues next,
the fetch of its instruction (07 R133 to R136), the run it belongs to (02 R40 to R43) and the passing of time. -/

namespace Sys2Proof.Machine

open Sys2Proof

/-! ### Steps of other agents -/

/-- A step that may come next, in the state it is taken in. -/
abbrev Move := State × Instr

/-- Lists of steps, one after another. -/
def movesOf (xs : List (List Instr)) : List Instr := xs.flatten

/-- Every resident group with its core and group slot. -/
def State.groupsNow (s : State) : List (Nat × Group) := s.residents.filter fun e => e.2.phase != .retiring

/-- Batches of page faults that something waits for. -/
def State.batches (s : State) : List (Nat × Nat) :=
  let units := s.groupsNow.flatMap fun e => (e.2.unitsWith fun st => st.batch?.isSome).filterMap fun w =>
    (statusOf e.2 w).batch?.map fun b => (e.2.session, b)
  units ++ (s.cmds.filterMap fun c => c.fault.map fun b => (c.session, b)) ++
  (s.nodes.filterMap fun n => n.fault.map fun b => (n.session, b)) ++
  (s.queues.filterMap fun q => q.fault.map fun b => (q.session, b)) ++
  (s.launches.filterMap fun l => l.complFault.map fun b => (l.session, b)) ++
  (s.unitFaults.filterMap fun f => f.batch.map fun b => (f.session, b))

/-- Steps of the base die: boot, worlds and keys, resets, launches, nodes, the translation service, pages. -/
def State.dieMoves (s : State) : List Instr :=
  movesOf [
    (if s.ctrl.bootStep == 0 && s.ctrl.bootResult == 0 then [.moduleReset] else []),
    (if s.worlds.any s.worldGone then [.worldFree] else []),
    (if s.vault.keys.any fun k => k.st == .retiring then [.keySlotEmpty] else []),
    (if s.relPending.isEmpty then [] else [.releasedFramePush]),
    (if s.ctrl.dbmPending == 0 then [] else [.dbmSwapComplete]),
    (if s.ctrl.mergeEn then [.mergePage] else []),
    ((s.sessions.filter fun x => x.st == .resetting).map fun x => .resetComplete x.slot),
    ((s.launches.filter fun l => l.complFault.isNone && s.launchOver l).map fun l => .launchComplete l.session l.number),
    ((s.nodes.filter fun n => n.st == .ended || (n.st == .waiting && n.pred == 0 && n.fault.isNone)).map fun n => .nodeFinish n.session n.addr),
    (s.batches.map fun b => .faultServiceResult b.1 b.2)]

/-- Steps of the engines and of the units of the base die that work for launches. -/
def State.engineMoves (s : State) : List Instr :=
  movesOf [
    (s.cmds.flatMap fun c =>
    (if c.held then [.heldEngineWrite c.id] else [.copyComplete c.id]) ++
    match c.kind with
    | .collective _ _ _ _ _ _ _ => [.collectiveComplete c.session c.gid]
    | _ => match c.listNo with
      | some n => [.listRequestServe c.session c.launch n]
      | none => []),
    (if s.pops.isEmpty then [] else (List.range 4).map fun d => .pqPopServe d),
    (s.fetches.map fun f => .fetchwkServe f.session),
    (s.textures.zipIdx.flatMap fun (e : TexStream × Nat) =>
      [.textureStreamComplete e.2, .textureStreamFail e.2] ++ if 100000000 < e.1.age then [.linkRequestTimeout (.texture e.2)] else []),
    ((s.rings.zipIdx.filter fun (e : Ring × Nat) => e.1.head != e.1.tail).flatMap fun (e : Ring × Nat) =>
    [.triangleRecord e.2, .splatRecord e.2, .flushRecord e.2, .frameRecord e.2]),
    ((List.range s.bins.length).flatMap fun n => [.binCommit n, .binReplay n]),
    (s.encoders.map fun e => .encodeDone e.engine)]

/-- Steps of launches: quiescence, commits and placement, which a `FETCHWK` request of the session goes before (02 R50). -/
def State.launchMoves (s : State) : List Instr :=
  movesOf [
    (s.launches.flatMap fun l =>
    (if l.quiescent then [] else [.quiescenceVerdict l.session l.number]) ++
    (if l.desc.versioned then [.versionCommit l.session l.number, .serialTokenGrant l.session l.number] else []) ++
    (if l.ended.isNone && l.toPlace && (s.fetchReq? l.session).isNone then [.placeGroup l.session, .placeCluster l.session] else [])),
    ((s.sessions.filter fun x => x.tokenHolder.isNone && !x.tokenQueue.isEmpty).map fun x => .commitTokenGrant x.slot)]

/-- Steps that a lane of a group may be waiting for. -/
def laneMoves (c : Nat) (g : Group) (b l : Nat) (x : Lane) : List Instr :=
  movesOf [
    (match x.wait with
    | .waitf _ _ _ _ _ _ _ _ none => [.waitfSatisfy { core := c, rgs := g.rgs, who := .lanes b (maskOf (· == l)) } l]
    | .atlas _ _ _ _ => [.atlasRecordAccept c g.rgs b l]
    | _ => []),
    (if x.txn.active && x.txn.doomed then [.transactionConflict c g.rgs b l] else []),
    ((x.rays.filter fun r => r.result.isNone).map fun r => .rayTraversed c g.rgs b l r.handle)]

/-- The waits that `RESULT_ARRIVAL` may end. -/
def Wait.mayLift : Wait → Bool
  | .fqPop => true
  | .fqPush _ => true
  | .bqPush _ => true
  | .bqPop => true
  | .streamBusy _ => true
  | .result _ _ => true
  | .room _ => true
  | .bounded _ _ => true
  | .slot _ => true
  | .txnHold _ => true
  | _ => false

/-- A wait that holds the issue slot: on a bounded result or a place of the engine queue (02 R42, 13 R287). -/
def Wait.holdsSlot : Wait → Bool
  | .bounded _ _ => true
  | _ => false

/-- Steps of one group. -/
def groupMoves (c : Nat) (g : Group) : List Instr :=
  let unit (w : Who) : UnitRef := { core := c, rgs := g.rgs, who := w }
  let bands := g.bands.zipIdx
  movesOf [
    [.groupFinish c g.rgs],
    ((g.unitsWith fun st => match st with
      | .held _ none => true
      | _ => false).map fun w => .trapRecordWrite (unit w)),
    ((g.unitsWith fun st => match st with
      | .heldFault _ => true
      | _ => false).map fun w => .faultRecordWrite (unit w)),
    (bands.flatMap fun (e : Band × Nat) =>
    (if e.1.started then [] else (List.range 32).map fun l => .spillTransferDone c g.rgs e.2 l) ++
    (if e.1.lanes.any fun x => match x.status with
        | .parked _ => true
        | _ => false then [.rejoinRelease c g.rgs e.2] else []) ++
    (if e.1.lanes.any fun x => match x.wait with
        | .reload _ => true
        | _ => false then [.slotReload c g.rgs e.2] else []) ++
    (e.1.lanes.zipIdx.flatMap fun (y : Lane × Nat) => laneMoves c g e.2 y.2 y.1)),
    (if g.lead.barGrp != g.barGrp || g.bands.any fun b => b.lanes.any fun x => x.barGrp != g.barGrp then [.barrierComplete c g.rgs false] else []),
    (if g.lead.barClu != g.barClu || g.bands.any fun b => b.lanes.any fun x => x.barClu != g.barClu then [.barrierComplete c g.rgs true] else []),
    (match g.lead.wait with
    | .waitf _ _ _ _ _ _ _ _ none => [.waitfSatisfy (unit .lead) 0]
    | _ => []),
    (if g.queueTrouble.isSome then [.queueProtocolDetect c g.rgs] else []),
    ((g.streams.zipIdx.filter fun (e : Stream × Nat) => e.1.running && e.1.status == .running).map fun (e : Stream × Nat) => .streamPush c g.rgs e.2),
    (bands.flatMap fun (e : Band × Nat) =>
    ((e.1.lanes.zipIdx.filter fun (y : Lane × Nat) => y.1.wait.mayLift).map fun (y : Lane × Nat) =>
      .resultArrival (unit (.lanes e.2 (maskOf fun l => (e.1.lane l).wait == y.1.wait && (e.1.lane l).pc == y.1.pc)))).dedup),
    (if g.lead.wait.mayLift then [.resultArrival (unit .lead)] else [])]

/-- Halfway through a slice, and its end (22 R396). -/
def State.sliceMoves (s : State) (n : Nat) (c : Core) : List Instr :=
  let k := s.ctrl.slice.toNat
  match c.session, c.swap with
  | none, _ => if s.ctrl.schedEnable then [.coreGrant n] else []
  | some _, .none => (if s.idleCore n then [.coreGrant n] else []) ++ (if k ≤ 2 * c.count then [.sliceHalfway n] else []) ++
      (if k ≤ c.count then [.sliceEnd n] else [])
  | some _, .named _ => (if s.idleCore n then [.coreGrant n] else []) ++ [.contextPreload n] ++ (if k ≤ c.count then [.sliceEnd n] else [])
  | some _, .grace _ ds => [.contextPreload n] ++
      (if decide (s.ctrl.grace.toNat ≤ c.count) || !(ds.any fun gids => gids.any s.stillRuns) then [.graceExpire n] else [])
  | some _, .quiesce _ => [.contextPreload n, .contextQuiesce n]
  | some _, .exchange _ => [.contextPreload n, .contextExchange n]

/-- Steps of one core. -/
def State.coreMoves (s : State) (n : Nat) (c : Core) : List Instr :=
  s.sliceMoves n c ++
  (if c.session.isNone then []
   else movesOf [
    match c.shadow with
      | .outgoing _ => [.contextSpill n]
      | _ => [],
    if (c.session.bind s.session?).any fun x => x.waitBudget != 0 && decide (x.waitBudget < c.waited) then [.waitBudgetExpire n] else [],
    if s.ctrl.pwrCores.getLsbD n then [.powerWake (.core n)] else [],
    if c.mqueue.isEmpty && c.mrun.isNone then [] else [.matrixEngineStart n, .matrixEngineEnd n],
    if c.port.isEmpty then [] else [.slotLoadComplete n],
    c.active.groups.flatMap fun g => if g.phase == .retiring then [.retiringEnd n g.gid] else groupMoves n g,
    (List.range 4).flatMap fun k => match c.slots[k]? with
      | none => []
      | some x => if x.run.isNone && !(c.eligible k).isEmpty then [.runStart n k] else []])

/-- The steps by which a command is started (22 R390). -/
def cpSteps (h : CpHead) : List Instr :=
  match h with
  | .nothing => []
  | .skipping _ _ => [.cpNop]
  | .overrun _ => [.cpNop]
  | .fault _ _ _ => [.cpNop]
  | .cmd _ _ v => match cpOp v with
    | 1 => [.launch]
    | 2 => [.launchi]
    | 3 => [.cpCopy]
    | 4 => [.cpWait]
    | 5 => [.signal]
    | 6 => [.loop]
    | 7 => [.endloop]
    | 8 => [.cond]
    | 9 => [.graph]
    | 10 => [.snapshotOpen, .snapshotPublish, .snapshotClose]
    | 11 => [.resume]
    | _ => [.cpNop]

/-- Whether a step comes about: it changes the state, and nothing holds its writes back. -/
def Move.opens (m : Move) : Option State :=
  match exec m.2 m.1 with
  | .next t => if t.clash || t == m.1 then none else some t
  | _ => none

/-- The turn of a command processor: the first of its four slots, from the one whose turn it is, that can start a command. -/
def State.cpMoves (s : State) (p : Nat) : List Move :=
  let slotAt (k : Nat) : Nat := 4 * p + (s.cpNext.getD p 0 + k) % 4
  ((List.range 4).findSome? fun k =>
    let u : State := { s with cpTurn := slotAt k, cpNext := updAt (fun _ => (slotAt k + 1) % 4) s.cpNext p }
    let ms : List Move := ((cpSteps (s.cpHead (slotAt k))).map fun i => ((u, i) : Move)).filter fun m => m.opens.isSome
    if ms.isEmpty then none else some ms).getD []

/-- Steps of the queue scheduler and of the command processors. -/
def State.queueMoves (s : State) : List Move :=
  (if s.doorbells.isEmpty || !s.ctrl.schedEnable then [] else [(s, .queueMap)]) ++
  (if s.unmappable.isSome then [(s, .queueUnmapIdle)] else []) ++
  (s.queues.flatMap fun q =>
    if 1024 * qWdog (s.queueEntry q.queue) ≤ q.wdog && q.wdog != 0 then [(s, .watchdogFire q.queue)] else []) ++
  ((s.queues.map fun q => q.slot / 4).dedup.flatMap s.cpMoves)

/-- Power domains whose gate closes (24 R427). -/
def State.gateMoves (s : State) : List Instr :=
  if s.ctrl.pwrIdle == 0xFFFFFFFF && s.ctrl.pwrCores == 0 then []
  else (((List.range 64).map PowerDomain.core ++ (List.range 4).map PowerDomain.die ++ (List.range 8).map PowerDomain.encoder ++
    (List.range 6).map PowerDomain.channel).filter fun d => s.mayGate d && !s.isGated d).map Instr.powerGate

/-- Every step of another agent that may come next. -/
def State.moves (s : State) : List Move :=
  ((s.dieMoves ++ s.engineMoves ++ s.launchMoves ++ s.gateMoves ++
    (if s.ctrl.euWindow.toNat ≤ s.euCount then [Instr.euWindowEnd] else []) ++
    (s.cores.zipIdx.flatMap fun (e : Core × Nat) => s.coreMoves e.2 e.1)).map fun i => (s, i)) ++ s.queueMoves

/-- The session that a placement, or the end of a group or of its RETIRING, concerns. -/
def placesFor : Instr → Option Nat
  | .placeGroup n => some n
  | .placeCluster n => some n
  | _ => none

def State.retiresFor (s : State) : Instr → Option Nat
  | .groupFinish c _ => (s.core c).session
  | .retiringEnd c _ => (s.core c).session
  | _ => none

/-- The moves that come about. A group that can be placed is placed in the cycle in which room appears, before another group of
its session retires or ends its RETIRING (15 R319). -/
def State.open_ (s : State) : List State :=
  let es : List (Instr × State) := s.moves.filterMap fun m => m.opens.map fun t => (m.2, t)
  let placing := es.filterMap fun e => placesFor e.1
  (es.filter fun e => (s.retiresFor e.1).all fun n => !placing.contains n).map (·.2)

/-! ### The unit that issues next -/

/-- A unit that may issue, the slot whose run it belongs to, and the word it has captured. -/
structure Turn where
  unit : UnitRef
  slot : Option Nat
  captured : Option (BitVec 96)
  deriving DecidableEq, Repr

/-- The units of a slot's run: its broadcast, and lanes that hit in their loop buffers (01 R25, R26). A lane that comes to the
run's PC joins the broadcast there (entry 60). While a lane waits there on a bounded result, the run holds its slot (02 R42). -/
def Core.turns (n : Nat) (c : Core) (k : Nat) (x : IssueSlot) (ok : Group → Bool) : List Turn :=
  match x.run with
  | none => []
  | some r => match c.active.groups.find? fun g => g.gid == r.gid with
    | none => []
    | some g =>
      let b := (g.band r.band).getD Band.absent
      let unit (m : LaneMask) : UnitRef := { core := n, rgs := g.rgs, who := .lanes r.band m }
      let own := (List.range 32).filterMap fun l =>
        if (b.lane l).ready && (b.lane l).pc != r.pc then (x.hit? r.gid r.band l (b.lane l).pc).map fun w => (l, w) else none
      let held := b.lanes.any fun y => y.pc == r.pc && y.status == .running && y.wait.holdsSlot
      if !ok g then []
      else (if held then [] else [{ unit := unit (b.activeAt r.pc), slot := some k, captured := none }]) ++
        own.map fun e => { unit := unit (maskOf (· == e.1)), slot := none, captured := some e.2 }

/-- The lead stream that has the turn: round-robin in ascending resident group slot among those ready (01 R14). -/
def Core.leadTurn? (c : Core) (ok : Group → Bool) : Option Group :=
  argMin (fun (g : Group) => (g.rgs + 16 - c.leadTurn) % 16) (c.active.groups.filter fun g => g.leadReady && ok g)

/-- The units that may issue on a core; a group issues only with its whole cluster resident (01 R7). -/
def State.coreTurns (s : State) (n : Nat) (c : Core) : List Turn :=
  if c.active.groups.isEmpty || !c.mayIssue then []
  else
    ((c.leadTurn? s.together).toList.map fun g =>
      { unit := { core := n, rgs := g.rgs, who := .lead }, slot := none, captured := none }) ++
    c.slots.zipIdx.flatMap fun (e : IssueSlot × Nat) => c.turns n e.2 e.1 s.together

def State.turns (s : State) : List Turn := s.cores.zipIdx.flatMap fun (e : Core × Nat) => s.coreTurns e.2 e.1

/-! ### Fetching (07 R134, 01 R26) -/

/-- Whether a unit is at its entry, where TARGET is checked (07 R136). -/
def Iss.atEntry (i : Iss) : Bool :=
  if i.lead then i.group.lead.fresh && i.pc == i.launch.desc.leadPc
  else ((i.group.band i.band).getD Band.absent).fresh && i.pc == i.launch.desc.lanePc

/-- The word of the next instruction of a unit, with whether it ends a run. -/
def State.wordOf (s : State) (i : Iss) : Except Trap (BitVec 96 × Bool) :=
  let slot := i.pc.toNat % 64
  match fetchLine s i i.pc with
  | .error t => .error t
  | .ok line => match checkLine line with
    | some t => .error t
    | none =>
      if i.atEntry && !targetBit line slot then .error ((mkTrap illegalTarget 0).at i.pc)
      else .ok (slotWord line slot, runEnd line slot)

/-- The entry check has been made. -/
def State.entered (s : State) (i : Iss) : State :=
  if !i.atEntry then s
  else s.modGroupOn i.core i.group.gid fun g =>
    if i.lead then { g with lead := { g.lead with fresh := false } } else g.modBand i.band fun b => { b with fresh := false }

/-! ### Runs (02 R40, R43; 01 R26) -/

/-- A lane's loop buffer with an instruction captured: the least recently used of its 48 entries is replaced. -/
def IssueSlot.capture (x : IssueSlot) (e : LoopEntry) : IssueSlot :=
  let rest := x.loops.filter fun (y : LoopEntry) => !(y.lane == e.lane && y.gid == e.gid && y.band == e.band && y.pc == e.pc)
  let (own, others) := rest.partition fun (y : LoopEntry) => y.lane == e.lane
  { x with loops := (e :: own.take 47) ++ others }

/-- How a run stands after an instruction of some of its lanes. -/
inductive RunNext where
  /-- the instruction waits on a bounded result: it keeps its slot and has not counted (02 R42) -/
  | holds
  /-- the next instruction of the run -/
  | goes (pc : Pc)
  /-- the run ends, by a break on an unbounded result or a block (02 R43) or otherwise -/
  | ends (broke : Bool)
  deriving DecidableEq, Repr

/-- How a run of lanes `m` stands after an instruction at `pc`, its count before it: `stop`, the instruction ends the run;
`last`, its slot bit is set in the run-end mask (02 R40). A lane at an iteration of a `REPEAT` issues it again; all lanes that
skip an instruction (a `REPEAT` of count zero) go on after it. -/
def runNext (b : Band) (m : LaneMask) (pc : Pc) (stop last : Bool) (count : Nat) : RunNext :=
  let ls := lanesOf m
  let waits (l : Nat) : Bool := (b.lane l).status == .running && (b.lane l).wait != .none
  let go := ls.filter fun l => (b.lane l).ready
  let stays := go.any fun l => (b.lane l).pc == pc && (b.lane l).rep.isSome
  let past := nextPc (nextPc pc)
  let next := if stays then pc else if go.all fun l => (b.lane l).pc == past then past else nextPc pc
  if ls.any fun l => waits l && !(b.lane l).wait.holdsSlot then .ends true
  else if ls.any waits then .holds
  else if stop || (last && !stays) || decide (24 ≤ count + 1) || !(go.any fun l => (b.lane l).pc == next) then .ends false
  else .goes next

/-- The guard of a branch: an instruction that transfers control in every lane it enables. -/
def branchGuard : Instr → Option Guard
  | .bra f => some f.g
  | .jmp f => some f.g
  | .brx f => some f.g
  | .call f => some f.g
  | .calli f => some f.g
  | .ret f => some f.g
  | .tret f => some f.g
  | _ => none

/-- An instruction after which a run does not go on: `EXIT`, or a branch that some lane takes (02 R40). -/
def Iss.stopsRun (i : Iss) (ins : Instr) : Bool :=
  match ins with
  | .exit _ => true
  | _ => (branchGuard ins).any fun g => i.enabled g != 0

/-- A band at its slot's run, if the slot runs one: its run has ended (02 R41), and its forwarding window is empty (R46). -/
def State.closeRun (s : State) (core slot : Nat) (broke : Bool) : State :=
  match ((s.core core).slots[slot]?).bind (·.run) with
  | none => s
  | some r =>
    (({ s with runCtr := s.runCtr + 1 } : State).modGroupOn core r.gid fun g => g.modBand r.band fun y =>
        { y with lastEnd := s.runCtr, lanes := y.lanes.map Lane.emptyWindow }).modCore core fun c =>
      { c with
        runBreaks := c.runBreaks + b2n broke
        slots := updAt (fun (y : IssueSlot) => { y with run := none }) c.slots slot }

/-- The run of a slot after an instruction of some of its lanes. A store that the copy-on-write unit served has unbounded latency:
the run breaks there (25 R433, 21 R374). -/
def State.afterRun (s : State) (i : Iss) (slot : Nat) (stop last : Bool) : State :=
  match ((s.core i.core).slots[slot]?).bind (·.run) with
  | none => s
  | some r =>
    let b := match (s.core i.core).active.groups.find? fun g => g.gid == i.group.gid with
      | some g => (g.band i.band).getD Band.absent
      | none => Band.absent
    match if s.cowRan then .ends true else runNext b i.active i.pc stop last r.count with
    | .holds => s
    | .ends broke => s.closeRun i.core slot broke
    | .goes pc => s.modCore i.core fun c =>
        { c with slots := updAt (fun (y : IssueSlot) => { y with run := some { r with pc := pc, count := r.count + 1 } }) c.slots slot }

/-- The lanes of a unit capture the instruction they have executed. -/
def State.captureWord (s : State) (i : Iss) (w : BitVec 96) : State :=
  if i.lead then s
  else
    let slot := ((i.group.band i.band).getD Band.absent).slot
    s.modCore i.core fun c =>
      { c with slots := updAt (fun (x : IssueSlot) => (lanesOf i.active).foldl (fun (y : IssueSlot) l =>
          y.capture { lane := l, gid := i.group.gid, band := i.band, pc := i.pc, word := w }) x) c.slots slot }

/-- A unit has had its turn: the next lead stream has the next (01 R14), or the band's forwarding window has seen one more
instruction, unless its lanes wait to issue it (02 R46). -/
def State.turned (s : State) (i : Iss) : State :=
  if i.lead then s.modCore i.core fun c => { c with leadTurn := (i.group.rgs + 1) % 16 }
  else s.modGroupOn i.core i.group.gid fun g => g.modBand i.band fun b =>
    if (lanesOf i.active).any fun l => (b.lane l).wait != .none then b else { b with lanes := b.lanes.map Lane.ageWindow }

/-- A unit issues its next instruction: the line is fetched and checked, the word decoded, and the instruction executed. -/
def State.issueTurn (s : State) (t : Turn) : Result :=
  let s0 := { s with issuer := some t.unit }
  let leave : State := match t.slot with
    | some k => s.closeRun t.unit.core k false
    | none => s
  match s0.iss? with
  | none => .next leave
  | some i =>
    if i.active == 0 then .next leave
    else
      let w := match t.captured with
        | some w => Except.ok (w, false)
        | none => s0.wordOf i
      let after (u : State) (stop last : Bool) : State := match t.slot with
        | some k => u.afterRun i k stop last
        | none => u
      match w with
      | .error e => .next (after ((s0.takeTrap i i.active e).turned i) true true)
      | .ok (w, last) =>
        let ins := decode w
        match exec ins ((s0.entered i).captureWord i w) with
        | .next u => .next (after (u.turned i) (i.stopsRun ins) last)
        | .fault f => .fault f
        | .refused r => .refused r

/-! ### Time -/

/-- A wait that 01 R19, 09 R203, R204, R213 or 12 R264 counts against the waiting budget; those for the replies of engine commands
are none of them. -/
def State.budgeted (s : State) (gid : Nat) (band : Option Nat) (lane : Nat) (w : Wait) : Bool :=
  match waitKind s gid band lane w with
  | none => false
  | some (10, _, _) => false
  | some (11, _, _) => (s.repliesTo gid band lane fun c => match c.kind with
      | .wlpush _ _ => true
      | .wlpop _ => true
      | .emit _ _ => true
      | _ => false) || s.pops.any fun p => p.dest.gid == gid && p.dest.band == band && p.dest.lane == lane
  | some _ => true

/-- A unit of a core waits in a way that counts against the waiting budget (22 R398). -/
def State.budgetWait (s : State) (c : Core) : Bool :=
  c.active.groups.any fun g =>
    (g.lead.status == .running && s.budgeted g.gid none 0 g.lead.wait) ||
    g.bands.zipIdx.any fun (e : Band × Nat) => e.1.lanes.zipIdx.any fun (y : Lane × Nat) =>
      y.1.status == .running && s.budgeted g.gid (some e.2) y.2 y.1.wait

/-- One core's cycles of a step. -/
def State.coreTime (s : State) (k : Nat) (c : Core) : Core :=
  { c with
    clock := c.clock + BitVec.ofNat 64 k, count := c.count + k
    waited := if !c.canIssue && s.budgetWait c then c.waited + k else c.waited
    active := { c.active with groups := c.active.groups.map fun (g : Group) => { g with age := g.age + k } } }

/-- Base-die cycles of a step for one session (22 R395, 02 R37). -/
def State.sessionTime (s : State) (k : Nat) (x : Session) : Session :=
  { x with
    vt := x.vt + BitVec.ofNat 64 ((s.coresOf x.slot).length * (65536 / x.weight) * k)
    fragStall := if s.fragWait x.slot then x.fragStall + BitVec.ofNat 64 k else x.fragStall }

/-- Base-die cycles of a step for one mapped queue (22 R389, R400). -/
def State.queueTime (s : State) (k : Nat) (q : QueueCtx) : QueueCtx :=
  let counts := qWdog (s.queueEntry q.queue) != 0 && !(s.coresOf q.session).isEmpty &&
    s.launches.any fun l => l.session == q.session && l.queue == some q.queue
  { q with
    wdog := if counts then q.wdog + k else q.wdog
    idleFor := if s.queueIdle q then q.idleFor + k else 0 }

/-- A gated domain that something needs has been woken (24 R427): a core that holds a context, a die with a core that is not gated,
an encoder with a frame record, a channel pair that an access of the step reached. The wake's latency is timing (entry 1). -/
def State.wakeUsed (s : State) : State :=
  let keep {w : Nat} (v : BitVec w) (need : Nat → Bool) : BitVec w :=
    (List.range w).foldl (fun (u : BitVec w) n => if need n then u &&& ~~~ (BitVec.ofNat w (2 ^ n)) else u) v
  let c := s.ctrl
  if c.pwrCores == 0 && c.pwrDie == 0 && c.pwrEnc == 0 && c.pwrChan == 0 then s
  else
    let cores := keep c.pwrCores fun n => !s.coreEmpty n
    { s with ctrl := { c with
        pwrCores := cores
        pwrDie := keep c.pwrDie fun d => (List.range 16).any fun k => !cores.getLsbD (16 * d + k)
        pwrEnc := keep c.pwrEnc fun e => !s.encoderEmpty e
        pwrChan := keep c.pwrChan s.reached.contains } }

/-- Lines that a host has given back: it may do so at any time, and a device unit's access to one makes it (entry 86). -/
def State.givenBack (s : State) (which : Nat) : Phys :=
  { s.phys with hostOwned := (s.phys.hostOwned.zipIdx.filter fun (e : Nat × Nat) => !bitOf which e.2).map (·.1) }

/-- Time passes: each clock by a number of cycles that the model leaves free, and what is needed is awake. -/
def State.tick (s : State) : State :=
  let n := s.freeCtr
  let coreCycles (c : Nat) : Nat := 1 + Config.freeNat (n + 65000 + c)
  let dieCycles := Config.freeNat (n + 65100)
  { s with
    cores := s.cores.mapIdx fun c x => s.coreTime (coreCycles c) x
    sessions := s.sessions.map (s.sessionTime dieCycles)
    queues := s.queues.map (s.queueTime dieCycles)
    textures := s.textures.map fun (t : TexStream) => { t with age := t.age + dieCycles }
    idle := s.idleTick coreCycles dieCycles s.reached.contains
    phys := s.givenBack (Config.freeNat (n + 65110))
    reached := []
    euCount := s.euCount + Config.freeNat (n + 65101)
    ctrl := s.wakeUsed.ctrl
    freeCtr := n + 131072 }

/-- The walker may fill a TLB of the issuing core with any page its session maps (21 R367). -/
def State.mayFill (s : State) (core : Nat) : State :=
  match (s.core core).session with
  | none => s
  | some x =>
    if Config.freeBool (s.freeCtr + 65301) then
      match execTlbWalk core x (BitVec.ofNat 64 (Config.freeNat (s.freeCtr + 65302) % 2 ^ 48)) s with
      | .next t => t
      | _ => s
    else s

/-- The end of a step: alarms act, a commit token that nobody holds any more is free, and time passes. -/
def State.finish (s : State) : State :=
  let t : State := { s with issuer := none, clash := false, cowRan := false, linkLate := s.linkLate - 1 }
  t.settleAlarms.settleTokens.tick

/-- A unit issues; a write that a serial transaction holds back leaves the unit where it was. -/
def State.issueStep (s : State) (t : Turn) : Result :=
  match s.issueTurn t with
  | .next u => .next (if u.clash then s.finish else (u.mayFill t.unit.core).finish)
  | .fault f => .fault f
  | .refused r => .refused r

/-- What the module does on its own: another agent's step or a unit's instruction, whichever comes first; or time passes. -/
def State.internal (s : State) : Result :=
  match s.open_, s.turns with
  | [], ts => match pick (s.freeCtr + 65303) ts with
    | none => .next s.finish
    | some t => s.issueStep t
  | ms, ts =>
    if ts.isEmpty || Config.freeBool (s.freeCtr + 65304) then .next ((pick (s.freeCtr + 65305) ms).getD s).finish
    else match pick (s.freeCtr + 65303) ts with
      | none => .next s.finish
      | some t => s.issueStep t

/-- A write of the host to HH_DROP. -/
def dropWrite : Instr → Bool
  | .registerWrite a _ => a == ⟨0x2018, 8⟩
  | _ => false

/-- The first input or step of `todo` that can be taken, those of `kept` waiting. One that a serial transaction holds back holds
back what follows it; a drop that waits for room in the released-frames ring only the drops after it (21 R375). -/
def State.takeNext (s : State) (kept : List Instr) : List Instr → Option Result
  | [] => none
  | i :: rest =>
    if kept.contains .hhDrop && dropWrite i then s.takeNext (kept ++ [i]) rest
    else match exec i { s with agenda := kept ++ rest } with
      | .next t =>
        if !t.clash then some (.next t.finish) else if i == .hhDrop then s.takeNext (kept ++ [i]) rest else none
      | .fault f => some (.fault f)
      | .refused r => some (.refused r)

/-- One step: an input or step of the agenda that can be taken, in order; else `internal`. -/
def State.cycle (s : State) : Result := (s.takeNext [] s.agenda).getD s.internal

end Sys2Proof.Machine
end

