-- ==== Sys2Proof/Machine/Step.lean ====
section
/-! DEFINITION. One step of the module, and the placing of one instruction where the next step fetches. -/

namespace Sys2Proof.Machine

open Sys2Proof

/-- One step: the next input on the agenda, another agent's step, or the next instruction of a unit. -/
def step (s : State) : Host.Outcome State Fault Refusal := s.cycle

/-! ### An instruction placed where the next step fetches it (entry 21) -/

/-- Bytes placed in plain memory lines, which no poison, owner or host holds. -/
def Phys.place (p : Phys) (a : Nat) (bs : List Byte) : Phys :=
  let q := p.put (fun _ => none) a bs
  { q with poison := q.poison.filter fun l => !(linesOf a bs.length).contains l, old := [] }

/-- A fetch line with one word in slot 0, `NOP` in the others, and a line word that makes slot 0 a target (07 R133). -/
def lineWith (w : BitVec 96) : Nat := w.toNat + 2 ^ 480 * (1 + 2 ^ 24 * parityOf w.toNat)

/-- A leaf for a 4 KiB page that may be read, written and fetched, and an entry that names a table (21 R363, R364). -/
def leafEntry (frame : Nat) : Nat := 0x3D + 4096 * frame
def tableEntry (table : Nat) : Nat := table + 1

/-- The launch that the placed instruction belongs to: one group of one band. -/
def placedDesc : LaunchDesc :=
  { lanePc := 0x10000, leadPc := 0, gx := 1, gy := 1, gz := 1, tx := 32, ty := 1, tz := 1, cluster := 1, versioned := false,
    idempotent := false, priv := true, workSource := 0, policy := false, regs := 592, window := 0, scratch := 262144, acc := 31,
    rsv := 8, slots := 16, comp := true, compLog := none, compThr := 0x3F000000, pcap := 0, params := [], outputs := 0,
    outBase := 0, groupCycles := 0, keyh := 0, compl := 0x10800 }

def placedLaunch : Launch :=
  { session := 0, number := 1, queue := none, node := none, desc := placedDesc, world := none, nextGroup := 1, returned := [],
    lists := [], quiescent := false, restarts := 0, pqDisc := 0, listDisc := 0, heldDrop := 0, ctrDrop := 0, commitNo := 0,
    commits := [], serialQueue := [], commitQueue := [], ended := none, complFault := none, complLost := false }

/-- A session record with every field at the least its limits allow: WEIGHT and CAP 1, TREC 0x1000, RSBASE 0x100000, RSDEPTH 640,
RSBANDS 1, SNAPCAP 6, LKBASE 0x200000 (22 R385). -/
def placedRecord : Nat :=
  2 ^ 48 + 2 ^ 56 + 0x1000 * 2 ^ 128 + 0x100000 * 2 ^ 192 + 640 * 2 ^ 256 + 2 ^ 272 + 6 * 2 ^ 448 + 0x200000 * 2 ^ 768

/-- Its translation record: the tables at 0x2000, and both ring capacities at 6 (21 R366). -/
def placedTrec : Nat := 0x2000 + 6 * 2 ^ 192 + 6 * 2 ^ 320

/-- The session, RUNNING its first launch. -/
def placedSession : Session := { newSession 0 placedRecord 1 with st := .running, launchNo := 1 }

/-- The core that runs the launch, its one band broadcast at the placed line. -/
def placedCore (gid : Nat) : Core :=
  let g : Group := newGroup gid placedLaunch 0
    { blocks := [(0, 0, 80)], pos := [0], scratchAt := 0, acc := List.range 32, slots := List.range 16, rgs := 0 } [0] 0
  { Core.init with
    session := some 0
    active := { session := 0, groups := [g.modBand 0 fun b => { b with started := true }] }
    slots := updAt (fun (x : IssueSlot) => { x with run := some { gid := gid, band := 0, pc := 0x10000, count := 0 } }) Core.init.slots 0 }

/-- The session's translation record, its tables and the code line. -/
def Phys.placed (p : Phys) (w : BitVec 96) : Phys :=
  let tables : List (Nat × List Byte) :=
    [(0x1000, toLE 256 placedTrec), (0x2000, toLE 16 (tableEntry 0x4000)), (0x4000, toLE 16 (tableEntry 0x6000)),
     (0x6000, toLE 16 (tableEntry 0x8000)), (0x8100, toLE 16 (leafEntry 16)), (0x10000, toLE 64 (lineWith w))]
  tables.foldl (fun q e => q.place e.1 e.2) p

/-- `s` with one instruction of the `nbits` low bits `w` in slot 0 of a line of a running launch, whose band is broadcast
there. Boot is complete, the schedulers are stopped, and no other agent has work. -/
def State.withFetchWord (s : State) (nbits w : Nat) : State :=
  { s with
    phys := s.phys.placed (BitVec.ofNat 96 (w % 2 ^ nbits))
    ctrl := { s.ctrl with
      bootStep := 5, bootResult := 1, linkUp := true, schedEnable := false, slice := Ctrl.reset.slice, mergeEn := false, dbmPending := 0, pwrIdle := Ctrl.reset.pwrIdle, pwrCores := 0 }
    worlds := [], relPending := [], sessions := [placedSession], launches := [placedLaunch], nodes := []
    cores := placedCore s.nextGid :: List.replicate 63 Core.init
    tlb2 := [], cmds := [], fetches := [], pops := [], queues := [], doorbells := [], rings := [], bins := [], textures := []
    texFails := [], encoders := [], unitFaults := [], errCount := [], euCount := 0, alarmTodo := [], nextGid := s.nextGid + 1, clash := false, issuer := none
    merging := none, cowRan := false, linkLate := 0, reached := []
    agenda := [] }

end Sys2Proof.Machine
end

