-- ==== Sys2Proof/Safety.lean ====
section
/-! DEFINITION. The terms that claims use: a safe run, a unit that may carry out an instruction, what the instructions of a
shape compute, and the invariants. -/

namespace Sys2Proof.Machine

open Sys2Proof

/-! ### Runs -/

/-- A step that goes on: it answers a next state, no fault and no refusal. -/
def GoesOn (s : State) : Prop := ∃ t, step s = .next t

/-- `n` steps that all go on. -/
def SafeFor : Nat → State → Prop
  | 0, _ => True
  | n + 1, s => ∃ t, step s = .next t ∧ SafeFor n t

/-! ### A unit that may carry out an instruction -/

/-- The lanes of a unit that an instruction acts on: the active ones that its guard enables (03 R60). -/
def Iss.en (i : Iss) (v : View) : LaneMask := i.enabled v.g

/-- Nothing in the state keeps the unit from carrying out an instruction with this view: the checks of 07 R153 pass, some
lane is enabled, no transaction of its lanes is broken or forbids the instruction (09 R207, R212), no operand's result is in
flight (02 R43), and no drain of the band has stores to make before it (11 R243). -/
def Iss.clear (i : Iss) (s : State) (v : View) : Bool :=
  i.doomed == 0 && (v.check i).isNone && i.en v != 0 && i.txnBarred (i.en v) v.op == 0 &&
  !v.guardUse.busy i i.active &&
  v.uses.all (fun u => !u.busy i (i.en v)) &&
  (i.lead || !afterDrain v.op || !(s.core i.core).draining i.group.gid i.band)

/-- The issuing unit of the state, and that nothing keeps it from the instruction. -/
abbrev Ready (s : State) (i : Iss) (v : View) : Prop := s.iss? = some i ∧ i.clear s v = true

/-- The state once the kill marks of the instruction have taken effect, and its operands below LO have entered the signatures
of its task (02 R46, 20 R350). -/
def State.begun (s : State) (i : Iss) (v : View) : State := s.operands i (i.en v) v.uses

/-- The active lanes that the guard leaves out move on, but for those whose transaction the instruction has ended, which stand
at their abort target (09 R212); in the lead stream there are none. -/
def State.others (s : State) (i : Iss) (en : LaneMask) : State := if i.lead then s else s.advance i (i.active &&& ~~~ en &&& ~~~ i.sent s)

/-- The unit goes to a PC with a repeat state (10 R222). -/
def State.repeating (s : State) (i : Iss) (pc : Pc) (r : Option RepState) : State :=
  if i.lead then s.modLead i fun x => { x with pc := pc, rep := r } else s.modLanes i i.active fun _ x => { x with pc := pc, rep := r }

/-- The strides sd, sa, sb and sc of a `REPEAT`, in bits [11:9], [8:6], [5:3] and [2:0] of its D field (10 R222). -/
def strides (d : Spec) : List Nat :=
  let w := (BitVec.ofBool d.kill ++ BitVec.ofBool d.bank ++ d.idx).toNat
  [w / 512, w / 64 % 8, w / 8 % 8, w % 8]

/-! ### Instructions that compute one result per lane -/

/-- What an instruction of this shape does: its view, its destination, its sources, and the result, flags and draws of a
lane from its number, its draws and its source values. -/
structure RegOp where
  view : View
  dt : Ty
  d : Spec
  srcs : List Opnd
  fn : Nat → (Nat → Nat) → List Nat → LaneOut

/-- The sources of every enabled lane are readable, with these values. -/
def RegOp.reads (o : RegOp) (s : State) (i : Iss) (vals : Nat → List Nat) : Prop :=
  ∀ l ∈ i.lanes (i.en o.view), mapE (rdOp (s.begun i o.view) i l) o.srcs = .ok (vals l)

/-- One lane's result written, its flags ORed into `%fpflags` and its draws counted. -/
def RegOp.give (o : RegOp) (i : Iss) (vals : Nat → List Nat) (t : State) (l : Nat) : Except Halt State :=
  (wrT t i l o.dt o.d (o.fn l (i.draw24 l) (vals l)).val).map fun u =>
    u.settle i l (o.fn l (i.draw24 l) (vals l)).fl (o.fn l (i.draw24 l) (vals l)).draws

/-- An exact integer result as its type holds it: modulo `2 ^ w`, or clamped to the type's range under SAT (04 R69). -/
def heldAs (sat signed : Bool) (w : Nat) (x : Int) : Nat :=
  let lo : Int := if signed then -(2 ^ (w - 1) : Nat) else 0
  let hi : Int := if signed then (2 ^ (w - 1) : Nat) - 1 else (2 ^ w : Nat) - 1
  ((if sat then max lo (min hi x) else x) % (2 ^ w : Nat)).toNat

/-- Element-wise results from exact integers: each result is held as its type holds it. -/
def exactInts (t : Ty) (sat : Bool) (f : List Int → Int) (xs : List Nat) : LaneOut :=
  let w := (tyElem t).1
  { val := packElems w ((List.range (tyElem t).2).map fun j =>
      heldAs sat (tySigned t) w (f (xs.map fun x => elemInt (tySigned t) w (elemAt w x j)))) }

/-- A result from bit strings of the type's width. -/
def fromBits (t : Ty) (f : List (BitVec (tyElem t).1) → BitVec (tyElem t).1) (xs : List Nat) : LaneOut :=
  { val := (f (xs.map fun x => BitVec.ofNat (tyElem t).1 x)).toNat }

def arg {α : Type} [Inhabited α] (xs : List α) (n : Nat) : α := xs.getD n default

/-- Position and length of a bit field: b [7:0] and b [15:8], cut to the width (08 R168). -/
def fieldAt (w b : Nat) : Nat × Nat := (min (b % 256) w, min (b / 256 % 256) (w - min (b % 256) w))

/-- The integer, logic, shift, field and move instructions (08 R162 to R168, R170, R172). -/
def intOp (r : Option RepState) : Instr → Option RegOp :=
  let two (f : AForm) (v : AForm → View) (g : AForm → List Nat → LaneOut) : Option RegOp :=
    let f := strideA f r
    some { view := v f, dt := aTy f, d := aD f, srcs := [.reg (aTy f) (aA f), aB (aTy f) f], fn := fun _ _ => g f }
  let more (f : RForm) (v : RForm → View) (n : Nat) (g : RForm → List Nat → LaneOut) : Option RegOp :=
    let f := strideR f r
    some { view := v f, dt := f.ty, d := f.d, srcs := ([f.a, f.b, f.c].take n).map (Opnd.reg f.ty), fn := fun _ _ => g f }
  let exact2 (g : Int → Int → Int) (sat : AForm → Bool) (f : AForm) : List Nat → LaneOut :=
    exactInts (aTy f) (sat f) fun xs => g (arg xs 0) (arg xs 1)
  let exact3 (g : Int → Int → Int → Int) (sat : RForm → Bool) (f : RForm) : List Nat → LaneOut :=
    exactInts f.ty (sat f) fun xs => g (arg xs 0) (arg xs 1) (arg xs 2)
  let exact1 (g : Int → Int) (f : RForm) : List Nat → LaneOut := exactInts f.ty f.sat fun xs => g (arg xs 0)
  let bits2 (g : {w : Nat} → BitVec w → BitVec w → BitVec w) (f : AForm) : List Nat → LaneOut :=
    fromBits (aTy f) fun xs => g (arg xs 0) (arg xs 1)
  let bits1 (g : {w : Nat} → BitVec w → BitVec w) (f : RForm) : List Nat → LaneOut := fromBits f.ty fun xs => g (arg xs 0)
  let no {α : Type} : α → Bool := fun _ => false
  fun
  | .iadd f => two f viewIadd (exact2 (· + ·) aSat)
  | .isub f => two f viewIadd (exact2 (· - ·) aSat)
  | .imul f => two f viewIadd (exact2 (· * ·) aSat)
  | .imulhi f => two f viewImulhi fun f => exact2 (fun x y => x * y / (2 ^ (tyElem (aTy f)).1 : Nat)) no f
  | .imad f => more f viewImad 3 (exact3 (fun x y z => x * y + z) (·.sat))
  | .iadd3 f => more f viewImad 3 (exact3 (fun x y z => x + y + z) (·.sat))
  | .addmin f => more f viewAddmin 3 fun f => exactInts f.ty false fun xs =>
      min (sextOrZext f.ty (heldAs true (tySigned f.ty) (tyElem f.ty).1 (arg xs 0 + arg xs 1))) (arg xs 2)
  | .addmax f => more f viewAddmin 3 fun f => exactInts f.ty false fun xs =>
      max (sextOrZext f.ty (heldAs true (tySigned f.ty) (tyElem f.ty).1 (arg xs 0 + arg xs 1))) (arg xs 2)
  | .imin f => two f viewImin (exact2 min no)
  | .imax f => two f viewImin (exact2 max no)
  | .min3 f => more f viewMin3 3 (exact3 (fun x y z => min (min x y) z) no)
  | .max3 f => more f viewMin3 3 (exact3 (fun x y z => max (max x y) z) no)
  | .iabs f => more f viewIabs 1 (exact1 fun x => if x < 0 then -x else x)
  | .ineg f => more f viewIneg 1 (exact1 fun x => -x)
  | .isad f => more f viewIsad 3 (exact3 (fun x y z => (if x < y then y - x else x - y) + z) (·.sat))
  | .idiv f => two f (viewIdiv true) fun f => exactInts (aTy f) (aSat f) fun xs =>
      if arg xs 1 = 0 then allOnes (aTy f) else Int.tdiv (arg xs 0) (arg xs 1)
  | .irem f => two f (viewIdiv false) (exact2 (fun x y => if y = 0 then x else Int.tmod x y) no)
  | .land f => two f viewLogic (bits2 fun x y => x &&& y)
  | .lor f => two f viewLogic (bits2 fun x y => x ||| y)
  | .lxor f => two f viewLogic (bits2 fun x y => x ^^^ y)
  | .landn f => two f viewLogic (bits2 fun x y => x &&& ~~~ y)
  | .lorn f => two f viewLogic (bits2 fun x y => x ||| ~~~ y)
  | .lnot f => more f viewNot 1 (bits1 fun x => ~~~ x)
  | .shl f => two f viewShift (bits2 fun {w} x y => x <<< (y.toNat % w))
  | .shr f => two f viewShift (bits2 fun {w} x y => x >>> (y.toNat % w))
  | .sar f => two f viewShift (bits2 fun {w} x y => x.sshiftRight (y.toNat % w))
  | .rol f => two f viewShift (bits2 fun x y => x.rotateLeft y.toNat)
  | .ror f => two f viewShift (bits2 fun x y => x.rotateRight y.toNat)
  | .fshl f => more f viewFsh 3 fun f => fromBits f.ty fun xs =>
      ((arg xs 0 ++ arg xs 2) <<< ((arg xs 1).toNat % (tyElem f.ty).1)).extractLsb' (tyElem f.ty).1 (tyElem f.ty).1
  | .fshr f => more f viewFsh 3 fun f => fromBits f.ty fun xs =>
      ((arg xs 0 ++ arg xs 2) >>> ((arg xs 1).toNat % (tyElem f.ty).1)).extractLsb' 0 (tyElem f.ty).1
  | .bfx f => two f viewBfx fun f xs =>
      let (p, n) := fieldAt (tyElem (aTy f)).1 (arg xs 1)
      let v := arg xs 0 / 2 ^ p % 2 ^ n
      { val := if tySigned (aTy f) && decide (2 ^ n ≤ 2 * v) then 2 ^ (tyElem (aTy f)).1 - 2 ^ n + v else v }
  | .bfi f => more f viewBfi 3 fun f => fromBits f.ty fun xs =>
      let (p, n) := fieldAt (tyElem f.ty).1 (arg xs 1).toNat
      let m := BitVec.ofNat (tyElem f.ty).1 (2 ^ n - 1) <<< p
      (arg xs 2 &&& ~~~ m) ||| (arg xs 0 <<< p &&& m)
  | .popc f => more f viewCount 1 fun f => fromBits f.ty fun xs =>
      BitVec.ofNat _ ((List.range (tyElem f.ty).1).countP fun j => (arg xs 0).getLsbD j)
  | .clz f => more f viewCount 1 fun f => fromBits f.ty fun xs =>
      BitVec.ofNat _ (((List.range (tyElem f.ty).1).takeWhile fun j => !(arg xs 0).getMsbD j).length)
  | .ctz f => more f viewCount 1 fun f => fromBits f.ty fun xs =>
      BitVec.ofNat _ (((List.range (tyElem f.ty).1).takeWhile fun j => !(arg xs 0).getLsbD j).length)
  | .brev f => more f viewCount 1 (bits1 fun x => x.reverse)
  | .lea f =>
    let f := strideA f r
    some { view := viewLea f, dt := .b64, d := aD f, srcs := [.reg .b64 (aA f), aB .b32 f],
           fn := fun _ _ xs =>
             let b := BitVec.ofNat 32 (arg xs 1)
             { val := (BitVec.ofNat 64 (arg xs 0) + if aTy f == .b64 then b.signExtend 64 else b.setWidth 64).toNat } }
  | .mov f =>
    let f := strideA f r
    some { view := viewMov f, dt := aTy f, d := aD f, srcs := [aB (aTy f) f], fn := fun _ _ xs => { val := arg xs 0 } }
  | _ => none
where
  /-- An element's bits read as its type reads them. -/
  sextOrZext (t : Ty) (x : Nat) : Int := elemInt (tySigned t) (tyElem t).1 x
  /-- All ones of the element's width, read as its type reads them. -/
  allOnes (t : Ty) : Int := if tySigned t then -1 else (2 ^ (tyElem t).1 : Nat) - 1

/-- The floating-point instructions (08 R173 to R176, R178): the exact result of the operation, rounded once. -/
def floatOp (r : Option RepState) : Instr → Option RegOp :=
  let two (f : AForm) (v : AForm → View) (g : AForm → FVal → FVal → FRes) : Option RegOp :=
    let f := strideA f r
    some { view := v f, dt := aTy f, d := aD f, srcs := [.reg (aTy f) (aA f), aB (aTy f) f],
           fn := fun _ u xs => mapFloat (aTy f) (aMods f) [(aMods f).na, (aMods f).nb] u (fop2 (g f)) xs }
  let more (f : RForm) (v : RForm → View) (n : Nat) (g : RForm → List FVal → FRes) : Option RegOp :=
    let f := strideR f r
    some { view := v f, dt := f.ty, d := f.d, srcs := ([f.a, f.b, f.c].take n).map (Opnd.reg f.ty),
           fn := fun _ u xs => mapFloat f.ty (rMods f) ([f.negA, f.negB, f.negC].take n) u (g f) xs }
  let approx (f : RForm) (op : ApproxOp) : Option RegOp :=
    let f := strideR f r
    some { view := viewApprox f, dt := f.ty, d := f.d, srcs := [.reg f.ty f.a], fn := fun _ _ xs => approxLane op f xs }
  fun
  | .fadd f => two f viewFadd fun f => faddX (aRnd f == 2)
  | .fsub f => two f viewFadd fun f x y => faddX (aRnd f == 2) x y.flip
  | .fmul f => two f viewFadd fun _ => fmulX
  | .ffma f => more f viewFfma 3 fun f => fop3 (ffmaX (f.rnd == 2))
  | .fmin f => two f viewFmin fun _ => fminX false
  | .fmax f => two f viewFmin fun _ => fminX true
  | .fabs f =>
    let f := strideR f r
    some { view := viewFabs f, dt := f.ty, d := f.d, srcs := [.reg f.ty f.a],
           fn := fun _ u xs => mapFloat f.ty (rMods f) [f.negA] u (fop1 fabsX) xs }
  | .fdiv f => more f viewFdiv 2 fun _ => fop2 fdivX
  | .fsqrt f => more f viewFsqrt 1 fun _ => fop1 fsqrtX
  | .frcp f => more f viewFsqrt 1 fun _ => fop1 (fdivX fone)
  | .frsq f =>
    let f := strideR f r
    some { view := viewFrsq f, dt := f.ty, d := f.d, srcs := [.reg f.ty f.a], fn := fun _ _ xs => match tyFmt f.ty with
      | none => { val := 0 }
      | some m =>
        let x := arg xs 0
        let o := rsqOut m (x + b2n f.negA * 2 ^ 64 + b2n (f.ty == .f64) * 2 ^ 65) (m.source f.ftz f.negA x)
        { val := o.bits, fl := o.fl } }
  | .fexp2 f => approx f .exp2
  | .flog2 f => approx f .log2
  | .fsin f => approx f .sin
  | .fcos f => approx f .cos
  | .ftanh f => approx f .tanh
  | .fclass f =>
    let f := strideR f r
    some { view := viewFclass f, dt := .b32, d := f.d, srcs := [.reg f.ty f.a], fn := fun _ _ xs => match tyFmt f.ty with
      | none => { val := 0 }
      | some m => { val := 2 ^ fclassBit m (arg xs 0 % 2 ^ m.width) } }
  | _ => none
where
  /-- An approximate result with FTZ and SAT applied. -/
  approxLane (op : ApproxOp) (f : RForm) (xs : List Nat) : LaneOut := match tyFmt f.ty with
    | none => { val := 0 }
    | some m =>
      let o := approxOut op m (m.source f.ftz f.negA (arg xs 0 % 2 ^ m.width))
      let sign := o.bits / 2 ^ (m.width - 1) * 2 ^ (m.width - 1)
      let b := if f.ftz && decide (o.bits - sign < 2 ^ m.mb) then sign else o.bits
      { val := if f.sat then m.clampUnit b else b, fl := o.fl }

/-- Results of several elements put together: their codes packed, their flags ORed. -/
def packOuts (w draws : Nat) (outs : List FOut) : LaneOut :=
  { val := packElems w (outs.map (·.bits)), fl := outs.foldl (fun a o => a ||| o.fl) 0, draws := draws }

/-- The conversions, dot products, packings and byte selections (08 R179 to R184). -/
def convertOp (r : Option RepState) : Instr → Option RegOp :=
  let op (f : RForm) (v : RForm → View) (dt : Ty) (n : Nat) (g : RForm → (Nat → Nat) → List Nat → LaneOut) : Option RegOp :=
    let f := strideR f r
    some { view := v f, dt := dt, d := f.d, srcs := ([f.a, f.b, f.c].take n).map (Opnd.reg .b32), fn := fun _ => g f }
  let rs (f : RForm) (u : Nat → Nat) (j : Nat) : Nat := if f.rnd == 5 then u j else 0
  fun
  | .cvt x f =>
    let f := strideR f r
    some { view := viewCvt x f, dt := f.ty, d := f.d, srcs := [.reg x f.a], fn := fun _ u xs =>
      packOuts (tyElem f.ty).1 (if f.rnd == 5 then (tyElem f.ty).2 else 0) ((List.range (tyElem f.ty).2).map fun j =>
        cvtElem x f.ty f.rnd.toNat f.sat f.ftz (rs f u j) (elemAt (tyElem x).1 (arg xs 0) j)) }
  | .cvtq x f =>
    let k := cvtqBits x f.ty
    op f (viewCvtq x) .b32 (if k == 32 then 2 else 3) fun f u xs =>
      let fs := if f.ty == .f32 then fmtF32 else fmtF16
      let srcs := if f.ty == .f32 then [arg xs 0, arg xs 1]
        else [arg xs 0 % 65536, arg xs 0 / 65536 % 65536, arg xs 1 % 65536, arg xs 1 / 65536 % 65536]
      let o := packOuts (narrowFmt x).width (if f.rnd == 5 then srcs.length else 0) ((List.range srcs.length).map fun j =>
        (narrowFmt x).deliver f.rnd.toNat (if f.sat then .top else .none) f.ftz (rs f u j) (cvtRes (fs.source f.ftz false (arg srcs j))))
      { o with val := if k == 32 then o.val else o.val * 2 ^ (32 - k) + arg xs 2 / 2 ^ k }
  | .cvtw x f => op f viewCvtw .b32 2 fun f _ xs =>
      let w := (narrowFmt x).width
      if f.ty == .f32 then { val := widen x fmtF32 (elemAt w (arg xs 0) (arg xs 1 % (32 / w))) }
      else { val := packElems 16 ([0, 1].map fun j => widen x fmtF16 (elemAt w (arg xs 0) (2 * (arg xs 1 % (16 / w)) + j))) }
  | .dot2 f => op f viewDot2 .b32 3 fun f u xs => match tyFmt f.ty with
      | none => { val := dotInt f.ty f.sat (arg xs 0) (arg xs 1) (arg xs 2) }
      | some m =>
        let o := fmtF32.deliver f.rnd.toNat (if f.sat then .unit else .none) false (rs f u 0)
          (dotFloat m (f.rnd == 2) (arg xs 0) (arg xs 1) (arg xs 2))
        { val := o.bits, fl := o.fl, draws := if f.rnd == 5 then 1 else 0 }
  | .dot4 f => op f viewDot4 .b32 3 fun f _ xs => { val := dotInt f.ty f.sat (arg xs 0) (arg xs 1) (arg xs 2) }
  | .pack f => op f viewPack .b32 (if packBytes f.ty then 3 else 2) fun f u xs =>
      let held (x : Nat) : Nat := heldAs true (tySigned f.ty) (tyElem f.ty).1 (elemInt (tySigned f.ty) 32 x)
      match tyFmt f.ty with
      | some m => packOuts 16 (if f.rnd == 5 then 2 else 0) ([0, 1].map fun j =>
          m.deliver f.rnd.toNat .none false (rs f u j) (cvtRes (fmtF32.decode (arg xs j))))
      | none =>
        if f.ty == .b32 then { val := arg xs 0 % 65536 + arg xs 1 % 65536 * 65536 }
        else if packBytes f.ty then { val := held (arg xs 0) + held (arg xs 1) * 256 + arg xs 2 % 65536 * 65536 }
        else { val := packElems 16 [held (arg xs 0), held (arg xs 1)] }
  | .bsel f => op f viewBsel .b32 3 fun _ _ xs =>
      { val := packElems 8 ((List.range 4).map fun j => bselByte (arg xs 0 + arg xs 1 * 2 ^ 32) (elemAt 8 (arg xs 2) j)) }
  | _ => none

/-- The words read from masks and from the transaction status (08 R171, 09 R188, R211). -/
def wordOp (i : Iss) : Instr → Option RegOp
  | .kget f =>
    let f := strideA f i.rep
    some { view := viewKget f, dt := .b32, d := aD f, srcs := [], fn := fun _ _ _ => { val := (kB i f).toNat } }
  | .kpollWord f =>
    let f := strideR f i.rep
    some { view := viewKpollWord f, dt := .b32, d := f.d, srcs := [], fn := fun l _ _ =>
      { val := (maskOf fun m => (i.enabled f.g).getLsbD m && segLo (segR f) m == segLo (segR f) l && i.kAt m f.b.idx.toNat).toNat } }
  | .xtest f => some { view := viewXtest f, dt := .b32, d := f.d, srcs := [], fn := fun l _ _ =>
      { val := ((i.group.lane i.band l).txn.status).toNat } }
  | _ => none

/-! ### Instructions that compute one mask bit per lane -/

structure MaskOp where
  view : View
  d : Spec
  srcs : List Opnd
  /-- the bit of a lane and the flags it sets, from its number and its source values -/
  fn : Nat → List Nat → Bool × Nat

def MaskOp.reads (o : MaskOp) (s : State) (i : Iss) (vals : Nat → List Nat) : Prop :=
  ∀ l ∈ i.lanes (i.en o.view), mapE (rdOp (s.begun i o.view) i l) o.srcs = .ok (vals l)

def MaskOp.give (o : MaskOp) (i : Iss) (vals : Nat → List Nat) (t : State) (l : Nat) : State :=
  (t.wrK i l o.d.idx.toNat (o.fn l (vals l)).1).settle i l (o.fn l (vals l)).2 0

/-- The comparisons and the mask instructions (08 R169, R171, R177, 09 R188). -/
def maskOp (i : Iss) : Instr → Option MaskOp :=
  let bits (f : AForm) (v : AForm → View) (g : Bool → Bool → Bool) : Option MaskOp :=
    let f := strideA f i.rep
    some { view := v f, d := aD f, srcs := [], fn := fun l _ => (g (i.kAt l (aA f).idx.toNat) ((kB i f).getLsbD l), 0) }
  let poll (f : RForm) (all : Bool) : Option MaskOp :=
    let f := strideR f i.rep
    let has (l : Nat) : List Bool := ((List.range 32).filter fun m =>
      (i.enabled f.g).getLsbD m && segLo (segR f) m == segLo (segR f) l).map fun m => i.kAt m f.b.idx.toNat
    some { view := viewKpoll f, d := f.d, srcs := [], fn := fun l _ => (if all then (has l).all id else (has l).any id, 0) }
  fun
  | .icmp x f =>
    let f := strideA f i.rep
    let t := aTy f
    some { view := viewIcmp f, d := aD f, srcs := [.reg t (aA f), aB t f], fn := fun _ xs =>
      (icmpHolds x (elemInt (tySigned t) (tyElem t).1 (arg xs 0)) (elemInt (tySigned t) (tyElem t).1 (arg xs 1)), 0) }
  | .fcmp x f =>
    let f := strideA f i.rep
    let t := aTy f
    some { view := viewFcmp f, d := aD f, srcs := [.reg t (aA f), aB t f], fn := fun _ xs => match tyFmt t with
      | some m => fcmpHolds x (m.source (aMods f).ftz (aMods f).na (arg xs 0 % 2 ^ m.width))
                    (m.source (aMods f).ftz (aMods f).nb (arg xs 1 % 2 ^ m.width))
      | none => (false, 0) }
  | .kand f => bits f viewK fun a b => a && b
  | .kor f => bits f viewK fun a b => a || b
  | .kxor f => bits f viewK fun a b => a ^^ b
  | .kandn f => bits f viewK fun a b => a && !b
  | .knot f => bits f viewKnot fun _ b => !b
  | .kset f =>
    let f := strideA f i.rep
    some { view := viewKset f, d := aD f, srcs := [aB .b32 f], fn := fun l xs => ((arg xs 0).testBit l, 0) }
  | .kpollAll f => poll f true
  | .kpollAny f => poll f false
  | _ => none

/-! ### Moves between lanes (08 R170, 09 R186 to R191) -/

structure MoveOp where
  view : View
  ty : Ty
  d : Spec
  /-- the value of a lane and the flags it sets, as the state allows it to be read -/
  value : State → Nat → Except Halt (Nat × Nat)

def MoveOp.give (o : MoveOp) (i : Iss) (vals : Nat → Nat × Nat) (t : State) (l : Nat) : Except Halt State :=
  (wrT t i l o.ty o.d (vals l).1).map fun u => u.settle i l (vals l).2 0

/-- Values of a over the participating lanes of a lane's segment that satisfy `p`, in ascending lane order. -/
def segRead (s : State) (i : Iss) (f : RForm) (l : Nat) (p : Nat → Bool) : Except Halt (List (Nat × Nat)) :=
  mapE (fun m => (rdT s i m f.ty f.a).map fun v => (m, v))
    ((List.range 32).filter fun m => (i.enabled f.g).getLsbD m && segLo (segR f) m == segLo (segR f) l && p m)

/-- The moves between lanes of OP 0x60 to 0x64, and `SEL`. -/
def moveOp (i : Iss) : Instr → Option MoveOp :=
  let get (f : AForm) (src : Nat → Nat → Nat → Nat) : Option MoveOp :=
    match strideA f i.rep with
    | .r f => some { view := viewLget (.r f), ty := f.ty, d := f.d, value := fun s l => match rd1 s i l f.b with
        | .ok b => (laneVal s i f.ty f.a (src (segR f) l (b.toNat % segW (segR f)))).map fun v => (v, 0)
        | .error e => .error e }
    | .i f => some { view := viewLget (.i f), ty := f.ty, d := f.d, value := fun s l =>
        (laneVal s i f.ty f.a (src (segI f) l (f.imm.toNat % segW (segI f)))).map fun v => (v, 0) }
  let shift (f : RForm) (src : Nat → Nat → Nat → Option Nat) : Option MoveOp :=
    let f := strideR f i.rep
    some { view := viewLsh f, ty := f.ty, d := f.d, value := fun s l => match rd1 s i l f.b with
      | .error e => .error e
      | .ok b => (match src (segR f) l (min (b.toNat % 64) 32) with
        | some m => laneVal s i f.ty f.a m
        | none => rdT s i l f.ty f.c).map fun v => (v, 0) }
  fun
  | .lgetAt f => get f fun seg l n => segLo seg l + n
  | .lgetFlip f => get f fun _ l n => l ^^^ n
  | .lshup f => shift f fun seg l n => if segLo seg l ≤ l - n ∧ n ≤ l then some (l - n) else none
  | .lshdn f => shift f fun seg l n => if l + n < segLo seg l + segW seg then some (l + n) else none
  | .lpeerEq f =>
    let f := strideR f i.rep
    some { view := viewLpeer f, ty := .b32, d := f.d, value := fun s l => match segRead s i f l fun _ => true, rdT s i l f.ty f.a with
      | .ok vs, .ok v => .ok ((maskOf fun m => vs.contains (m, v)).toNat, 0)
      | .error e, _ => .error e
      | _, .error e => .error e }
  | .lpeerUni f =>
    let f := strideR f i.rep
    some { view := viewLpeer f, ty := .b32, d := f.d, value := fun s l => (segRead s i f l fun _ => true).map fun vs =>
      (if vs.all fun x => vs.all fun y => x.2 == y.2 then (maskOf fun m => vs.any fun x => x.1 == m).toNat else 0, 0) }
  | .lfold x f =>
    let f := strideR f i.rep
    some { view := viewLfold x f, ty := f.ty, d := f.d, value := fun s l =>
      (segRead s i f l fun _ => true).map fun vs => foldVals x f.ty (vs.map (·.2)) }
  | .lpfx x f =>
    let f := strideR f i.rep
    some { view := viewLpfx x f, ty := f.ty, d := f.d, value := fun s l =>
      (segRead s i f l fun m => decide (m ≤ l)).map fun vs => foldVals (pfxFold x) f.ty (vs.map (·.2)) }
  | .sel f =>
    let f := strideR f i.rep
    some { view := viewSel f, ty := f.ty, d := f.d, value := fun s l => match rdT s i l f.ty f.a, rdT s i l f.ty f.b with
      | .ok a, .ok b => .ok (if i.kAt l f.c.idx.toNat then a else b, 0)
      | .error e, _ => .error e
      | _, .error e => .error e }
  | _ => none

/-! ### Loads and stores (09 R193, R194) -/

/-- View, form, size (log2), type and extension of a load or store. -/
structure MemOp where
  view : View
  f : MForm
  lg : Nat
  ty : Ty
  signed : Bool

def loadOp (r : Option RepState) : Instr → Option MemOp
  | .ld f => some { view := viewLd (strideM f r), f := strideM f r, lg := tyLg f.ty, ty := f.ty, signed := false }
  | .ldN8 f => some { view := viewLdNarrow (strideM f r), f := strideM f r, lg := 0, ty := .b32, signed := false }
  | .ldS8 f => some { view := viewLdNarrow (strideM f r), f := strideM f r, lg := 0, ty := .b32, signed := true }
  | .ldN16 f => some { view := viewLdNarrow (strideM f r), f := strideM f r, lg := 1, ty := .b32, signed := false }
  | .ldS16 f => some { view := viewLdNarrow (strideM f r), f := strideM f r, lg := 1, ty := .b32, signed := true }
  | _ => none

def storeOp (r : Option RepState) : Instr → Option MemOp
  | .st f => some { view := viewSt (strideM f r), f := strideM f r, lg := tyLg f.ty, ty := f.ty, signed := false }
  | .stB8 f => some { view := viewStNarrow (strideM f r), f := strideM f r, lg := 0, ty := .b32, signed := false }
  | .stB16 f => some { view := viewStNarrow (strideM f r), f := strideM f r, lg := 1, ty := .b32, signed := false }
  | _ => none

/-- No matrix instruction at the engine names the tile of a place (11 R235). -/
def State.tileIdle (s : State) (i : Iss) : Place → Bool
  | .tile g off => !(s.core i.core).tileBusy g (off / 8192)
  | _ => true

/-- The access of a lane is allowed: its address and where it falls, the checks of 05 R103, and no poison (09 R192). -/
def MemOp.allowed (o : MemOp) (s : State) (i : Iss) (acc : Access) (l : Nat) (ea : Dword) (p : Place) : Prop :=
  mAddr s i o.f o.lg l = .ok ea ∧ checkAccess s i { acc := acc, aligned := false, types := anyType } ea (2 ^ o.lg) = .ok p ∧
  (if acc = .write then s.placePoisonW i.sess p (2 ^ o.lg) else s.placePoison i.sess p (2 ^ o.lg)) = false ∧ s.tileIdle i p = true

/-- The physical bytes of memory that a store of `n` bytes to a place writes. -/
def Place.stored (p : Place) (n : Nat) : List Nat :=
  match p with
  | .virt ps => ps.flatMap fun q => (List.range q.len).map (q.pa + ·)
  | .phys pa _ => if onChip pa then [] else (List.range n).map (pa + ·)
  | _ => []

/-- Whether a place lies on a page that is copied on write. -/
def Place.hasContent : Place → Bool
  | .virt ps => ps.any fun q => q.leaf.content
  | _ => false

/-! ### Engine commands (10 R226 to R232) -/

/-- View, form, whether b is an operand, and the command of each lane. -/
structure EngOp where
  view : View
  f : EForm
  hasB : Bool
  kind : Dword → Word → CmdKind

def engOp : Instr → Option EngOp
  | .engCopy f => some { view := viewE 0xB0 f false, f := f, hasB := false, kind := fun a b => .start 0xB0 0 a b }
  | .engFill f => some { view := viewE 0xB0 f false, f := f, hasB := false, kind := fun a b => .start 0xB0 1 a b }
  | .engGsubmit f => some { view := viewE 0xB1 f false, f := f, hasB := false, kind := fun a b => .start 0xB1 0 a b }
  | .engGsignal f => some { view := viewE 0xB1 f false, f := f, hasB := false, kind := fun a b => .start 0xB1 1 a b }
  | .engGwatch f => some { view := viewE 0xB1 f true, f := f, hasB := true, kind := fun a b => .start 0xB1 2 a b }
  | .engDappend f => some { view := viewE 0xB2 f true, f := f, hasB := true,
                            kind := fun a b => .dappend a (b.toNat % 65536) (b.toNat / 65536) }
  | .engDdrain f => some { view := viewDdrain f, f := f, hasB := true,
                           kind := fun a b => .ddrain a (b.toNat % 65536) (b.toNat / 65536) }
  | _ => none

/-- What a `RET` reads for one lane of a unit, each check and read of it passing (10 R217, 03 R57, R59). -/
def Returns (s : State) (i : Iss) (l : Nat) (r : RetInfo) : Prop :=
  let x := i.group.lane i.band l
  let base := x.base - linkShift r.link
  1 ≤ x.nlinks ∧ r.link = x.links.getLastD 0 ∧ checkTarget s i l false (linkPc r.link) = .ok () ∧
  r.lo = min x.lo (max base (base + linkSize r.link - i.launch.desc.blockRegs)) ∧ spillIn s i l r.lo x.lo = .ok r.fill ∧
  (if x.links.length ≤ 1 ∧ 1 < x.nlinks then
    mapE (fun j => linkRead s i l (x.nlinks - 1 - min 8 (x.nlinks - 1) + j)) (List.range (min 8 (x.nlinks - 1))) = .ok r.links
   else r.links = x.links.dropLast)

/-- EFN and form of a collective. -/
def collOp : Instr → Option (Nat × EForm)
  | .engAllreduce f => some (0, f)
  | .engAllgather f => some (1, f)
  | .engBcast f => some (2, f)
  | _ => none

/-- A whole band at an instruction: no fragment, and every lane active (11 R233). -/
def Iss.whole (i : Iss) : Prop := i.bandOf.frags = [] ∧ i.active = BitVec.allOnes 32

/-- A matrix instruction put on the engine's queue, and the shadow twin it opens or closes. -/
def State.queued (s : State) (i : Iss) (o : MatOp) (opn : Option (Nat × Bool)) : State :=
  let t := s.modCore i.core fun c => { c with mqueue := c.mqueue ++ [o] }
  match opn with
  | none => t
  | some (j, v) => t.modGroupOn i.core i.group.gid fun g => { g with opens := setOpen g.opens j v }

/-! ### Commands (22 R390) -/

/-- The command processor whose turn it is stands at a command of OPC `opc` that may start: 64 bytes `v` of a queue of a session, with
its bits 63 to 9 zero, and every earlier command complete where AFTER asks for it. -/
def State.atCommand (s : State) (x : Session) (q : QueueCtx) (v opc : Nat) : Prop :=
  s.cpHead s.cpTurn = .cmd x q v ∧ cpOp v = opc ∧ bitsOf v 63 9 = 0 ∧ (cpAfter v = true → q.idle = true)

/-! ### Invariants -/

/-- What holds between two steps: no unit is issuing, no store has met another party's transaction, and no alarm has still to act. -/
def State.Settled (s : State) : Prop := s.issuer = none ∧ s.clash = false ∧ s.alarmTodo = []

end Sys2Proof.Machine
end

