-- ==== Sys2Proof/Certificates/Slice0/Obligations.lean ====
section
/-! DEFINITION. The statements for the provers. Each says which rule of the spec it formalises. -/

open Sys2Proof Sys2Proof.Machine

/-- Decoding an encoded well-formed instruction gives it back (07 R137 to R151): no field is dropped. -/
def Obligations.DecodeEncode : Prop :=
  ∀ (i : Instr) (w : BitVec 96), i.wf = true → encode i = some w → decode w = i

/-- A word that is an instruction is the encoding of that instruction: no two words share one (07 R137 to R151). -/
def Obligations.EncodeDecode : Prop :=
  ∀ (w : BitVec 96) (i : Instr), decode? w = some i → encode i = some w

/-- Words written out from the encoding tables decode to the instructions they stand for (07 R137 to R149; worked encodings
of 07 R140 to R145 and of the programs of 15 to 25).

A word whose OP is assigned but whose FN or EFN is not, and one whose OP is not, are no instruction (07 R151, R153). -/
def Obligations.SpecWordsDecode : Prop :=
  (decode 0x303620048050060070000000 =
    .ffma ⟨.f32, ⟨false, 2⟩, ⟨false, false, 4⟩, ⟨true, false, 5⟩, ⟨false, false, 6⟩, ⟨false, false, 7⟩, 0, 0, false, false, false,
      false, false, 0⟩ ∧
  decode 0x700000040080000000001068 =
    .ld ⟨.b32, ⟨false, 0⟩, ⟨false, false, 4⟩, ⟨false, false, 8⟩, ⟨false, false, 0⟩, ⟨false, false, 0⟩, 16, 3, 1, 0, false⟩ ∧
  decode 0x01000000000FFFFFFE600000 =
    .bra ⟨.b32, ⟨false, 0⟩, ⟨false, false, 0⟩, ⟨false, false, 0⟩, 0xFFFFFFE, 3, 0, 0⟩ ∧
  decode 0xC10000000900004281940000 =
    .mma ⟨.b32, ⟨false, 0⟩, ⟨false, false, 0⟩, 9, 0, 0, ⟨false, true, 40⟩, 3, 2, true, 0, 0⟩ ∧
  decode 0xA40000004000000000000000 =
    .streamCfg ⟨.b32, ⟨false, 0⟩, ⟨false, false, 0⟩, ⟨false, true, 0⟩, ⟨false, false, 0⟩, ⟨false, false, 0⟩, 0, 0, false, false,
      false, false, false, 0⟩) ∧
  (decode? 0x002000000000000000000000 = none ∧ decode? 0xB00000000000000000600000 = none ∧ decode? 0x0F0000000000000000000000 = none ∧
  (∀ w, decode? w = none → decode w = .unassignedOpcode w))

/-- A unit at whose PC a checked fetch line stands executes the instruction that its slot's word decodes to (01 R13, 07
R133 to R136): `issueTurn`, which `step` runs for the unit whose turn it is, is `exec` of that instruction, beside the
entry check that has been made, the lanes' loop buffers, the turn that has been had and the slot's run.

It rests on choices of the model: log entries 2, 45, 60. -/
def Obligations.UnitRunsDecoded : Prop :=
  ∀ (s : State) (u : UnitRef) (i : Iss) (line : Nat) (o : Result),
    ({ s with issuer := some u } : State).iss? = some i → i.active ≠ 0 →
    fetchLine { s with issuer := some u } i i.pc = .ok line → checkLine line = none →
    (i.atEntry = true → targetBit line (i.pc.toNat % 64) = true) →
    exec (decode (slotWord line (i.pc.toNat % 64)))
      ((({ s with issuer := some u } : State).entered i).captureWord i (slotWord line (i.pc.toNat % 64))) = o →
    s.issueTurn { unit := u, slot := none, captured := none } = (match o with
      | .next t => .next (t.turned i)
      | .fault f => .fault f
      | .refused r => .refused r)

/-- Where nothing but one unit may go on, a step is that unit's instruction, after which alarms act and time passes.

An input that comes next is taken by the next step (entry 2).

It rests on choices of the model: log entries 1, 2. -/
def Obligations.StepRunsOneTurn : Prop :=
  (∀ (s u : State) (t : Turn), s.agenda = [] → s.open_ = [] → s.turns = [t] → s.issueTurn t = .next u →
    ∃ v, step s = .next v.finish ∧ (u.clash = true → v = s) ∧ (u.clash = false → v = u.mayFill t.unit.core)) ∧
  (∀ (s t : State) (i : Instr) (rest : List Instr), s.agenda = i :: rest → exec i { s with agenda := rest } = .next t → t.clash = false →
    step s = .next t.finish)

/-- The integer, logic, shift, field and move instructions complete with the results of 08 R162 to R168, R170 and R172: every
enabled lane's destination takes the value its rule gives, and the unit moves on. -/
def Obligations.IntegerResults : Prop :=
  ∀ (s t : State) (i : Iss) (ins : Instr) (o : RegOp) (vals : Nat → List Nat),
    intOp i.rep ins = some o → Ready s i o.view → o.reads s i vals →
    foldE (o.give i vals) (s.begun i o.view) (i.lanes (i.en o.view)) = .ok t →
    exec ins s = .next (t.advance i i.active)

/-- The floating-point instructions complete with the exact result rounded once (08 R173 to R176, R178; 04 R72 to R78).

It rests on choices of the model: log entries 7, 53, 72. -/
def Obligations.FloatResults : Prop :=
  ∀ (s t : State) (i : Iss) (ins : Instr) (o : RegOp) (vals : Nat → List Nat),
    floatOp i.rep ins = some o → Ready s i o.view → o.reads s i vals →
    foldE (o.give i vals) (s.begun i o.view) (i.lanes (i.en o.view)) = .ok t →
    exec ins s = .next (t.advance i i.active)

/-- The conversions, dot products, packings and byte selections complete with the results of 08 R179 to R184.

`KGET`, `KPOLL.word` and `XTEST` complete with the mask, the polled lanes and the status word (08 R171, 09 R188, R211).

It rests on choices of the model: log entries 53, 57, 71. -/
def Obligations.ConversionResults : Prop :=
  (∀ (s t : State) (i : Iss) (ins : Instr) (o : RegOp) (vals : Nat → List Nat),
    convertOp i.rep ins = some o → Ready s i o.view → o.reads s i vals →
    foldE (o.give i vals) (s.begun i o.view) (i.lanes (i.en o.view)) = .ok t →
    exec ins s = .next (t.advance i i.active)) ∧
  (∀ (s t : State) (i : Iss) (ins : Instr) (o : RegOp) (vals : Nat → List Nat),
    wordOp i ins = some o → Ready s i o.view → o.reads s i vals →
    foldE (o.give i vals) (s.begun i o.view) (i.lanes (i.en o.view)) = .ok t →
    exec ins s = .next (t.advance i i.active))

/-- The comparisons and mask instructions complete: each enabled lane's bit of the destination mask is set as 08 R169,
R171, R177 and 09 R188 say, and the others' bits stand. -/
def Obligations.MaskResults : Prop :=
  ∀ (s : State) (i : Iss) (ins : Instr) (o : MaskOp) (vals : Nat → List Nat),
    maskOp i ins = some o → Ready s i o.view → o.reads s i vals →
    exec ins s = .next (((i.lanes (i.en o.view)).foldl (o.give i vals) (s.begun i o.view)).advance i i.active)

/-- `LGET`, `LSHUP`, `LSHDN`, `LPEER`, `LFOLD`, `LPFX` and `SEL` complete: every lane takes the value that the source lanes of
its segment had before any lane was written (08 R170, 09 R185 to R191).

It rests on choices of the model: log entry 70. -/
def Obligations.LaneMoves : Prop :=
  ∀ (s t : State) (i : Iss) (ins : Instr) (o : MoveOp) (vals : Nat → Nat × Nat),
    moveOp i ins = some o → Ready s i o.view → (∀ l ∈ i.lanes (i.en o.view), o.value (s.begun i o.view) l = .ok (vals l)) →
    foldE (o.give i vals) (s.begun i o.view) (i.lanes (i.en o.view)) = .ok t →
    exec ins s = .next (t.advance i i.active)

/-- A resident position is read and written in the register array, and neither can fail (03 R57): a lane register's value is
the position's newest value, and a write changes that position of that lane and nothing else of its registers.

A register holds what was written to it last, and a write leaves the others alone (03 R53).

It rests on choices of the model: log entry 13. -/
def Obligations.RegisterAccess : Prop :=
  (∀ (s : State) (i : Iss) (l idx : Nat) (v : Word), (i.group.lane i.band l).lo ≤ (i.group.lane i.band l).base + idx →
    readV s i l idx = .ok ((i.group.lane i.band l).value s.freeCtr l ((i.group.lane i.band l).base + idx)) ∧
    writeV s i l idx v = .ok (s.modGroupOn i.core i.group.gid fun g =>
      g.modLane i.band l fun y => y.put ((i.group.lane i.band l).base + idx) v)) ∧
  (∀ (x : Lane) (ctr l p q : Nat) (v : Word), spWf x.regs = true →
    (x.put p v).value ctr l p = v ∧ (q ≠ p → (x.put p v).value ctr l q = x.value ctr l q) ∧ spWf (x.put p v).regs = true)

/-- A failing check of steps 4 to 7 traps the unit that issued the instruction, whatever lanes its guard enables, and the
instruction has no other effect (07 R153). It holds of every instruction of the opcode map (outside a `REPEAT`).

The privileged instructions in user state raise `PROTECTION` subcode 4 at step 6 (07 R152, R153).

A word with an unassigned OP raises `ILLEGAL_INSTR` at step 2, one with an unassigned FN or EFN at step 3, in any stream
and whatever its guard (07 R151, R153).

It rests on choices of the model: log entry 51. -/
def Obligations.ChecksThatTrap : Prop :=
  (∀ (ins : Instr) (v : Iss → View) (s : State) (i : Iss) (t : Trap),
    viewOf ins = some v → s.iss? = some i → i.doomed = 0 → i.active ≠ 0 → i.rep = none → (v i).check i = some t →
    exec ins s = .next (s.takeTrap i (i.en (v i)) t)) ∧
  (∀ (ins : Instr) (f : RForm) (v : Iss → View) (s : State) (i : Iss), ins ∈ [.tret f, .tlbinv f, .fork f, .cflush f] →
    viewOf ins = some v → s.iss? = some i → i.doomed = 0 → i.active ≠ 0 → i.priv = false → (v i).types.contains f.ty = true →
    (if i.lead then (v i).lead else (v i).lane) = true →
    exec ins s = .next (s.takeTrap i (i.enabled f.g) { mkTrap protection 4 with field := 6 })) ∧
  (∀ (w : BitVec 96) (s : State) (i : Iss), s.iss? = some i → i.doomed = 0 → i.active ≠ 0 →
    exec (.unassignedOpcode w) s = .next (s.takeTrap i (i.enabled (wGuard w))
      { mkTrap illegalInstr 0 with field := if opAssigned (opOf w) then 3 else 2 }))

/-- An instruction whose guard enables no lane only moves the unit on: no register, memory, queue, stream or engine changes
(07 R138). `POPF` is the one exception.

It rests on choices of the model: log entry 34. -/
def Obligations.NoLaneEnabled : Prop :=
  ∀ (ins : Instr) (v : Iss → View) (s : State) (i : Iss),
    viewOf ins = some v → (∀ f, ins ≠ .popf f) → s.iss? = some i → i.doomed = 0 → i.active ≠ 0 → i.rep = none →
    (v i).check i = none → i.en (v i) = 0 →
    (v i).guardUse.busy i i.active = false →
    exec ins s = .next (s.advance i i.active)

/-- The three transfers send every enabled lane to its target, which is a checked target of a fetch line; the active lanes
that the guard leaves out move on (10 R215; 07 R136, R143).

It rests on choices of the model: log entry 48. -/
def Obligations.Transfers : Prop :=
  ∀ (s : State) (i : Iss) (f : BForm) (ins : Instr) (v : View) (indirect : Bool) (target : Nat → Pc),
    (ins = .bra f ∧ v = viewBra f ∧ indirect = false ∧ (∀ l, target l = directTarget i.pc f.loff f.slot 0) ∨
     ins = .jmp f ∧ v = viewJmp f ∧ indirect = true ∧ (∀ l ∈ i.lanes (i.en v), rd2 (s.begun i v) i l f.a = .ok (target l)) ∨
     ins = .brx f ∧ v = viewBrx f ∧ indirect = true ∧ (∀ l ∈ i.lanes (i.en v),
       (rd1 (s.begun i v) i l f.a).map (fun x => directTarget i.pc f.loff f.slot x.toNat) = .ok (target l))) →
    Ready s i v → (∀ l ∈ i.lanes (i.en v), checkTarget (s.begun i v) i l indirect (target l) = .ok ()) →
    exec ins s = .next (((i.lanes (i.en v)).foldl (fun t l => goTo t i l (target l)) (s.begun i v)).others i (i.en v))

/-- `CALL` and `CALLI` complete for every enabled lane: its link is pushed, going to memory first where a ninth would not fit
on chip, its window shifts and it transfers (10 R216).

A call of a lane that has room for a link on chip pushes the link, shifts the window by k and transfers (10 R216).

A link holds the return PC, the shift and the size it was made from (03 R59).

It rests on choices of the model: log entry 14. -/
def Obligations.Calls : Prop :=
  (∀ (s t : State) (i : Iss) (f : BForm) (ins : Instr) (v : View) (indirect : Bool) (target : Nat → Pc),
    (ins = .call f ∧ v = viewCall f ∧ indirect = false ∧ (∀ l, target l = directTarget i.pc f.loff f.slot 0) ∨
     ins = .calli f ∧ v = viewCalli f ∧ indirect = true ∧ (∀ l ∈ i.lanes (i.en v), rd2 (s.begun i v) i l f.a = .ok (target l))) →
    Ready s i v →
    (∀ l ∈ i.lanes (i.en v), 8 * f.wsh.toNat + 8 ≤ (i.group.lane i.band l).size ∧ (i.group.lane i.band l).nlinks < 4096 ∧
      (i.group.lane i.band l).base + (i.group.lane i.band l).size ≤ i.sess.rsDepth ∧
      checkTarget (s.begun i v) i l indirect (target l) = .ok ()) →
    foldE (fun t l => pushCall t i l (8 * f.wsh.toNat) (target l)) (s.begun i v) (i.lanes (i.en v)) = .ok t →
    exec ins s = .next (t.others i (i.en v))) ∧
  (∀ (s : State) (i : Iss) (l k : Nat) (target : Pc), (i.group.lane i.band l).links.length < 8 →
    pushCall s i l k target = .ok (s.modLanes i (maskOf (· == l)) fun _ y =>
      { y with
        links := (if y.links.length < 8 then y.links else []) ++ [linkWord (nextPc i.pc) k y.size]
        nlinks := y.nlinks + 1, base := y.base + k, size := y.size - k, pc := target })) ∧
  (∀ (pc : Pc) (k size : Nat), sessionSpace pc.toNat = true → pc.toNat % 64 < 5 → k % 8 = 0 → k < 1024 → size % 8 = 0 → size < 1024 →
    linkPc (linkWord pc k size) = pc ∧ linkShift (linkWord pc k size) = k ∧ linkSize (linkWord pc k size) = size)

/-- `RET` takes a link off every enabled lane, puts its window back and transfers to the return PC. Positions that come back
to the window are read from register-stack memory, the next eight links from link memory when the last on-chip link leaves,
and positions that were dead read as entry 11 says (10 R217, 03 R56 to R59).

It rests on choices of the model: log entries 11, 14, 79. -/
def Obligations.ReturnPopsLink : Prop :=
  ∀ (s : State) (i : Iss) (f : RForm) (r : Nat → RetInfo),
    Ready s i (viewRet f) →
    (∀ l ∈ i.lanes (i.en (viewRet f)), Returns (s.begun i (viewRet f)) i l (r l)) →
    exec (.ret f) s = .next (((i.lanes (i.en (viewRet f))).foldl (fun t l =>
      let x := i.group.lane i.band l
      let base := x.base - linkShift (r l).link
      let size := linkSize (r l).link
      deadFill (t.modLanes i (maskOf (· == l)) fun _ y =>
        { y with base := base, size := size, lo := (r l).lo, links := (r l).links, nlinks := y.nlinks - 1, pc := linkPc (r l).link
                 regs := spSetList y.regs (r l).lo (r l).fill, banks := spSetList y.banks (r l).lo (r l).fill })
        i l (max (x.base + x.size) x.base) (base + size)) (s.begun i (viewRet f))).others i (i.en (viewRet f)))

/-- `EXIT` ends the enabled lanes, or the lead stream; the lanes that the guard leaves out move on (10 R218).

`SPLIT` gives every active lane the mask of the active lanes; `REJOIN` parks every active lane with its own copy of the
mask, in which its own bit counts as set (10 R221, 01 R27).

`NOP` does nothing; `PREF` brings the line of every enabled lane into the caches and fences make the cache actions of their
scope, `FENCE.un` once every earlier store of the core has been performed; none of them changes a byte of memory (10 R219, 09 R195,
R201, R202; 05 R108; 06 R121; entry 3).

It rests on choices of the model: log entry 3. -/
def Obligations.ExitSplitRejoinNop : Prop :=
  (∀ (s : State) (i : Iss) (f : RForm), Ready s i (viewExit f) →
    exec (.exit f) s = .next (((if i.lead then (s.begun i (viewExit f)).modLead i fun x => { x with status := .exited, rep := none }
      else (s.begun i (viewExit f)).modLanes i (i.en (viewExit f)) fun _ x => x.exit)).others i (i.en (viewExit f)))) ∧
  ((∀ (s t : State) (i : Iss) (f : RForm), Ready s i (viewSplit f) →
    foldE (fun t l => writeV t i l f.d.idx.toNat i.active) (s.begun i (viewSplit f)) (i.lanes (i.en (viewSplit f))) = .ok t →
    exec (.split f) s = .next (t.advance i i.active)) ∧
  (∀ (s : State) (i : Iss) (f : RForm) (m : Nat → Word), Ready s i (viewRejoin f) →
    (∀ l ∈ i.lanes (i.en (viewRejoin f)), readV (s.begun i (viewRejoin f)) i l f.a.idx.toNat = .ok (m l)) →
    exec (.rejoin f) s = .next (((i.lanes (i.en (viewRejoin f))).foldl (fun t l =>
      t.modLanes i (maskOf (· == l)) fun _ x => { x with status := .parked (m l ||| BitVec.ofNat 32 (2 ^ l)) })
      (s.begun i (viewRejoin f))).others i (i.en (viewRejoin f))))) ∧
  ((∀ (s : State) (i : Iss) (f : RForm), Ready s i (viewNop f) → exec (.nop f) s = .next ((s.begun i (viewNop f)).advance i i.active)) ∧
  (∀ (s : State) (i : Iss) (f : MForm), Ready s i (viewPref f) →
    exec (.pref f) s = .next (((i.lanes (i.en (viewPref f))).foldl (fun t l => t.prefetch i f l)
      (s.begun i (viewPref f))).advance i i.active)) ∧
  (∀ (s : State) (i : Iss) (f : MForm), Ready s i (viewFence f true) →
    exec (.fence f) s = .next ((((s.begun i (viewFence f true)).releaseAt i.core (mScope f)).acquire i.core (mScope f)).advance i i.active)) ∧
  (∀ (s : State) (i : Iss) (f : MForm), Ready s i (viewFenceUn f) →
    exec (.fenceUn f) s = .next ((((s.begun i (viewFenceUn f)).performAll i.core).dropType 2 i.core true true).advance i i.active)) ∧
  (∀ (s : State) (i : Iss) (f : MForm) (core scope type l : Nat) (l2 llc : Bool) (a : Nat), s.ctrl.dbmEnable = false →
    spGet ((s.releaseAt core scope).acquire core scope).phys.bytes a = spGet s.phys.bytes a ∧
    spGet ((s.performAll core).dropType type core l2 llc).phys.bytes a = spGet s.phys.bytes a ∧
    spGet (s.prefetch i f l).phys.bytes a = spGet s.phys.bytes a))

/-- `ALLOC n` sets the window's size of every enabled lane to n; positions that enter the window become zero but for deposits, in
the register array or, below LO, in register-stack memory, and positions that no longer fit the block go to register-stack memory
(10 R220, 03 R56, R57, 05 R102).

It rests on choices of the model: log entries 14, 77. -/
def Obligations.AllocSetsWindow : Prop :=
  ∀ (s t : State) (i : Iss) (f : IForm), Ready s i (viewAlloc f) → f.imm.toNat % 8 = 0 → 8 ≤ f.imm.toNat → f.imm.toNat ≤ 640 →
    (∀ l ∈ i.lanes (i.en (viewAlloc f)), (i.group.lane i.band l).base + f.imm.toNat ≤ i.sess.rsDepth ∧
      ∃ w, (s.begun i (viewAlloc f)).raiseTop i.sess i.bandOf l (i.group.lane i.band l)
        ((i.group.lane i.band l).base + (i.group.lane i.band l).size) ((i.group.lane i.band l).base + f.imm.toNat)
        (newLo i.launch.desc.blockRegs (i.group.lane i.band l).lo (i.group.lane i.band l).base f.imm.toNat) = .ok w) →
    foldE (fun (u : State) l =>
      let x := i.group.lane i.band l
      let lo := newLo i.launch.desc.blockRegs x.lo x.base f.imm.toNat
      (u.raiseTop i.sess i.bandOf l x (x.base + x.size) (x.base + f.imm.toNat) lo).map fun r =>
        r.1.modLanes i (maskOf (· == l)) fun _ _ => { r.2 with size := f.imm.toNat })
      (s.begun i (viewAlloc f)) (i.lanes (i.en (viewAlloc f))) = .ok t →
    exec (.alloc f) s = .next (t.advance i i.active)

/-- `REPEAT` with a count of zero skips the instruction after it; another count sets the repeat state of the unit, and the
instruction after it runs that many times with its register indices moved on by the strides (10 R222).

A lane in the last iteration of a `REPEAT` goes on to the next instruction; in an earlier one it stays, with the iteration
counted (10 R222). -/
def Obligations.Repeat : Prop :=
  (∀ (s : State) (i : Iss) (f : IForm) (ins : Instr) (v : View) (n : Nat),
    (ins = .repeatImm f ∧ v = viewRepeatImm f ∧ n = f.imm.toNat ∨
     ins = .repeatReg f ∧ v = viewRepeatReg f ∧ n = (i.gReg f.a.idx.toNat).toNat % 2 ^ 32) →
    Ready s i v →
    (n = 0 → exec ins s = .next ((s.begun i v).repeating i (nextPc (nextPc i.pc)) none)) ∧
    (n ≠ 0 → repeatCheck (s.begun i v) i (strides f.d) n = .ok () →
      exec ins s = .next ((s.begun i v).repeating i (nextPc i.pc) (some
        { remain := BitVec.ofNat 16 n, iter := 0, sd := BitVec.ofNat 3 ((strides f.d).getD 0 0),
          sa := BitVec.ofNat 3 ((strides f.d).getD 1 0), sb := BitVec.ofNat 3 ((strides f.d).getD 2 0),
          sc := BitVec.ofNat 3 ((strides f.d).getD 3 0) })))) ∧
  (∀ (x : Lane) (r : RepState), x.rep = some r → 1 ≤ r.remain.toNat →
    (r.remain = 1 → x.advance.rep = none ∧ x.advance.pc = nextPc x.pc) ∧
    (1 < r.remain.toNat → x.advance.pc = x.pc ∧ ∃ q, x.advance.rep = some q ∧ q.remain = r.remain - 1 ∧ q.iter = r.iter + 1 ∧
      q.sd = r.sd ∧ q.sa = r.sa ∧ q.sb = r.sb ∧ q.sc = r.sc))

/-- `LD` and the narrow loads give every enabled lane outside transactions the bytes at its address, zero- or sign-extended, in ascending
lane order; a load whose order or page type says so is an acquire (09 R193; 05 R108; 06 R117, R120).

It rests on choices of the model: log entries 3, 10, 61, 62, 66, 76. -/
def Obligations.Loads : Prop :=
  ∀ (s t : State) (i : Iss) (ins : Instr) (o : MemOp) (ea : Nat → Dword) (p : Nat → Place),
    loadOp i.rep ins = some o → Ready s i o.view → i.inTxn (i.en o.view) = 0 →
    (∀ l ∈ i.lanes (i.en o.view), o.allowed (s.begun i o.view) i .read l (ea l) (p l)) →
    foldE (fun (u : State) l =>
      (giveLoad o.f o.ty o.signed i (u.loaded i o.f.hint.toNat (p l)) l (u.bytesAt i.sess i.group.gid (p l) (2 ^ o.lg))).map
        fun w => w.advance i (maskOf (· == l)))
      (s.begun i o.view) (i.lanes (i.en o.view)) = .ok t →
    exec ins s = .next ((t.acquireFor i o.f .read ((i.lanes (i.en o.view)).map fun l => ⟨l, ea l, p l⟩)).others i (i.en o.view))

/-- `ST`, `ST.b8` and `ST.b16` store the low bytes of c of every enabled lane outside transactions, the lanes in ascending order,
and a store whose order or page type says so is a release; lanes whose lines another lane's serial transaction holds wait while the
holder of the token goes on (09 R194, R213; 05 R108; 06 R117, R120).

It rests on choices of the model: log entries 10, 22, 61, 62, 66, 76. -/
def Obligations.Stores : Prop :=
  ∀ (s s1 : State) (i : Iss) (ins : Instr) (o : MemOp) (ea : Nat → Dword) (p : Nat → Place) (x : Nat → Nat) (as0 as : List Acc) (held : LaneMask),
    storeOp i.rep ins = some o → Ready s i o.view → i.inTxn (i.en o.view) = 0 →
    (∀ l ∈ i.lanes (i.en o.view), o.allowed (s.begun i o.view) i .write l (ea l) (p l) ∧
      rdT (s.begun i o.view) i l o.ty o.f.c = .ok (x l)) →
    as0 = ((i.lanes (i.en o.view)).map fun l => ⟨l, ea l, p l⟩) → held = heldLanes (s.begun i o.view) i (2 ^ o.lg) as0 →
    (held = 0 ∨ i.tokenHere = true) →
    prepareStore (s.begun i o.view) i { acc := .write, aligned := false, types := anyType } (2 ^ o.lg)
      (as0.filter fun a => !held.getLsbD a.lane) = .ok (s1, as) →
    exec ins s = .next (((((i.lanes (i.en o.view)).foldl (fun (u : State) l => match as.find? fun a => a.lane == l with
      | none => u
      | some a => (u.stored i o.f.hint.toNat l a.place (toLE (2 ^ o.lg) (x l))).advance i (maskOf (· == l)))
      (s1.releaseFor i o.f .write as)).acquireFor i o.f .write as).holdLanes i held (laneLines i (2 ^ o.lg) as0)).others i (i.en o.view))

/-- A store leaves every byte of physical memory outside the bytes of its places as it was once the store was prepared, the
dirty bitmap being off (09 R194, 05 R97).

A store to a plain page by a lane outside transactions and versions needs no preparation: no copy is made, and no room
runs out (05 R110, 20 R355).

It rests on choices of the model: log entry 22. -/
def Obligations.StoreFrame : Prop :=
  (∀ (s s1 t : State) (i : Iss) (ins : Instr) (o : MemOp) (ea : Nat → Dword) (p : Nat → Place) (x : Nat → Nat) (as0 as : List Acc) (a : Nat),
    storeOp i.rep ins = some o → Ready s i o.view → i.inTxn (i.en o.view) = 0 →
    (∀ l ∈ i.lanes (i.en o.view), o.allowed (s.begun i o.view) i .write l (ea l) (p l) ∧
      rdT (s.begun i o.view) i l o.ty o.f.c = .ok (x l)) →
    as0 = ((i.lanes (i.en o.view)).map fun l => ⟨l, ea l, p l⟩) →
    (heldLanes (s.begun i o.view) i (2 ^ o.lg) as0 = 0 ∨ i.tokenHere = true) →
    prepareStore (s.begun i o.view) i { acc := .write, aligned := false, types := anyType } (2 ^ o.lg)
      (as0.filter fun y => !(heldLanes (s.begun i o.view) i (2 ^ o.lg) as0).getLsbD y.lane) = .ok (s1, as) →
    s1.ctrl.dbmEnable = false → spWf s1.phys.bytes = true → exec ins s = .next t → (∀ y ∈ as, a ∉ y.place.stored (2 ^ o.lg)) →
    spGet t.phys.bytes a = spGet s1.phys.bytes a) ∧
  (∀ (s : State) (i : Iss) (nd : Need) (n : Nat) (as : List Acc), i.group.buffering = false →
    (∀ a ∈ as, a.place.hasContent = false ∧ checkAccess s i nd a.ea n = .ok a.place ∧
      (if nd.acc = .write then s.placePoisonW i.sess a.place n else s.placePoison i.sess a.place n) = false) →
    prepareStore s i nd n as = .ok (s, as))

/-- Bytes stored at a place read back there, and no other byte of memory changes: on one run of session memory outside versions
and on-chip arrays, no host request lost and the dirty bitmap off; in the version of a task, whose bytes then stand in the version alone; in a group's scratchpad
(05 R97, R110; 06 R128).

It rests on choices of the model: log entries 3, 22, 75. -/
def Obligations.ReadAfterWrite : Prop :=
  (∀ (s : State) (x : Session) (gid : Nat) (self : Option LaneRef) (q : Piece) (bs : List Byte), bs.length = q.len →
    (∀ j, j < q.len → onChip (q.pa + j) = false) → Memory.wf s.phys.bytes = true → s.ctrl.linkUp = true → s.linkLate ≠ 1 →
    s.ctrl.dbmEnable = false → (∀ c g, s.find? gid = some (c, g) → g.buffering = false) →
    (s.putAt x gid self (.virt [q]) bs).bytesAt x gid (.virt [q]) bs.length = bs ∧
    ∀ a, a < q.pa ∨ q.pa + q.len ≤ a → spGet (s.putAt x gid self (.virt [q]) bs).phys.bytes a = spGet s.phys.bytes a) ∧
  (∀ (s : State) (x : Session) (gid c : Nat) (g : Group) (self : Option LaneRef) (q : Piece) (bs : List Byte), bs.length = q.len →
    s.find? gid = some (c, g) → g.buffering = true →
    (s.putAt x gid self (.virt [q]) bs).bytesAt x gid (.virt [q]) bs.length = bs ∧
    (s.putAt x gid self (.virt [q]) bs).phys = s.phys) ∧
  (∀ (s : State) (x : Session) (gid own c off : Nat) (g : Group) (self : Option LaneRef) (bs : List Byte), s.find? gid = some (c, g) →
    spWf g.scratch = true → (s.putAt x own self (.scratch gid off) bs).bytesAt x own (.scratch gid off) bs.length = bs ∧
    (s.putAt x own self (.scratch gid off) bs).phys = s.phys)

/-- `ATOM` and `RED` apply to the lanes one after another in ascending order; `ATOM` gives each lane the old value; cache
actions, and lanes held back by another lane's serial transaction, as for a store (09 R197 to R200, R213, 06 R125, 05 R108).

The new value of an atomic: add wraps, cas stores its swap value on equality, inc and dec wrap at their bound (09 R200).

It rests on choices of the model: log entries 10, 55, 62, 80. -/
def Obligations.Atomics : Prop :=
  (∀ (s s1 t : State) (i : Iss) (x : AtomOp) (f : MForm) (ret : Bool) (v : View) (ea : Nat → Dword) (p : Nat → Place) (c : Nat → Nat × Nat)
    (as0 as : List Acc) (held : LaneMask),
    v = (if ret then viewAtom x f else viewRed x f) → Ready s i v →
    (∀ l ∈ i.lanes (i.en v), mAddr (s.begun i v) i f (tyLg f.ty) l = .ok (ea l) ∧ rdAtomC x f i (s.begun i v) l = .ok (c l) ∧
      checkAccess (s.begun i v) i { acc := .atomic, aligned := true, types := atomTypes } (ea l) (2 ^ tyLg f.ty) = .ok (p l) ∧
      (s.begun i v).placePoison i.sess (p l) (2 ^ tyLg f.ty) = false ∧ (s.begun i v).tileIdle i (p l) = true ∧
      ((p l).hostLink = true → linkCarries x f.ty = true ∧ Config.linkAtomicOk (s.begun i v).freeCtr = true)) →
    as0 = ((i.lanes (i.en v)).map fun l => ⟨l, ea l, p l⟩) → held = heldLanes (s.begun i v) i (2 ^ tyLg f.ty) as0 →
    (held = 0 ∨ i.tokenHere = true) →
    prepareStore (s.begun i v) i { acc := .atomic, aligned := true, types := atomTypes } (2 ^ tyLg f.ty)
      (as0.filter fun a => !held.getLsbD a.lane) = .ok (s1, as) →
    foldE (fun (u : State) l => match as.find? fun a => a.lane == l with
      | none => .ok u
      | some a =>
        let o := leNat (u.bytesAt i.sess i.group.gid a.place (2 ^ tyLg f.ty))
        let w := (u.putAt i.sess i.group.gid (i.self a.lane) a.place
          (toLE (2 ^ tyLg f.ty) (atomNew x f.ty o (c l).1 (c l).2))).sign i.group.gid a.place true true
        (if ret then wrT w i a.lane f.ty f.d o else .ok w).map fun z => z.advance i (maskOf (· == a.lane)))
      (s1.releaseFor i f .atomic as) (i.lanes (i.en v)) = .ok t →
    exec (if ret then .atom x f else .red x f) s =
      .next (((t.acquireFor i f .atomic as).holdLanes i held (laneLines i (2 ^ tyLg f.ty) as0)).others i (i.en v))) ∧
  (∀ (o v w : BitVec 32),
    atomNew .add .n32 o.toNat v.toNat w.toNat = (o + v).toNat ∧ atomNew .and .b32 o.toNat v.toNat w.toNat = (o &&& v).toNat ∧
    atomNew .exch .b32 o.toNat v.toNat w.toNat = v.toNat ∧
    atomNew .cas .b32 o.toNat v.toNat w.toNat = (if o = v then w else o).toNat ∧
    atomNew .inc .n32 o.toNat v.toNat w.toNat = (if v ≤ o then 0 else o + 1).toNat ∧
    atomNew .dec .n32 o.toNat v.toNat w.toNat = (if o = 0 ∨ v < o then v else o - 1).toNat ∧
    atomNew .min .s32 o.toNat v.toNat w.toNat = (if o.slt v then o else v).toNat ∧
    atomNew .max .n32 o.toNat v.toNat w.toNat = (if o < v then v else o).toNat)

/-- `WAITF` holds its unit: every enabled lane waits for its location to meet the condition, and the lanes left out go on when
those have (09 R203).

Every active lane, or the lead stream, arrives at its next barrier instance and waits there (09 R204).

It rests on choices of the model: log entry 3. -/
def Obligations.WaitsAndBarriers : Prop :=
  (∀ (s : State) (i : Iss) (x : WCond) (f : MForm) (ea : Nat → Dword) (c : Nat → Nat) (p : Nat → Place),
    Ready s i (viewWaitf f) →
    (∀ l ∈ i.lanes (i.en (viewWaitf f)), mAddr (s.begun i (viewWaitf f)) i f (tyLg f.ty) l = .ok (ea l) ∧
      rdT (s.begun i (viewWaitf f)) i l f.ty f.c = .ok (c l) ∧
      waitCheck (s.begun i (viewWaitf f)) i (ea l) (2 ^ tyLg f.ty) = .ok (p l) ∧
      (s.begun i (viewWaitf f)).placePoison i.sess (p l) (2 ^ tyLg f.ty) = false) →
    exec (.waitf x f) s = .next (startWaits (s.begun i (viewWaitf f)) i x f (i.en (viewWaitf f))
      ((i.lanes (i.en (viewWaitf f))).map fun l => (l, ea l, c l)))) ∧
  (∀ (s : State) (i : Iss) (f : RForm) (clu : Bool), Ready s i (viewBar f) →
    exec (if clu then .barClu f else .barGrp f) s = .next (
      let b := s.begun i (viewBar f)
      if i.lead then b.modLead i fun x =>
        { x with
          barGrp := if clu then x.barGrp else x.barGrp + 1, barClu := if clu then x.barClu + 1 else x.barClu
          wait := .barrier clu ((if clu then x.barClu else x.barGrp) + 1) }
      else b.modLanes i i.active fun _ x =>
        { x with
          barGrp := if clu then x.barGrp else x.barGrp + 1, barClu := if clu then x.barClu + 1 else x.barClu
          wait := .barrier clu ((if clu then x.barClu else x.barGrp) + 1) }))

/-- `XBEGIN` of lanes that hold no transaction and have aborted fewer than eight times opens an empty transaction with its abort
target in each; each opening is an acquire at `.dev` (09 R206, R212; 06 R126).

A lane that begins a transaction inside one aborts it with cause NESTED; one with eight aborts runs serially under the
session's commit token, or waits for it (09 R206, R213).

`XEND` commits every enabled lane's transaction at one point, lane by lane, as a release at `.dev`, outside a task's version,
where no serial transaction of another lane holds a line to be written and no serial lane's stores meet a trap (09 R209, R213).

`XABORT` aborts every enabled lane with cause EXPLICIT and b [7:0] as DETAIL: the lane goes to its abort target (09 R210,
R212).

An abort sends the lane to its abort target, drops what the transaction buffered, and counts causes 1, 2, 5 and 8 up to
eight (09 R211, R212).

What the accesses of lanes inside transactions do (09 R207): a load or store of such lanes is made lane by lane, and the lane moves on
where its access was performed. One outside session memory aborts with DISALLOWED and the OP as DETAIL, one that takes the band's
transactions past 32 lines with CAPACITY; one that meets no conflict and passes its checks joins the footprint and gives the bytes that
the transaction sees. A store changes no physical memory, and the lane's own load reads it back through its buffer. Lanes inside transactions that an
instruction they may not execute enables, an atomic or a reduction among them, abort with DISALLOWED and its OP.

It rests on choices of the model: log entries 3, 47, 54, 78. -/
def Obligations.Transactions : Prop :=
  (∀ (s : State) (i : Iss) (f : BForm),
    Ready s i (viewXbegin f) →
    (∀ l ∈ i.lanes (i.en (viewXbegin f)),
      checkTarget (s.begun i (viewXbegin f)) i l false (directTarget i.pc f.loff f.slot 0) = .ok () ∧
      (i.group.lane i.band l).txn.active = false ∧ (i.group.lane i.band l).txn.aborts ≠ 8) →
    exec (.xbegin f) s = .next (((i.lanes (i.en (viewXbegin f))).foldl (fun t l =>
      ((t.acquire i.core 3).modLanes i (maskOf (· == l)) fun _ x => x.openTxn false (directTarget i.pc f.loff f.slot 0)).advance i
        (maskOf (· == l))) (s.begun i (viewXbegin f))).others i (i.en (viewXbegin f)))) ∧
  (∀ (s : State) (i : Iss) (l : Nat) (target : Pc),
    ((i.group.lane i.band l).txn.active = true → beginLane s i l target = s.abortLane i l 9 0) ∧
    ((i.group.lane i.band l).txn.active = false → (i.group.lane i.band l).txn.aborts = 8 → ∀ y, s.session? i.sess.slot = some y →
      (y.tokenHolder = none ∧ y.tokenQueue = [] →
        beginLane s i l target = (((s.acquire i.core 3).modSession i.sess.slot fun z =>
          { z with tokenHolder := some ⟨i.group.gid, i.band, l⟩ }).modLanes i (maskOf (· == l))
            fun _ z => z.openTxn true target).advance i (maskOf (· == l))) ∧
      (y.tokenHolder ≠ none → beginLane s i l target = (s.modSession i.sess.slot fun z =>
          { z with tokenQueue := z.tokenQueue ++ [⟨i.group.gid, i.band, l⟩] }).modLanes i (maskOf (· == l))
            fun _ z => { z with wait := .token, txn := { z.txn with target := target } }))) ∧
  (∀ (s : State) (i : Iss) (f : RForm),
    Ready s i (viewXend f) → i.group.ver = none →
    (∀ l ∈ i.lanes (i.en (viewXend f)), (i.group.lane i.band l).txn.active = true ∧
      (s.begun i (viewXend f)).heldFrom i.group (i.self l) (txnOf (s.begun i (viewXend f)) i l).wset = false ∧
      ((txnOf (s.begun i (viewXend f)) i l).serial = true → ∃ w, commitReady (s.begun i (viewXend f)) i l = .ok w)) →
    exec (.xend f) s = .next (((i.lanes (i.en (viewXend f))).foldl (fun t l => endLane t i l)
      ((s.begun i (viewXend f)).releaseAt i.core 3)).others i (i.en (viewXend f)))) ∧
  (∀ (s : State) (i : Iss) (f : RForm) (b : Nat → Word),
    Ready s i (viewXabort f) →
    (∀ l ∈ i.lanes (i.en (viewXabort f)), (i.group.lane i.band l).txn.active = true ∧
      rd1 (s.begun i (viewXabort f)) i l f.b = .ok (b l)) →
    exec (.xabort f) s = .next (((i.lanes (i.en (viewXabort f))).foldl (fun t l => t.abortLane i l 4 ((b l).toNat % 256))
      (s.begun i (viewXabort f))).others i (i.en (viewXabort f)))) ∧
  (∀ (x : Lane) (cause detail : Nat), cause < 256 → detail < 256 →
    (x.abort cause detail).pc = x.txn.target ∧ (x.abort cause detail).txn.active = false ∧ (x.abort cause detail).txn.buf = [] ∧
    (x.abort cause detail).regs = x.regs ∧ (x.abort cause detail).k = x.k ∧
    (x.abort cause detail).txn.aborts = (if cause = 1 ∨ cause = 2 ∨ cause = 5 ∨ cause = 8 then min 8 (x.txn.aborts + 1) else x.txn.aborts) ∧
    ((x.abort cause detail).txn.status.toNat % 256 = cause ∧ (x.abort cause detail).txn.status.toNat / 256 % 256 = detail)) ∧
  ((∀ (s t : State) (i : Iss) (ins : Instr) (o : MemOp) (ea : Nat → Dword),
    loadOp i.rep ins = some o → Ready s i o.view → (∀ l ∈ i.lanes (i.en o.view), mAddr (s.begun i o.view) i o.f o.lg l = .ok (ea l)) →
    checkLanes (s.begun i o.view) i { acc := .read, aligned := false, types := anyType } 0x70 (2 ^ o.lg) (i.inTxn (i.en o.view))
      ((i.lanes (i.en o.view)).map fun l => (l, ea l)) = .ok [] →
    foldE (fun (u : State) l => if (txnOf u i l).active then (match txAccess u i 0x70 (2 ^ o.lg) l o.f.hint.toNat (ea l) none with
        | .error e => .error e
        | .ok (w, none) => .ok w
        | .ok (w, some bs) => (giveLoad o.f o.ty o.signed i w l bs).map fun z => z.advance i (maskOf (· == l))) else .ok u)
      (s.begun i o.view) (i.lanes (i.en o.view)) = .ok t →
    exec ins s = .next (t.others i (i.en o.view))) ∧
  (∀ (s t : State) (i : Iss) (ins : Instr) (o : MemOp) (ea : Nat → Dword) (x : Nat → Nat),
    storeOp i.rep ins = some o → Ready s i o.view →
    (∀ l ∈ i.lanes (i.en o.view), mAddr (s.begun i o.view) i o.f o.lg l = .ok (ea l) ∧ rdT (s.begun i o.view) i l o.ty o.f.c = .ok (x l)) →
    checkLanes (s.begun i o.view) i { acc := .write, aligned := false, types := anyType } 0x71 (2 ^ o.lg) (i.inTxn (i.en o.view))
      ((i.lanes (i.en o.view)).map fun l => (l, ea l)) = .ok [] →
    prepareStore (s.begun i o.view) i { acc := .write, aligned := false, types := anyType } (2 ^ o.lg) [] = .ok (s.begun i o.view, []) →
    foldE (fun (u : State) l => if (txnOf u i l).active then
        (match txAccess u i 0x71 (2 ^ o.lg) l o.f.hint.toNat (ea l) (some (toLE (2 ^ o.lg) (x l))) with
        | .error e => .error e
        | .ok (w, none) => .ok w
        | .ok (w, some _) => .ok (w.advance i (maskOf (· == l)))) else .ok u)
      (s.begun i o.view) (i.lanes (i.en o.view)) = .ok t →
    exec ins s = .next (t.others i (i.en o.view))) ∧
  (∀ (s : State) (i : Iss) (op n l hint : Nat) (ea : Dword) (store : Option (List Byte)) (p : Place) (acc : Access),
    acc = (if store.isSome then Access.write else Access.read) →
    (sessionSpace ea.toNat = false → txAccess s i op n l hint ea store = .ok (s.abortLane i l 7 op, none)) ∧
    (sessionSpace ea.toNat = true → intra s i l store.isSome (linesMet s i ea n) = [] → txClass s i acc op n ea = .ok p →
      (32 < bandLines s i (linesMet s i ea n) → txAccess s i op n l hint ea store = .ok (s.abortLane i l 3 0, none)) ∧
      (bandLines s i (linesMet s i ea n) ≤ 32 → (store.isSome = true → s.heldFrom i.group (i.self l) (p.holdLines i n) = false ∧
          p.hasContent = false) →
        txAccess s i op n l hint ea store = .ok (txTouch s i l p n hint store, some (txBytes s i l p n))))) ∧
  (∀ (s : State) (i : Iss) (l hint : Nat) (q : Piece) (bs : List Byte),
    s.find? i.group.gid = some (i.core, i.group) → i.band < i.group.bands.length → l < 32 → l < i.bandOf.lanes.length →
    bs.length = q.len → q.pa % 64 = q.va.toNat % 64 →
    (txTouch s i l (.virt [q]) q.len hint (some bs)).phys = s.phys ∧
    txBytes (txTouch s i l (.virt [q]) q.len hint (some bs)) i l (.virt [q]) q.len = bs) ∧
  (∀ (s : State) (i : Iss) (ins : Instr) (v : Iss → View),
    viewOf ins = some v → s.iss? = some i → i.doomed = 0 → i.active ≠ 0 → i.rep = none → (v i).check i = none →
    i.txnBarred (i.en (v i)) (v i).op = i.active →
    exec ins s = .next (s.abortLanes i i.active 7 (v i).op)) ∧
  (∀ (i : Iss) (en : LaneMask) (l : Nat), i.lead = false → l < 32 →
    (i.txnBarred en 0x73).getLsbD l = (en.getLsbD l && (i.group.lane i.band l).txn.active) ∧
    (i.txnBarred en 0x74).getLsbD l = (en.getLsbD l && (i.group.lane i.band l).txn.active)))

/-- The four pushes of the lead stream put a row on the forward queues of one band or of all, where there is room (10 R223, 01
R17, R19).

`POPF` takes the oldest row off the band's queue, and lane l takes its element l; where its guard enables no lane the row is
taken off all the same (10 R223, 07 R138).

`PUSHB` appends an entry of each enabled lane, in ascending lane order, where the back queue has room for all; `POPB` gives
the lead stream the oldest value and its tag (10 R223, 01 R18).

It rests on choices of the model: log entry 34. -/
def Obligations.ForwardAndBackQueues : Prop :=
  (∀ (s : State) (i : Iss) (f : RForm) (row all : Bool) (m : LaneMask), Ready s i (viewPushf f row all) →
    m = (if all then i.group.allBands else maskOf (· == (i.gReg f.b.idx.toNat).toNat % 32)) →
    (all = false → (i.gReg f.b.idx.toNat).toNat % 32 < i.group.bands.length) → i.group.anyFull m = false →
    exec (match row, all with
      | false, false => .pushf f
      | true, false => .pushfRow f
      | false, true => .pushfAll f
      | true, true => .pushfAllRow f) s =
      .next (((s.begun i (viewPushf f row all)).modGroupOn i.core i.group.gid fun g =>
        g.pushRow m (if row then spGetList i.group.g f.a.idx.toNat 32 else List.replicate 32 (i.gReg f.a.idx.toNat))).advance i i.active)) ∧
  ((∀ (s t : State) (i : Iss) (f : RForm) (row : List Dword) (rest : List (List Dword)), Ready s i (viewPopf f) → i.bandOf.fq = row :: rest →
    foldE (fun u l => wrT u i l f.ty f.d (row.getD l 0).toNat)
      ((s.begun i (viewPopf f)).modGroupOn i.core i.group.gid fun g => g.modBand i.band fun b => { b with fq := rest })
      (i.lanes (i.en (viewPopf f))) = .ok t →
    exec (.popf f) s = .next (t.advance i i.active)) ∧
  (∀ (s : State) (i : Iss) (f : RForm) (row : List Dword) (rest : List (List Dword)),
    s.iss? = some i → i.doomed = 0 → i.active ≠ 0 → (viewPopf f).check i = none → i.en (viewPopf f) = 0 →
    (viewPopf f).guardUse.busy i i.active = false → i.bandOf.fq = row :: rest →
    exec (.popf f) s = .next (((s.begun i (viewPopf f)).modGroupOn i.core i.group.gid fun g =>
      g.modBand i.band fun b => { b with fq := rest }).advance i i.active))) ∧
  ((∀ (s : State) (i : Iss) (f : RForm) (x : Nat → Nat), Ready s i (viewPushb f) →
    (∀ l ∈ lanesOf (i.en (viewPushb f)), rdT (s.begun i (viewPushb f)) i l f.ty f.a = .ok (x l)) →
    i.group.bq.length + (lanesOf (i.en (viewPushb f))).length ≤ 64 →
    exec (.pushb f) s = .next (((s.begun i (viewPushb f)).modGroupOn i.core i.group.gid fun g =>
      { g with bq := g.bq ++ (lanesOf (i.en (viewPushb f))).map fun l => (BitVec.ofNat 64 (x l), i.band, l) }).advance i i.active)) ∧
  (∀ (s : State) (i : Iss) (f : RForm) (v : Dword) (b l : Nat) (rest : List (Dword × Nat × Nat)), Ready s i (viewPopb f) →
    i.group.bq = (v, b, l) :: rest →
    exec (.popb f) s = .next (((((s.begun i (viewPopb f)).modGroupOn i.core i.group.gid fun g => { g with bq := rest }).putG i f.d.idx.toNat v).putG
      i (f.d.idx.toNat + 1) (BitVec.ofNat 64 (32 * b + l))).advance i i.active)))

/-- `STREAM.cfg` sets an idle stream from five g registers; `STREAM.go` starts it (10 R224).

Each enabled lane, or the lead stream, issues its own engine command, in ascending lane order: its reply register is in
flight until the engine answers (10 R226 to R231).

It rests on choices of the model: log entry 83. -/
def Obligations.StreamAndEngineCommands : Prop :=
  ((∀ (s : State) (i : Iss) (f : RForm) (x : Stream), Ready s i (viewStream f true) →
    x = streamOf (i.gReg f.a.idx.toNat) (i.gReg (f.a.idx.toNat + 1)) (i.gReg (f.a.idx.toNat + 2)) (i.gReg (f.a.idx.toNat + 3))
      (i.gReg (f.a.idx.toNat + 4)) →
    x.n0 ≠ 0 → x.n1 ≠ 0 → x.n2 ≠ 0 → x.n3 ≠ 0 → bitsOf (i.gReg (f.a.idx.toNat + 4)).toNat 63 16 = 0 →
    bitsOf (i.gReg (f.a.idx.toNat + 4)).toNat 5 0 = 0 → (x.all = false → x.band < i.group.bands.length) →
    (i.group.stream f.c.idx.toNat).running = false →
    exec (.streamCfg f) s = .next (((s.begun i (viewStream f true)).modGroupOn i.core i.group.gid fun g =>
      g.modStream f.c.idx.toNat fun _ => x).advance i i.active)) ∧
  (∀ (s : State) (i : Iss) (f : RForm), Ready s i (viewStream f false) → (i.group.stream f.c.idx.toNat).configured = true →
    (i.group.stream f.c.idx.toNat).running = false →
    exec (.streamGo f) s = .next (((s.begun i (viewStream f false)).modGroupOn i.core i.group.gid fun g =>
      g.modStream f.c.idx.toNat fun y => { y with running := true, pos := 0, row := [], goPc := i.pc, status := .running }).advance i i.active))) ∧
  ((∀ (s : State) (i : Iss) (ins : Instr) (o : EngOp) (a : Nat → Dword) (b : Nat → Word),
    engOp ins = some o → Ready s i o.view →
    (∀ l ∈ i.lanes (i.en o.view), rd2 (s.begun i o.view) i l o.f.a = .ok (a l) ∧
      (if o.hasB then rd1 (s.begun i o.view) i l o.f.b = .ok (b l) else b l = 0)) →
    (s.begun i o.view).inFlight i.core + (i.lanes (i.en o.view)).length ≤ 64 →
    exec ins s = .next (((i.lanes (i.en o.view)).foldl
      (fun t l => t.issueCmd i l (if o.f.reply then some o.f.d else none) 1 (o.kind (a l) (b l)))
      (s.begun i o.view)).advance i i.active)) ∧
  (∀ (s : State) (i : Iss) (ins : Instr) (efn : Nat) (f : EForm) (l : Nat) (a : Dword), collOp ins = some (efn, f) →
    Ready s i (viewColl f) → i.lanes (i.en (viewColl f)) = [l] →
    (let t := (s.begun i (viewColl f)).modGroupOn i.core i.group.gid fun g => { g with collectives := i.group.collectives + 1 }
     rd2 t i l f.a = .ok a → t.inFlight i.core + 1 ≤ 64 →
     exec ins s = .next ((t.issueCmd i l (some f.d) 1 (.start 0xB3 efn a (BitVec.ofNat 32 (i.group.collectives + 1)))).advance i
       i.active))))

/-- `MZERO`, `MCOMMIT`, `MDISCARD` and `MMA` of a whole band go to the matrix engine, where it has room; `MMA` takes its rows of A
and their scales from the scratchpad as it issues; one whose slot holds a record and is not valid puts a reload at the load port
and waits for it (11 R237 to R242, 13 R287, R290). -/
def Obligations.MatrixQueues : Prop :=
  (∀ (s : State) (i : Iss) (f : TForm) (ins : Instr) (v : View) (o : MatOp) (opn : Option (Nat × Bool)),
    (ins = .mzero f ∧ v = viewMzero f ∧ (∃ src dst w, selectTile i f.tile.toNat f.shd = .ok (src, dst, w) ∧
       o = .zero i.group.gid dst ∧ opn = if w then some (f.tile.toNat, true) else none) ∨
     ins = .mcommit f ∧ v = viewResolve f ∧ f.tile.toNat < 16 ∧ f.tile.toNat + 16 < i.launch.desc.acc ∧
       (if i.group.opens.getLsbD f.tile.toNat then
         o = .copy i.group.gid (f.tile.toNat + 16) f.tile.toNat ∧ opn = some (f.tile.toNat, false)
        else o = .none i.group.gid ∧ opn = none) ∨
     ins = .mdiscard f ∧ v = viewResolve f ∧ f.tile.toNat < 16 ∧ f.tile.toNat + 16 < i.launch.desc.acc ∧
       o = .none i.group.gid ∧ opn = (if i.group.opens.getLsbD f.tile.toNat then some (f.tile.toNat, false) else none)) →
    Ready s i v → i.whole → ((s.begun i v).core i.core).mqueue.length < 8 →
    exec ins s = .next (((s.begun i v).queued i o opn).advance i i.active)) ∧
  (∀ (s : State) (i : Iss) (f : TForm) (o : MatOp) (opn : Option (Nat × Bool)),
    (∃ e src dst w,
       let fm := teFmt e
       let k := f.wslot.toNat
       let x := slotAt i k
       let c := (i.gReg f.crd.idx.toNat).toNat
       let la := 128 * tfWidth fm / 8
       let ls := if tfSpan fm = 0 then 0 else tfRec fm * (128 / tfSpan fm)
       let rowA (r : Nat) : Nat := bitsOf c 17 0 + teStride e 1 * r
       let rowS (r : Nat) : Nat := bitsOf c 49 32 + teSstride e * r
       tensor i f.tidA.toNat = .ok e ∧ fm ≠ 12 ∧ k < i.launch.desc.slots ∧
       (x.hasRecord = true → tfInt fm = tfInt x.fmt.toNat ∧ (tfWide x.fmt.toNat = true → k % 2 = 0) ∧ x.valid = true) ∧
       x.loading = false ∧ ((s.begun i (viewMma f)).core i.core).portHolds i.group [k] = false ∧ bitsOf c 17 0 % 16 = 0 ∧ bitsOf c 49 32 % 2 = 0 ∧ (tfSpan fm = 0 → bitsOf c 49 32 = 0) ∧
       bitsOf c 31 18 = 0 ∧ bitsOf c 63 50 = 0 ∧ selectTile i f.tile.toNat f.shd = .ok (src, dst, w) ∧
       (∀ r < 32, rowA r + la ≤ i.group.scratchBytes ∧ (0 < ls → rowS r + ls ≤ i.group.scratchBytes)) ∧
       o = .mma i.group.gid (BitVec.ofNat 5 fm) ((List.range 32).map fun r => spGetList i.group.scratch (rowA r) la)
         ((List.range 32).map fun r => spGetList i.group.scratch (rowS r) ls) src dst k ∧
       opn = if w then some (f.tile.toNat, true) else none) →
    Ready s i (viewMma f) → i.whole → ((s.begun i (viewMma f)).core i.core).mqueue.length < 8 →
    exec (.mma f) s = .next ((((s.begun i (viewMma f)).queued i o opn).advance i (i.en (viewMma f))).others i (i.en (viewMma f)))) ∧
  (∀ (s : State) (i : Iss) (f : TForm) (e : Nat) (sdw : Nat × Nat × Bool),
    (let fm := teFmt e
     let k := f.wslot.toNat
     let x := slotAt i k
     let c := (i.gReg f.crd.idx.toNat).toNat
     let la := 128 * tfWidth fm / 8
     let ls := if tfSpan fm = 0 then 0 else tfRec fm * (128 / tfSpan fm)
     tensor i f.tidA.toNat = .ok e ∧ fm ≠ 12 ∧ k < i.launch.desc.slots ∧ x.hasRecord = true ∧ x.valid = false ∧
     tfInt fm = tfInt x.fmt.toNat ∧ (tfWide x.fmt.toNat = true → k % 2 = 0) ∧
     x.loading = false ∧ ((s.begun i (viewMma f)).core i.core).portHolds i.group [k] = false ∧
     bitsOf c 17 0 % 16 = 0 ∧ bitsOf c 49 32 % 2 = 0 ∧ (tfSpan fm = 0 → bitsOf c 49 32 = 0) ∧
     bitsOf c 31 18 = 0 ∧ bitsOf c 63 50 = 0 ∧ selectTile i f.tile.toNat f.shd = .ok sdw ∧
     (∀ r < 32, bitsOf c 17 0 + teStride e 1 * r + la ≤ i.group.scratchBytes ∧
       (0 < ls → bitsOf c 49 32 + teSstride e * r + ls ≤ i.group.scratchBytes))) →
    Ready s i (viewMma f) → i.whole →
    exec (.mma f) s = .next ((((s.begun i (viewMma f)).joinPort i f.wslot.toNat true).modLanes i (i.en (viewMma f)) fun _ y =>
      { y with wait := .reload f.wslot.toNat }).others i (i.en (viewMma f))))

/-- `MLOADB` of a whole band takes its place at the load port where no instruction reads the slots it changes; `MDRAIN` goes to the
matrix engine once its rows may be stored, and each of its rows' lanes draws once for every element under stochastic rounding
(11 R236, R237, R243, R244). -/
def Obligations.MatrixLoadsAndDrains : Prop :=
  (∀ (s : State) (i : Iss) (f : TForm) (e : Nat) (d : SlotData), Ready s i (viewMloadb f) → i.whole →
    tensor i f.tidB.toNat = .ok e →
    (let fm := teFmt e
     let j := f.wslot.toNat
     let c := coords i f.crd.idx.toNat
     let b := s.begun i (viewMloadb f)
     fm ≠ 12 → j < i.launch.desc.slots → (tfWide fm = true → j % 2 = 0 ∧ j + 1 < i.launch.desc.slots) →
     (tfSpan fm ≠ 0 → c.1 % tfSpan fm = 0) → c.2.2.1 < teSize e 2 → c.2.2.2 < teSize e 3 →
     (b.core i.core).slotsFree i.group (slotsChanged i.group fm j) = true →
     slotData b i e c.1 c.2.1 c.2.2.1 c.2.2.2 = .ok d →
     exec (.mloadb f) s = .next (((b.fillLoad i j e c.1 c.2.1 c.2.2.1 c.2.2.2 d).joinPort i j false).advance i i.active))) ∧
  (∀ (s s1 : State) (i : Iss) (f : TForm) (e es : Nat) (as : List Acc), Ready s i (viewMdrain f) → i.whole →
    tensor i f.tidA.toNat = .ok e →
    (let fm := teFmt e
     let c := coords i f.crd.idx.toNat
     let c2 := (i.gReg (f.crd.idx.toNat + 2)).toNat
     let b := s.begun i (viewMdrain f)
     let n := min 64 (teSize e 0 - c.1)
     (if tfSpan fm = 0 then es = e ∧ f.tidB = 0
      else tensor i f.tidB.toNat = .ok es ∧ teFmt es = fm ∧ teNdim es = teNdim e ∧ (∀ d < 4, teSize es d = teSize e d) ∧
        c.1 % tfSpan fm = 0) →
     f.tile.toNat < i.launch.desc.acc → (fm = 0 → c.1 % 2 = 0) → c.2.2.1 < teSize e 2 → c.2.2.2 < teSize e 3 →
     bitsOf c2 63 32 = 0 → (fm = 12 → f.rnd = 0) → (b.core i.core).mqueue.length < 8 →
     drainPrepare b i e es c.1 c.2.1 c.2.2.1 c.2.2.2 n = .ok (s1, as) → (s1.core i.core).mqueue.length < 8 →
     (let rows : List DrainRow := (List.range 32).filterMap fun r => match as.filter fun a => a.lane == r with
        | [a, b] => some { row := r, elems := a.place.spans, scales := b.place.spans }
        | _ => none
      let s2 := if f.rnd == 5 then s1.modLanes i (maskOf fun l => rows.any fun r => r.row == l) fun _ x =>
        { x with dcount := x.dcount + BitVec.ofNat 32 n } else s1
      exec (.mdrain f) s = .next ((s2.queued i (.drain i.group.gid i.band f.tile.toNat (BitVec.ofNat 512 e) c.1 n
        (BitVec.ofNat 32 (bitsOf c2 31 0)) f.rnd ((List.range 32).map fun l => ((i.group.lane i.band l).dseed, (i.group.lane i.band l).dcount))
        rows) none).advance i i.active))))

/-- `TTLD` reads a valid record of 64 bytes into the session's tensor table, `TTST` stores an entry, and `TTINV` clears an entry's
valid bit; the first and the last not in a versioned launch (11 R246). -/
def Obligations.TensorTable : Prop :=
  (∀ (s : State) (i : Iss) (f : RForm) (p : Place), Ready s i (viewTtld f) → i.whole → i.launch.desc.versioned = false →
    ttPlace (s.begun i (viewTtld f)) i .read (i.gReg f.a.idx.toNat) = .ok p →
    (let v := leNat ((s.begun i (viewTtld f)).bytesAt i.sess i.group.gid p 64)
     entryOk v = true →
     exec (.ttld f) s = .next (((s.begun i (viewTtld f)).modSession i.sess.slot fun x =>
       { x with tensors := spSet x.tensors f.d.idx.toNat (BitVec.ofNat 512 v) }).advance i i.active))) ∧
  (∀ (s s1 : State) (i : Iss) (f : RForm) (p q : Place), Ready s i (viewTtst f) → i.whole →
    ttPlace (s.begun i (viewTtst f)) i .write (i.gReg f.a.idx.toNat) = .ok p →
    prepareStore (s.begun i (viewTtst f)) i { acc := .write, aligned := true, types := matTypes } 64
      [{ lane := 0, ea := i.gReg f.a.idx.toNat, place := p }] = .ok (s1, [{ lane := 0, ea := i.gReg f.a.idx.toNat, place := q }]) →
    exec (.ttst f) s = .next (((s1.putAt i.sess i.group.gid (i.self 0) q
      (toLE 64 (spGet i.sess.tensors f.b.idx.toNat).toNat)).sign i.group.gid q false true).advance i i.active)) ∧
  (∀ (s : State) (i : Iss) (f : RForm), Ready s i (viewTtinv f) → i.whole → i.launch.desc.versioned = false →
    exec (.ttinv f) s = .next (((s.begun i (viewTtinv f)).modSession i.sess.slot fun x =>
      { x with tensors := spSet x.tensors f.d.idx.toNat (spGet x.tensors f.d.idx.toNat &&& ~~~ (1 : BitVec 512)) }).advance i i.active))

/-- The reservoir instructions complete for every enabled lane with the reservoirs and results of 11 R248 to R253.

A candidate streamed into a reservoir adds its clean weight to the sum, its multiplicity to M up to 65535, counts one draw, and
takes the reservoir, payload and target value, where it is selected, that is where rne(U · 2^−24 · ws) is below its weight, ws being
the new sum and a weight of 0 never selected; otherwise both stand. Cleaning leaves positive finite weights as they are and gives +0
for −0, negative values and NaN, and the largest finite number for +∞. `RSVGET` and `RSVPUT` move each field's raw bits: what is put
is got (11 R247, R250, R253). -/
def Obligations.Reservoirs : Prop :=
  (∀ (s t : State) (i : Iss) (f : RForm) (ins : Instr) (v : View) (upd : State → Nat → Except Halt State),
    Ready s i v →
    (let b := s.begun i v
     let ls := i.lanes (i.en v)
     let seed (l : Nat) : Dword := (i.group.lane i.band l).dseed
     (ins = .rsvinit f ∧ v = viewRsvinit f ∧ upd = (fun u l => .ok (setRsv u i l f.d
        { payload := 0, wsum := 0, phat := 0, w := 0, m := 0, dctr := (rsvOf i l f.d).dctr })) ∨
      ins = .rsvseed f ∧ v = viewRsvseed f ∧ (∃ (a : Nat → Dword) (c : Nat → Word),
        (∀ l ∈ ls, rd2 b i l f.a = .ok (a l) ∧ rd1 b i l f.b = .ok (c l)) ∧
        upd = (fun u l => .ok ((setRsv u i l f.d { rsvOf i l f.d with dctr := (c l).setWidth 16 }).modLanes i (maskOf (· == l))
          fun _ x => { x with dseed := a l }))) ∨
      ins = .rsvupd f ∧ v = viewRsvupd f ∧ (∃ (a : Nat → Dword) (p w : Nat → Word),
        (∀ l ∈ ls, rd2 b i l f.a = .ok (a l) ∧ rd1 b i l f.b = .ok (p l) ∧ rd1 b i l f.c = .ok (w l)) ∧
        upd = (fun u l => .ok (setRsv u i l f.d ((rsvOf i l f.d).stream (seed l) (cleanW (w l)) 1 (a l) (p l))))) ∨
      ins = .rsvmrg f ∧ v = viewRsvmrg f ∧ (∃ (p c : Nat → Word),
        (∀ l ∈ ls, rd1 b i l f.b = .ok (p l) ∧ rd1 b i l f.c = .ok (c l)) ∧
        upd = (fun u l =>
          let a := rsvOf i l f.a
          let mc := min a.m.toNat ((c l).toNat % 65536)
          .ok (setRsv u i l f.d ((rsvOf i l f.d).stream (seed l)
            (cleanW (rne (fmulX (fmulX (f32 (p l)) (f32 a.w)).v (.fin false mc 0 false)).v)) mc a.payload (p l))))) ∨
      ins = .rsvfin f ∧ v = viewRsvfin f ∧ upd = (fun u l => .ok (setRsv u i l f.d { rsvOf i l f.d with w := (rsvOf i l f.d).finish })) ∨
      (∃ x, ins = .rsvget x f ∧ v = viewRsvget x f ∧ upd = (fun u l => wrT u i l f.ty f.d ((rsvOf i l f.a).get x))) ∨
      (∃ x, ins = .rsvput x f ∧ v = viewRsvput x f ∧ ∃ a : Nat → Nat, (∀ l ∈ ls, rdT b i l f.ty f.a = .ok (a l)) ∧
        upd = (fun u l => .ok (setRsv u i l f.d ((rsvOf i l f.d).set x (a l)))))) →
     foldE upd b ls = .ok t → exec ins s = .next (t.advance i i.active))) ∧
  (∀ (r : Rsv) (seed : Dword) (w phat : Word) (n : Nat) (payload : Dword),
    (r.stream seed w n payload phat).wsum = rne (faddX false (f32 r.wsum) (f32 w)).v ∧
    (r.stream seed w n payload phat).m.toNat = min (r.m.toNat + n) 65535 ∧
    (r.stream seed w n payload phat).dctr = r.dctr + 1 ∧ (r.stream seed w n payload phat).w = r.w ∧
    (let ws := rne (faddX false (f32 r.wsum) (f32 w)).v
     let u := (drawFn seed r.dctr.toNat).toNat / 2 ^ 40
     let take := selected u ws w
     (r.stream seed w n payload phat).payload = (if take then payload else r.payload) ∧
     (r.stream seed w n payload phat).phat = (if take then phat else r.phat) ∧
     (w = 0 → take = false) ∧
     (u ≠ 0 → (f32 ws).isZero = false → (f32 w).isZero = false →
       take = (let p := fmtF32.decode (rneF32 (fmulX (.fin false u (-24) false) (f32 ws)).v)
         !p.isNan && decide (fcmpX p (f32 w) < 0)))) ∧
    cleanW 0x80000000 = 0 ∧ cleanW 0xFF800000 = 0 ∧ cleanW 0x7FC00000 = 0 ∧ cleanW 0x7F800000 = 0x7F7FFFFF ∧ cleanW 0xBF800000 = 0 ∧
    cleanW 0x3F800000 = 0x3F800000 ∧
    (∀ v < 2 ^ 64, (r.set .payload v).get .payload = v) ∧
    (∀ v < 2 ^ 32, (r.set .wsum v).get .wsum = v ∧ (r.set .phat v).get .phat = v ∧ (r.set .w v).get .w = v ∧
      (r.set .m v).get .m = v % 2 ^ 16 ∧ (r.set .dctr v).get .dctr = v % 2 ^ 16) ∧
    Rsv.ofBits r.toBits = r)

/-- The compositing instructions complete for every enabled lane with the accumulators, log records and results of 11 R258 to
R262. -/
def Obligations.CompositingResults : Prop :=
  ∀ (s t : State) (i : Iss) (f : RForm) (ins : Instr) (v : View) (upd : State → Nat → Except Halt State),
    Ready s i v →
    (let b := s.begun i v
     let ls := i.lanes (i.en v)
     let thr := i.launch.desc.compThr
     (ins = .cainit f ∧ v = viewCainit f ∧ (∃ a : Nat → Word, (∀ l ∈ ls, rd1 b i l f.a = .ok (a l)) ∧
        upd = (fun u l => .ok (setComp u i l f.d (Comp.init ((a l).getLsbD 0 && i.launch.desc.compLog.isSome))))) ∨
      ins = .caadd f ∧ v = viewCaadd f ∧ (∃ (z : Nat → Word) (c : Nat → List Word),
        (∀ l ∈ ls, rd1 b i l f.a = .ok (z l) ∧ rdRun b i l f.b 4 = .ok (c l)) ∧
        upd = (fun u l => .ok (logComp i l f.d u ((compOf i l f.d).add thr (hasRecord i l f.d) (z l) (c l))))) ∨
      ins = .caflush f ∧ v = viewCaflush f ∧
        upd = (fun u l => .ok (logComp i l f.d u ((compOf i l f.d).flush thr (hasRecord i l f.d)))) ∨
      ins = .caresolve f ∧ v = viewCaresolve f ∧ upd = (fun u l =>
        let r := (compOf i l f.a).flush thr (hasRecord i l f.a)
        wrRun (logComp i l f.a u r) i l f.d 0 [r.1.cr, r.1.cg, r.1.cb, r.1.t]) ∨
      ins = .careplay f ∧ v = viewCareplay f ∧ (∃ c : Nat → List Word, (∀ l ∈ ls, rdRun b i l f.b 4 = .ok (c l)) ∧
        upd = (fun u l =>
          let r := (compOf i l f.a).replay
            (leNat (spGetList i.group.scratch (recordAt i l f.a.idx.toNat ((compOf i l f.a).term - 1)) 8)) ((c l).take 3) ((c l).getD 3 0)
          wrRun (setComp u i l f.a r.1) i l f.d 0 r.2)) ∨
      ins = .castat f ∧ v = viewCastat f ∧ upd = (fun u l => wr1 u i l .f32 f.d (BitVec.ofNat 32 (compOf i l f.a).stat))) →
     foldE upd b ls = .ok t → exec ins s = .next (t.advance i i.active))

/-- `FETCHWK` clears the STATUS word of every enabled lane's mailbox and leaves its request; `PQPUSH` and `WLPUSH` push, at once or
kept with a task's version, and `PQPOP` and `WLPOP` leave requests whose results are in flight (12 R266 to R270).

`QUIESCE` answers 1 at once where the launch's verdict stands and 0 where a list of it holds an item; otherwise the unit waits
for the verdict (12 R271). -/
def Obligations.WorkRequests : Prop :=
  ((∀ (s : State) (i : Iss) (f : MForm) (ea : Nat → Dword) (o : Nat → Nat), Ready s i (viewFetchwk f) → i.launch.desc.versioned = false →
    (∀ l ∈ i.lanes (i.en (viewFetchwk f)), mAddr (s.begun i (viewFetchwk f)) i f 0 l = .ok (ea l) ∧ mailbox i (ea l) = .ok (o l)) →
    exec (.fetchwk f) s = .next (((i.lanes (i.en (viewFetchwk f))).foldl (fun (t : State) l =>
      { t.modGroupOn i.core i.group.gid (fun g => { g with scratch := spSetList g.scratch (o l) (toLE 4 0) }) with
        fetches := t.fetches ++ [{ session := i.sess.slot, gid := i.group.gid, off := o l }] }) (s.begun i (viewFetchwk f))).advance i
      i.active)) ∧
  (∀ (s t : State) (i : Iss) (f : RForm) (k v : Nat → Word), Ready s i (viewPqpush f) → i.launch.desc.workSource = 2 →
    (∀ l ∈ i.lanes (i.en (viewPqpush f)), rd1 (s.begun i (viewPqpush f)) i l f.a = .ok (k l) ∧
      rd1 (s.begun i (viewPqpush f)) i l f.b = .ok (v l)) →
    foldE (fun (t : State) l =>
      if i.holds then wr1 (t.hold i (.pq (dieOf i.core) (k l) (v l))) i l .b32 f.d (replyWord 1 0)
      else if (t.pq.filter fun e => e.die == dieOf i.core).length < 65536 then
        wr1 { t with pq := t.pq ++ [⟨dieOf i.core, i.sess.slot, i.launch.number, k l, v l⟩] } i l .b32 f.d (replyWord 1 0)
      else wr1 t i l .b32 f.d (replyWord 0 5)) (s.begun i (viewPqpush f)) (i.lanes (i.en (viewPqpush f))) = .ok t →
    exec (.pqpush f) s = .next (t.advance i i.active)) ∧
  (∀ (s : State) (i : Iss) (f : RForm), Ready s i (viewPqpop f) → i.launch.desc.workSource = 2 → i.launch.desc.versioned = false →
    exec (.pqpop f) s = .next (((i.lanes (i.en (viewPqpop f))).foldl (fun (t : State) l =>
      { t.awaits (i.dest l f.d) (if i.lead then 1 else 2) (some f.c.idx.toNat) with
        pops := t.pops ++ [⟨dieOf i.core, i.sess.slot, i.launch.number, i.core, i.dest l f.d, f.c.idx.toNat, false⟩] })
      (s.begun i (viewPqpop f))).advance i i.active)) ∧
  (∀ (s t : State) (i : Iss) (f : RForm) (k : Nat → Word) (x : Nat → List Word), Ready s i (viewWlpush f) →
    (∀ l ∈ i.lanes (i.en (viewWlpush f)), rd1 (s.begun i (viewWlpush f)) i l f.a = .ok (k l) ∧
      itemOf (s.begun i (viewWlpush f)) i l f.b = .ok (x l)) →
    foldE (fun (t : State) l =>
      if i.holds then wr1 (t.hold i (.wl ((k l).toNat % 65536) (x l))) i l .b32 f.d (replyWord 1 0)
      else .ok (t.issueCmd i l (some f.d) 1 (.wlpush ((k l).toNat % 65536) (x l)))) (s.begun i (viewWlpush f))
      (i.lanes (i.en (viewWlpush f))) = .ok t →
    exec (.wlpush f) s = .next (t.advance i i.active)) ∧
  (∀ (s : State) (i : Iss) (f : RForm) (k : Nat → Word), Ready s i (viewWlpop f) → i.launch.desc.versioned = false →
    (∀ l ∈ i.lanes (i.en (viewWlpop f)), rd1 (s.begun i (viewWlpop f)) i l f.a = .ok (k l)) →
    exec (.wlpop f) s = .next (((i.lanes (i.en (viewWlpop f))).foldl (fun t l =>
      t.issueCmd i l (some f.d) (if i.lead then 3 else 5) (.wlpop ((k l).toNat % 65536))) (s.begun i (viewWlpop f))).advance i i.active))) ∧
  (∀ (s t : State) (i : Iss) (f : RForm), Ready s i (viewQuiesce f) → i.launch.desc.versioned = false →
    (i.launch.quiescent = true ∨ (∃ w ∈ i.launch.lists, w.head ≠ w.tail) →
      foldE (fun u l => wr1 u i l .b32 f.d (if i.launch.quiescent then 1 else 0)) (s.begun i (viewQuiesce f))
        (i.lanes (i.en (viewQuiesce f))) = .ok t →
      exec (.quiesce f) s = .next (t.advance i i.active)) ∧
    (i.launch.quiescent = false → (∀ w ∈ i.launch.lists, w.head = w.tail) →
      exec (.quiesce f) s = .next ((s.begun i (viewQuiesce f)).block i (.quiesce f.d (i.en (viewQuiesce f))))))

/-- `TEX`, `TEX.wait` and `TLD` complete when every enabled lane is answered: four texel words, and for the first two the mask of
the lanes that fell back to a coarser level; the pages that fell back are streamed, and the descriptor read is noted for a task. An instruction that has waited for pages
works with the descriptor and the operands it read when it issued (12 R272 to R274; 14 R302 to R309).

`RAYQ` gives every enabled lane a ray of the structure and its lowest free handle; `RAYRES` collects rays that are traversed,
and frees their handles (12 R275, R276, 14 R310).

It rests on choices of the model: log entries 9, 49. -/
def Obligations.TexturesAndRays : Prop :=
  (∀ (s t : State) (i : Iss) (f : RForm) (ins : Instr) (v : View) (k : Option Nat) (lane : State → Iss → Tex → List Word → Except Trap TexLane)
    (d0 : Nat) (d : Nat → Nat) (x : Nat → List Word) (c : Nat → List Word) (b : Nat → Bool) (ps as : Nat → List Nat),
    (ins = .tex f ∧ v = viewTex f ∧ k = some f.c.idx.toNat ∧ lane = (fun s i t => with3 (texLane s i t false)) ∨
     ins = .texWait f ∧ v = viewTex f ∧ k = some f.c.idx.toNat ∧ lane = (fun s i t => with3 (texLane s i t true)) ∨
     ins = .tld f ∧ v = viewTld f ∧ k = none ∧ lane = (fun s i t => with3 (tldLane s i t))) →
    Ready s i v → (readDesc (s.begun i v) i (i.en v) f.b = .ok d0 ∧ texOk d0 = true ∨
      ∀ l ∈ i.lanes (i.en v), (i.group.lane i.band l).tex.isSome = true) →
    (∀ l ∈ i.lanes (i.en v), (match (i.group.lane i.band l).tex with
        | some h => d l = h.1.toNat ∧ x l = h.2.1
        | none => d l = d0 ∧ rdRun (s.begun i v) i l f.a 3 = .ok (x l)) ∧
      (if (s.begun i v).texFailed (i.ref l) then c l = [0, 0, 0, 0] ∧ b l = true ∧ ps l = [] ∧ as l = []
       else lane (s.begun i v) i (texOf (d l)) (x l) = .ok (.done (c l) (b l) (ps l) (as l)))) →
    foldE (fun (u : State) l => (wrRun ((as l).foldl (fun q a => noteRead q i a (texOf (d l)).size) u) i l f.d 0 (c l)).map fun w =>
      match k with
      | some n => w.wrK i l n (b l)
      | none => w)
      ((i.lanes (i.en v)).foldl (fun u l => startStreams u i.sess (texOf (d l)) (ps l))
        (if (i.lanes (i.en v)).all fun l => (i.group.lane i.band l).tex.isSome then s.begun i v else noteDesc (s.begun i v) i f.b))
      (i.lanes (i.en v)) = .ok t →
    exec ins s = .next (((t.texEnd i).texForget ((i.lanes (i.en v)).map i.ref)).advance i i.active)) ∧
  ((∀ (s t : State) (i : Iss) (f : RForm) (d : Nat) (q : Nat → List Word) (fl : Nat → Word) (h : Nat → Nat), Ready s i (viewRayq f) →
    readDesc (s.begun i (viewRayq f)) i (i.en (viewRayq f)) f.b = .ok d → accelOk d = true →
    (∀ l ∈ i.lanes (i.en (viewRayq f)), rdRun (s.begun i (viewRayq f)) i l f.a 8 = .ok (q l) ∧
      rd1 (s.begun i (viewRayq f)) i l f.c = .ok (fl l) ∧ freeHandle (i.group.lane i.band l) = some (h l) ∧ fl l &&& 0xFFFF00FC = 0) →
    foldE (fun (u : State) l => wr1 (u.modLanes i (maskOf (· == l)) fun _ x =>
        { x with rays := x.rays ++ [⟨h l, q l, fl l, BitVec.ofNat 64 (fld d 0 64), BitVec.ofNat 64 (fld d 8 64), fld d 16 16, none⟩] })
      i l .b32 f.d (BitVec.ofNat 32 (h l))) (noteDesc (s.begun i (viewRayq f)) i f.b) (i.lanes (i.en (viewRayq f))) = .ok t →
    exec (.rayq f) s = .next (t.advance i i.active)) ∧
  (∀ (s t : State) (i : Iss) (f : RForm) (a : Nat → Word) (r : Nat → Ray) (res : Nat → RayResult), Ready s i (viewRayres f) →
    (∀ l ∈ i.lanes (i.en (viewRayres f)), rd1 (s.begun i (viewRayres f)) i l f.a = .ok (a l) ∧
      (i.group.lane i.band l).rays.find? (fun r => r.handle == (a l).toNat) = some (r l) ∧ (r l).result = some (res l) ∧
      (r l).trap = none) →
    foldE (fun (u : State) l => wrRun (u.modLanes i (maskOf (· == l)) fun _ y =>
        { y with rays := y.rays.filter fun x => x.handle != (r l).handle }) i l f.d 0 (res l).words)
      (s.begun i (viewRayres f)) (i.lanes (i.en (viewRayres f))) = .ok t →
    exec (.rayres f) s = .next (t.advance i i.active)))

/-- `EMIT` of records of a legal size sends each enabled lane's record in ascending lane order, its status word in flight until
the record is taken up, or keeps it with a task's version; `ATLASREQ` settles
every enabled lane's request or leaves it waiting, and the unit moves on when none waits (12 R277, R278, 14 R301, R314).

It rests on choices of the model: log entry 49. -/
def Obligations.RecordsAndRequests : Prop :=
  (∀ (s t : State) (i : Iss) (f : RForm) (a : Nat → Word) (o : Nat → Nat), Ready s i (viewEmit f) →
    (let g := (i.gReg f.b.idx.toNat).toNat
     let size := bitsOf g 31 16
     bitsOf g 63 32 = 0 → 16 ≤ size → size ≤ 1024 → size % 16 = 0 →
     (∀ l ∈ i.lanes (i.en (viewEmit f)), rd1 (s.begun i (viewEmit f)) i l f.a = .ok (a l) ∧ recordPlace i size (a l) = .ok (o l)) →
     foldE (fun (u : State) l =>
       if i.holds then wr1 (u.hold i (.emit (bitsOf g 15 0) (spGetList i.group.scratch (o l) size))) i l .b32 f.d (replyWord 1 0)
       else .ok (sendRecord u i f.d l (bitsOf g 15 0) (spGetList i.group.scratch (o l) size))) (s.begun i (viewEmit f))
       (i.lanes (i.en (viewEmit f))) = .ok t →
     exec (.emit f) s = .next (t.advance i i.active))) ∧
  (∀ (s s1 t : State) (i : Iss) (f : RForm) (v : Nat) (a : Nat → Word) (as as1 : List Acc) (w : Bool), Ready s i (viewAtlasreq f) →
    i.launch.desc.versioned = false → readDesc (s.begun i (viewAtlasreq f)) i (i.en (viewAtlasreq f)) f.b = .ok v → texOk v = true →
    fld v 52 16 < i.launch.desc.outputs →
    (∀ l ∈ i.lanes (i.en (viewAtlasreq f)), rd1 (s.begun i (viewAtlasreq f)) i l f.a = .ok (a l)) →
    (let reqs : List (Nat × Option AtlasReq) := (i.lanes (i.en (viewAtlasreq f))).map fun l =>
       let bx := (a l).toNat % 65536
       let by_ := (a l).toNat / 65536
       (l, if bx < ((texOf v).w + 7) / 8 ∧ by_ < ((texOf v).h + 7) / 8 then
         some ⟨l, BitVec.ofNat 64 (i.launch.desc.outBase.toNat + 64 * fld v 52 16),
           BitVec.ofNat 64 (fld v 40 64 + 4 * (by_ * (((texOf v).w + 7) / 8) + bx)),
           BitVec.ofNat 128 (bx + by_ * 2 ^ 16 + fld v 48 32 % 2 ^ 30 * 2 ^ 32 + (i.gReg f.b.idx.toNat).toNat * 2 ^ 64)⟩ else none)
     let nd : Need := { acc := .atomic, aligned := true, types := atomTypes }
     checkAll (s.begun i (viewAtlasreq f)) i nd 4 (reqs.filterMap fun r => r.2.map fun q => (r.1, q.word)) = .ok as →
     prepareStore (s.begun i (viewAtlasreq f)) i nd 4 as = .ok (s1, as1) →
     atlasAll f i reqs (s1.modLanes i (i.active &&& ~~~ (i.en (viewAtlasreq f))) fun _ y => { y with wait := .atlasDone }) false =
       .ok (t, w) →
     exec (.atlasreq f) s = .next (t.modGroupOn i.core i.group.gid fun g => g.modBand i.band fun b => b.atlasRelease i.pc)))

/-- `TRAP n` and `BRKPT` take a software trap of the unit: subcode 0 with n as ADDR, and subcode 1 (12 R279).

`RDSR` writes every enabled lane's view of the special register; `WRSR` writes a register held per thread of every enabled lane,
or one of the session's (12 R280 to R282, 03 R66, 20 R338; entry 16).

It rests on choices of the model: log entries 16, 52, 56. -/
def Obligations.SoftwareTrapsAndSpecialRegisters : Prop :=
  ((∀ (s : State) (i : Iss) (f : IForm), Ready s i (viewTrap f) →
    exec (.trap f) s = .next ((s.begun i (viewTrap f)).takeTrap i (i.en (viewTrap f)) ((mkTrap 0x0F 0).at (f.imm.setWidth 64)))) ∧
  (∀ (s : State) (i : Iss) (f : RForm), Ready s i (viewBrkpt f) →
    exec (.brkpt f) s = .next ((s.begun i (viewBrkpt f)).takeTrap i (i.en (viewBrkpt f)) (mkTrap 0x0F 1)))) ∧
  ((∀ (s t : State) (i : Iss) (f : IForm), Ready s i (viewRdsr f i.lead) →
    foldE (fun (u : State) l =>
      let v := readSr (s.begun i (viewRdsr f i.lead)) i l (srIndex f) (i.gReg f.a.idx.toNat).toNat
      if srWide (srIndex f) then wr2 u i l f.d (BitVec.ofNat 64 v) else wr1 u i l .b32 f.d (BitVec.ofNat 32 v))
      (s.begun i (viewRdsr f i.lead)) (i.lanes (i.en (viewRdsr f i.lead))) = .ok t →
    exec (.rdsr f) s = .next (t.advance i i.active)) ∧
  (∀ (s : State) (i : Iss) (f : IForm) (x : Nat → Nat), Ready s i (viewWrsr f) →
    (∀ l ∈ i.lanes (i.en (viewWrsr f)), srLimit (srIndex f) (x l) = true ∧
      (if srWide (srIndex f) then (rd2 (s.begun i (viewWrsr f)) i l f.a).map (·.toNat) = .ok (x l)
       else (rd1 (s.begun i (viewWrsr f)) i l f.a).map (·.toNat) = .ok (x l))) →
    (srPriv (srIndex f) = false →
      exec (.wrsr f) s = .next (((i.lanes (i.en (viewWrsr f))).foldl (fun t l => t.modLanes i (maskOf (· == l)) fun _ y =>
        y.writeSr (srIndex f) (x l)) (s.begun i (viewWrsr f))).advance i i.active)) ∧
    (srPriv (srIndex f) = true → ∃ l ∈ i.lanes (i.en (viewWrsr f)),
      exec (.wrsr f) s = .next (((s.begun i (viewWrsr f)).fresh.2.writeSession i.sess.slot (srIndex f) (x l)).advance i i.active))))

/-- `TRET` in a handler restores each lane of the unit from its trap frame (mask registers, flags, window, PC and repeat state),
in user state, and applies the action to the unit: 0 the resume rule of the trap, 1 the next instruction, 2 the lanes that acted end
(12 R283, 20 R344, R345). The lanes that take part hold one action.

It rests on choices of the model: log entry 17. -/
def Obligations.HandlerReturns : Prop :=
  ∀ (s : State) (i : Iss) (f : RForm) (action : Nat) (fr : Nat → TrapFrame) (fill : Nat → Nat × List Word), Ready s i (viewTret f) →
    i.lead = false → action ≤ 2 →
    (let b := s.begun i (viewTret f)
     let en := i.en (viewTret f)
     let l0 := (lanesOf en).headD 0
     let unit := handled i.bandOf l0
     (∀ l ∈ lanesOf en, (i.bandOf.lane l).frame = some (fr l) ∧ (rd1 b i l f.a).map (·.toNat) = .ok action) →
     (∀ l ∈ lanesOf unit, (i.bandOf.lane l).frame = some (fr l) ∧
       tretFill b i l (fr l) = .ok (l, (i.group.lane i.band l).base + (i.group.lane i.band l).size, fr l, fill l)) →
     exec (.tret f) s = .next (((lanesOf unit).foldl (fun (t : State) l =>
         deadFill (t.modLanes i (maskOf (· == l)) fun _ x => x.restore (fr l) (fill l).1 (fill l).2) i l
           ((i.group.lane i.band l).base + (i.group.lane i.band l).size) ((fr l).base + (fr l).size)) b.fresh.2).resumeUnit i.group
       (.lanes i.band unit) { mkTrap (fr l0).code.toNat 0 with acted := (fr l0).lanes } action))

/-- `TLBINV`, `CFLUSH`, whose reach 2 writes back what the core's die holds dirty on RC and SQ pages first, and `FORK` of a privileged
stream act lane after lane; a `FORK` gives each lane the new session's slot, or why
none was made (12 R284 to R286, 25 R430).

It rests on choices of the model: log entries 18, 19, 46. -/
def Obligations.PrivilegedServices : Prop :=
  (∀ (s : State) (i : Iss) (f : RForm) (a : Nat → Dword) (b : Nat → Word), Ready s i (viewTlbinv f) →
    (∀ l ∈ i.lanes (i.en (viewTlbinv f)), rd2 (s.begun i (viewTlbinv f)) i l f.a = .ok (a l) ∧
      rd1 (s.begun i (viewTlbinv f)) i l f.b = .ok (b l) ∧ (b l).toNat % 4 ≠ 3 ∧ (b l).toNat / 4 % 2 ^ 14 = 0 ∧ (b l).toNat / 65536 ≤ 127) →
    exec (.tlbinv f) s = .next (((i.lanes (i.en (viewTlbinv f))).foldl (fun (t : State) l =>
      t.tlbInv ((b l).toNat % 4) ((b l).toNat / 65536) ((a l).toNat % 2 ^ 48)) (s.begun i (viewTlbinv f))).advance i i.active)) ∧
  (∀ (s : State) (i : Iss) (f : RForm) (a : Nat → Dword) (b : Nat → Word), Ready s i (viewCflush f) →
    (∀ l ∈ i.lanes (i.en (viewCflush f)), rd2 (s.begun i (viewCflush f)) i l f.a = .ok (a l) ∧
      rd1 (s.begun i (viewCflush f)) i l f.b = .ok (b l) ∧ (b l).toNat % 4 ≠ 3 ∧ (b l).toNat / 4 % 4 ≠ 3 ∧ (b l).toNat < 16) →
    exec (.cflush f) s = .next (((i.lanes (i.en (viewCflush f))).foldl (fun (t : State) l =>
      (if (b l).toNat / 4 % 4 = 2 then (t.writeType 0 i.core).writeType 1 i.core else t).flush i.core ((b l).toNat % 4) ((b l).toNat / 4 % 4) ((a l).toNat / 4096)) (s.begun i (viewCflush f))).advance i i.active)) ∧
  (∀ (s t : State) (i : Iss) (f : RForm) (a : Nat → Dword) (b : Nat → Word), Ready s i (viewFork f) →
    (∀ l ∈ i.lanes (i.en (viewFork f)), rd2 (s.begun i (viewFork f)) i l f.a = .ok (a l) ∧
      rd1 (s.begun i (viewFork f)) i l f.b = .ok (b l) ∧ (b l).toNat ≤ 127) →
    foldE (fun (u : State) l => wr1 (u.fork i.sess (a l).toNat (b l).toNat).1 i l .b32 f.d (u.fork i.sess (a l).toNat (b l).toNat).2)
      (s.begun i (viewFork f)) (i.lanes (i.en (viewFork f))) = .ok t →
    exec (.fork f) s = .next (t.advance i i.active))

/-- What a core does between its instructions: a free slot starts a run at the broadcast PC of the band whose turn it is (01 R25,
02 R41); a unit goes on whose wait has lifted (02 R43); a band's stores of zeros end and it starts (03 R56); a group whose queues
cannot progress traps (01 R22); and parked lanes whose mask has arrived leave `REJOIN` together (01 R27).

It rests on choices of the model: log entries 25, 60. -/
def Obligations.CoreEvents : Prop :=
  (∀ (s : State) (core slot gid bi : Nat) (x : IssueSlot) (b : Band) (pc : Pc),
    (s.core core).slots[slot]? = some x → x.run = none → (s.core core).mayIssue = true →
    argMin (fun (e : Nat × Nat × Band) => e.2.2.turnKey)
      (((s.core core).eligible slot).filter fun (e : Nat × Nat × Band) => (s.anyGroup e.1).any s.together) = some (gid, bi, b) →
    broadcast b.lastRun (b.waitingPcs x gid bi) = some pc →
    exec (.runStart core slot) s = .next ((s.modGroupOn core gid fun g => g.modBand bi fun y => { y with lastRun := pc }).modCore core
      fun k => { k with slots := updAt (fun y => { y with run := some { gid := gid, band := bi, pc := pc, count := 0 } }) k.slots slot })) ∧
  (∀ (s : State) (u : UnitRef) (g : Group) (i : Iss), s.unit? u = some (g, i) →
    (∀ b m, u.who = .lanes b m → exec (.resultArrival u) s = .next (s.modLanes i m fun l x =>
      if s.lifted u.core g (some b) l x.wait then { x with wait := .none } else x)) ∧
    (u.who = .lead → exec (.resultArrival u) s = .next (s.modLead i fun x =>
      if s.lifted u.core g none 0 x.wait then { x with wait := .none } else x))) ∧
  (∀ (s t : State) (core rgs band lane : Nat) (g : Group) (b : Band) (i : Iss), s.groupAt? core rgs = some g → g.bands[band]? = some b →
    (let all := maskOf fun l => (b.lane l).status != .tail
     b.started = false → all.getLsbD lane = true → s.issOf core g.gid (.lanes band all) = some i →
     foldE (fun (t : State) (l : Nat) => foldE (fun u p => areaStore u i l (BitVec.ofNat 64 (stackAddr i.sess b p l)) (toLE 4 0)) t
       (List.range (b.lane l).lo)) s (lanesOf all) = .ok t →
     exec (.spillTransferDone core rgs band lane) s =
       .next (t.modGroupOn core g.gid fun h => h.modBand band fun y => { y with started := true }))) ∧
  (∀ (s : State) (core rgs k : Nat) (g : Group) (who : Who) (i : Iss), s.groupAt? core rgs = some g → g.phase = .running →
    g.queueTrouble = some (who, k) → s.issOf core g.gid who = some i →
    exec (.queueProtocolDetect core rgs) s = .next (s.takeTrap i (poppingEnabled s i) (mkTrap 0x0E k))) ∧
  (∀ (s : State) (core rgs band : Nat) (g : Group) (b : Band), s.groupAt? core rgs = some g → g.bands[band]? = some b → b.released ≠ 0 →
    exec (.rejoinRelease core rgs band) s = .next (s.modGroupOn core g.gid fun h => h.modBand band fun x =>
      { x with
        lanes := x.lanes.mapIdx fun l y => if b.released.getLsbD l then { y with status := .running }.advance else y
        frags := b.reunite b.released })) ∧
  (∀ (b : Band) (l m : Nat), l < 32 → m < 32 → b.released.getLsbD l = true → (b.parkedMask m).isSome = true →
    (b.lane m).pc = (b.lane l).pc → b.released.getLsbD m = true)

/-- A running stream forms a row of 32 elements (the last one filled with zeros) and pushes it, or traps at an element that fails
(10 R225); a barrier instance completes once every participant has arrived, that of `BAR.clu` as an acquire at `.clu` (09 R204, R205,
05 R108); a waiting `WAITF` reads its location, an acquire where its order or the page's type says so, and goes on with its unit when
all have met their conditions (09 R203, 06 R120); a broken transaction aborts with CONFLICT (09 R212); the commit token goes to the
first that waits for it, whose transaction opens with an acquire at `.dev` (09 R213, 06 R126).

It rests on choices of the model: log entry 35. -/
def Obligations.StreamsBarriersWaits : Prop :=
  (∀ (s s1 : State) (core rgs stream : Nat) (g : Group) (i : Iss) (y : Stream) (e : Option Trap), s.groupAt? core rgs = some g →
    (let x := g.stream stream
     x.running = true → x.status = .running → g.phase = .running → g.anyFull (x.targets g) = false →
     s.issOf core g.gid (.stream stream) = some i → streamFill i 32 s x = (s1, y, e) →
     exec (.streamPush core rgs stream) s = .next (match e with
       | some t => (s1.modGroupOn core g.gid fun h => h.modStream stream fun _ => y).takeTrap i 0
           { t with addr := y.position, lane := 255, field := 0, detail := BitVec.ofNat 16 stream }
       | none => s1.modGroupOn core g.gid fun h =>
           (if y.row.isEmpty then h else h.pushRow (x.targets g) (y.row ++ List.replicate (32 - y.row.length) 0)).modStream stream
             fun _ => { y with row := [], running := decide (y.pos < y.total) }))) ∧
  (∀ (s : State) (core rgs : Nat) (cluster : Bool) (g : Group) (gs : List (Nat × Group)), s.groupAt? core rgs = some g →
    s.barrierGroups core g cluster = some gs →
    (let k := (if cluster then g.barClu else g.barGrp) + 1
     (∃ e ∈ gs, e.2.waitsAt cluster k = true) → (∀ e ∈ gs, e.2.arrivedAll cluster k = true) →
     exec (.barrierComplete core rgs cluster) s =
       .next (gs.foldl (fun (t : State) e => t.modGroupOn e.1 e.2.gid fun h => h.passBarrier cluster k)
         (if cluster then s.acquireOn ((gs.map (·.1)).dedup) 1 else s)))) ∧
  (∀ (s : State) (u : UnitRef) (lane : Nat) (g : Group) (i : Iss) (c : WCond) (wide : Bool) (ea cmp : Dword) (m : LaneMask) (d : Spec)
    (acq : Bool) (scope : Nat) (p : Place),
    s.unit? u = some (g, i) → waitOf i lane = .waitf c wide ea cmp m d acq scope none →
    (let n := if wide then 8 else 4
     let v := leNat (s.bytesAt i.sess i.group.gid p n)
     waitCheck s i ea n = .ok p → s.placePoison i.sess p n = false →
     (condMet c v cmp.toNat = false → exec (.waitfSatisfy u lane) s = .next s) ∧
     (∀ h j, condMet c v cmp.toNat = true →
       (let s1 := setMet ((if p.fences acq then s.acquire i.core (p.scope scope) else s).sign i.group.gid p true false) i lane
          (BitVec.ofNat 64 v)
        s1.unit? u = some (h, j) →
        exec (.waitfSatisfy u lane) s = .next (finishWaitf s1 j (heldWith i lane)))))) ∧
  (∀ (s : State) (core rgs band lane : Nat) (g : Group) (i : Iss), s.groupAt? core rgs = some g →
    s.issOf core g.gid (.lanes band (maskOf (· == lane))) = some i → (g.lane band lane).txn.active = true →
    (g.lane band lane).txn.doomed = true →
    exec (.transactionConflict core rgs band lane) s = .next (s.abortLane i lane 1 0)) ∧
  (∀ (s : State) (session : Nat) (x : Session) (r : LaneRef) (rs : List LaneRef), s.session? session = some x → x.tokenHolder = none →
    x.tokenQueue = r :: rs → s.wantsToken r = true →
    exec (.commitTokenGrant session) s =
      .next (((s.modSession session fun y => { y with tokenHolder := some r, tokenQueue := rs }).acquireFor? r.gid 3).modLane r.gid r.band r.lane
        fun y => ({ y with wait := .none }.openTxn true y.txn.target).advance))

/-- The distributor places the head launch's next group, or the members of its next cluster on one die, where they find room
(02 R34 to R39), an acquire at `.dev` on the core (06 R130); it answers a `FETCHWK` with the next group of the launch or with its end (02 R49); a finished group enters
RETIRING and leaves when its copies have landed and its `FETCHWK` requests are answered, its matrix instructions complete and its stores
performed (01 R15, 02 R38, R49, 06 R130); and a finished launch's completion record is written (22 R393).

It rests on choices of the model: log entries 20, 24, 68, 84. -/
def Obligations.DistributorEvents : Prop :=
  (∀ (s t : State) (session : Nat) (x : Session) (l : Launch) (cluster : Bool), s.session? session = some x →
    s.headLaunch session = some l → (cluster = true ↔ 1 < l.desc.cluster) →
    (if cluster then ((List.range 4).map fun d => (s.placeCores session).filter fun c => dieOf c == d).findSome? fun cs =>
        s.placeAll x l cs l.headGroups
     else s.placeAll x l (s.placeCores session) l.headGroups) = some t →
    exec (if cluster then .placeCluster session else .placeGroup session) s =
      .next (t.modLaunch session l.number fun y => y.markPlaced l.headGroups)) ∧
  (∀ (s : State) (slot c : Nat) (r : FetchReq) (g : Group), s.fetchReq? slot = some r →
    ({ s with fetches := s.fetches.erase r } : State).find? r.gid = some (c, g) →
    (let s1 : State := { s with fetches := s.fetches.erase r }
     let put (t : State) (o : Nat) (bs : List Byte) : State :=
       t.modGroupOn c r.gid fun h => { h with scratch := spSetList h.scratch o bs }
     (((s1.launchOf? g).bind fun l => l.withdrawNext) = none → exec (.fetchwkServe slot) s = .next (put s1 r.off (toLE 4 2))) ∧
     (∀ l n, s1.launchOf? g = some l → l.withdrawNext = some n →
       exec (.fetchwkServe slot) s = .next (put (put ((s1.modLaunch g.session g.launch fun k => { k with nextGroup := n + 1 }).modGroupOn c r.gid
           fun h => { h with withdrawn := h.withdrawn ++ [n] }) (r.off + 4)
         (toLE 4 (l.desc.coords n).1 ++ toLE 2 (l.desc.coords n).2.1 ++ toLE 2 (l.desc.coords n).2.2 ++ toLE 4 0)) r.off (toLE 4 1))))) ∧
  (∀ (s : State) (core rgs : Nat) (g : Group), s.groupAt? core rgs = some g → g.phase = .running → g.over = true →
    (let s1 := (s.petWatchdog g.session g.launch).modGroupOn core g.gid fun h =>
       { h with
         phase := if g.ver.isSome then .committing else .retiring
         bq := [], streams := h.streams.map fun x => { x with running := false }
         bands := h.bands.map fun b => { b with fq := [] } }
     exec (.groupFinish core rgs) s = .next (if g.ver.isSome then
       s1.modLaunch g.session g.launch fun l => { l with commitQueue := l.commitQueue ++ [g.gid] } else s1))) ∧
  (∀ (s : State) (core gid : Nat) (g : Group), ((s.core core).active.groups.find? fun g => g.gid == gid) = some g → g.phase = .retiring →
    s.copiesInto gid = false → (∀ r ∈ s.fetches, r.gid ≠ gid) →
    exec (.retiringEnd core gid) s = .next (((s.opsDone core gid).performAll core).dropGroup core gid)) ∧
  (∀ (s t : State) (session launch : Nat) (l : Launch) (x : Session), s.launch? session launch = some l → s.session? session = some x →
    s.launchOver l = true → l.complFault = none → l.complLost = false →
    s.sxWrite x l.desc.compl.toNat (complRecord s x l) = .ok t →
    exec (.launchComplete session launch) s = .next (t.closeLaunch l))

/-- The units that answer requests: a die's priority queue serves up to eight pops, those carried over first and the others by ascending core, with its
smallest keys, each pop an acquire at die scope (12 R268, R269); Delphinium serves the oldest request to a list, an item received being an
acquire at `.dev` (10 R231, 12 R270); the quiescence verdict stands once the launch can do nothing more, and
every `QUIESCE` of it answers 1 (12 R271, 13 R297). -/
def Obligations.WorkEvents : Prop :=
  (∀ (s : State) (die : Nat),
    (let ps := (s.pops.filter fun r => r.die == die && r.carried) ++ (List.range 16).flatMap fun k => s.pops.filter fun r =>
       r.die == die && !r.carried && r.core == 16 * die + k
     let t := (ps.take 8).foldl servePop s
     exec (.pqPopServe die) s = .next { t with
       pops := (t.pops.filter fun r => r.die != die) ++ (ps.drop 8).map fun r => { r with carried := true } })) ∧
  (∀ (s : State) (r : PqPop) (e : PqEntry),
    argMin (fun (e : PqEntry) => e.key.toNat) (s.pq.filter fun e => e.die == r.die && e.session == r.session && e.launch == r.launch) = some e →
    servePop s r = (({ s with pops := s.pops.erase r, pq := s.pq.erase e } : State).acquireFor? r.dest.gid 2).giveResult r.dest [e.key, e.value] [e.value ++ e.key]
      (some (r.mask, true))) ∧
  (∀ (s : State) (sess launch list : Nat) (c : Cmd) (x : Session) (w : WorkList), s.listReq? sess launch list = some c →
    s.session? sess = some x → c.fault = none → c.held = false →
    (c.needsScratch s = true → (s.find? c.gid).isSome = true) → s.list? sess launch list = some w →
    (∀ a l n, c.kind = .dappend a l n → 1 ≤ n → n ≤ 1024 → exec (.listRequestServe sess launch list) s =
      .next (listOutcome x c true (appendAll (s.engSeen c x (a.toNat + 16 * c.done) (16 * (n - c.done))) x c list
        (fun t j => engRead t c x (a.toNat + 16 * j) 16) (n - c.done)))) ∧
    (∀ a l n, c.kind = .ddrain a l n → 1 ≤ n → n ≤ 1024 → exec (.listRequestServe sess launch list) s =
      .next (listOutcome x c false (drainAll s x c list a.toNat (n - c.done)))) ∧
    (∀ l item, c.kind = .wlpush l item → exec (.listRequestServe sess launch list) s =
      .next (listOutcome x c true (appendAll s x c list (fun _ _ => .ok (item.flatMap fun w => toLE 4 w.toNat)) 1))) ∧
    (∀ l t bs d, c.kind = .wlpop l → c.reply = some d → s.takeItem x launch list w = .ok (some (t, bs)) →
      (let v (j : Nat) : Word := BitVec.ofNat 32 (leNat ((bs.drop (4 * j)).take 4))
       exec (.listRequestServe sess launch list) s = .next (((t.acquireFor? c.gid 3).giveResult d [0x10000, v 0, v 1, v 2, v 3]
         [0x10000, v 1 ++ v 0, v 3 ++ v 2] none).dropCmd c.id)))) ∧
  (∀ (s : State) (sess launch : Nat) (l : Launch), s.launch? sess launch = some l → l.quiescent = false → s.quiescentNow l = true →
    exec (.quiescenceVerdict sess launch) s =
      .next ((s.modLaunch sess launch fun k => { k with quiescent := true }).endQuiesce sess launch 1))

/-- The engines: an idle matrix engine takes its next instruction, and its end writes the tile (13 R287, R288); the load port
fills the slot of its first load, reading again one that a swap found in flight, and a waiting `MMA`'s reload reads its slot's
record (11 R237, R245, 13 R290); the copy engine moves a copy, or
holds it while a group it reaches is swapped out (10 R228, R229); an ended node counts down its successors (05 R111); and the
members of a collective receive their result and replies, with a release and then an acquire by every member at the scope that their
descriptors name (10 R232, 06 R129).

It rests on choices of the model: log entries 22, 27, 64, 65, 67, 82. -/
def Obligations.EngineEvents : Prop :=
  (∀ (s : State) (core : Nat) (o : MatOp) (os : List MatOp), (s.core core).mrun = none → (s.core core).mqueue = o :: os →
    (let s1 := s.modCore core fun c => { c with mrun := some o, mqueue := os }
     (∀ g gid band tile ent i0 n factor rnd seeds rows, o = .drain gid band tile ent i0 n factor rnd seeds rows →
       ((s.core core).active.groups.find? fun g => g.gid == o.gid) = some g →
       exec (.matrixEngineStart core) s = .next (drainStores s1 g band tile ent.toNat i0 n factor.toNat rnd.toNat seeds rows)) ∧
     ((∀ gid band tile ent i0 n factor rnd seeds rows, o ≠ .drain gid band tile ent i0 n factor rnd seeds rows) →
       exec (.matrixEngineStart core) s = .next s1))) ∧
  (∀ (s : State) (core : Nat) (o : MatOp), (s.core core).mrun = some o →
    exec (.matrixEngineEnd core) s =
      .next ((s.modGroupOn core o.gid fun g => { g with tiles := o.apply g }).modCore core fun c => { c with mrun := none })) ∧
  (∀ (s : State) (core : Nat) (p : SlotLoad) (ps : List SlotLoad) (g : Group), (s.core core).port = p :: ps →
    ((s.core core).active.groups.find? fun g => g.gid == p.gid) = some g →
    (let full (h : Group) : Group :=
       { h with slots := (slotsFilled ((h.slots.getD p.slot WSlot.init).fmt.toNat) p.slot).foldl
                  (fun (xs : List WSlot) k => updAt (fun x => { x with loading := false }) xs k) h.slots }
     ((g.slots.getD p.slot WSlot.init).loading = true →
       exec (.slotLoadComplete core) s = .next ((s.modGroupOn core p.gid full).modCore core fun c => { c with port := ps })) ∧
     (∀ i d, (g.slots.getD p.slot WSlot.init).loading = false → p.reload = false →
       s.issOf core p.gid (.lanes p.band (BitVec.allOnes 32)) = some i → (slotAt i p.slot).hasRecord = true → (slotAt i p.slot).valid = false →
       slotData s i (slotAt i p.slot).entry.toNat (slotAt i p.slot).i0 (slotAt i p.slot).i1 (slotAt i p.slot).i2 (slotAt i p.slot).i3 = .ok d →
       exec (.slotLoadComplete core) s = .next (((s.fillLoad i p.slot (slotAt i p.slot).entry.toNat (slotAt i p.slot).i0 (slotAt i p.slot).i1
         (slotAt i p.slot).i2 (slotAt i p.slot).i3 d).modGroupOn core p.gid full).modCore core fun c => { c with port := ps })))) ∧
  (∀ (s : State) (core rgs band k : Nat) (g : Group) (i : Iss) (d : SlotData), s.groupAt? core rgs = some g → waitingReload g band = some k →
    s.issOf core g.gid (.lanes band (BitVec.allOnes 32)) = some i → (slotAt i k).hasRecord = true → (slotAt i k).valid = false →
    slotData s i (slotAt i k).entry.toNat (slotAt i k).i0 (slotAt i k).i1 (slotAt i k).i2 (slotAt i k).i3 = .ok d →
    exec (.slotReload core rgs band) s = .next ((s.fillLoad i k (slotAt i k).entry.toNat (slotAt i k).i0 (slotAt i k).i1
      (slotAt i k).i2 (slotAt i k).i3 d).modLanes i (BitVec.allOnes 32) fun _ y => { y with wait := .slot [k] })) ∧
  (∀ (s : State) (cmd : Nat) (c : Cmd) (x : Session) (fill : Bool) (src dst desc : Dword) (len : Nat) (ctrl ctr : Word),
    s.cmd? cmd = some c → s.session? c.session = some x → c.fault = none → c.kind = .copy fill src dst len ctrl ctr desc →
    (let out := s.anyOut (copyGroups s c fill src.toNat dst.toNat ctrl.toNat)
     (c.held = false → exec (.copyComplete cmd) s = .next (if out then s.modCmd cmd fun d => { d with held := true }
       else s.runCopy x c fill src.toNat dst.toNat len ctrl.toNat ctr.toNat desc)) ∧
     (c.held = true → out = false → exec (.heldEngineWrite cmd) s = .next ((s.modCmd cmd fun d => { d with held := false }).runCopy x
       { c with held := false } fill src.toNat dst.toNat len ctrl.toNat ctr.toNat desc)))) ∧
  (∀ (s : State) (session : Nat) (node : Dword) (n : Node), s.node? session node = some n → n.st = .ended →
    (let s2 := n.succs.foldl (fun t y => t.succDone session (n.status != 0) y)
       (s.modNode session node fun m => { m with st := .finished })
     exec (.nodeFinish session node) s = .next { s2 with
       queues := s2.queues.map fun (q : QueueCtx) =>
         if q.session == session then { q with nodes := q.nodes.filter fun (a : Dword) => a != node } else q })) ∧
  (∀ (s t : State) (session cluster k : Nat) (x : Session) (g : Group) (l : Launch) (srcs : List (List Byte)) (m0 : Member) (ms : List Member),
    s.session? session = some x → s.anyGroup cluster = some g → s.launchOf? g = some l →
    s.cmds.findSome? (fun c => match c.kind with
      | .collective _ _ _ _ _ k _ => if c.session == session && c.gid == cluster then some k else none
      | _ => none) = some k →
    ((List.range l.desc.cluster).filterMap (s.member g)).filterMap (fun h => s.joined h k) = m0 :: ms →
    (∀ h ∈ (List.range l.desc.cluster).filterMap (s.member g), (s.joined h k).isSome = true) →
    s.anyOut ((List.range l.desc.cluster).filterMap (s.member g)) = false → (∀ m ∈ m0 :: ms, m.cmd.fault = none) →
    collRefused s (m0 :: ms) l.desc.cluster = none → collReads s x (m0 :: ms) = .ok srcs →
    collWrites x (collResult m0 srcs) (m0 :: ms) ((m0 :: ms).foldl (fun u m => u.engSeen m.cmd x m.sbuf m.srcLen) s) = (t, none) →
    (let cores := ((m0 :: ms).filterMap fun m => (s.find? m.gid).map (·.1)).dedup
     (∀ m ∈ m0 :: ms, (t.find? m.gid).map (·.1) = (s.find? m.gid).map (·.1)) →
     exec (.collectiveComplete session cluster) s =
       .next (collReply ((t.releaseOn cores (bitsOf m0.ctrl 10 8)).acquireOn cores (bitsOf m0.ctrl 10 8)) (m0 :: ms) 0)))

/-- The graphics units, each acting for a session whose unit waits for no fault: a streamed page is stored or its stream fails
(14 R308, R309); a ray is traversed (14 R312, R313); records are binned, rasterised, blended and encoded, and a bin that finds no room or
whose depth tile faults counts a replay (14 R302 to R304, R315 to R317); a waiting shading request is settled (14 R314).

It rests on choices of the model: log entries 9, 22, 49, 50, 81, 87. -/
def Obligations.GraphicsEvents : Prop :=
  (∀ (s : State) (n : Nat) (t : TexStream) (x : Session), s.textures[n]? = some t → s.session? t.session = some x →
    (∀ d, streamPage s x t = .ok (some d) →
      exec (.textureStreamComplete n) s = .next (s.unitRun x 0 (fun u => storePage u x t d) fun u => failStream u t)) ∧
    (s.unitBlocked x.slot 0 = false → streamPage s x t = .ok none →
      exec (.textureStreamFail n) s = .next ((failStream s t).unitClear x.slot 0))) ∧
  (∀ (s : State) (core rgs band lane handle : Nat) (g : Group) (r : Ray) (i : Iss) (t : Trav), s.groupAt? core rgs = some g →
    (g.lane band lane).rays.find? (fun r => r.handle == handle && r.result.isNone) = some r →
    s.issOf core g.gid (.lanes band (maskOf (· == lane))) = some i →
    (let b := (g.bands[band]?).elim 0 (·.pos)
     let area := r.spill.toNat + 8 * (r.stkcap - 16) * (((48 * (s.core core).rel + b) * 32 + lane) * 4 + handle)
     travRun { i := i, ray := r, area := area } travFuel
       { s := s, stack := [.child 0 r.root.toNat 0], spilled := 0, onchip := 1, ray := r.query, inst := none, best := none, stop := none,
         malformed := false } = some t →
     (let res : RayResult := match t.stop, t.best with
        | some x, _ => x
        | none, some h => .hit h.1 h.2.1 h.2.2.1 h.2.2.2.1 h.2.2.2.2
        | none, none => .miss
      exec (.rayTraversed core rgs band lane handle) s =
        .next ((if t.malformed then t.s.modSession g.session fun x => { x with malformed := x.malformed + 1 } else t.s).modGroup g.gid fun h =>
          h.modBand band fun y => (y.modLane lane fun z =>
            { z with rays := z.rays.map fun q => if q.handle == handle then { q with result := some res } else q }).rayWake)))) ∧
  (∀ (s u1 : State) (ring v : Nat) (r : Ring) (x : Session) (bs : List Byte), s.rings[ring]? = some r → s.session? r.session = some x →
    s.isNext r (sameNode r) = true → nodeDesc s x r = .ok v →
    (r.kind = 1 → s.unitBlocked x.slot 1 = false → recordOf s x r 64 = .ok bs → addCounter (s.consume r) x (fld v 16 64) 1 = .ok u1 →
      (∀ t, parseTri (fld v 40 8) bs = some t → exec (.triangleRecord ring) s =
        .next (({ u1 with bins := (touchedBins v t).foldl (addToBin r.session r.consumer bs) u1.bins } : State).unitClear x.slot 1)) ∧
      (∀ u2, parseTri (fld v 40 8) bs = none → addCounter u1 x (fld v 16 64 + 8) 1 = .ok u2 →
        exec (.triangleRecord ring) s = .next (u2.unitClear x.slot 1))) ∧
    (r.kind = 2 → s.unitBlocked x.slot 2 = false → recordOf s x r 32 = .ok bs → blendStart s x r v = .ok u1 →
      (∀ u2, isFlush bs = false → splat u1 x v bs = .ok u2 → exec (.splatRecord ring) s = .next ((u2.consume r).unitClear x.slot 2)) ∧
      (∀ u2, isFlush bs = true → flushAll u1 x v = .ok u2 → exec (.flushRecord ring) s = .next ((u2.consume r).unitClear x.slot 2)))) ∧
  (∀ (s u1 : State) (bin n : Nat) (b : Bin) (x : Session) (r : BinOut) (e : BinEnv), s.bins[bin]? = some b → s.session? b.session = some x →
    s.binFirst bin b = true → s.unitBlocked x.slot 1 = false → runBin s x b = .ok (u1, n, r, e) →
    (∀ u2 u3, r.quads.length ≤ n → writeTile u1 x e r.tile = .ok u2 → binCounts u2 x b r e = .ok u3 →
      exec (.binCommit bin) s = .next (({ u3 with bins := u3.bins.filter fun y => y != b } : State).unitClear x.slot 1)) ∧
    (n < r.quads.length → exec (.binReplay bin) s = .next (({ u1 with
      bins := updFirst (fun y => y == b) (fun y => { y with replays := y.replays + 1, sent := n }) u1.bins } : State).unitClear x.slot 1))) ∧
  (∀ (s : State) (bin : Nat) (b : Bin) (x : Session) (t : BinFault), s.bins[bin]? = some b → s.session? b.session = some x →
    s.binFirst bin b = true → s.unitBlocked x.slot 1 = false → runBin s x b = .error t →
    (let struck (v : State) : State := if t.tile then v.replay b b.sent else v
     let u := s.unitRun x 1 (fun _ => .error t.trap) struck
     exec (.binCommit bin) s = .next (if s.unitFaults.length < u.unitFaults.length then struck u else u))) ∧
  (∀ (s : State) (ring n : Nat) (r : Ring) (x : Session) (bs : List Byte), s.rings[ring]? = some r → s.session? r.session = some x →
    encEngine s r = .ok (some n) → (∀ f ∈ s.encoders, f.engine ≠ n) → s.isNext r (feedsEngine s n) = true →
    s.unitBlocked x.slot 3 = false → recordOf s x r 64 = .ok bs →
    exec (.frameRecord ring) s = .next (({ s.consume r with
      encoders := s.encoders ++ [{ engine := n, session := r.session, record := bs }] } : State).unitClear x.slot 3)) ∧
  (∀ (s u : State) (engine : Nat) (f : EncFrame) (x : Session), s.encoders.find? (fun f => f.engine == engine) = some f →
    s.session? f.session = some x → s.unitBlocked x.slot 3 = false → encode1 s x engine f.record = .ok u →
    exec (.encodeDone engine) s = .next (({ u with
      encoders := u.encoders.filter fun g => g.engine != engine, freeCtr := u.freeCtr + 1 } : State).unitClear x.slot 3)) ∧
  (∀ (s t : State) (core rgs band lane : Nat) (g : Group) (i : Iss) (out word : Dword) (d : Spec) (rc : BitVec 128) (v : Word),
    s.groupAt? core rgs = some g → (g.lane band lane).wait = .atlas out d word rc →
    s.issOf core g.gid (.lanes band (maskOf (· == lane))) = some i →
    (∀ l < lane, (g.lane band l).pc = (g.lane band lane).pc → ∀ a b c e, (g.lane band l).wait ≠ .atlas a b c e) →
    atlasOne s i { lane := lane, out := out, word := word, record := rc } = .answer v t →
    exec (.atlasRecordAccept core rgs band lane) s =
      .next ((t.putPos i.sess g.gid band lane ((g.lane band lane).base + d.idx.toNat) v).modGroupOn core g.gid fun h =>
        (h.modLane band lane fun z => { z with wait := .atlasDone }).modBand band fun b => b.atlasRelease (g.lane band lane).pc))

/-- Versioned tasks, their matrix instructions complete: a task whose reads meet a later commit restarts, another commits its bytes and its held operations as the
launch's next commit; a restart that waited for copies goes on; the serial token goes to the first task that waits for it (20 R351
to R356).

It rests on choices of the model: log entries 14, 15, 26, 68. -/
def Obligations.VersionEvents : Prop :=
  (∀ (s : State) (session launch gid c : Nat) (x : Session) (l : Launch) (g : Group) (v : Version), s.session? session = some x →
    s.launch? session launch = some l → s.toRestart l = none → s.nextTask l = some gid →
    (s.taskDone gid).find? gid = some (c, g) → g.ver = some v →
    (conflicts l v = true → exec (.versionCommit session launch) s = .next
      (((s.taskDone gid).modLaunch x.slot l.number fun k => { k with commitQueue := k.commitQueue.filter (· != gid) }).restart gid false)) ∧
    (∀ t, conflicts l v = false → (∀ h ∈ v.held, heldWaits x.slot l.number (s.taskDone gid) h = false) →
      (s.taskDone gid).unitBlocked x.slot 4 = false → performBytes x l.desc.priv v (s.taskDone gid) = .ok t →
      exec (.versionCommit session launch) s = .next ((((v.held.foldl (performHeld x l.desc.priv l.number) t).modLaunch x.slot l.number
        fun k => k.commitWs gid v.ws).modGroupOn c gid fun h => { h with ver := none, phase := .retiring }).unitClear x.slot 4))) ∧
  (∀ (s : State) (session launch gid : Nat) (serial : Bool) (x : Session) (l : Launch), s.session? session = some x →
    s.launch? session launch = some l → s.toRestart l = some (gid, serial) →
    exec (.versionCommit session launch) s = .next (s.restartNow gid serial)) ∧
  (∀ (s : State) (session launch gid c : Nat) (rest : List Nat) (l : Launch) (g : Group), s.launch? session launch = some l →
    (∀ h ∈ s.allGroupsOf session launch, (h.ver.map (·.token)).getD false = false) → l.serialQueue = gid :: rest →
    s.find? gid = some (c, g) →
    exec (.serialTokenGrant session launch) s =
      .next ((s.modLaunch session launch fun k => { k with serialQueue := rest }).modGroupOn c gid fun g =>
        { g with
          ver := g.ver.map fun v => { v with token := true }
          lead := if g.lead.wait == .serial then { g.lead with wait := .none } else g.lead
          bands := g.bands.map fun b =>
            { b with lanes := b.lanes.map fun y => if y.wait == .serial then { y with wait := .none } else y } }))

/-- Faults and pages: a unit that holds a trap for want of room in the trap ring takes it again, and one whose page fault found the
fault ring full waits in it (20 R341, 21 R368); the answer to a batch sets what waits on it going (21 R369); a walk fills the TLBs
(21 R367); the copy-on-write unit serves a page (21 R374); the merge engine visits its next page,
by the regions as they stood when its pass began, and swaps its leaf where it is still the one that was read, a swap that fails taking
the new directory entry back (21 R366, R371, R372); released frames, dropped
references and the dirty bitmap's buffers (21 R372, R373, R383).

It rests on choices of the model: log entries 46, 59, 63. -/
def Obligations.FaultAndPageEvents : Prop :=
  (∀ (s : State) (u : UnitRef) (g : Group) (i : Iss) (t : Trap), s.groupAt? u.core u.rgs = some g →
    s.issOf u.core g.gid (g.widen u.who) = some i →
    (statusOf g u.who = .held t none → exec (.trapRecordWrite u) s = .next (s.retake i t)) ∧
    (∀ s1 k, statusOf g u.who = .heldFault t → s.faultBatch i.sess t.pages (t.sub.toNat % 4) false = some (s1, k) →
      exec (.faultRecordWrite u) s = .next (s1.setStatus i (Who.mask i.who) (.faulted k t none)))) ∧
  (∀ (s : State) (session batch : Nat) (x : Session) (ok : Bool), s.session? session = some x → s.batchAnswer x batch = some ok →
    ∃ t, exec (.faultServiceResult session batch) s = .next (((s.residents.filter fun e => e.2.session == session).flatMap fun e =>
        (e.2.unitsWith fun st => st.batch? == some batch).map fun w => (e.1, e.2.gid, w)).foldl
          (fun (t : State) e => t.answerUnit e.1 e.2.1 ok e.2.2) t) ∧
      t.cores = s.cores ∧ t.sessions = s.sessions ∧ t.phys = s.phys ∧
      (∀ c ∈ t.cmds, c.session = session → c.fault ≠ some batch) ∧ (∀ n ∈ t.nodes, n.session = session → n.fault ≠ some batch) ∧
      (∀ q ∈ t.queues, q.session = session → q.fault ≠ some batch)) ∧
  (∀ (s : State) (core session : Nat) (va : Dword) (x : Session) (l : Leaf), s.session? session = some x → core < 64 →
    tlbFind (s.core core).tlb session (va.toNat % 2 ^ 48) = none →
    (let a := va.toNat % 2 ^ 48
     let second := (s.tlb2.filter fun e => e.1 == dieOf core).map (·.2)
     let e : TlbEntry := { session := session, page := if l.big then a / 2 ^ 21 else a / 4096, big := l.big, leaf := BitVec.ofNat 128 l.bits }
     (tlbFind second session a = some l ∨ tlbFind second session a = none ∧ s.walk x a = .leaf l) →
     exec (.tlbWalk core session va) s = .next { s.modCore core (fun c => { c with tlb := tlbAdd 1024 c.tlb e }) with
       tlb2 := (s.tlb2.filter fun (f : Nat × TlbEntry) => f.1 != dieOf core) ++
         (tlbAdd 16384 second e).map fun (f : TlbEntry) => (dieOf core, f) })) ∧
  (∀ (s t : State) (session : Nat) (va : Dword) (subs : BitVec 8) (x : Session), s.session? session = some x →
    s.cowPage x none va subs.toNat = .ok t → exec (.copyOnWrite session va subs) s = .next t) ∧
  (∀ (s : State) (p : MergePos) (x : Session) (l : Leaf), s.ctrl.mergeEn = true → s.relPending = [] → s.mergeNext s.mergePos = some p →
    s.merging = none → s.session? p.session = some x →
    (let r := ((alGet? p.regions x.slot).getD []).getD p.region (0, 0, false)
     let va := (r.1 + 4096 * p.page) % 2 ^ 48
     s.walk x va = .leaf l → l.big = false → l.type = 0 → l.w = false → l.content = false → l.omask = 0 →
     exec .mergePage s = .next (({ s with mergePos := { p with page := p.page + 1 } } : State).mergeAt x l va r.2.2))) ∧
  (∀ (s : State) (m : Merging) (x : Session), s.ctrl.mergeEn = true → s.relPending = [] → s.merging = some m →
    s.session? m.session = some x →
    (let t : State := { s with merging := none }
     ((t.dev m.at_ 16 = some m.leaf.toNat ∧ ∃ y ∈ t.hh, y.domain = t.sdom x ∧ y.frame = m.frame) →
       exec .mergePage s = .next ((t.devPutNum m.at_ 16 m.after).merged x m)) ∧
     (t.dev m.at_ 16 ≠ some m.leaf.toNat → exec .mergePage s = .next (if m.made then
       ({ t with hh := t.hh.filter fun (y : HhEntry) => !(y.domain == t.sdom x && y.frame == m.frame) } : State).pushLater m.frame
      else t)))) ∧
  (∀ (s : State) (f : Nat) (fs : List Nat), s.relPending = f :: fs →
    (let base := s.ctrl.relBase.toNat
     let tail := s.dev0 (base + 8) 8
     tail - s.dev0 base 8 < 2 ^ s.ctrl.relCap →
     exec .releasedFramePush s = .next
       { (({ s with relPending := [] } : State).devPutNum (base + 64 + 8 * (tail % 2 ^ s.ctrl.relCap)) 8 (4096 * f)).devPutNum (base + 8) 8
           (tail + 1) with
         relPending := fs })) ∧
  (∀ s : State, exec .hhDrop s = .next (s.dropRef (s.ctrl.hhDrop.toNat % 64) (bitsOf s.ctrl.hhDrop.toNat 51 12))) ∧
  (∀ s : State, s.ctrl.dbmSwap.getLsbD 0 = true → exec .dbmSwap s = .next { s with
    ctrl := { s.ctrl with
      dbmActive := if s.ctrl.dbmPending = 0 then !s.ctrl.dbmActive else s.ctrl.dbmActive, dbmPending := s.ctrl.dbmPending + 1 } }) ∧
  (∀ s : State, s.ctrl.dbmPending ≠ 0 → exec .dbmSwapComplete s = .next { s with
    ctrl := { s.ctrl with
      dbmSwaps := s.ctrl.dbmSwaps + 1, dbmActive := if 1 < s.ctrl.dbmPending then !s.ctrl.dbmActive else s.ctrl.dbmActive
      dbmPending := s.ctrl.dbmPending - 1 } })

/-- The scheduler: an empty core chooses the session of the smallest virtual time (22 R396); a slice ends in favour of another session
with a grace for what drains (20 R360); the core quiesces, every store of its context performed, with the groups of its clusters on other cores, exchanges its context, and saves and preloads contexts (20 R357 to
R361); a
core whose waiting budget has run out writes its snapshot and saves every cluster (22 R399).

It rests on choices of the model: log entries 1, 25, 69, 88. -/
def Obligations.SchedulerEvents : Prop :=
  (∀ (s : State) (core : Nat), core < 64 → s.idleCore core = true →
    (let s1 := ((s.unload core).releaseCore core).modCore core fun c => { c with swap := .none }
     (∀ w, s1.choose core = some w → exec (.coreGrant core) s = .next (s1.grantEmpty core w)) ∧
     (s1.choose core = none → exec (.coreGrant core) s = .next s1))) ∧
  (∀ (s : State) (core cur : Nat), (s.core core).session = some cur → ((s.core core).swap = .none ∨ ∃ n, (s.core core).swap = .named n) →
    (s.choose core = none ∨ s.choose core = some cur → exec (.sliceEnd core) s = .next (s.keepSession core)) ∧
    (∀ w, s.choose core = some w → w ≠ cur → exec (.sliceEnd core) s = .next ((s.postSession cur).startGrace core w))) ∧
  (∀ (s : State) (core cur w : Nat), (s.core core).session = some cur → (s.core core).swap = .none → s.choose core = some w → w ≠ cur →
    exec (.sliceHalfway core) s = .next (s.modCore core fun k => { k with swap := .named w })) ∧
  (∀ (s : State) (core next : Nat) (ds : List (List Nat)), (s.core core).swap = .grace next ds →
    exec (.graceExpire core) s = .next (((((ds.filter fun gids => gids.any s.stillRuns).map fun gids => gids.filterMap s.find?).foldl
      (s.settleCluster false) (s, [])).1).modCore core fun c => { c with swap := .quiesce next })) ∧
  (∀ (s : State) (core next : Nat), (s.core core).swap = .quiesce next → s.settled core = true →
    (let c := s.core core
     let mine (r : LaneRef) : Bool := (c.active.groups.map (·.gid) ++ (s.partners core).map fun e => e.2.gid).contains r.gid
     let t := (s.partners core).foldl State.savePartner ((s.performAll core).modCore core fun k0 =>
       let k := k0.endRuns s.runCtr fun _ => true
       { k with
         swap := .exchange next, port := []
         active := { k.active with
           groups := k.active.groups.map Group.atSwap, loads := k.port.filter fun p => !p.reload } })
     exec (.contextQuiesce core) s = .next (({ t with runCtr := t.runCtr + 1 } : State).modSession c.active.session fun x =>
       { x with
         tokenQueue := x.tokenQueue.filter fun r => !mine r
         tokenHolder := if x.tokenHolder.any mine then none else x.tokenHolder }))) ∧
  (∀ (s : State) (core next : Nat) (x : Context), (s.core core).swap = .exchange next → s.nextNow core next = some next →
    s.awaitsDiscarded next = false →
    ((s.core core).session = some next → (s.core core).shadow = .empty → s.landing core = false →
      (s.core core).active.groups.all (fun g => g.phase == .retiring) = true) →
    s.incoming core next = some x → exec (.contextExchange core) s = .next (s.exchange core x)) ∧
  (∀ (s : State) (core next : Nat), (s.core core).swap = .exchange next → s.nextNow core next = some next →
    s.awaitsDiscarded next = false → (s.core core).session = some next → (s.core core).shadow = .empty → s.landing core = false →
    (s.core core).active.groups.any (fun g => g.phase != .retiring) = true → exec (.contextExchange core) s = .next (s.bankOut core)) ∧
  (∀ (s : State) (core : Nat) (x : Context), (s.core core).shadow = .outgoing x →
    exec (.contextSpill core) s = .next (((s.saveFor x.session x.groups).modCore core fun c => { c with shadow := .empty }).modSession x.session
      fun y => { y with saved := y.saved ++ [x] })) ∧
  (∀ (s : State) (core n : Nat) (x : Session) (y : Context) (rest : List Context), (s.core core).swap.next? = some n →
    (s.core core).shadow = .empty → s.session? n = some x → x.saved = y :: rest → s.restores n = true →
    exec (.contextPreload core) s =
      .next ((s.modSession n fun z => { z with saved := rest }).modCore core fun c => { c with shadow := .loaded y })) ∧
  (∀ (s : State) (core : Nat) (x : Session), ((s.core core).session.bind s.session?) = some x → x.waitBudget ≠ 0 →
    (s.core core).canIssue = false → ((s.core core).swap = .none ∨ (∃ n, (s.core core).swap = .named n) ∨ ∃ n d, (s.core core).swap = .grace n d) →
    (let recs := ((List.range 16).filterMap (s.core core).groupAt?).flatMap (snapRecords s)
     recs ≠ [] → s.unitBlocked x.slot 6 = false →
     ∀ s1 s2 first, s.snapshot x false recs = .ok (s1, first) →
      s1.tryRecord x false (plainRecord x 0x11 core (BitVec.ofNat 64 (first.getD ((s1.sxNum x x.snap.toNat 8).toOption.getD 0)))
        (s.core core).clock) = .ok s2 →
      exec (.waitBudgetExpire core) s = .next (((s2.postSession x.slot).modCore core fun k =>
        { k with swap := .quiesce (((s2.postSession x.slot).choose core).getD x.slot) }).unitClear x.slot 6)))

/-- Queues: a doorbell notes a ready queue with its WPTR, and one of a mapped queue gives the queue its WPTR (22 R388); a ready queue
takes the lowest free hardware slot and leaves it when it has been idle for 4096 cycles (22 R389).

Every command of a command processor but `SNAPSHOT`: its effect, after which the queue goes on at the next command (22 R390, R437).
A command whose reserved bits or bytes are not zero, or whose fields break their rules, stops the queue with COMMAND, and so does one
whose OPC is not assigned.

`SNAPSHOT` opens, publishes or closes the region that its block names, and writes its STATUS into the block; one whose reserved bytes
are not zero stops the queue with COMMAND. A publish is a release of the session's writes at `.sys` before the compare-and-swap (21
R378, R379; 06 R131; 22 R390).

It rests on choices of the model: log entries 28, 29, 30, 31, 32, 33, 82. -/
def Obligations.QueuesAndCommands : Prop :=
  ((∀ (s : State) (x : Session),
    (let q := s.ctrl.doorbell.toNat % 2 ^ 14
     let v := s.queueEntry q
     s.session? (qOwner v) = some x → qEnabled v = true →
     (x.st ≠ .resetting → qStatus v = 0 → overrun v (qWptr v) = true → exec .doorbell s = .next (s.stopQueue q 1)) ∧
     (x.st ≠ .resetting → overrun v (qWptr v) = false → (s.ctxOf q).isSome = true →
       exec .doorbell s = .next (s.modCtx q fun k => { k with wptr := qWptr v })) ∧
     (overrun v (qWptr v) = false → (x.st = .frozen ∨ x.st = .resetting ∨ s.queueReady q (qWptr v) = true) →
       (x.st = .resetting ∨ s.ctxOf q = none) → (∀ e ∈ s.doorbells, e.1 ≠ q) →
       exec .doorbell s = .next { s with doorbells := s.doorbells ++ [(q, qWptr v)] }))) ∧
  (∀ (s : State) (q w n : Nat), s.ctrl.schedEnable = true → s.nextQueue = some (q, w) → s.freeQueueSlot = some n →
    overrun (s.queueEntry q) w = false →
    exec .queueMap s = .next { s.setQSlot q n with
      queues := s.queues ++ [s.newCtx n q (qOwner (s.queueEntry q)) (qRptr (s.queueEntry q)) w]
      doorbells := s.doorbells.filter fun (e : Nat × Nat) => e.1 != q }) ∧
  (∀ (s : State) (q : QueueCtx), ((List.range 128).findSome? fun n => (s.ctxAt n).filter fun k => s.queueIdle k && decide (4096 ≤ k.idleFor)) = some q →
    exec .queueUnmapIdle s = .next (s.unmap q.queue))) ∧
  (∀ (s : State) (x : Session) (q : QueueCtx) (v : Nat),
    (s.atCommand x q v 0 → zeroFrom v 8 = true → exec .cpNop s = .next (s.goOn q.queue nextCmdOf)) ∧
    (s.atCommand x q v 0 → zeroFrom v 8 = false → exec .cpNop s = .next (s.stopBad q)) ∧
    (∀ t no, s.atCommand x q v 1 → zeroFrom v 16 = true → fld v 8 64 % 64 = 0 →
      s.startLaunch x (fld v 8 64) none (s.queuePriv x (some q.queue)) q.declined (some q.queue) none = .done t no →
      exec .launch s = .next (t.goOn q.queue fun k => { nextCmdOf k with launches := k.launches ++ [no] })) ∧
    (∀ t no g, s.atCommand x q v 2 → zeroFrom v 24 = true → fld v 8 64 % 64 = 0 → s.sxNum x (fld v 16 64) 12 = .ok g →
      s.startLaunch x (fld v 8 64) (some (fld g 0 32, fld g 4 32, fld g 8 32)) (s.queuePriv x (some q.queue)) q.declined (some q.queue) none =
        .done t no →
      exec .launchi s = .next (t.goOn q.queue fun k => { nextCmdOf k with launches := k.launches ++ [no] })) ∧
    (s.atCommand x q v 3 → zeroFrom v 16 = true → (fld v 8 64 % 32 = 0 → ∃ d, s.sxNum x (fld v 8 64) 32 = .ok d) →
      (let r := s.addCopy x (some q.queue) none (BitVec.ofNat 64 (fld v 8 64))
       exec .cpCopy s = .next (r.1.goOn q.queue fun k =>
         { nextCmdOf k with cmds := if (r.1.cmd? r.2).isSome then k.cmds ++ [r.2] else k.cmds }))) ∧
    (∀ b, s.atCommand x q v 4 → zeroFrom v 28 = true → cpCond s x v = some (.ok b) →
      exec .cpWait s = .next (if b then s.goOn q.queue nextCmdOf else s)) ∧
    (∀ t, s.atCommand x q v 5 → zeroFrom v 28 = true → fld v 8 64 % 8 = 0 → fld v 24 32 < 2 →
      (let n := if fld v 24 32 = 1 then 8 else 4
       s.sxWriteNum x (fld v 8 64) n (fld v 16 (8 * n)) = .ok t → exec .signal s = .next (t.goOn q.queue nextCmdOf))) ∧
    (s.atCommand x q v 6 → zeroFrom v 16 = true → 1 ≤ fld v 8 64 → fld v 8 64 < 2 ^ 32 → q.loops.length < 4 →
      exec .loop s = .next (s.goOn q.queue fun k => { nextCmdOf k with loops := k.loops ++ [{ start := k.next, left := fld v 8 64 }] })) ∧
    (∀ l, s.atCommand x q v 7 → zeroFrom v 8 = true → q.loops.getLast? = some l →
      exec .endloop s = .next (s.goOn q.queue (if 1 < l.left then
          fun k => { k with next := l.start + 1, loops := k.loops.dropLast ++ [{ l with left := l.left - 1 }] }
        else fun k => { nextCmdOf k with loops := k.loops.dropLast }))) ∧
    (∀ b, s.atCommand x q v 8 → zeroFrom v 32 = true → 1 ≤ fld v 28 32 → fld v 28 32 < 256 → cpCond s x v = some (.ok b) →
      exec .cond s = .next (s.goOn q.queue fun k => { nextCmdOf k with skip := if b then 0 else fld v 28 32 })) ∧
    (∀ t, s.atCommand x q v 9 → zeroFrom v 16 = true →
      s.submit x { id := s.nextCmd, session := x.slot, gen := x.gen, gid := 0, queue := some q.queue, node := none, core := 64, launch := 0,
                   reply := none, kind := .start 0xB1 0 (BitVec.ofNat 64 (fld v 8 64)) 0, held := false, done := 0, fault := none,
                   declined := q.declined, priv := true, noCtr := false, first := 0 } (BitVec.ofNat 64 (fld v 8 64)) = .status t 0 →
      exec .graph s = .next (t.goOn q.queue fun k => { nextCmdOf k with nodes := k.nodes ++ [BitVec.ofNat 64 (fld v 8 64)] })) ∧
    (∀ w r g who tr, s.atCommand x q v 11 → zeroFrom v 24 = true → fld v 16 64 < 4 → x.tring ≠ 0 →
      (let n := fld v 8 64
       let cap := 2 ^ x.tringcap.toNat
       s.sxNum x x.tring.toNat 8 = .ok w → n < w → w - n ≤ cap → s.sxNum x (x.tring.toNat + 64 * (1 + n % cap)) 64 = .ok r →
       fld r 24 8 ≠ 0x10 → fld r 24 8 ≠ 0x11 → s.trappedUnit x.slot n = some (g, who, tr) →
       exec .resume s = .next ((if fld v 16 64 = 3 then s.endLaunch x.slot g.launch 3 else s.resumeUnit g who tr (fld v 16 64)).goOn q.queue
         nextCmdOf))) ∧
    (∀ c ∈ [(0, Instr.cpNop), (1, .launch), (2, .launchi), (3, .cpCopy), (4, .cpWait), (5, .signal), (6, .loop), (7, .endloop), (8, .cond),
        (9, .graph), (11, .resume)], s.cpHead s.cpTurn = .cmd x q v → cpOp v = c.1 → bitsOf v 63 9 ≠ 0 → exec c.2 s = .next (s.stopBad q)) ∧
    (s.cpHead s.cpTurn = .cmd x q v → 12 ≤ cpOp v → exec .cpNop s = .next (s.stopBad q)) ∧
    (s.atCommand x q v 1 → (zeroFrom v 16 = false ∨ fld v 8 64 % 64 ≠ 0) → exec .launch s = .next (s.stopBad q)) ∧
    (s.atCommand x q v 2 → (zeroFrom v 24 = false ∨ fld v 8 64 % 64 ≠ 0 ∧ ∃ g, s.sxNum x (fld v 16 64) 12 = .ok g) →
      exec .launchi s = .next (s.stopBad q)) ∧
    (s.atCommand x q v 3 → zeroFrom v 16 = false → exec .cpCopy s = .next (s.stopBad q)) ∧
    (s.atCommand x q v 4 → (zeroFrom v 28 = false ∨ fld v 8 64 % 8 ≠ 0 ∨ 8 ≤ fld v 24 32) → exec .cpWait s = .next (s.stopBad q)) ∧
    (s.atCommand x q v 5 → (zeroFrom v 28 = false ∨ fld v 8 64 % 8 ≠ 0 ∨ 2 ≤ fld v 24 32) → exec .signal s = .next (s.stopBad q)) ∧
    (s.atCommand x q v 6 → (zeroFrom v 16 = false ∨ fld v 8 64 = 0 ∨ 2 ^ 32 ≤ fld v 8 64 ∨ 4 ≤ q.loops.length) →
      exec .loop s = .next (s.stopBad q)) ∧
    (s.atCommand x q v 7 → (zeroFrom v 8 = false ∨ q.loops = []) → exec .endloop s = .next (s.stopBad q)) ∧
    (s.atCommand x q v 8 → (zeroFrom v 32 = false ∨ fld v 28 32 = 0 ∨ 256 ≤ fld v 28 32 ∨ fld v 8 64 % 8 ≠ 0 ∨ 8 ≤ fld v 24 32) →
      exec .cond s = .next (s.stopBad q)) ∧
    (s.atCommand x q v 9 → zeroFrom v 16 = false → exec .graph s = .next (s.stopBad q)) ∧
    (s.atCommand x q v 11 → (zeroFrom v 24 = false ∨ 4 ≤ fld v 16 64 ∨ x.tring = 0) → exec .resume s = .next (s.stopBad q))) ∧
  ((∀ (s u t : State) (x : Session) (q : QueueCtx) (v b code : Nat) (ins : Instr), s.atCommand x q v 10 → zeroFrom v 16 = true →
    s.sxNum x (fld v 8 64) 64 = .ok b →
    (ins = .snapshotOpen ∧ (fld b 8 8 = 0 ∨ 2 < fld b 8 8) ∨ ins = .snapshotPublish ∧ fld b 8 8 = 1 ∨ ins = .snapshotClose ∧ fld b 8 8 = 2) →
    snapRun s x (fld v 8 64) b = .status u code → u.sxWriteNum x (fld v 8 64 + 33) 1 code = .ok t →
    exec ins s = .next (t.goOn q.queue nextCmdOf)) ∧
  (∀ (s : State) (x : Session) (q : QueueCtx) (v b : Nat) (ins : Instr), s.atCommand x q v 10 → zeroFrom v 16 = false →
    s.sxNum x (fld v 8 64) 64 = .ok b →
    (ins = .snapshotOpen ∧ (fld b 8 8 = 0 ∨ 2 < fld b 8 8) ∨ ins = .snapshotPublish ∧ fld b 8 8 = 1 ∨ ins = .snapshotClose ∧ fld b 8 8 = 2) →
    exec ins s = .next (s.stopBad q)) ∧
  (∀ (s t : State) (x : Session) (base new vword : Nat) (h : SnapHead), new < h.maps → snapRead s x (readersAt base new) 8 = .ok 0 →
    new ≠ h.vword % 256 →
    (h.vword ≠ vword → snapPublish s x base vword new h = .status (s.releaseOn (s.coresOf x.slot) 4) 2) ∧
    (h.vword = vword → snapWrite8 (s.releaseOn (s.coresOf x.slot) 4) x base (((h.vword / 256 + 1) * 256 + new) % 2 ^ 64) = .ok t →
      snapPublish s x base vword new h = .status t 0)))

/-- Sessions: they are created from a record, destroyed, frozen and thawed by the session commands, and reset by a command or a
watchdog; a reset ends when every launch of the session has completed (22 R400 to R404).

It rests on choices of the model: log entry 44. -/
def Obligations.SessionEvents : Prop :=
  (∀ s : State, scmdOp s.ctrl.scmd = 1 → s.session? (scmdSlot s.ctrl.scmd) = none →
    (∀ v, s.dev (s.recordAt (scmdSlot s.ctrl.scmd)) 256 = some v → recordOk v = true → s.goodTrec (fld v 16 64) = true →
      exec .create s = .next (((s.addSession ((newSession (scmdSlot s.ctrl.scmd) v (s.nextIncarnation (scmdSlot s.ctrl.scmd))).measure 1
        (sha512 (s.phys.bytesAt (fld v 16 64) 256)))).postSession (scmdSlot s.ctrl.scmd)).scmdEnd 0))) ∧
  (∀ (s : State) (x : Session), s.session? (scmdSlot s.ctrl.scmd) = some x →
    (scmdOp s.ctrl.scmd = 1 → exec .create s = .next (s.scmdEnd 2)) ∧
    (scmdOp s.ctrl.scmd = 2 → x.st = .idle → s.queuesOwned x.slot = [] → exec .destroy s = .next ((s.removeSession x).scmdEnd 0)) ∧
    (scmdOp s.ctrl.scmd = 2 → x.st = .idle → s.queuesOwned x.slot ≠ [] → exec .destroy s = .next (s.scmdEnd 3)) ∧
    (scmdOp s.ctrl.scmd = 3 → x.st = .idle →
      exec .freeze s = .next ((((s.setFrozen x true).modSession x.slot fun y => { y with st := .frozen }).postSession x.slot).scmdEnd 0)) ∧
    (scmdOp s.ctrl.scmd = 4 → x.st = .frozen →
      exec .thaw s = .next (((((s.setFrozen x false).modSession x.slot fun y => { y with st := .idle }).postSession x.slot).wake x.slot).scmdEnd 0)) ∧
    (scmdOp s.ctrl.scmd = 5 → x.st ≠ .resetting → exec .scmdReset s = .next ((s.beginReset x.slot).scmdEnd 0)) ∧
    (scmdOp s.ctrl.scmd = 5 → x.st = .resetting → exec .scmdReset s = .next (s.scmdEnd 2))) ∧
  (∀ (s : State) (queue : Nat) (q : QueueCtx) (x : Session), s.ctxOf queue = some q → s.session? q.session = some x → s.watched x queue = true →
    s.unitBlocked x.slot 6 = false → ∀ u, s.tryRecord x false (plainRecord x 0x10 0 (BitVec.ofNat 64 queue) 0) = .ok u →
    exec (.watchdogFire queue) s = .next (((u.modSession x.slot fun y =>
      { y with watchdogs := y.watchdogs ++ [queue] }).beginReset x.slot).unitClear x.slot 6)) ∧
  (∀ (s : State) (session : Nat) (x : Session), s.session? session = some x → x.st = .resetting → (∀ l ∈ s.launches, l.session ≠ session) →
    exec (.resetComplete session) s = .next (s.endReset x))

/-- Verbena's commands on its key slots, each from the state its rule names and with a STATUS (23 R407, R408, R415, R417), and the ends
of worlds and of retiring slots (23 R407, R411).

Alarms and errors: a sensor or key-store alarm is raised and acts by its policy (23 R418); a write of ALARM_POL that lowers
no field is taken, and any other is discarded with LIMIT (23 R418, 24 R423); a region's corrected errors count to LIMIT within a window,
the one that comes with the window's end in the new window, and at LIMIT the region is marked; a window ends when its length has
passed; an uncorrected error poisons its line or stops its unit (23 R419).

It rests on choices of the model: log entries 8, 36, 37, 41. -/
def Obligations.KeyTrustAndErrors : Prop :=
  (∀ (s : State),
    (let n := vbSlot s.ctrl.vbCmd
     let k := s.keySlot n
     (∀ bs, vbOp s.ctrl.vbCmd = 1 → k.st = .empty → s.vbBytes 512 = some bs →
       exec .provision s = .next (match provisionBlob n bs with
         | some (key, dom) => (s.modKey n fun k =>
             { k with st := .provisioned, key := BitVec.ofNat 256 key, domainKind := dom, domain := 0 }).vbEnd 0 0
         | none => s.vbEnd 4 0)) ∧
     (vbOp s.ctrl.vbCmd = 2 → k.st = .provisioned →
       exec .activate s = .next ((s.modKey n fun k => { k with st := .active, epoch := k.epoch + 1 }).vbEnd 0 0)) ∧
     (∀ x, vbOp s.ctrl.vbCmd = 3 → k.st = .active → k.domainKind = false → s.session? (vbSession s.ctrl.vbCmd) = some x →
       (x.st = .idle ∨ x.st = .frozen) → x.keySlot = none →
       exec .bind s = .next (((s.modSession x.slot fun y => { y with keySlot := some n }).modKey n fun z =>
         { z with bindings := z.bindings + 1 }).vbEnd 0 (handleOf s.vault n k x))) ∧
     (vbOp s.ctrl.vbCmd = 9 → k.st = .active → k.domainKind = true → s.domainKey (vbDomain s.ctrl.vbCmd) = none → vbDomain s.ctrl.vbCmd ≠ 0 →
       exec .domainKey s = .next ((s.modKey n fun k => { k with domain := vbDomain s.ctrl.vbCmd }).vbEnd 0 0)) ∧
     (vbOp s.ctrl.vbCmd = 4 → k.st = .active → exec .retire s = .next ((s.modKey n fun k => { k with st := .retiring }).vbEnd 0 0)) ∧
     (vbOp s.ctrl.vbCmd = 5 → (k.st = .provisioned ∨ k.st = .active ∨ k.st = .retiring) →
       exec .revoke s = .next ((s.revokeKey n).vbEnd 0 0)) ∧
     (vbOp s.ctrl.vbCmd = 6 → k.st = .revoked → exec .clear s = .next ((s.modKey n KeySlot.emptied).vbEnd 0 0)) ∧
     (vbOp s.ctrl.vbCmd = 4 → k.st ≠ .active → exec .retire s = .next (s.vbEnd 2 0))) ∧
    (∀ x nonce, vbOp s.ctrl.vbCmd = 7 → s.session? (vbSession s.ctrl.vbCmd) = some x → s.vbBytes 64 = some nonce →
      exec .evidence s = .next ((s.devPut (s.ctrl.vbParam.toNat + 64)
        (evidenceBytes s x nonce ++ toLE 512 (Config.attest (evidenceBytes s x nonce)).toNat)).vbEnd 0 0)) ∧
    (vbOp s.ctrl.vbCmd = 8 → 4 ≤ s.vault.unlockFails → exec .unlock s = .next (s.vbEnd 7 0)) ∧
    (∀ bs, vbOp s.ctrl.vbCmd = 8 → s.vault.unlockFails < 4 → s.vbBytes 1024 = some bs →
      ∃ (t : State) (status : Nat), exec .unlock s = .next (t.vbEnd status 0) ∧
        (tokenOk s bs = true → status = 0 ∧ t.ctrl.debug = true ∧ t.vault.sealNo = s.vault.sealNo + 1 ∧ ∀ k ∈ t.vault.keys, k.st = .empty ∨ k.st = .revoked) ∧
        (tokenOk s bs = false → status = 5 ∧ t.ctrl.debug = s.ctrl.debug ∧ t.vault.sealNo = s.vault.sealNo ∧
          t.vault.unlockFails = s.vault.unlockFails + 1)) ∧
    (∀ w, argMin (fun (w : World) => w.index) (s.worlds.filter s.worldGone) = some w →
      exec .worldFree s = .next { s with worlds := s.worlds.filter fun (v : World) => v.index != w.index }) ∧
    (∀ n, (List.range 64).find? s.keyGone = some n → exec .keySlotEmpty s = .next (s.modKey n KeySlot.emptied))) ∧
  (∀ (s : State),
    exec .sensorAlarm s = .next (s.raise 2 none).settleAlarms ∧ exec .keystoreAlarm s = .next (s.raise 4 none).settleAlarms ∧
    (s.ctrl.polWrite.toNat < 65536 → raisesPolicy s.ctrl.alarmPol.toNat s.ctrl.polWrite.toNat = true →
      exec .alarmpolWrite s = .next { s with ctrl := { s.ctrl with alarmPol := BitVec.ofNat 16 s.ctrl.polWrite.toNat } }) ∧
    (65536 ≤ s.ctrl.polWrite.toNat ∨ (∃ i < 8, bitsOf s.ctrl.polWrite.toNat (2 * i + 1) (2 * i) < bitsOf s.ctrl.alarmPol.toNat (2 * i + 1) (2 * i)) →
      exec .alarmpolWrite s = .next { s with ctrl := { s.ctrl with cfgErr := s.ctrl.cfgErr ||| 8 } }) ∧
    (∀ region : Region, region.ok = true → s.euCount < s.ctrl.euWindow.toNat →
      (let more := (region, s.errors region + 1) :: s.errCount.filter fun (e : Region × Nat) => e.1 != region
       (s.errors region + 1 ≠ s.ctrl.euLimit.toNat → exec (.errorCorrected region) s = .next { s with errCount := more }) ∧
       (s.errors region + 1 = s.ctrl.euLimit.toNat → exec (.errorCorrected region) s =
         .next (({ s with errCount := more, lasting := if region ∈ s.lasting then s.lasting else region :: s.lasting } : State).raise 1
           none).settleAlarms))) ∧
    (∀ region : Region, region.ok = true → s.ctrl.euWindow.toNat ≤ s.euCount → 2 ≤ s.ctrl.euLimit.toNat →
      exec (.errorCorrected region) s = .next { s with errCount := [(region, 1)], euCount := s.euCount % s.ctrl.euWindow.toNat }) ∧
    (∀ pa, exec (.errorUncorrected (.line pa)) s = .next { s with phys := { s.phys with poison := insNat s.phys.poison (pa / 64) } }) ∧
    (∀ u g i, s.groupAt? u.core u.rgs = some g → s.issOf u.core g.gid (g.widen u.who) = some i → statusOf g u.who = .running →
      exec (.errorUncorrected (.unit u)) s = .next (s.takeTrap i i.active (mkTrap 0x12 0))) ∧
    (s.ctrl.euWindow.toNat ≤ s.euCount →
      exec .euWindowEnd s = .next { s with errCount := [], euCount := s.euCount - s.ctrl.euWindow.toNat }) ∧
    (s.euCount < s.ctrl.euWindow.toNat → exec .euWindowEnd s = .next s))

/-- The host's side: writes and reads of memory, atomics (24 R420, 23 R436), registers (24 R423 to R425), RUN, and the LOCK step, which
presupposes a write of CFG_CMD that was accepted, where the spec asks for BOOTRESULT = 1 (24 R426; entry 2), the link and requests on
it that time out (24 R421, R422, R424) and the power domains: cores, dies, encoders and channel pairs are gated when they may be, and
woken (24 R427).

It rests on choices of the model: log entries 2, 23, 38, 39, 40, 42, 74, 86. -/
def Obligations.HostEvents : Prop :=
  ∀ (s : State),
    (∀ pa data, s.ctrl.bootResult = 1 → exec (.hostWrite pa data) s = .next (((lineParts pa data).filter fun p => decide (p.1 < 384 * 2 ^ 30)).foldl
      (fun (t : State) p => t.hostPut p.1 p.2) s).settleAlarms) ∧
    (∀ pa len, s.ctrl.bootResult = 1 → pa + len ≤ 384 * 2 ^ 30 → (∀ l ∈ linesOf pa len, s.keyed l = false ∧ s.phys.poison.contains l = false) →
      s.alarmTodo = [] →
      ∃ t, exec (.hostRead (.memory pa) len) s = .next t ∧ t.hostData = some ((List.range len).map fun j => spGet s.phys.bytes (pa + j)) ∧
        t.phys.bytes = s.phys.bytes ∧ t.cores = s.cores ∧ t.sessions = s.sessions) ∧
    (∀ op pa wide a b,
      (let n := if wide then 8 else 4
       s.ctrl.bootResult = 1 → pa % n = 0 → pa < 384 * 2 ^ 30 → s.keyed (pa / 64) = false → s.phys.poison.contains (pa / 64) = false →
       exec (.hostAtomic op pa wide a b) s = .next { s.hostPut pa (toLE n (hostAtomicNew op (8 * n) (s.phys.num pa n) a.toNat b.toNat)) with
         hostData := some (toLE n (s.phys.num pa n)) })) ∧
    (∀ op pa wide a b, s.ctrl.bootResult = 1 → pa % (if wide then 8 else 4) = 0 → 384 * 2 ^ 30 ≤ pa →
      exec (.hostAtomic op pa wide a b) s = .next { s with hostData := some (toLE (if wide then 8 else 4) 0) }) ∧
    (∀ pa data off width v, s.ctrl.bootResult ≠ 1 → off / 8 ≠ 3 →
      exec (.hostWrite pa data) s = .next { s with ctrl := { s.ctrl with cfgErr := s.ctrl.cfgErr ||| 16 } } ∧
      exec (.registerWrite ⟨off, width⟩ v) s = .next { s with ctrl := { s.ctrl with cfgErr := s.ctrl.cfgErr ||| 16 } }) ∧
    (∀ off width v, s.ctrl.bootResult = 1 →
      (width = 8 → off % 8 = 0 → exec (.registerWrite ⟨off, width⟩ v) s = .next (s.writeRegister off v)) ∧
      (width ≠ 8 ∨ off % 8 ≠ 0 →
        exec (.registerWrite ⟨off, width⟩ v) s = .next { s with ctrl := { s.ctrl with cfgErr := s.ctrl.cfgErr ||| 2 } })) ∧
    (∀ off width, (s.ctrl.bootResult = 1 ∨ off < 0x1000) →
      (∀ n, width = 8 → off % 8 = 0 → s.register off = some n →
        exec (.hostRead (.control off) width) s = .next { s with hostData := some (toLE 8 n) }) ∧
      (width = 8 → off % 8 = 0 → s.register off = none → exec (.hostRead (.control off) width) s =
        .next { s with ctrl := { s.ctrl with cfgErr := s.ctrl.cfgErr ||| 4 }, hostData := some (toLE 8 0) }) ∧
      (width ≠ 8 ∨ off % 8 ≠ 0 → exec (.hostRead (.control off) width) s =
        .next { s with ctrl := { s.ctrl with cfgErr := s.ctrl.cfgErr ||| 2 }, hostData := some (toLE width 0) })) ∧
    (∀ v, s.ctrl.bootResult = 1 → s.ctrl.cfgState = 0 → v.toNat % 4096 = 0 →
      ∃ t, exec (.registerWrite ⟨0x1008, 8⟩ v) s = .next t ∧ t.register 0x1008 = some v.toNat ∧ t.ctrl.cfgErr = s.ctrl.cfgErr) ∧
    (∀ v, s.ctrl.bootResult = 1 → s.ctrl.cfgState ≠ 0 →
      exec (.registerWrite ⟨0x1008, 8⟩ v) s = .next { s with ctrl := { s.ctrl with cfgErr := s.ctrl.cfgErr ||| 1 } }) ∧
    (s.ctrl.cfgState = 0 → s.ctrl.stabBase.toNat % 4096 = 0 → s.ctrl.mqtBase.toNat % 4096 = 0 → 10000 ≤ s.ctrl.slice.toNat →
      s.ctrl.relBase.toNat % 4096 = 0 → 6 ≤ s.ctrl.relCap → s.ctrl.relCap ≤ 20 → s.ctrl.dbmBase0.toNat % 4096 = 0 →
      s.ctrl.dbmBase1.toNat % 4096 = 0 → 2 ^ 20 ≤ s.ctrl.euWindow.toNat → 2 ≤ s.ctrl.euLimit.toNat → 10000 ≤ s.ctrl.pwrIdle.toNat →
      exec .lock s = .next { s with ctrl := { s.ctrl with cfgState := 1 } }) ∧
    (s.ctrl.cfgState = 1 → exec .run s = .next { s with ctrl := { s.ctrl with cfgState := 2 } }) ∧
    (s.ctrl.cfgState ≠ 1 → exec .run s = .next { s with ctrl := { s.ctrl with cfgErr := s.ctrl.cfgErr ||| 16 } }) ∧
    (∀ n t, s.textures[n]? = some t → 100000000 < t.age → exec (.linkRequestTimeout (.texture n)) s = .next (failStream s t)) ∧
    exec (.linkRequestTimeout .access) s = .next (if s.ctrl.linkUp then { s with linkLate := 2 } else s) ∧
    (if Config.freeBool (s.freeCtr + 65306) then exec .linkDown s = .next (s.textures.foldl failStream { s with
        phys := { s.phys with hostOwned := [] }, ctrl := { s.ctrl with linkUp := false } })
      else ∃ t, exec .linkDown s = .next (s.textures.foldl failStream t) ∧ t.ctrl.linkUp = false ∧ t.ctrl.hostLoss = true ∧
        t.phys.hostOwned = [] ∧ (∀ l ∈ s.phys.hostOwned, l ∈ t.phys.poison ∧ l ∈ t.phys.hostPoison) ∧ t.phys.bytes = s.phys.bytes ∧
        t.cores = s.cores) ∧
    exec .linkUp s = .next { s with ctrl := { s.ctrl with linkUp := true } } ∧
    (∃ t, exec .hlScrub s = .next t ∧ t.phys.hostPoison = [] ∧ t.ctrl.poisoned = 0 ∧ t.sessions = s.sessions ∧
      ((∀ c ∈ s.cores, ∀ g ∈ c.active.groups, ∀ b ∈ g.bands, ∀ x ∈ b.lanes, x.txn.active = false) → t.cores = s.cores) ∧
      (∀ a, a / 64 ∈ s.phys.hostPoison → spWf s.phys.bytes = true → s.ctrl.dbmEnable = false → spGet t.phys.bytes a = 0) ∧
      (∀ a, a / 64 ∉ s.phys.hostPoison → spWf s.phys.bytes = true → s.ctrl.dbmEnable = false → spGet t.phys.bytes a = spGet s.phys.bytes a)) ∧
    (∀ n, s.mayGate (.core n) = true → exec (.powerGate (.core n)) s =
      .next (((s.gateCache (.l1 n)).modCore n Core.gated).setCtrl fun c =>
        { c with pwrCores := c.pwrCores ||| BitVec.ofNat 64 (2 ^ n) })) ∧
    (∀ n, exec (.powerWake (.core n)) s =
      .next { s with idle := alDel s.idle n, ctrl := { s.ctrl with pwrCores := s.ctrl.pwrCores &&& ~~~ (BitVec.ofNat 64 (2 ^ n)) } }) ∧
    (∀ n, n < 4 → (∀ k < 16, s.ctrl.pwrCores.getLsbD (16 * n + k) = true) → exec (.powerGate (.die n)) s =
      .next ({ s.gateCache (.l2 n) with tlb2 := s.tlb2.filter fun (e : Nat × TlbEntry) => e.1 != n }.setCtrl fun c =>
        { c with pwrDie := c.pwrDie ||| BitVec.ofNat 4 (2 ^ n) })) ∧
    (∀ n, n < 8 → (∀ e ∈ s.encoders, e.engine ≠ n) → s.idleLong (64 + n) = true → exec (.powerGate (.encoder n)) s =
      .next { s with
        encDone := s.encDone.filter fun (e : Nat × List Byte) => e.1 != n
        ctrl := { s.ctrl with pwrEnc := s.ctrl.pwrEnc ||| BitVec.ofNat 8 (2 ^ n) } }) ∧
    (∀ n, n < 6 → s.idleLong (72 + n) = true → exec (.powerGate (.channel n)) s =
      .next { s with ctrl := { s.ctrl with pwrChan := s.ctrl.pwrChan ||| BitVec.ofNat 6 (2 ^ n) } }) ∧
    (∀ d, s.mayGate d = false → exec (.powerGate d) s = .next s) ∧
    (∀ n, exec (.powerWake (.die n)) s = .next { s with ctrl := { s.ctrl with pwrDie := s.ctrl.pwrDie &&& ~~~ (BitVec.ofNat 4 (2 ^ n)) } } ∧
      exec (.powerWake (.encoder n)) s = .next { s with
        idle := alDel s.idle (64 + n), ctrl := { s.ctrl with pwrEnc := s.ctrl.pwrEnc &&& ~~~ (BitVec.ofNat 8 (2 ^ n)) } } ∧
      exec (.powerWake (.channel n)) s = .next { s with
        idle := alDel s.idle (72 + n), ctrl := { s.ctrl with pwrChan := s.ctrl.pwrChan &&& ~~~ (BitVec.ofNat 6 (2 ^ n)) } })

/-- Module reset boots: with good images boot is complete and LPDDR is clear, and a bad image stops it at its step, with the
images accepted before it measured; either way the module
is in CONFIG_OPEN with no session, core context, queue or key, and the sealing key stands (24 R425, R426).

At reset nothing has still to act, no unit issues, and memory lists nothing in its canonical form.

It rests on choices of the model: log entries 5, 6, 8, 43. -/
def Obligations.ResetAndBoot : Prop :=
  (∀ (s : State),
    ∃ t, exec .moduleReset s = .next t ∧ t.ctrl.cfgState = 0 ∧ t.ctrl.schedEnable = false ∧
      t.ctrl.debug = false ∧ t.ctrl.alarms = 0 ∧ t.sessions = [] ∧ t.launches = [] ∧ t.queues = [] ∧ t.cmds = [] ∧ t.nodes = [] ∧
      t.worlds = [] ∧ (∀ c ∈ t.cores, c.session = none ∧ c.active.groups = [] ∧ c.shadow = .empty) ∧
      (∀ k ∈ t.vault.keys, k.st = .empty) ∧ t.vault.sealNo = s.vault.sealNo ∧
      (match bootImage 2 0 0 with
        | none => t.ctrl.bootStep = 1 ∧ t.ctrl.bootResult = 2
        | some m => (match bootImages 4 ((List.range 32).map (· + 1)) m with
            | (m2, false) => t.ctrl.bootStep = 3 ∧ t.ctrl.bootResult = 2 ∧ t.vault.devMeas = m2
            | (m2, true) => t.ctrl.bootStep = 5 ∧ t.ctrl.bootResult = 1 ∧ t.vault.devMeas = m2) ∧
          (∀ a < 384 * 2 ^ 30, spWf s.phys.bytes = true → spGet t.phys.bytes a = 0) ∧ t.phys.poison = [])) ∧
  (State.reset.Settled ∧ Memory.wf State.reset.phys.bytes = true ∧ State.reset.phys.bytes = [] ∧ State.reset.ctrl.bootResult ≠ 1 ∧
    State.reset.cores.length = 64)

/-- Every step that answers a next state leaves it settled: no unit is issuing, no store still meets another party's transaction,
and every raised alarm has acted (23 R418). -/
def Obligations.StepKeepsSettled : Prop :=
  ∀ (s t : State), s.Settled → step s = .next t → t.Settled

/-- Every step that answers a next state keeps memory in its canonical form, in which equal memories are equal data. -/
def Obligations.StepKeepsMemoryForm : Prop :=
  ∀ (s t : State), Memory.wf s.phys.bytes = true → step s = .next t → Memory.wf t.phys.bytes = true

/-- A unit of lanes of a launch that is not versioned, outside in-stream delivery, with a trap that is not a page fault: its record is
written at the ring's WPTR, which moves on, and every runnable lane of the unit is stopped as TRAPPED with the record's number; a trap
in privileged state is `MACHINE_CHECK` NESTED with the original code in DETAIL; with no ring the launch ends with status TRAP (20 R339,
R341, R343; 22 R437).

What taking a trap is: a fragment is split off where the lanes at the trap's PC are not all that still run in their part of the band,
one fragment for each PC (01 R28, 20 R346); a `PAGE_FAULT` writes its record, where there is a ring, and parks its unit on the batch
of its pages, or is delivered with DECLINED where there is no service (20 R347, R348); any other trap of the unit is delivered. Record
n lies at the ring's address + 64 · (1 + n mod its capacity), and WRITTEN then counts it (20 R341).

In-stream delivery makes every lane of the unit privileged, saves its masks, flags, window, PC and repeat state in its trap frame,
opens a window of 32 zeros above its old one, clears k1 to k7 and sends it to the handler, where the block has room for the window and
its positions are resident (20 R344).

A lane that is resumed at its trapping instruction executes it again where the trap replays, and goes on after it where it was a
software trap; action 1 goes on after it, and action 2 ends the lanes that acted (20 R345).

It rests on choices of the model: log entry 52. -/
def Obligations.TrapDelivery : Prop :=
  (∀ (s : State) (i : Iss) (unit acted : LaneMask) (b : Band) (t : Trap),
    i.launch.desc.versioned = false → i.group.ver = none →
    (let tn := if i.priv then
       { t with code := BitVec.ofNat 8 0x12, sub := 1, detail := t.detail &&& 0xFF00 ||| t.code.setWidth 16 } else t
     (i.sess.tring = 0 → s.deliver i unit acted b t = s.endLaunch i.sess.slot i.launch.number 3) ∧
     (∀ s1 n, s.ringWrite i.sess (recordBytes i t.clock (unitInfo i b unit acted) tn false) = (s1, .done n) →
       (i.priv = true ∨ i.sess.tvec = 0 ∨ i.sess.tdeleg.getLsbD t.code.toNat = false ∨ 0x10 ≤ t.code.toNat ∨ ∀ b m, i.who ≠ .lanes b m) →
       s.deliver i unit acted b t = s1.setStatus i unit (.trapped tn (some n))) ∧
     (∀ s1, s.ringWrite i.sess (recordBytes i t.clock (unitInfo i b unit acted) tn false) = (s1, .full) →
       (i.priv = true ∨ b.handlerFits unit i.sess.rsDepth = true ∨ i.sess.tvec = 0 ∨ i.sess.tdeleg.getLsbD t.code.toNat = false ∨
         0x10 ≤ t.code.toNat ∨ ∀ b m, i.who ≠ .lanes b m) →
       s.deliver i unit acted b t = s1.setStatus i unit (.held t none)))) ∧
  ((∀ (s : State) (i j0 : Iss) (acted : LaneMask) (t : Trap),
    (let l0 := (lanesOf i.active).headD 0
     let tk := t.taken s i acted
     let s0 := s.tagCheck i.sess t
     let s1 := match i.who with
       | .lanes b _ => s0.modGroupOn i.core i.group.gid fun g => g.modBand b fun x => x.splitFor l0
       | _ => s0
     let j : Iss := { j0 with active := i.active, pc := i.pc, priv := i.priv }
     let unit := if j.lead then 1 else j.bandOf.unitLanes l0
     let rec_ := recordBytes j tk.clock (unitInfo j j.bandOf unit acted) tk false
     s1.issOf i.core i.group.gid i.who = some j0 →
     (t.code.toNat ≠ 0x0B → t.code.toNat ≠ 8 → s.takeTrap i acted t = s1.deliver j unit acted j.bandOf tk) ∧
     (t.code.toNat = 0x0B → i.launch.desc.policy = true → s.takeTrap i acted t = s1.restart i.group.gid true) ∧
     (t.code.toNat = 8 →
       (∀ s2 s3 n k, s1.ringWrite j.sess rec_ = (s2, .done n) → s2.fring j.sess ≠ 0 →
         s2.faultBatch j.sess t.pages (t.sub.toNat % 4) false = some (s3, k) →
         s.takeTrap i acted t = s3.setStatus j unit (.faulted k tk (some n))) ∧
       (∀ s3 k, j.sess.tring = 0 → s1.fring j.sess ≠ 0 → s1.faultBatch j.sess t.pages (t.sub.toNat % 4) false = some (s3, k) →
         s.takeTrap i acted t = s3.setStatus j unit (.faulted k tk none)) ∧
       (∀ s2 n, s1.ringWrite j.sess rec_ = (s2, .done n) → s2.fring j.sess = 0 →
         s.takeTrap i acted t = s2.deliver j unit acted j.bandOf { tk with sub := tk.sub ||| 4 })))) ∧
  (∀ (b : Band) (l : Nat),
    (∀ f ∈ b.classes (b.partOf l), ∀ m n, m < 32 → n < 32 → f.getLsbD m = true → f.getLsbD n = true →
      (b.lane m).pc = (b.lane n).pc ∧ (b.lane m).runnable = true ∧ (b.partOf l).getLsbD m = true) ∧
    (∀ m < 32, (b.partOf l).getLsbD m = true → (b.lane m).runnable = true → ∃ f ∈ b.classes (b.partOf l), f.getLsbD m = true) ∧
    ((b.classes (b.partOf l)).length ≤ 1 → b.splitFor l = b) ∧
    (1 < (b.classes (b.partOf l)).length → b.splitFor l =
      { b with frags := (b.frags.filter fun m => m != b.partOf l) ++ b.classes (b.partOf l) })) ∧
  (∀ (s s2 : State) (x : Session) (i : Iss) (clock : Dword) (u : UnitInfo) (t : Trap) (vdisc : Bool) (n : Nat),
    s.ringWrite x (recordBytes i clock u t vdisc) = (s2, .done n) →
    ∃ c s1, s.sxNum x x.tring.toNat 8 = .ok n ∧ s.sxNum x (x.tring.toNat + 8) 8 = .ok c ∧ n - c < 2 ^ x.tringcap.toNat ∧
      s.sxWrite x (x.tring.toNat + 64 * (1 + n % 2 ^ x.tringcap.toNat)) (recordBytes i clock u t vdisc) = .ok s1 ∧
      s1.sxWriteNum x x.tring.toNat 8 (n + 1) = .ok s2)) ∧
  ((∀ (s : State) (i : Iss) (unit acted : LaneMask) (b : Band) (t : Trap) (s1 s2 : State) (n bi : Nat) (m : LaneMask),
    i.who = .lanes bi m → i.priv = false → i.launch.desc.versioned = false → i.group.ver = none → i.sess.tring ≠ 0 → i.sess.tvec ≠ 0 →
    i.sess.tdeleg.getLsbD t.code.toNat = true → t.code.toNat < 0x10 → b.handlerFits unit i.sess.rsDepth = true →
    s.ringWrite i.sess (recordBytes i t.clock (unitInfo i b unit acted) t false) = (s1, .done n) →
    s1.deliverInStream i unit (i.sess.tring + BitVec.ofNat 64 (64 * (1 + n % 2 ^ i.sess.tringcap.toNat))) t acted = some s2 →
    s.deliver i unit acted b t = s2) ∧
  (∀ (s : State) (i : Iss) (unit acted : LaneMask) (trec : Dword) (b : Band) (t : Trap), i.group.bands[i.band]? = some b →
    (∀ l ∈ lanesOf unit, (b.lane l).base + (b.lane l).size + 32 ≤ i.sess.rsDepth ∧
      (b.lane l).base + (b.lane l).size + 32 ≤ (b.lane l).lo + i.launch.desc.blockRegs ∧ (b.lane l).lo ≤ (b.lane l).base + (b.lane l).size) →
    (let top (l : Nat) : Nat := (b.lane l).base + (b.lane l).size
     let z (l : Nat) : Lane := (({ (b.lane l).emptyWindow with
       marks := (b.lane l).marks.filter fun m => !(decide (top l ≤ 8 * m) && decide (8 * m < top l + 32)) } : Lane).enterWindow (top l)
         (top l + 32)).dropBelow (b.lane l).lo
     s.deliverInStream i unit trec t acted = some ((lanesOf unit).foldl (fun u l => u.modGroupOn i.core i.group.gid fun g =>
       g.modLane i.band l fun y =>
         { z l with
           txn := y.txn, issued := [], priv := true, trec := trec, status := .running, wait := .none, k := 0, rep := none, base := top l, size := 32
           pc := i.sess.tvec
           frame := some { k := (b.lane l).k, fpflags := (b.lane l).fpflags, base := (b.lane l).base, size := (b.lane l).size
                           pc := (b.lane l).pc, code := t.code, lanes := acted, rep := (b.lane l).rep } }) s) ∧
     ∀ l ∈ lanesOf unit, top l % 8 = 0 → ∀ p, top l ≤ p → p < top l + 32 → spGet (z l).regs p = 0))) ∧
  (∀ (x : Lane) (rule : Nat) (acted : Bool),
    (rule ≠ 0x0F → x.resume rule 0 acted = { x with status := .running, wait := .none }) ∧
    (rule = 0x0F → x.resume rule 0 acted = ({ x with status := .running, wait := .none } : Lane).advance) ∧
    x.resume rule 1 acted = ({ x with status := .running, wait := .none } : Lane).advance ∧
    x.resume rule 2 true = x.exit ∧ x.resume rule 2 false = ({ x with status := .running, wait := .none } : Lane).advance)

/-- An instruction that computes results in registers and completes changes nothing but its issuing unit's registers and flags, when every
position written is resident (no spill): every session, launch, queue, command, ring, page table, byte of memory and register of the
control space stays as it was, and every other core, on its own core the engines, slots, TLB and every other group, and in its group the
scratchpad, tiles, matrix slots, streams, back queue and barriers, the forward queues and the other bands; in the lane stream the lead
stream and the g registers, in the lead stream the bands and every other g register. The signatures of a task may grow by what its
spilled operands load (08 R161, 03 R57, 20 R350).

What such an instruction leaves of the issuing band's lanes: a lane changes in nothing but its PC and repeat state, its registers with
their forwarding window and kill marks, its exception flags and its draw counter, and every position outside the destination keeps its
value; a lane that is not enabled keeps all of these but its PC and repeat state, and one that is not active changes in nothing. An
enabled lane's flags are the old ones or'ed with those its result raises, and its draw counter moves on by the draws its result takes
(08 R161, R173; 03 R60; 04 R77).

It rests on choices of the model: log entry 13. -/
def Obligations.RegisterFrame : Prop :=
  (∀ (s t : State) (i : Iss) (ins : Instr) (o : RegOp) (vals : Nat → List Nat),
    (intOp i.rep ins = some o ∨ floatOp i.rep ins = some o ∨ convertOp i.rep ins = some o ∨ wordOp i ins = some o) →
    Ready s i o.view → o.reads s i vals →
    (i.lead = true ∨ ∀ l ∈ i.lanes (i.en o.view), ∀ n < (if tyWide o.dt then 2 else 1),
      (i.group.lane i.band l).lo ≤ (i.group.lane i.band l).base + (o.d.idx.toNat + n)) →
    exec ins s = .next t →
    t = { s with cores := t.cores } ∧ t.cores.length = s.cores.length ∧ (∀ c, c ≠ i.core → t.core c = s.core c) ∧
    (∀ g, g ≠ i.group.gid →
      ((t.core i.core).active.groups.find? fun h => h.gid == g) = ((s.core i.core).active.groups.find? fun h => h.gid == g)) ∧
    t.core i.core = { s.core i.core with active := { (s.core i.core).active with groups := (t.core i.core).active.groups } } ∧
    (∀ g, ((t.core i.core).active.groups.find? fun h => h.gid == i.group.gid) = some g →
      g = { i.group with lead := g.lead, bands := g.bands, g := g.g, ver := g.ver } ∧
      (i.group.ver = none → g.ver = none) ∧
      (∀ v, i.group.ver = some v → ∃ rs ws, g.ver = some { v with rs := v.rs ||| rs, ws := v.ws ||| ws }) ∧
      (i.lead = false → g.lead = i.group.lead ∧ g.g = i.group.g ∧ ∀ b, b ≠ i.band → g.bands[b]? = i.group.bands[b]?) ∧
      (∀ b, g.bands[i.band]? = some b → b = { i.bandOf with lanes := b.lanes } ∧ b.lanes.length = i.bandOf.lanes.length) ∧
      (i.lead = true → g.bands = i.group.bands ∧ g.lead = { i.group.lead with pc := g.lead.pc, rep := g.lead.rep } ∧
        ∀ n, n ≠ o.d.idx.toNat → spWf i.group.g = true → spGet g.g n = spGet i.group.g n))) ∧
  (∀ (s t : State) (i : Iss) (ins : Instr) (o : RegOp) (vals : Nat → List Nat) (l pos : Nat) (g : Group),
    (intOp i.rep ins = some o ∨ floatOp i.rep ins = some o ∨ convertOp i.rep ins = some o ∨ wordOp i ins = some o) →
    Ready s i o.view → o.reads s i vals → i.lead = false → l < 32 →
    (∀ m ∈ i.lanes (i.en o.view), ∀ n < (if tyWide o.dt then 2 else 1),
      (i.group.lane i.band m).lo ≤ (i.group.lane i.band m).base + (o.d.idx.toNat + n)) →
    exec ins s = .next t → ((t.core i.core).active.groups.find? fun h => h.gid == i.group.gid) = some g →
    (let x := i.group.lane i.band l
     let y := g.lane i.band l
     y = { x with pc := y.pc, rep := y.rep, regs := y.regs, win := y.win, killed := y.killed, fpflags := y.fpflags, dcount := y.dcount } ∧
     (i.active.getLsbD l = false → y = x) ∧
     ((i.en o.view).getLsbD l = false → y = { x with pc := y.pc, rep := y.rep }) ∧
     ((i.en o.view).getLsbD l = true →
       y.fpflags = x.fpflags ||| BitVec.ofNat 5 (o.fn l (i.draw24 l) (vals l)).fl ∧
       y.dcount = x.dcount + BitVec.ofNat 32 (o.fn l (i.draw24 l) (vals l)).draws) ∧
     ((∀ n < (if tyWide o.dt then 2 else 1), pos ≠ x.base + (o.d.idx.toNat + n)) → spWf x.regs = true → spGet y.regs pos = spGet x.regs pos)))

/-- Each of `k0` to `k7` holds one bit per lane, and the lead stream has a set of its own; `k0` reads as one and ignores writes,
in both streams; a guard (kN) enables a lane whose bit in kN is 1, and (!kN) one whose bit is 0 (03 R60). -/
def Obligations.MaskRegisters : Prop :=
  (∀ (k : BitVec 8) (n m : Nat) (v : Bool), m < 8 →
    kBit (setK k n v) 0 = true ∧ setK k 0 v = k ∧ (0 < n → m = n → kBit (setK k n v) m = v) ∧ (m ≠ n → kBit (setK k n v) m = kBit k m)) ∧
  (∀ (s : State) (i : Iss) (l n : Nat) (v : Bool),
    s.wrK i l n v = s.modGroupOn i.core i.group.gid fun g =>
      if i.lead then { g with lead := { g.lead with k := setK g.lead.k n v } }
      else g.modLane i.band l fun x => { x with k := setK x.k n v }) ∧
  (∀ (i : Iss) (g : Guard) (l : Nat), i.lead = false → l < 32 →
    ((i.enabled g).getLsbD l = true ↔
      i.active.getLsbD l = true ∧ kBit (i.group.lane i.band l).k g.mask.toNat = !g.neg)) ∧
  (∀ (i : Iss) (g : Guard), i.lead = true → (i.enabled g ≠ 0 ↔ kBit i.group.lead.k g.mask.toNat = !g.neg))

/-- `STACK_LIMIT` (03 R58): an `ALLOC` or a call that would set BASE + SIZE above the session's register-stack depth (subcode 0), a
call that would push a 4097th link (subcode 1) and a `RET` on an empty link stack (subcode 2) trap the unit, and the instruction
has no effect. -/
def Obligations.StackLimits : Prop :=
  (∀ (s : State) (i : Iss) (f : IForm), Ready s i (viewAlloc f) → f.imm.toNat % 8 = 0 → 8 ≤ f.imm.toNat → f.imm.toNat ≤ 640 →
    (∃ l ∈ i.lanes (i.en (viewAlloc f)), i.sess.rsDepth < (i.group.lane i.band l).base + f.imm.toNat ∧
      ∀ m ∈ i.lanes (i.en (viewAlloc f)), m < l → (i.group.lane i.band m).base + f.imm.toNat ≤ i.sess.rsDepth ∧
        ∃ w, (s.begun i (viewAlloc f)).raiseTop i.sess i.bandOf m (i.group.lane i.band m)
          ((i.group.lane i.band m).base + (i.group.lane i.band m).size) ((i.group.lane i.band m).base + f.imm.toNat)
          (newLo i.launch.desc.blockRegs (i.group.lane i.band m).lo (i.group.lane i.band m).base f.imm.toNat) = .ok w) →
    ∃ t, t.code = 0x0A ∧ t.sub = 0 ∧ exec (.alloc f) s = .next (s.takeTrap i (i.en (viewAlloc f)) t)) ∧
  (∀ (s : State) (i : Iss) (f : BForm) (ins : Instr) (v : View) (indirect : Bool) (target : Nat → Pc) (l : Nat),
    (ins = .call f ∧ v = viewCall f ∧ indirect = false ∧ (∀ m, target m = directTarget i.pc f.loff f.slot 0) ∨
     ins = .calli f ∧ v = viewCalli f ∧ indirect = true ∧ (∀ m ∈ i.lanes (i.en v), rd2 (s.begun i v) i m f.a = .ok (target m))) →
    Ready s i v → l ∈ i.lanes (i.en v) →
    (∀ m ∈ i.lanes (i.en v), m ≤ l → 8 * f.wsh.toNat + 8 ≤ (i.group.lane i.band m).size ∧
      checkTarget (s.begun i v) i m indirect (target m) = .ok () ∧
      (m < l → (i.group.lane i.band m).nlinks < 4096 ∧ (i.group.lane i.band m).base + (i.group.lane i.band m).size ≤ i.sess.rsDepth)) →
    (i.sess.rsDepth < (i.group.lane i.band l).base + (i.group.lane i.band l).size →
      ∃ t, t.code = 0x0A ∧ t.sub = 0 ∧ exec ins s = .next (s.takeTrap i (i.en v) t)) ∧
    ((i.group.lane i.band l).base + (i.group.lane i.band l).size ≤ i.sess.rsDepth → 4096 ≤ (i.group.lane i.band l).nlinks →
      ∃ t, t.code = 0x0A ∧ t.sub = 1 ∧ exec ins s = .next (s.takeTrap i (i.en v) t))) ∧
  (∀ (s : State) (i : Iss) (f : RForm) (r : Nat → RetInfo) (l : Nat), Ready s i (viewRet f) →
    l ∈ i.lanes (i.en (viewRet f)) → (i.group.lane i.band l).nlinks = 0 →
    (∀ m ∈ i.lanes (i.en (viewRet f)), m < l → Returns (s.begun i (viewRet f)) i m (r m)) →
    ∃ t, t.code = 0x0A ∧ t.sub = 2 ∧ exec (.ret f) s = .next (s.takeTrap i (i.en (viewRet f)) t))

/-- A session that passes from IDLE to RUNNABLE takes VT max(VT, Vmin - BOOST), floored at 0, where Vmin is the smallest VT of the
other RUNNABLE and RUNNING sessions, or its own where there are none (22 R397). -/
def Obligations.WakeVirtualTime : Prop :=
  ∀ (s : State) (slot vmin : Nat) (x : Session), s.session? slot = some x → x.st = .idle → s.hasWork slot = true →
    (let others := s.sessions.filter fun y => y.slot ≠ slot ∧ (y.st = .runnable ∨ y.st = .running)
     (others = [] → vmin = x.vt.toNat) ∧
     (others ≠ [] → (∃ y ∈ others, y.vt.toNat = vmin) ∧ ∀ y ∈ others, vmin ≤ y.vt.toNat)) →
    ∃ y, (s.wake slot).session? slot = some y ∧ y.st = .runnable ∧
      (y.vt.toNat : Int) = max (x.vt.toNat : Int) (max ((vmin : Int) - x.boost) 0)
end

