-- ==== Sys2Proof/Laws/Issue.lean ====
section
/-! SUPPORT. What issuing an instruction can do: for a unit that nothing holds back, its body runs once and the unit moves on. -/

namespace Sys2Proof.Machine

open Sys2Proof

@[simp] theorem lanesOf_zero : lanesOf (0#32) = [] := by decide

@[simp] theorem mask_all (x : LaneMask) : x &&& 4294967295#32 = x := by
  have : (4294967295#32 : LaneMask) = BitVec.allOnes 32 := by decide
  rw [this, BitVec.and_allOnes]

theorem mask_not_zero (x : LaneMask) : x &&& ~~~ (0#32) = x := by
  have : (~~~ (0#32) : LaneMask) = BitVec.allOnes 32 := by decide
  rw [this, BitVec.and_allOnes]

@[simp] theorem abortLanes_zero (s : State) (i : Iss) (cause detail : Nat) : s.abortLanes i (0#32) cause detail = s := by
  simp [State.abortLanes]

@[simp] theorem maskOf_false : maskOf (fun _ => false) = 0#32 := by decide

/-- The lead stream issues as one lane. -/
theorem issOf_lead {s : State} {core gid : Nat} {who : Who} {i : Iss} (h : s.issOf core gid who = some i) (hl : i.lead = true) :
    i.active = 1 := by
  unfold State.issOf at h
  split at h
  · cases h
  · split at h
    · split at h <;> cases h <;> simp_all
    · cases h

theorem iss_lead {s : State} {i : Iss} (h : s.iss? = some i) (hl : i.lead = true) : i.active = 1 := by
  unfold State.iss? at h
  split at h
  · cases h
  · split at h
    · cases h
    · exact issOf_lead h hl

/-- What is left of an instruction once its checks have passed. -/
def runBody (post : Iss → LaneMask → State → State) (v : View) (body : Body) (i : Iss) (s : State) : State :=
  match body i (i.en v) (s.begun i v) with
  | .error (.trap t) => s.takeTrap i (i.en v) t
  | .error (.wait w) => s.block i w
  | .ok t => post i (i.en v) t

theorem en_ne_zero {s : State} {i : Iss} {v : View} (hc : i.clear s v = true) : i.en v ≠ 0 := by
  simp only [Iss.clear, Bool.and_eq_true, bne_iff_ne, ne_eq] at hc
  exact hc.1.1.1.1.2

theorem doomed_zero {s : State} {i : Iss} {v : View} (hc : i.clear s v = true) : i.doomed = 0 := by
  simp only [Iss.clear, Bool.and_eq_true, beq_iff_eq] at hc
  exact hc.1.1.1.1.1.1

theorem active_ne_zero {s : State} {i : Iss} {v : View} (h : Ready s i v) : i.active ≠ 0 := by
  intro ha
  cases hl : i.lead
  · apply en_ne_zero h.2
    simp [Iss.en, Iss.enabled, ha, hl]
  · rw [iss_lead h.1 hl] at ha
    exact absurd ha (by decide)

theorem issueCore_clear {s : State} {i : Iss} {v : View} (post : Iss → LaneMask → State → State) (always : Bool) (body : Body)
    (h : Ready s i v) : issueCore v post always body i s = runBody post v body i s := by
  have ha := active_ne_zero h
  have h := h.2
  simp only [Iss.clear, Iss.en, Bool.and_eq_true, beq_iff_eq, bne_iff_ne, Bool.not_eq_true', Option.isNone_iff_eq_none, ne_eq] at h
  obtain ⟨⟨⟨⟨⟨⟨_, h1⟩, h2⟩, h3⟩, h4⟩, h5⟩, h6⟩ := h
  have h5' : (v.uses.any fun u => u.busy i (i.enabled v.g)) = false := by
    rw [List.any_eq_false]; intro u hu
    simpa using (List.all_eq_true.mp h5) u hu
  have h7 : (v.uses.any (fun u => u.busy i (i.enabled v.g)) ||
      (!i.lead && afterDrain v.op && (s.core i.core).draining i.group.gid i.band)) = false := by
    rw [h5']; revert h6; cases i.lead <;> cases afterDrain v.op <;> simp
  have ha' : (i.active == 0) = false := by simpa using ha
  have h2' : (i.enabled v.g == 0) = false := by simpa using h2
  have h3' : i.txnBarred (i.enabled v.g) v.op = 0#32 := h3
  simp only [issueCore, h1, h3', mask_not_zero, abortLanes_zero, runBody, State.begun, Iss.en]
  cases i
  simp only [ha', h4, h2', h7, Bool.false_and, Bool.false_eq_true, if_false]
  all_goals rfl

/-- The one fact about issue: a unit that nothing holds back runs the body of its instruction. -/
theorem issue_ready {s : State} {i : Iss} {vf : Iss → View} (ctl always : Bool) (body : Body) (h : Ready s i (vf i)) :
    issue s vf ctl always body = .next (runBody (moveOn ctl) (vf i) body i s) := by
  have ha := active_ne_zero h
  have hc := issueCore_clear (moveOn ctl) always body h
  cases i
  simp_all [issue, h.1, doomed_zero h.2, issueWith]

theorem issueHold_ready {s : State} {i : Iss} {vf : Iss → View} (body : Body) (h : Ready s i (vf i)) :
    issueHold s vf body = .next (runBody (fun _ _ t => t) (vf i) body i s) := by
  have ha := active_ne_zero h
  have hc := issueCore_clear (fun _ _ t => t) false body h
  cases i
  simp_all [issueHold, h.1, doomed_zero h.2]

/-! ### Lists of lanes -/

theorem mapE_ok {α β ε : Type} {f : α → Except ε β} {g : α → β} : ∀ {xs : List α}, (∀ x ∈ xs, f x = .ok (g x)) → mapE f xs = .ok (xs.map g)
  | [], _ => rfl
  | x :: xs, h => by
    have ih := mapE_ok (f := f) (g := g) (xs := xs) fun y hy => h y (List.mem_cons_of_mem _ hy)
    simp [mapE, h x List.mem_cons_self, ih]

theorem eachE_ok {α ε : Type} {f : α → Except ε Unit} : ∀ {xs : List α}, (∀ x ∈ xs, f x = .ok ()) → eachE f xs = .ok ()
  | [], _ => rfl
  | x :: xs, h => by
    have ih := eachE_ok (f := f) (xs := xs) fun y hy => h y (List.mem_cons_of_mem _ hy)
    simp [eachE, h x List.mem_cons_self, ih]

theorem foldE_map {α β σ ε : Type} (f : σ → β → Except ε σ) (g : α → β) (xs : List α) : ∀ s, foldE f s (xs.map g) = foldE (fun t x => f t (g x)) s xs := by
  induction xs with
  | nil => intro s; rfl
  | cons x xs ih =>
    intro s
    simp only [List.map, foldE]
    cases f s (g x) <;> simp [ih]

/-- A fold whose steps all succeed is a plain fold. -/
theorem foldE_ok {α σ ε : Type} (f : σ → α → σ) (xs : List α) : ∀ s, foldE (ε := ε) (fun t x => .ok (f t x)) s xs = .ok (xs.foldl f s) := by
  induction xs with
  | nil => intro s; rfl
  | cons x xs ih => intro s; simp [foldE, ih]

theorem beside_map {α β γ : Type} (e : Halt) (xs : List α) (g : α → β) (f : β → Except Halt γ) :
    e.beside (xs.map g) f = e.beside xs fun x => f (g x) := by simp [Halt.beside, List.flatMap_map]

theorem foldLanes_map {α β : Type} (f : State → β → Except Halt State) (g : α → β) (s : State) (xs : List α) :
    foldLanes f s (xs.map g) = foldLanes (fun t x => f t (g x)) s xs := by simp [foldLanes, foldE_map, beside_map]

/-- A fold over lanes that goes through is the plain one. -/
theorem foldLanes_ok {α : Type} {f : State → α → Except Halt State} {s t : State} {xs : List α} (h : foldE f s xs = .ok t) :
    foldLanes f s xs = .ok t := by simp [foldLanes, h]

theorem mapLanes_ok {α β : Type} {f : α → Except Halt β} {g : α → β} {xs : List α} (h : ∀ x ∈ xs, f x = .ok (g x)) :
    mapLanes xs f = .ok (xs.map g) := by simp [mapLanes, mapE_ok h]

/-- What one meaning by lanes does when every lane's operands are readable. -/
theorem perLane_ok {α : Type} {i : Iss} {en : LaneMask} {s : State} {read : Nat → Except Halt α} {vals : Nat → α}
    (write : State → Nat → α → Except Halt State) (h : ∀ l ∈ i.lanes en, read l = .ok (vals l)) :
    perLane i en s read write = foldLanes (fun t l => write t l (vals l)) s (i.lanes en) := by
  have : mapLanes (i.lanes en) (fun l => (read l).map fun a => (l, a)) = .ok ((i.lanes en).map fun l => (l, vals l)) :=
    mapLanes_ok fun l hl => by simp [h l hl, Except.map]
  simp [perLane, this, foldLanes_map]

end Sys2Proof.Machine
end

