-- ==== Sys2Proof/Laws/Sparse.lean ====
section
/-! SUPPORT. Sparse arrays: reads after writes, and the canonical form. -/

namespace Sys2Proof

theorem spAbove_mono {w : Nat} {m : Sparse w} : ∀ {a b : Nat}, a ≤ b → spAbove b m = true → spAbove a m = true := by
  cases m with
  | nil => intro a b _ _; rfl
  | cons e m =>
    intro a b hab h
    simp only [spAbove, Bool.and_eq_true, decide_eq_true_eq] at h ⊢
    exact ⟨⟨by omega, h.1.2⟩, h.2⟩

/-- An entry below every listed one reads as zero. -/
theorem spGet_below {w : Nat} {m : Sparse w} : ∀ {a i : Nat}, spAbove a m = true → i < a → spGet m i = 0 := by
  cases m with
  | nil => intros; rfl
  | cons e m =>
    intro a i h hi
    simp only [spAbove, Bool.and_eq_true, decide_eq_true_eq] at h
    have h1 : i ≠ e.1 := by omega
    have h2 : i < e.1 := by omega
    simp [spGet, h1, h2]

theorem spSet_above {w : Nat} {m : Sparse w} {i : Nat} {v : BitVec w} :
    ∀ {a : Nat}, spAbove a m = true → a ≤ i → spAbove a (spSet m i v) = true := by
  induction m with
  | nil =>
    intro a _ ha
    by_cases hv : v = 0
    · simp [spSet, hv, spAbove]
    · simp only [spSet, hv, if_false, spAbove, Bool.and_true, Bool.and_eq_true, decide_eq_true_eq]
      exact ⟨ha, hv⟩
  | cons e m ih =>
    intro a h ha
    simp only [spAbove, Bool.and_eq_true, decide_eq_true_eq] at h
    obtain ⟨⟨h1, h2⟩, h3⟩ := h
    simp only [spSet]
    split
    · rename_i hi
      split
      · exact spAbove_mono (by omega) h3
      · rename_i hv
        simp only [spAbove, Bool.and_eq_true, decide_eq_true_eq]
        exact ⟨⟨ha, hv⟩, by rw [hi]; exact h3⟩
    · split
      · rename_i hi hlt
        split
        · simp only [spAbove, Bool.and_eq_true, decide_eq_true_eq]
          exact ⟨⟨h1, h2⟩, h3⟩
        · rename_i hv
          simp only [spAbove, Bool.and_eq_true, decide_eq_true_eq]
          exact ⟨⟨ha, hv⟩, ⟨by omega, h2⟩, h3⟩
      · rename_i hi hlt
        simp only [spAbove, Bool.and_eq_true, decide_eq_true_eq]
        exact ⟨⟨h1, h2⟩, ih h3 (by omega)⟩

/-- A write keeps the canonical form. -/
theorem spWf_spSet {w : Nat} {m : Sparse w} (i : Nat) (v : BitVec w) (h : spWf m = true) : spWf (spSet m i v) = true :=
  spSet_above h (Nat.zero_le i)

theorem spWf_spSetList {w : Nat} (vs : List (BitVec w)) :
    ∀ {m : Sparse w} (i : Nat), spWf m = true → spWf (spSetList m i vs) = true := by
  induction vs with
  | nil => intro m i h; exact h
  | cons v vs ih => intro m i h; exact ih (i + 1) (spWf_spSet i v h)

theorem spGet_spSet_above {w : Nat} {m : Sparse w} {i j : Nat} {v : BitVec w} :
    ∀ {a : Nat}, spAbove a m = true → spGet (spSet m i v) j = if j = i then v else spGet m j := by
  induction m with
  | nil =>
    intro a _
    by_cases hv : v = 0
    · subst hv
      simp [spSet, spGet]
    · simp only [spSet, hv, if_false, spGet]
      split <;> simp
  | cons e m ih =>
    intro a h
    simp only [spAbove, Bool.and_eq_true, decide_eq_true_eq] at h
    obtain ⟨⟨h1, h2⟩, h3⟩ := h
    simp only [spSet]
    split
    · rename_i hi
      split
      · rename_i hv
        subst hv
        by_cases hj : j = i
        · subst hj
          simp [spGet_below h3 (by omega : j < e.1 + 1)]
        · have : j ≠ e.1 := by omega
          simp only [hj, if_false, spGet, this]
          split
          · rw [spGet_below h3 (by omega)]
          · rfl
      · by_cases hj : j = i
        · simp [spGet, hj]
        · have : j ≠ e.1 := by omega
          simp only [if_false, spGet, this, hi]
    · rename_i hi
      split
      · rename_i hlt
        split
        · rename_i hv
          subst hv
          by_cases hj : j = i
          · subst hj
            simp [spGet, hi, hlt]
          · simp [hj]
        · by_cases hj : j = i
          · simp [spGet, hj]
          · simp only [hj, if_false]
            rw [spGet]
            simp only [hj, if_false]
            split
            · rename_i hji
              have h4 : j ≠ e.1 := by omega
              have h5 : j < e.1 := by omega
              simp [spGet, h4, h5]
            · rfl
      · rename_i hlt
        rw [spGet, ih h3]
        by_cases hj : j = i
        · subst hj
          simp [hi, hlt]
        · simp [hj, spGet]

/-- A read after a write: the value at the index written, the old value elsewhere. -/
theorem spGet_spSet {w : Nat} {m : Sparse w} (h : spWf m = true) (i j : Nat) (v : BitVec w) :
    spGet (spSet m i v) j = if j = i then v else spGet m j := spGet_spSet_above h

theorem spGet_spSet_same {w : Nat} {m : Sparse w} (h : spWf m = true) (i : Nat) (v : BitVec w) : spGet (spSet m i v) i = v := by
  simp [spGet_spSet h]

theorem spGet_spSet_other {w : Nat} {m : Sparse w} (h : spWf m = true) {i j : Nat} (v : BitVec w) (hj : j ≠ i) :
    spGet (spSet m i v) j = spGet m j := by simp [spGet_spSet h, hj]

/-- A list of writes: its values at its indices, the old value elsewhere. -/
theorem spGet_spSetList {w : Nat} (vs : List (BitVec w)) :
    ∀ {m : Sparse w} (i j : Nat), spWf m = true →
      spGet (spSetList m i vs) j = if i ≤ j ∧ j < i + vs.length then vs.getD (j - i) 0 else spGet m j := by
  induction vs with
  | nil => intro m i j _; simp [spSetList]
  | cons v vs ih =>
    intro m i j h
    rw [spSetList, ih _ _ (spWf_spSet i v h), spGet_spSet h]
    by_cases hj : j = i
    · subst hj
      simp
    · by_cases h2 : i + 1 ≤ j ∧ j < i + 1 + vs.length
      · have h3 : i ≤ j ∧ j < i + (v :: vs).length := by simp; omega
        have h4 : j - i = (j - (i + 1)) + 1 := by omega
        simp only [h2, h3, and_self, if_true, h4]
        simp
      · have h3 : ¬ (i ≤ j ∧ j < i + (v :: vs).length) := by simp; omega
        simp only [h2, h3, if_false, hj]

/-- Dropping entries keeps the canonical form. -/
theorem spAbove_filter {w : Nat} (p : Nat × BitVec w → Bool) {m : Sparse w} :
    ∀ {a : Nat}, spAbove a m = true → spAbove a (m.filter p) = true := by
  induction m with
  | nil => intro a h; exact h
  | cons e m ih =>
    intro a h
    simp only [spAbove, Bool.and_eq_true, decide_eq_true_eq] at h
    rw [List.filter_cons]
    split
    · simp only [spAbove, Bool.and_eq_true, decide_eq_true_eq]
      exact ⟨⟨h.1.1, h.1.2⟩, ih h.2⟩
    · exact spAbove_mono (by omega) (ih h.2)

theorem spWf_filter {w : Nat} (p : Nat × BitVec w → Bool) {m : Sparse w} (h : spWf m = true) : spWf (m.filter p) = true :=
  spAbove_filter p h

theorem updFirst_length {α : Type} (p : α → Bool) (f : α → α) : ∀ xs : List α, (updFirst p f xs).length = xs.length := by
  intro xs
  induction xs with
  | nil => rfl
  | cons x xs ih => by_cases h : p x <;> simp [updFirst, h, ih]

theorem updAt_length {α : Type} (f : α → α) : ∀ (xs : List α) (n : Nat), (updAt f xs n).length = xs.length := by
  intro xs
  induction xs with
  | nil => intro n; rfl
  | cons x xs ih => intro n; cases n <;> simp [updAt, ih]

/-- The lane set by `updAt`, and the others. -/
theorem updAt_getD {α : Type} (f : α → α) (d : α) :
    ∀ (xs : List α) (n m : Nat), (updAt f xs n).getD m d = if m = n ∧ m < xs.length then f (xs.getD m d) else xs.getD m d := by
  intro xs
  induction xs with
  | nil => intro n m; simp [updAt]
  | cons x xs ih =>
    intro n m
    cases n with
    | zero => cases m <;> simp [updAt]
    | succ n =>
      cases m with
      | zero => simp [updAt]
      | succ m => simpa [updAt] using ih n m

end Sys2Proof
end

