-- ==== Sys2Proof/Laws/Memory.lean ====
section
/-! SUPPORT. Memory: its operations keep the canonical form, and a byte reads as what was written to it last. -/

namespace Sys2Proof.Machine

open Sys2Proof

theorem reset_memory_wf : Memory.wf State.reset.phys.bytes = true := rfl

theorem spWf_spClear {w : Nat} {m : Sparse w} (lo hi : Nat) (h : spWf m = true) : spWf (spClear m lo hi) = true := spWf_filter _ h

theorem Phys.put_bytes (p : Phys) (own : Nat → Option Owner) (a : Nat) (bs : List Byte) :
    (p.put own a bs).bytes = spSetList p.bytes a bs := rfl

theorem Phys.put_wf {p : Phys} (own : Nat → Option Owner) (a : Nat) (bs : List Byte) (h : Memory.wf p.bytes = true) :
    Memory.wf (p.put own a bs).bytes = true := spWf_spSetList bs a h

/-- A byte after a store: the byte stored there, or the old one. -/
theorem Phys.put_get {p : Phys} (own : Nat → Option Owner) (a b : Nat) (bs : List Byte) (h : Memory.wf p.bytes = true) :
    spGet (p.put own a bs).bytes b = if a ≤ b ∧ b < a + bs.length then bs.getD (b - a) 0 else spGet p.bytes b := by
  rw [Phys.put_bytes]; exact spGet_spSetList bs a b h

theorem Phys.place_wf {p : Phys} (a : Nat) (bs : List Byte) (h : Memory.wf p.bytes = true) : Memory.wf (p.place a bs).bytes = true :=
  Phys.put_wf (fun _ => none) a bs h

/-! ### Folds -/

theorem foldl_keeps {α β : Type} (P : β → Prop) (f : β → α → β) (hf : ∀ b a, P b → P (f b a)) :
    ∀ (xs : List α) (b : β), P b → P (xs.foldl f b) := by
  intro xs
  induction xs with
  | nil => intro b h; exact h
  | cons x xs ih => intro b h; exact ih _ (hf b x h)

theorem foldE_keeps {α β ε : Type} (P : β → Prop) (f : β → α → Except ε β) (hf : ∀ b a c, P b → f b a = .ok c → P c) :
    ∀ (xs : List α) (b c : β), P b → foldE f b xs = .ok c → P c := by
  intro xs
  induction xs with
  | nil => intro b c h hc; simp only [foldE, Except.ok.injEq] at hc; exact hc ▸ h
  | cons x xs ih =>
    intro b c h hc
    cases hd : f b x with
    | error e => simp [foldE, hd] at hc
    | ok d => exact ih d c (hf b x d h hd) (by simpa [foldE, hd] using hc)

/-! ### Caches -/

/-- The memory of a state is in its canonical form. -/
abbrev State.MemOk (s : State) : Prop := Memory.wf s.phys.bytes = true

@[simp] theorem Phys.modBlock_bytes (p : Phys) (c : CacheAt) (n : Nat) (u : CacheUse) (f : CacheBlock → CacheBlock) :
    (p.modBlock c n u f).bytes = p.bytes := by unfold Phys.modBlock; dsimp only; split <;> rfl

@[simp] theorem Phys.tidy_bytes (p : Phys) (sel : CacheAt → Bool) (a n : Nat) : (p.tidy sel a n).bytes = p.bytes := rfl

theorem foldl_bytes {α : Type} (f : Phys → α → Phys) (hf : ∀ p a, (f p a).bytes = p.bytes) (xs : List α) :
    ∀ p, (xs.foldl f p).bytes = p.bytes := by
  induction xs with
  | nil => intro p; rfl
  | cons x xs ih => intro p; rw [List.foldl_cons, ih, hf]

@[simp] theorem Phys.fill_bytes (p : Phys) (c : CacheAt) (u : CacheUse) (a n : Nat) : (p.fill c u a n).bytes = p.bytes :=
  foldl_bytes _ (fun _ _ => Phys.modBlock_bytes ..) _ _

@[simp] theorem Phys.soil_bytes (p : Phys) (c : CacheAt) (u : CacheUse) (ds : List (Nat × Byte)) : (p.soil c u ds).bytes = p.bytes :=
  foldl_bytes _ (fun _ _ => Phys.modBlock_bytes ..) _ _

@[simp] theorem Phys.sqInvalidated_bytes (p : Phys) (u : CacheUse) (a n : Nat) : (p.sqInvalidated u a n).bytes = p.bytes := rfl
@[simp] theorem Phys.cleaned_bytes (p : Phys) (b : CacheBlock) : (p.cleaned b).bytes = p.bytes := rfl

@[simp] theorem Phys.soiled_bytes (p : Phys) (u : CacheUse) (a n : Nat) : (p.soiled u a n).bytes = p.bytes := by
  unfold Phys.soiled; dsimp only; split <;> simp

@[simp] theorem Phys.writeBackL2_bytes (p : Phys) (b : CacheBlock) : (p.writeBackL2 b).bytes = p.bytes := by simp [Phys.writeBackL2]

/-! ### Operations that do not write memory -/

@[simp] theorem State.modCore_phys (s : State) (c : Nat) (f : Core → Core) : (s.modCore c f).phys = s.phys := rfl
@[simp] theorem State.modGroupOn_phys (s : State) (c gid : Nat) (f : Group → Group) : (s.modGroupOn c gid f).phys = s.phys := rfl
@[simp] theorem State.modSession_phys (s : State) (slot : Nat) (f : Session → Session) : (s.modSession slot f).phys = s.phys := rfl
@[simp] theorem State.raise_phys (s : State) (n : Nat) (x : Option Nat) : (s.raise n x).phys = s.phys := rfl
@[simp] theorem State.tagLine_bytes (s : State) (line : Nat) : (s.tagLine line).phys.bytes = s.phys.bytes := rfl
@[simp] theorem State.reach_phys (s : State) (a n : Nat) : (s.reach a n).phys = s.phys := by unfold State.reach; split <;> rfl

@[simp] theorem State.doomBy_phys (s : State) (p : Group → Bool) (self : Option LaneRef) (h : Lane → Bool) : (s.doomBy p self h).phys = s.phys := by
  unfold State.doomBy; split <;> rfl

@[simp] theorem State.doom_phys (s : State) (p : Group → Bool) (self : Option LaneRef) (ls : List Nat) : (s.doom p self ls).phys = s.phys :=
  State.doomBy_phys ..

@[simp] theorem State.modGroup_phys (s : State) (gid : Nat) (f : Group → Group) : (s.modGroup gid f).phys = s.phys := by
  unfold State.modGroup; split <;> rfl

@[simp] theorem State.contend_phys (s : State) (self : Option LaneRef) (ls : List Nat) : (s.contend self ls).phys = s.phys := by
  unfold State.contend; dsimp only; split <;> simp

@[simp] theorem State.contendIn_phys (s : State) (gid : Nat) (self : Option LaneRef) (ls : List Nat) : (s.contendIn gid self ls).phys = s.phys := by
  unfold State.contendIn; dsimp only; split <;> simp

@[simp] theorem State.modAny_phys (s : State) (gid : Nat) (f : Group → Group) : (s.modAny gid f).phys = s.phys := by
  unfold State.modAny; split <;> simp

/-! ### What a store and a fill do to memory: the bytes stored, and the marks of the dirty bitmap -/

theorem State.markUnits_wf {s : State} (us : List Nat) (h : s.MemOk) : (s.markUnits us).MemOk := by
  unfold State.markUnits
  split
  · refine foldl_keeps State.MemOk _ (fun t u hm => ?_) _ _ h
    dsimp only
    generalize (if s.ctrl.dbmActive then s.ctrl.dbmBase1 else s.ctrl.dbmBase0).toNat + u / 8 = a
    split
    · exact hm
    split
    · exact hm
    split
    · exact hm
    · exact spWf_spSet _ _ (by simpa [State.MemOk] using hm)
  · exact h

theorem State.room_wf {s : State} {out : State → CacheBlock → State} (c : CacheAt) (n : Nat) (u : CacheUse)
    (ho : ∀ b, (out s b).MemOk) (h : s.MemOk) : (s.room out c n u).MemOk := by
  unfold State.room
  dsimp only
  split
  · exact h
  · split
    · exact h
    · exact ho _

theorem State.writeBack_wf {s : State} (b : CacheBlock) (h : s.MemOk) : (s.writeBack b).MemOk := by
  unfold State.writeBack
  split
  · exact h
  · refine State.markUnits_wf _ ?_
    rw [State.MemOk, Phys.writeBackL2_bytes]
    split
    · exact h
    · exact State.room_wf _ _ _ (fun _ => h) h
  · split
    · exact h
    · exact h

theorem State.evict_wf {s : State} (b : CacheBlock) (h : s.MemOk) : (s.evict b).MemOk := State.writeBack_wf b h

theorem State.cacheRoom_wf {s : State} (c : CacheAt) (n : Nat) (u : CacheUse) (h : s.MemOk) : (s.cacheRoom c n u).MemOk :=
  State.room_wf c n u (fun b => State.evict_wf b h) h

theorem State.cacheWrite_wf {s : State} (u : CacheUse) (a n : Nat) (h : s.MemOk) : (s.cacheWrite u a n).MemOk := by
  unfold State.cacheWrite
  refine foldl_keeps State.MemOk _ (fun t e ht => State.markUnits_wf _ ?_) _ _ h
  simp only [State.MemOk, Phys.soiled_bytes, Phys.sqInvalidated_bytes]
  split
  · simpa [State.MemOk] using ht
  · exact State.cacheRoom_wf _ _ _ ht

theorem State.cacheRead_wf {s : State} (u : CacheUse) (a n : Nat) (h : s.MemOk) : (s.cacheRead u a n).MemOk := by
  unfold State.cacheRead
  refine foldl_keeps State.MemOk _ (fun b c hb => foldl_keeps State.MemOk _ (fun t e ht => ?_) _ _ hb) _ _
    (foldl_keeps State.MemOk _ (fun t e ht => ?_) _ _ h)
  · simpa [State.MemOk] using State.cacheRoom_wf c (e.1 / 512) u ht
  · split
    · exact ht
    · simpa [State.MemOk] using ht

/-- The one write to memory keeps its canonical form. -/
theorem State.store_wf {s : State} (u : CacheUse) (own : Nat → Option Owner) (a : Nat) (bs : List Byte) (h : s.MemOk) :
    (s.store u own a bs).MemOk := Phys.put_wf own a bs (State.cacheWrite_wf u a bs.length h)

/-! ### What a store and a fill leave alone: everything but memory, its lines and the channel pairs reached -/

/-- Two states differ in memory, in what is known of its lines and in the channel pairs reached only. -/
def State.OnlyPhys (s t : State) : Prop := t = { s with phys := t.phys, reached := t.reached }

theorem State.OnlyPhys.trans {s t u : State} (h : s.OnlyPhys t) (k : t.OnlyPhys u) : s.OnlyPhys u := by
  unfold State.OnlyPhys at *; rw [k, h]

/-- Memory may change again. -/
theorem State.OnlyPhys.phys {s t : State} (h : s.OnlyPhys t) (q : Phys) : s.OnlyPhys { t with phys := q } := by
  unfold State.OnlyPhys at *
  rw [h]

theorem State.OnlyPhys.ctrl {s t : State} (h : s.OnlyPhys t) : t.ctrl = s.ctrl := by rw [h]

theorem foldl_onlyPhys {α : Type} (P : State → Prop) (f : State → α → State) (hf : ∀ (s : State) a, P s → s.OnlyPhys (f s a))
    (hp : ∀ s t : State, P s → s.OnlyPhys t → P t) (xs : List α) : ∀ s : State, P s → s.OnlyPhys (xs.foldl f s) := by
  induction xs with
  | nil => intro s _; rfl
  | cons x xs ih => intro s h; exact (hf s x h).trans (ih _ (hp _ _ h (hf s x h)))

/-- No dirty bitmap is kept. -/
def State.unmarked (s : State) : Prop := s.ctrl.dbmEnable = false

theorem State.unmarked_keeps (s t : State) (h : s.unmarked) (k : s.OnlyPhys t) : t.unmarked := by rw [State.unmarked, k.ctrl]; exact h

theorem State.markUnits_only {s : State} (us : List Nat) (h : s.unmarked) : s.OnlyPhys (s.markUnits us) := by
  unfold State.markUnits; rw [h]; rfl

theorem State.reach_only (s : State) (a n : Nat) : s.OnlyPhys (s.reach a n) := by unfold State.reach; split <;> rfl

theorem State.room_only {s : State} {out : State → CacheBlock → State} (c : CacheAt) (n : Nat) (u : CacheUse)
    (ho : ∀ b, s.OnlyPhys (out s b)) : s.OnlyPhys (s.room out c n u) := by
  unfold State.room
  dsimp only
  split
  · rfl
  · split
    · rfl
    · exact ho _

theorem State.writeBack_only {s : State} (b : CacheBlock) (h : s.unmarked) : s.OnlyPhys (s.writeBack b) := by
  unfold State.writeBack
  split
  · rfl
  · dsimp only
    have k : s.OnlyPhys (if b.dirty.isEmpty then s else s.room State.drop .llc b.block b.use) := by
      split
      · rfl
      · exact State.room_only _ _ _ fun _ => rfl
    exact (k.phys _).trans (State.markUnits_only _ (State.unmarked_keeps _ _ h (k.phys _)))
  · split
    · rfl
    · exact (State.reach_only _ _ _).trans rfl

theorem State.evict_only {s : State} (b : CacheBlock) (h : s.unmarked) : s.OnlyPhys (s.evict b) := (State.writeBack_only b h).trans rfl

theorem State.cacheRoom_only {s : State} (c : CacheAt) (n : Nat) (u : CacheUse) (h : s.unmarked) : s.OnlyPhys (s.cacheRoom c n u) :=
  State.room_only c n u fun b => State.evict_only b h

theorem State.cacheWrite_only {s : State} (u : CacheUse) (a n : Nat) (h : s.unmarked) : s.OnlyPhys (s.cacheWrite u a n) := by
  unfold State.cacheWrite
  refine foldl_onlyPhys State.unmarked _ (fun t e ht => ?_) State.unmarked_keeps _ _ h
  dsimp only
  have k : t.OnlyPhys (match u.home with
      | none => t.reach e.1 e.2
      | some c => t.cacheRoom c (e.1 / 512) u) := by
    split
    · exact State.reach_only _ _ _
    · exact State.cacheRoom_only _ _ _ ht
  exact (k.phys _).trans (State.markUnits_only _ (State.unmarked_keeps _ _ ht (k.phys _)))

theorem State.store_only {s : State} (u : CacheUse) (own : Nat → Option Owner) (a : Nat) (bs : List Byte) (h : s.unmarked) :
    s.OnlyPhys (s.store u own a bs) := (State.cacheWrite_only u a bs.length h).trans rfl

theorem State.cacheRead_only {s : State} (u : CacheUse) (a n : Nat) (h : s.unmarked) : s.OnlyPhys (s.cacheRead u a n) := by
  unfold State.cacheRead
  dsimp only
  have k : s.OnlyPhys ((blockParts a n).foldl (fun t e => if t.phys.inLlc u e.1 e.2 then t else t.reach e.1 e.2) s) :=
    foldl_onlyPhys (fun _ => True) _ (fun t e _ => by split <;> first | rfl | exact State.reach_only _ _ _)
      (fun _ _ _ _ => trivial) _ _ trivial
  refine k.trans (foldl_onlyPhys State.unmarked _ (fun t c ht => ?_) State.unmarked_keeps _ _ (State.unmarked_keeps _ _ h k))
  exact foldl_onlyPhys State.unmarked _ (fun u' e hu => (State.cacheRoom_only _ _ _ hu).phys _) State.unmarked_keeps _ _ ht

/-! ### Device writes and session writes -/

theorem State.plainLine_wf {s : State} (u : CacheUse) (a : Nat) (bs : List Byte) (h : s.MemOk) : (s.plainLine u a bs).MemOk := by
  unfold State.plainLine
  dsimp only
  split
  · exact h
  · split
    · exact h
    · exact State.store_wf u (fun _ => none) a bs (by simpa [State.MemOk] using h)

theorem State.devPut_wf {s : State} (a : Nat) (bs : List Byte) (h : s.MemOk) : (s.devPut a bs).MemOk :=
  foldl_keeps State.MemOk _ (fun _ _ ht => State.plainLine_wf _ _ _ ht) _ _ h

theorem State.devPutNum_wf {s : State} (a n v : Nat) (h : s.MemOk) : (s.devPutNum a n v).MemOk := State.devPut_wf a _ h

theorem State.putPhys_wf {s : State} (x : Session) (u : CacheUse) (pa : Nat) (bs : List Byte) (h : s.MemOk) :
    (s.putPhys x u pa bs).MemOk := by
  unfold State.putPhys
  split
  · exact h
  · exact State.store_wf _ _ pa bs h

theorem State.copyPhys_wf {s : State} (own : Option Owner) (tag : CacheTag) (src dst n : Nat) (h : s.MemOk) :
    (s.copyPhys own tag src dst n).MemOk := State.store_wf _ _ dst _ h

/-! ### Stores at a place -/

@[simp] theorem State.modBank_phys (s : State) (core : Nat) (b : Bool) (gid : Nat) (f : Group → Group) :
    (s.modBank core b gid f).phys = s.phys := by unfold State.modBank; split <;> rfl

theorem State.chipPut_phys (s : State) (x : Session) (by_ pa : Nat) (v : Byte) : (s.chipPut x by_ pa v).phys = s.phys := by
  unfold State.chipPut
  dsimp only
  repeat' split
  all_goals simp

theorem State.putByte_wf {s : State} (x : Session) (gid : Nat) (self : Option LaneRef) (u : CacheUse) (pa : Nat) (bs : List Byte)
    (h : s.MemOk) : (s.putByte x gid self u pa bs).MemOk := by
  unfold State.putByte
  split
  · refine foldl_keeps State.MemOk _ (fun b j hb => ?_) _ _ h
    rw [State.MemOk, State.chipPut_phys]; exact hb
  · exact State.putPhys_wf _ _ _ _ (by simpa [State.MemOk] using h)

theorem State.putHint_wf {s : State} (x : Session) (gid : Nat) (self : Option LaneRef) (hint : Nat) (p : Place) (bs : List Byte)
    (h : s.MemOk) : (s.putHint x gid self hint p bs).MemOk := by
  unfold State.putHint
  split
  · refine foldl_keeps (fun (b : State × List Byte) => b.1.MemOk) _ (fun b q hb => ?_) _ _ h
    dsimp only
    split
    · simpa [State.MemOk] using hb
    · exact State.putByte_wf _ _ _ _ _ _ hb
  · simpa [State.MemOk] using h
  · simpa [State.MemOk] using h
  · exact State.putByte_wf _ _ _ _ _ _ h

theorem State.putAt_wf {s : State} (x : Session) (gid : Nat) (self : Option LaneRef) (p : Place) (bs : List Byte) (h : s.MemOk) :
    (s.putAt x gid self p bs).MemOk := State.putHint_wf x gid self 0 p bs h

/-! ### Copy-on-write -/

theorem State.release_wf {s : State} (frame : Nat) (h : s.MemOk) : (s.release frame).MemOk := by
  unfold State.release
  dsimp only
  split
  · exact State.devPutNum_wf _ _ _ (State.devPutNum_wf _ _ _ h)
  · exact h

theorem State.dropRef_wf {s : State} (dom frame : Nat) (h : s.MemOk) : (s.dropRef dom frame).MemOk := by
  unfold State.dropRef
  dsimp only
  repeat' split
  all_goals first
    | exact h
    | exact State.release_wf _ h

@[simp] theorem State.follow_phys (s : State) (slot va src dst n : Nat) : (s.follow slot va src dst n).phys = s.phys := by
  unfold State.follow; dsimp only; split <;> rfl

theorem State.cowCopy_wf {s : State} (x : Session) (self : Option LaneRef) (va src dst : Nat) (h : s.MemOk) :
    (s.cowCopy x self va src dst).MemOk := by
  unfold State.cowCopy
  dsimp only
  rw [State.MemOk, State.follow_phys]
  refine State.copyPhys_wf _ _ _ _ _ ?_
  split <;> simpa [State.MemOk] using h

theorem State.cowRun_wf {x : Session} {self : Option LaneRef} {a : Dword} {subs : Nat} : ∀ (fuel : Nat) {s t : State},
    s.MemOk → State.cowRun x self a subs fuel s = .ok t → t.MemOk := by
  intro fuel
  induction fuel with
  | zero => intro s t h ht; cases ht; exact h
  | succ fuel ih =>
    intro s t h ht
    unfold State.cowRun at ht
    dsimp only at ht
    split at ht
    · cases ht
    · cases ht
    · rename_i l _
      split at ht
      · cases ht; exact h
      · split at ht
        · cases ht
        · split at ht
          · cases ht
          · rename_i o _ _ _
            have h1 : State.MemOk (if l.omask != 0 then s else s.poolTake (s.opool x)) := by
              split
              · exact h
              · exact State.devPutNum_wf _ _ _ h
            have h2 : State.MemOk ((subsIn (subs &&& (255 ^^^ l.omask))).foldl (fun t k =>
                t.cowCopy x self (a.toNat % 2 ^ 48 / 4096 * 4096 + 512 * k) (4096 * l.pfn + 512 * k) (4096 * o + 512 * k))
                (if l.omask != 0 then s else s.poolTake (s.opool x))) :=
              foldl_keeps State.MemOk _ (fun b k hb => State.cowCopy_wf _ _ _ _ _ hb) _ _ h1
            generalize (subsIn (subs &&& (255 ^^^ l.omask))).foldl (fun t k =>
                t.cowCopy x self (a.toNat % 2 ^ 48 / 4096 * 4096 + 512 * k) (4096 * l.pfn + 512 * k) (4096 * o + 512 * k))
                (if l.omask != 0 then s else s.poolTake (s.opool x)) = s2 at h2 ht
            split at ht
            · refine ih ?_ ht
              split
              · exact h2
              · exact State.release_wf _ h2
            · simp only [Except.ok.injEq] at ht
              subst ht
              show State.MemOk (if _ then _ else _)
              split
              · exact State.dropRef_wf _ _ (State.devPutNum_wf _ _ _ h2)
              · exact State.devPutNum_wf _ _ _ h2

theorem State.cowPage_wf {s t : State} {x : Session} {self : Option LaneRef} {va : Dword} {subs : Nat}
    (h : s.MemOk) (ht : s.cowPage x self va subs = .ok t) : t.MemOk := State.cowRun_wf 4 h ht

theorem State.cowPlace_wf {s t : State} {x : Session} {self : Option LaneRef} {p : Place} (h : s.MemOk)
    (ht : s.cowPlace x self p = .ok t) : t.MemOk := by
  unfold State.cowPlace at ht
  split at ht
  · refine foldE_keeps State.MemOk _ (fun b q c hb hc => ?_) _ _ _ h ht
    split at hc
    · exact State.cowPage_wf hb hc
    · cases hc; exact hb
  · cases ht; exact h

end Sys2Proof.Machine
end

