-- ==== Sys2Proof/Laws/PerInstr.lean ====
section
/-! SUPPORT. Facts about every instruction, constructor by constructor: the word an instruction encodes to has an assigned OP
(07 R151), whatever its fields; the steps of other agents have no word. -/

namespace Sys2Proof.Laws

open Sys2Proof

theorem opOf_append (op : BitVec 8) (x : BitVec 88) : opOf (op ++ x) = op.toNat := by
  unfold opOf
  congr 1
  apply BitVec.eq_of_getLsbD_eq
  intro j hj
  simp only [BitVec.getLsbD_extractLsb', BitVec.getLsbD_append]
  simp [hj, show ¬ (88 + j < 88) by omega]

theorem opOf_word (op : BitVec 8) (h : BitVec 24) (x : BitVec 64) : opOf ((op ++ h : BitVec 32) ++ x) = op.toNat := by
  rw [show ((op ++ h : BitVec 32) ++ x : BitVec 96) = op ++ (h ++ x : BitVec 88) from BitVec.append_assoc]
  exact opOf_append op _

theorem encHead_eq (op : BitVec 8) (fn : BitVec 4) (ty : Ty) (g : Guard) (d : Spec) :
    ∃ h : BitVec 24, encHead op fn ty g d = op ++ h := by
  refine ⟨fn ++ tyCode ty ++ BitVec.ofBool g.neg ++ g.mask ++ encSpec d, ?_⟩
  unfold encHead
  apply BitVec.eq_of_getLsbD_eq
  intro j hj
  simp only [BitVec.getLsbD_append]
  repeat' split
  all_goals first | rfl | omega

theorem opOf_encR (op : BitVec 8) (fn : BitVec 4) (f : RForm) : opOf (encR op fn f) = op.toNat := by
  obtain ⟨h, e⟩ := encHead_eq op fn f.ty f.g f.d
  rw [encR, e]; exact opOf_word op h _
theorem opOf_encI (op : BitVec 8) (fn : BitVec 4) (f : IForm) : opOf (encI op fn f) = op.toNat := by
  obtain ⟨h, e⟩ := encHead_eq op fn f.ty f.g f.d
  rw [encI, e]; exact opOf_word op h _
theorem opOf_encM (op : BitVec 8) (fn : BitVec 4) (f : MForm) : opOf (encM op fn f) = op.toNat := by
  obtain ⟨h, e⟩ := encHead_eq op fn f.ty f.g f.d
  rw [encM, e]; exact opOf_word op h _
theorem opOf_encB (op : BitVec 8) (fn : BitVec 4) (f : BForm) : opOf (encB op fn f) = op.toNat := by
  obtain ⟨h, e⟩ := encHead_eq op fn f.ty f.g f.d
  rw [encB, e]; exact opOf_word op h _
theorem opOf_encT (op : BitVec 8) (fn : BitVec 4) (f : TForm) : opOf (encT op fn f) = op.toNat := by
  obtain ⟨h, e⟩ := encHead_eq op fn f.ty f.g f.d
  rw [encT, e]; exact opOf_word op h _
theorem opOf_encE (op : BitVec 8) (efn : BitVec 7) (f : EForm) : opOf (encE op efn f) = op.toNat := by
  obtain ⟨h, e⟩ := encHead_eq op 0 f.ty f.g f.d
  rw [encE, e]; exact opOf_word op h _

/-- The word of an instruction, if it has one, carries an assigned OP; a word that is no instruction stands for itself. -/
def Coding.Statement (i : Instr) : Prop :=
  ∀ w, encode i = some w → opAssigned (opOf w) = true ∨ i = .unassignedOpcode w

theorem Coding.of_op {i : Instr} {v : BitVec 96} {op : BitVec 8} (h : encode i = some v) (hv : opOf v = op.toNat)
    (ha : opAssigned op.toNat = true) : Coding.Statement i := by
  intro w hw
  rw [h] at hw
  cases hw
  left; rw [hv]; exact ha

theorem Coding.of_none {i : Instr} (h : encode i = none) : Coding.Statement i := by
  intro w hw; rw [h] at hw; cases hw

theorem Coding.nop (f : RForm) : Coding.Statement (.nop f) := of_op rfl (opOf_encR _ _ _) rfl
theorem Coding.bra (f : BForm) : Coding.Statement (.bra f) := of_op rfl (opOf_encB _ _ _) rfl
theorem Coding.jmp (f : BForm) : Coding.Statement (.jmp f) := of_op rfl (opOf_encB _ _ _) rfl
theorem Coding.brx (f : BForm) : Coding.Statement (.brx f) := of_op rfl (opOf_encB _ _ _) rfl
theorem Coding.call (f : BForm) : Coding.Statement (.call f) := of_op rfl (opOf_encB _ _ _) rfl
theorem Coding.calli (f : BForm) : Coding.Statement (.calli f) := of_op rfl (opOf_encB _ _ _) rfl
theorem Coding.ret (f : RForm) : Coding.Statement (.ret f) := of_op rfl (opOf_encR _ _ _) rfl
theorem Coding.exit (f : RForm) : Coding.Statement (.exit f) := of_op rfl (opOf_encR _ _ _) rfl
theorem Coding.alloc (f : IForm) : Coding.Statement (.alloc f) := of_op rfl (opOf_encI _ _ _) rfl
theorem Coding.split (f : RForm) : Coding.Statement (.split f) := of_op rfl (opOf_encR _ _ _) rfl
theorem Coding.rejoin (f : RForm) : Coding.Statement (.rejoin f) := of_op rfl (opOf_encR _ _ _) rfl
theorem Coding.repeatImm (f : IForm) : Coding.Statement (.repeatImm f) := of_op rfl (opOf_encI _ _ _) rfl
theorem Coding.repeatReg (f : IForm) : Coding.Statement (.repeatReg f) := of_op rfl (opOf_encI _ _ _) rfl
theorem Coding.iadd (f : AForm) : Coding.Statement (.iadd f) := by
  cases f
  · exact of_op rfl (opOf_encR _ _ _) rfl
  · exact of_op rfl (opOf_encI _ _ _) rfl
theorem Coding.isub (f : AForm) : Coding.Statement (.isub f) := by
  cases f
  · exact of_op rfl (opOf_encR _ _ _) rfl
  · exact of_op rfl (opOf_encI _ _ _) rfl
theorem Coding.imul (f : AForm) : Coding.Statement (.imul f) := by
  cases f
  · exact of_op rfl (opOf_encR _ _ _) rfl
  · exact of_op rfl (opOf_encI _ _ _) rfl
theorem Coding.imulhi (f : AForm) : Coding.Statement (.imulhi f) := by
  cases f
  · exact of_op rfl (opOf_encR _ _ _) rfl
  · exact of_op rfl (opOf_encI _ _ _) rfl
theorem Coding.imad (f : RForm) : Coding.Statement (.imad f) := of_op rfl (opOf_encR _ _ _) rfl
theorem Coding.iadd3 (f : RForm) : Coding.Statement (.iadd3 f) := of_op rfl (opOf_encR _ _ _) rfl
theorem Coding.addmin (f : RForm) : Coding.Statement (.addmin f) := of_op rfl (opOf_encR _ _ _) rfl
theorem Coding.addmax (f : RForm) : Coding.Statement (.addmax f) := of_op rfl (opOf_encR _ _ _) rfl
theorem Coding.imin (f : AForm) : Coding.Statement (.imin f) := by
  cases f
  · exact of_op rfl (opOf_encR _ _ _) rfl
  · exact of_op rfl (opOf_encI _ _ _) rfl
theorem Coding.imax (f : AForm) : Coding.Statement (.imax f) := by
  cases f
  · exact of_op rfl (opOf_encR _ _ _) rfl
  · exact of_op rfl (opOf_encI _ _ _) rfl
theorem Coding.min3 (f : RForm) : Coding.Statement (.min3 f) := of_op rfl (opOf_encR _ _ _) rfl
theorem Coding.max3 (f : RForm) : Coding.Statement (.max3 f) := of_op rfl (opOf_encR _ _ _) rfl
theorem Coding.iabs (f : RForm) : Coding.Statement (.iabs f) := of_op rfl (opOf_encR _ _ _) rfl
theorem Coding.ineg (f : RForm) : Coding.Statement (.ineg f) := of_op rfl (opOf_encR _ _ _) rfl
theorem Coding.isad (f : RForm) : Coding.Statement (.isad f) := of_op rfl (opOf_encR _ _ _) rfl
theorem Coding.idiv (f : AForm) : Coding.Statement (.idiv f) := by
  cases f
  · exact of_op rfl (opOf_encR _ _ _) rfl
  · exact of_op rfl (opOf_encI _ _ _) rfl
theorem Coding.irem (f : AForm) : Coding.Statement (.irem f) := by
  cases f
  · exact of_op rfl (opOf_encR _ _ _) rfl
  · exact of_op rfl (opOf_encI _ _ _) rfl
theorem Coding.land (f : AForm) : Coding.Statement (.land f) := by
  cases f
  · exact of_op rfl (opOf_encR _ _ _) rfl
  · exact of_op rfl (opOf_encI _ _ _) rfl
theorem Coding.lor (f : AForm) : Coding.Statement (.lor f) := by
  cases f
  · exact of_op rfl (opOf_encR _ _ _) rfl
  · exact of_op rfl (opOf_encI _ _ _) rfl
theorem Coding.lxor (f : AForm) : Coding.Statement (.lxor f) := by
  cases f
  · exact of_op rfl (opOf_encR _ _ _) rfl
  · exact of_op rfl (opOf_encI _ _ _) rfl
theorem Coding.landn (f : AForm) : Coding.Statement (.landn f) := by
  cases f
  · exact of_op rfl (opOf_encR _ _ _) rfl
  · exact of_op rfl (opOf_encI _ _ _) rfl
theorem Coding.lorn (f : AForm) : Coding.Statement (.lorn f) := by
  cases f
  · exact of_op rfl (opOf_encR _ _ _) rfl
  · exact of_op rfl (opOf_encI _ _ _) rfl
theorem Coding.lnot (f : RForm) : Coding.Statement (.lnot f) := of_op rfl (opOf_encR _ _ _) rfl
theorem Coding.shl (f : AForm) : Coding.Statement (.shl f) := by
  cases f
  · exact of_op rfl (opOf_encR _ _ _) rfl
  · exact of_op rfl (opOf_encI _ _ _) rfl
theorem Coding.shr (f : AForm) : Coding.Statement (.shr f) := by
  cases f
  · exact of_op rfl (opOf_encR _ _ _) rfl
  · exact of_op rfl (opOf_encI _ _ _) rfl
theorem Coding.sar (f : AForm) : Coding.Statement (.sar f) := by
  cases f
  · exact of_op rfl (opOf_encR _ _ _) rfl
  · exact of_op rfl (opOf_encI _ _ _) rfl
theorem Coding.rol (f : AForm) : Coding.Statement (.rol f) := by
  cases f
  · exact of_op rfl (opOf_encR _ _ _) rfl
  · exact of_op rfl (opOf_encI _ _ _) rfl
theorem Coding.ror (f : AForm) : Coding.Statement (.ror f) := by
  cases f
  · exact of_op rfl (opOf_encR _ _ _) rfl
  · exact of_op rfl (opOf_encI _ _ _) rfl
theorem Coding.fshl (f : RForm) : Coding.Statement (.fshl f) := of_op rfl (opOf_encR _ _ _) rfl
theorem Coding.fshr (f : RForm) : Coding.Statement (.fshr f) := of_op rfl (opOf_encR _ _ _) rfl
theorem Coding.bfx (f : AForm) : Coding.Statement (.bfx f) := by
  cases f
  · exact of_op rfl (opOf_encR _ _ _) rfl
  · exact of_op rfl (opOf_encI _ _ _) rfl
theorem Coding.bfi (f : RForm) : Coding.Statement (.bfi f) := of_op rfl (opOf_encR _ _ _) rfl
theorem Coding.popc (f : RForm) : Coding.Statement (.popc f) := of_op rfl (opOf_encR _ _ _) rfl
theorem Coding.clz (f : RForm) : Coding.Statement (.clz f) := of_op rfl (opOf_encR _ _ _) rfl
theorem Coding.ctz (f : RForm) : Coding.Statement (.ctz f) := of_op rfl (opOf_encR _ _ _) rfl
theorem Coding.brev (f : RForm) : Coding.Statement (.brev f) := of_op rfl (opOf_encR _ _ _) rfl
theorem Coding.icmp (x : ICond) (f : AForm) : Coding.Statement (.icmp x f) := by
  cases f
  · exact of_op rfl (opOf_encR _ _ _) rfl
  · exact of_op rfl (opOf_encI _ _ _) rfl
theorem Coding.mov (f : AForm) : Coding.Statement (.mov f) := by
  cases f
  · exact of_op rfl (opOf_encR _ _ _) rfl
  · exact of_op rfl (opOf_encI _ _ _) rfl
theorem Coding.sel (f : RForm) : Coding.Statement (.sel f) := of_op rfl (opOf_encR _ _ _) rfl
theorem Coding.kand (f : AForm) : Coding.Statement (.kand f) := by
  cases f
  · exact of_op rfl (opOf_encR _ _ _) rfl
  · exact of_op rfl (opOf_encI _ _ _) rfl
theorem Coding.kor (f : AForm) : Coding.Statement (.kor f) := by
  cases f
  · exact of_op rfl (opOf_encR _ _ _) rfl
  · exact of_op rfl (opOf_encI _ _ _) rfl
theorem Coding.kxor (f : AForm) : Coding.Statement (.kxor f) := by
  cases f
  · exact of_op rfl (opOf_encR _ _ _) rfl
  · exact of_op rfl (opOf_encI _ _ _) rfl
theorem Coding.kandn (f : AForm) : Coding.Statement (.kandn f) := by
  cases f
  · exact of_op rfl (opOf_encR _ _ _) rfl
  · exact of_op rfl (opOf_encI _ _ _) rfl
theorem Coding.knot (f : AForm) : Coding.Statement (.knot f) := by
  cases f
  · exact of_op rfl (opOf_encR _ _ _) rfl
  · exact of_op rfl (opOf_encI _ _ _) rfl
theorem Coding.kget (f : AForm) : Coding.Statement (.kget f) := by
  cases f
  · exact of_op rfl (opOf_encR _ _ _) rfl
  · exact of_op rfl (opOf_encI _ _ _) rfl
theorem Coding.kset (f : AForm) : Coding.Statement (.kset f) := by
  cases f
  · exact of_op rfl (opOf_encR _ _ _) rfl
  · exact of_op rfl (opOf_encI _ _ _) rfl
theorem Coding.lea (f : AForm) : Coding.Statement (.lea f) := by
  cases f
  · exact of_op rfl (opOf_encR _ _ _) rfl
  · exact of_op rfl (opOf_encI _ _ _) rfl
theorem Coding.fadd (f : AForm) : Coding.Statement (.fadd f) := by
  cases f
  · exact of_op rfl (opOf_encR _ _ _) rfl
  · exact of_op rfl (opOf_encI _ _ _) rfl
theorem Coding.fsub (f : AForm) : Coding.Statement (.fsub f) := by
  cases f
  · exact of_op rfl (opOf_encR _ _ _) rfl
  · exact of_op rfl (opOf_encI _ _ _) rfl
theorem Coding.fmul (f : AForm) : Coding.Statement (.fmul f) := by
  cases f
  · exact of_op rfl (opOf_encR _ _ _) rfl
  · exact of_op rfl (opOf_encI _ _ _) rfl
theorem Coding.ffma (f : RForm) : Coding.Statement (.ffma f) := of_op rfl (opOf_encR _ _ _) rfl
theorem Coding.fmin (f : AForm) : Coding.Statement (.fmin f) := by
  cases f
  · exact of_op rfl (opOf_encR _ _ _) rfl
  · exact of_op rfl (opOf_encI _ _ _) rfl
theorem Coding.fmax (f : AForm) : Coding.Statement (.fmax f) := by
  cases f
  · exact of_op rfl (opOf_encR _ _ _) rfl
  · exact of_op rfl (opOf_encI _ _ _) rfl
theorem Coding.fabs (f : RForm) : Coding.Statement (.fabs f) := of_op rfl (opOf_encR _ _ _) rfl
theorem Coding.fdiv (f : RForm) : Coding.Statement (.fdiv f) := of_op rfl (opOf_encR _ _ _) rfl
theorem Coding.fsqrt (f : RForm) : Coding.Statement (.fsqrt f) := of_op rfl (opOf_encR _ _ _) rfl
theorem Coding.frcp (f : RForm) : Coding.Statement (.frcp f) := of_op rfl (opOf_encR _ _ _) rfl
theorem Coding.frsq (f : RForm) : Coding.Statement (.frsq f) := of_op rfl (opOf_encR _ _ _) rfl
theorem Coding.fexp2 (f : RForm) : Coding.Statement (.fexp2 f) := of_op rfl (opOf_encR _ _ _) rfl
theorem Coding.flog2 (f : RForm) : Coding.Statement (.flog2 f) := of_op rfl (opOf_encR _ _ _) rfl
theorem Coding.fsin (f : RForm) : Coding.Statement (.fsin f) := of_op rfl (opOf_encR _ _ _) rfl
theorem Coding.fcos (f : RForm) : Coding.Statement (.fcos f) := of_op rfl (opOf_encR _ _ _) rfl
theorem Coding.ftanh (f : RForm) : Coding.Statement (.ftanh f) := of_op rfl (opOf_encR _ _ _) rfl
theorem Coding.fcmp (x : FCond) (f : AForm) : Coding.Statement (.fcmp x f) := by
  cases f
  · exact of_op rfl (opOf_encR _ _ _) rfl
  · exact of_op rfl (opOf_encI _ _ _) rfl
theorem Coding.fclass (f : RForm) : Coding.Statement (.fclass f) := of_op rfl (opOf_encR _ _ _) rfl
theorem Coding.cvt (x : Ty) (f : RForm) : Coding.Statement (.cvt x f) := of_op rfl (opOf_encR _ _ _) rfl
theorem Coding.cvtq (x : NarrowFmt) (f : RForm) : Coding.Statement (.cvtq x f) := of_op rfl (opOf_encR _ _ _) rfl
theorem Coding.cvtw (x : NarrowFmt) (f : RForm) : Coding.Statement (.cvtw x f) := of_op rfl (opOf_encR _ _ _) rfl
theorem Coding.dot2 (f : RForm) : Coding.Statement (.dot2 f) := of_op rfl (opOf_encR _ _ _) rfl
theorem Coding.dot4 (f : RForm) : Coding.Statement (.dot4 f) := of_op rfl (opOf_encR _ _ _) rfl
theorem Coding.pack (f : RForm) : Coding.Statement (.pack f) := of_op rfl (opOf_encR _ _ _) rfl
theorem Coding.bsel (f : RForm) : Coding.Statement (.bsel f) := of_op rfl (opOf_encR _ _ _) rfl
theorem Coding.lgetAt (f : AForm) : Coding.Statement (.lgetAt f) := by
  cases f
  · exact of_op rfl (opOf_encR _ _ _) rfl
  · exact of_op rfl (opOf_encI _ _ _) rfl
theorem Coding.lgetFlip (f : AForm) : Coding.Statement (.lgetFlip f) := by
  cases f
  · exact of_op rfl (opOf_encR _ _ _) rfl
  · exact of_op rfl (opOf_encI _ _ _) rfl
theorem Coding.lshup (f : RForm) : Coding.Statement (.lshup f) := of_op rfl (opOf_encR _ _ _) rfl
theorem Coding.lshdn (f : RForm) : Coding.Statement (.lshdn f) := of_op rfl (opOf_encR _ _ _) rfl
theorem Coding.kpollAll (f : RForm) : Coding.Statement (.kpollAll f) := of_op rfl (opOf_encR _ _ _) rfl
theorem Coding.kpollAny (f : RForm) : Coding.Statement (.kpollAny f) := of_op rfl (opOf_encR _ _ _) rfl
theorem Coding.kpollWord (f : RForm) : Coding.Statement (.kpollWord f) := of_op rfl (opOf_encR _ _ _) rfl
theorem Coding.lpeerEq (f : RForm) : Coding.Statement (.lpeerEq f) := of_op rfl (opOf_encR _ _ _) rfl
theorem Coding.lpeerUni (f : RForm) : Coding.Statement (.lpeerUni f) := of_op rfl (opOf_encR _ _ _) rfl
theorem Coding.lfold (x : FoldOp) (f : RForm) : Coding.Statement (.lfold x f) := of_op rfl (opOf_encR _ _ _) rfl
theorem Coding.lpfx (x : PfxOp) (f : RForm) : Coding.Statement (.lpfx x f) := of_op rfl (opOf_encR _ _ _) rfl
theorem Coding.ld (f : MForm) : Coding.Statement (.ld f) := of_op rfl (opOf_encM _ _ _) rfl
theorem Coding.ldN8 (f : MForm) : Coding.Statement (.ldN8 f) := of_op rfl (opOf_encM _ _ _) rfl
theorem Coding.ldS8 (f : MForm) : Coding.Statement (.ldS8 f) := of_op rfl (opOf_encM _ _ _) rfl
theorem Coding.ldN16 (f : MForm) : Coding.Statement (.ldN16 f) := of_op rfl (opOf_encM _ _ _) rfl
theorem Coding.ldS16 (f : MForm) : Coding.Statement (.ldS16 f) := of_op rfl (opOf_encM _ _ _) rfl
theorem Coding.st (f : MForm) : Coding.Statement (.st f) := of_op rfl (opOf_encM _ _ _) rfl
theorem Coding.stB8 (f : MForm) : Coding.Statement (.stB8 f) := of_op rfl (opOf_encM _ _ _) rfl
theorem Coding.stB16 (f : MForm) : Coding.Statement (.stB16 f) := of_op rfl (opOf_encM _ _ _) rfl
theorem Coding.pref (f : MForm) : Coding.Statement (.pref f) := of_op rfl (opOf_encM _ _ _) rfl
theorem Coding.atom (x : AtomOp) (f : MForm) : Coding.Statement (.atom x f) := of_op rfl (opOf_encM _ _ _) rfl
theorem Coding.red (x : AtomOp) (f : MForm) : Coding.Statement (.red x f) := of_op rfl (opOf_encM _ _ _) rfl
theorem Coding.fence (f : MForm) : Coding.Statement (.fence f) := of_op rfl (opOf_encM _ _ _) rfl
theorem Coding.fenceUn (f : MForm) : Coding.Statement (.fenceUn f) := of_op rfl (opOf_encM _ _ _) rfl
theorem Coding.waitf (x : WCond) (f : MForm) : Coding.Statement (.waitf x f) := of_op rfl (opOf_encM _ _ _) rfl
theorem Coding.barGrp (f : RForm) : Coding.Statement (.barGrp f) := of_op rfl (opOf_encR _ _ _) rfl
theorem Coding.barClu (f : RForm) : Coding.Statement (.barClu f) := of_op rfl (opOf_encR _ _ _) rfl
theorem Coding.xbegin (f : BForm) : Coding.Statement (.xbegin f) := of_op rfl (opOf_encB _ _ _) rfl
theorem Coding.xend (f : RForm) : Coding.Statement (.xend f) := of_op rfl (opOf_encR _ _ _) rfl
theorem Coding.xabort (f : RForm) : Coding.Statement (.xabort f) := of_op rfl (opOf_encR _ _ _) rfl
theorem Coding.xtest (f : RForm) : Coding.Statement (.xtest f) := of_op rfl (opOf_encR _ _ _) rfl
theorem Coding.pushf (f : RForm) : Coding.Statement (.pushf f) := of_op rfl (opOf_encR _ _ _) rfl
theorem Coding.pushfRow (f : RForm) : Coding.Statement (.pushfRow f) := of_op rfl (opOf_encR _ _ _) rfl
theorem Coding.pushfAll (f : RForm) : Coding.Statement (.pushfAll f) := of_op rfl (opOf_encR _ _ _) rfl
theorem Coding.pushfAllRow (f : RForm) : Coding.Statement (.pushfAllRow f) := of_op rfl (opOf_encR _ _ _) rfl
theorem Coding.popf (f : RForm) : Coding.Statement (.popf f) := of_op rfl (opOf_encR _ _ _) rfl
theorem Coding.pushb (f : RForm) : Coding.Statement (.pushb f) := of_op rfl (opOf_encR _ _ _) rfl
theorem Coding.popb (f : RForm) : Coding.Statement (.popb f) := of_op rfl (opOf_encR _ _ _) rfl
theorem Coding.streamCfg (f : RForm) : Coding.Statement (.streamCfg f) := of_op rfl (opOf_encR _ _ _) rfl
theorem Coding.streamGo (f : RForm) : Coding.Statement (.streamGo f) := of_op rfl (opOf_encR _ _ _) rfl
theorem Coding.engCopy (f : EForm) : Coding.Statement (.engCopy f) := of_op rfl (opOf_encE _ _ _) rfl
theorem Coding.engFill (f : EForm) : Coding.Statement (.engFill f) := of_op rfl (opOf_encE _ _ _) rfl
theorem Coding.engGsubmit (f : EForm) : Coding.Statement (.engGsubmit f) := of_op rfl (opOf_encE _ _ _) rfl
theorem Coding.engGsignal (f : EForm) : Coding.Statement (.engGsignal f) := of_op rfl (opOf_encE _ _ _) rfl
theorem Coding.engGwatch (f : EForm) : Coding.Statement (.engGwatch f) := of_op rfl (opOf_encE _ _ _) rfl
theorem Coding.engDappend (f : EForm) : Coding.Statement (.engDappend f) := of_op rfl (opOf_encE _ _ _) rfl
theorem Coding.engDdrain (f : EForm) : Coding.Statement (.engDdrain f) := of_op rfl (opOf_encE _ _ _) rfl
theorem Coding.engAllreduce (f : EForm) : Coding.Statement (.engAllreduce f) := of_op rfl (opOf_encE _ _ _) rfl
theorem Coding.engAllgather (f : EForm) : Coding.Statement (.engAllgather f) := of_op rfl (opOf_encE _ _ _) rfl
theorem Coding.engBcast (f : EForm) : Coding.Statement (.engBcast f) := of_op rfl (opOf_encE _ _ _) rfl
theorem Coding.mloadb (f : TForm) : Coding.Statement (.mloadb f) := of_op rfl (opOf_encT _ _ _) rfl
theorem Coding.mma (f : TForm) : Coding.Statement (.mma f) := of_op rfl (opOf_encT _ _ _) rfl
theorem Coding.mcommit (f : TForm) : Coding.Statement (.mcommit f) := of_op rfl (opOf_encT _ _ _) rfl
theorem Coding.mdiscard (f : TForm) : Coding.Statement (.mdiscard f) := of_op rfl (opOf_encT _ _ _) rfl
theorem Coding.mzero (f : TForm) : Coding.Statement (.mzero f) := of_op rfl (opOf_encT _ _ _) rfl
theorem Coding.mdrain (f : TForm) : Coding.Statement (.mdrain f) := of_op rfl (opOf_encT _ _ _) rfl
theorem Coding.ttld (f : RForm) : Coding.Statement (.ttld f) := of_op rfl (opOf_encR _ _ _) rfl
theorem Coding.ttst (f : RForm) : Coding.Statement (.ttst f) := of_op rfl (opOf_encR _ _ _) rfl
theorem Coding.ttinv (f : RForm) : Coding.Statement (.ttinv f) := of_op rfl (opOf_encR _ _ _) rfl
theorem Coding.rsvinit (f : RForm) : Coding.Statement (.rsvinit f) := of_op rfl (opOf_encR _ _ _) rfl
theorem Coding.rsvupd (f : RForm) : Coding.Statement (.rsvupd f) := of_op rfl (opOf_encR _ _ _) rfl
theorem Coding.rsvmrg (f : RForm) : Coding.Statement (.rsvmrg f) := of_op rfl (opOf_encR _ _ _) rfl
theorem Coding.rsvfin (f : RForm) : Coding.Statement (.rsvfin f) := of_op rfl (opOf_encR _ _ _) rfl
theorem Coding.rsvget (x : RsvField) (f : RForm) : Coding.Statement (.rsvget x f) := of_op rfl (opOf_encR _ _ _) rfl
theorem Coding.rsvput (x : RsvField) (f : RForm) : Coding.Statement (.rsvput x f) := of_op rfl (opOf_encR _ _ _) rfl
theorem Coding.rsvseed (f : RForm) : Coding.Statement (.rsvseed f) := of_op rfl (opOf_encR _ _ _) rfl
theorem Coding.cainit (f : RForm) : Coding.Statement (.cainit f) := of_op rfl (opOf_encR _ _ _) rfl
theorem Coding.caadd (f : RForm) : Coding.Statement (.caadd f) := of_op rfl (opOf_encR _ _ _) rfl
theorem Coding.caflush (f : RForm) : Coding.Statement (.caflush f) := of_op rfl (opOf_encR _ _ _) rfl
theorem Coding.caresolve (f : RForm) : Coding.Statement (.caresolve f) := of_op rfl (opOf_encR _ _ _) rfl
theorem Coding.careplay (f : RForm) : Coding.Statement (.careplay f) := of_op rfl (opOf_encR _ _ _) rfl
theorem Coding.castat (f : RForm) : Coding.Statement (.castat f) := of_op rfl (opOf_encR _ _ _) rfl
theorem Coding.fetchwk (f : MForm) : Coding.Statement (.fetchwk f) := of_op rfl (opOf_encM _ _ _) rfl
theorem Coding.pqpush (f : RForm) : Coding.Statement (.pqpush f) := of_op rfl (opOf_encR _ _ _) rfl
theorem Coding.pqpop (f : RForm) : Coding.Statement (.pqpop f) := of_op rfl (opOf_encR _ _ _) rfl
theorem Coding.wlpush (f : RForm) : Coding.Statement (.wlpush f) := of_op rfl (opOf_encR _ _ _) rfl
theorem Coding.wlpop (f : RForm) : Coding.Statement (.wlpop f) := of_op rfl (opOf_encR _ _ _) rfl
theorem Coding.quiesce (f : RForm) : Coding.Statement (.quiesce f) := of_op rfl (opOf_encR _ _ _) rfl
theorem Coding.tex (f : RForm) : Coding.Statement (.tex f) := of_op rfl (opOf_encR _ _ _) rfl
theorem Coding.texWait (f : RForm) : Coding.Statement (.texWait f) := of_op rfl (opOf_encR _ _ _) rfl
theorem Coding.tld (f : RForm) : Coding.Statement (.tld f) := of_op rfl (opOf_encR _ _ _) rfl
theorem Coding.rayq (f : RForm) : Coding.Statement (.rayq f) := of_op rfl (opOf_encR _ _ _) rfl
theorem Coding.rayres (f : RForm) : Coding.Statement (.rayres f) := of_op rfl (opOf_encR _ _ _) rfl
theorem Coding.atlasreq (f : RForm) : Coding.Statement (.atlasreq f) := of_op rfl (opOf_encR _ _ _) rfl
theorem Coding.emit (f : RForm) : Coding.Statement (.emit f) := of_op rfl (opOf_encR _ _ _) rfl
theorem Coding.trap (f : IForm) : Coding.Statement (.trap f) := of_op rfl (opOf_encI _ _ _) rfl
theorem Coding.brkpt (f : RForm) : Coding.Statement (.brkpt f) := of_op rfl (opOf_encR _ _ _) rfl
theorem Coding.rdsr (f : IForm) : Coding.Statement (.rdsr f) := of_op rfl (opOf_encI _ _ _) rfl
theorem Coding.wrsr (f : IForm) : Coding.Statement (.wrsr f) := of_op rfl (opOf_encI _ _ _) rfl
theorem Coding.tret (f : RForm) : Coding.Statement (.tret f) := of_op rfl (opOf_encR _ _ _) rfl
theorem Coding.tlbinv (f : RForm) : Coding.Statement (.tlbinv f) := of_op rfl (opOf_encR _ _ _) rfl
theorem Coding.fork (f : RForm) : Coding.Statement (.fork f) := of_op rfl (opOf_encR _ _ _) rfl
theorem Coding.cflush (f : RForm) : Coding.Statement (.cflush f) := of_op rfl (opOf_encR _ _ _) rfl
theorem Coding.runStart (core slot : Nat) : Coding.Statement (.runStart core slot) := of_none rfl
theorem Coding.resultArrival (u : UnitRef) : Coding.Statement (.resultArrival u) := of_none rfl
theorem Coding.spillTransferDone (core rgs band lane : Nat) : Coding.Statement (.spillTransferDone core rgs band lane) := of_none rfl
theorem Coding.queueProtocolDetect (core rgs : Nat) : Coding.Statement (.queueProtocolDetect core rgs) := of_none rfl
theorem Coding.placeGroup (session : Nat) : Coding.Statement (.placeGroup session) := of_none rfl
theorem Coding.placeCluster (session : Nat) : Coding.Statement (.placeCluster session) := of_none rfl
theorem Coding.fetchwkServe (session : Nat) : Coding.Statement (.fetchwkServe session) := of_none rfl
theorem Coding.groupFinish (core rgs : Nat) : Coding.Statement (.groupFinish core rgs) := of_none rfl
theorem Coding.retiringEnd (core gid : Nat) : Coding.Statement (.retiringEnd core gid) := of_none rfl
theorem Coding.streamPush (core rgs stream : Nat) : Coding.Statement (.streamPush core rgs stream) := of_none rfl
theorem Coding.rejoinRelease (core rgs band : Nat) : Coding.Statement (.rejoinRelease core rgs band) := of_none rfl
theorem Coding.barrierComplete (core rgs : Nat) (cluster : Bool) : Coding.Statement (.barrierComplete core rgs cluster) := of_none rfl
theorem Coding.waitfSatisfy (u : UnitRef) (lane : Nat) : Coding.Statement (.waitfSatisfy u lane) := of_none rfl
theorem Coding.transactionConflict (core rgs band lane : Nat) : Coding.Statement (.transactionConflict core rgs band lane) := of_none rfl
theorem Coding.commitTokenGrant (session : Nat) : Coding.Statement (.commitTokenGrant session) := of_none rfl
theorem Coding.matrixEngineStart (core : Nat) : Coding.Statement (.matrixEngineStart core) := of_none rfl
theorem Coding.matrixEngineEnd (core : Nat) : Coding.Statement (.matrixEngineEnd core) := of_none rfl
theorem Coding.slotLoadComplete (core : Nat) : Coding.Statement (.slotLoadComplete core) := of_none rfl
theorem Coding.slotReload (core rgs band : Nat) : Coding.Statement (.slotReload core rgs band) := of_none rfl
theorem Coding.pqPopServe (die : Nat) : Coding.Statement (.pqPopServe die) := of_none rfl
theorem Coding.listRequestServe (session launch list : Nat) : Coding.Statement (.listRequestServe session launch list) := of_none rfl
theorem Coding.quiescenceVerdict (session launch : Nat) : Coding.Statement (.quiescenceVerdict session launch) := of_none rfl
theorem Coding.copyComplete (cmd : Nat) : Coding.Statement (.copyComplete cmd) := of_none rfl
theorem Coding.nodeFinish (session : Nat) (node : BitVec 64) : Coding.Statement (.nodeFinish session node) := of_none rfl
theorem Coding.collectiveComplete (session cluster : Nat) : Coding.Statement (.collectiveComplete session cluster) := of_none rfl
theorem Coding.heldEngineWrite (cmd : Nat) : Coding.Statement (.heldEngineWrite cmd) := of_none rfl
theorem Coding.textureStreamComplete (stream : Nat) : Coding.Statement (.textureStreamComplete stream) := of_none rfl
theorem Coding.textureStreamFail (stream : Nat) : Coding.Statement (.textureStreamFail stream) := of_none rfl
theorem Coding.rayTraversed (core rgs band lane handle : Nat) : Coding.Statement (.rayTraversed core rgs band lane handle) := of_none rfl
theorem Coding.triangleRecord (ring : Nat) : Coding.Statement (.triangleRecord ring) := of_none rfl
theorem Coding.binCommit (bin : Nat) : Coding.Statement (.binCommit bin) := of_none rfl
theorem Coding.binReplay (bin : Nat) : Coding.Statement (.binReplay bin) := of_none rfl
theorem Coding.splatRecord (ring : Nat) : Coding.Statement (.splatRecord ring) := of_none rfl
theorem Coding.flushRecord (ring : Nat) : Coding.Statement (.flushRecord ring) := of_none rfl
theorem Coding.frameRecord (ring : Nat) : Coding.Statement (.frameRecord ring) := of_none rfl
theorem Coding.encodeDone (engine : Nat) : Coding.Statement (.encodeDone engine) := of_none rfl
theorem Coding.atlasRecordAccept (core rgs band lane : Nat) : Coding.Statement (.atlasRecordAccept core rgs band lane) := of_none rfl
theorem Coding.versionCommit (session launch : Nat) : Coding.Statement (.versionCommit session launch) := of_none rfl
theorem Coding.serialTokenGrant (session launch : Nat) : Coding.Statement (.serialTokenGrant session launch) := of_none rfl
theorem Coding.trapRecordWrite (u : UnitRef) : Coding.Statement (.trapRecordWrite u) := of_none rfl
theorem Coding.faultServiceResult (session batch : Nat) : Coding.Statement (.faultServiceResult session batch) := of_none rfl
theorem Coding.tlbWalk (core session : Nat) (va : BitVec 64) : Coding.Statement (.tlbWalk core session va) := of_none rfl
theorem Coding.copyOnWrite (session : Nat) (va : BitVec 64) (subs : BitVec 8) : Coding.Statement (.copyOnWrite session va subs) := of_none rfl
theorem Coding.sliceEnd (core : Nat) : Coding.Statement (.sliceEnd core) := of_none rfl
theorem Coding.sliceHalfway (core : Nat) : Coding.Statement (.sliceHalfway core) := of_none rfl
theorem Coding.graceExpire (core : Nat) : Coding.Statement (.graceExpire core) := of_none rfl
theorem Coding.contextQuiesce (core : Nat) : Coding.Statement (.contextQuiesce core) := of_none rfl
theorem Coding.contextExchange (core : Nat) : Coding.Statement (.contextExchange core) := of_none rfl
theorem Coding.contextSpill (core : Nat) : Coding.Statement (.contextSpill core) := of_none rfl
theorem Coding.contextPreload (core : Nat) : Coding.Statement (.contextPreload core) := of_none rfl
theorem Coding.coreGrant (core : Nat) : Coding.Statement (.coreGrant core) := of_none rfl
theorem Coding.waitBudgetExpire (core : Nat) : Coding.Statement (.waitBudgetExpire core) := of_none rfl
theorem Coding.watchdogFire (queue : Nat) : Coding.Statement (.watchdogFire queue) := of_none rfl
theorem Coding.resetComplete (session : Nat) : Coding.Statement (.resetComplete session) := of_none rfl
theorem Coding.launchComplete (session launch : Nat) : Coding.Statement (.launchComplete session launch) := of_none rfl
theorem Coding.errorCorrected (region : Region) : Coding.Statement (.errorCorrected region) := of_none rfl
theorem Coding.errorUncorrected (site : ErrorSite) : Coding.Statement (.errorUncorrected site) := of_none rfl
theorem Coding.registerWrite (off : BarAccess) (value : BitVec 64) : Coding.Statement (.registerWrite off value) := of_none rfl
theorem Coding.hostWrite (pa : Nat) (data : List Byte) : Coding.Statement (.hostWrite pa data) := of_none rfl
theorem Coding.hostRead (pa : HostAddr) (len : Nat) : Coding.Statement (.hostRead pa len) := of_none rfl
theorem Coding.linkRequestTimeout (req : LinkRequest) : Coding.Statement (.linkRequestTimeout req) := of_none rfl
theorem Coding.powerGate (d : PowerDomain) : Coding.Statement (.powerGate d) := of_none rfl
theorem Coding.powerWake (d : PowerDomain) : Coding.Statement (.powerWake d) := of_none rfl
theorem Coding.unassignedOpcode (word : BitVec 96) : Coding.Statement (.unassignedOpcode word) := by
  intro x hx; cases hx; exact .inr rfl
theorem Coding.hostAtomic (op : HostAtomicOp) (pa : Nat) (wide : Bool) (operand compare : BitVec 64) : Coding.Statement (.hostAtomic op pa wide operand compare) := of_none rfl
theorem Coding.faultRecordWrite (u : UnitRef) : Coding.Statement (.faultRecordWrite u) := of_none rfl
theorem Coding.mergePage : Coding.Statement (.mergePage) := of_none rfl
theorem Coding.doorbell : Coding.Statement (.doorbell) := of_none rfl
theorem Coding.queueMap : Coding.Statement (.queueMap) := of_none rfl
theorem Coding.queueUnmapIdle : Coding.Statement (.queueUnmapIdle) := of_none rfl
theorem Coding.cpNop : Coding.Statement (.cpNop) := of_none rfl
theorem Coding.launch : Coding.Statement (.launch) := of_none rfl
theorem Coding.launchi : Coding.Statement (.launchi) := of_none rfl
theorem Coding.cpCopy : Coding.Statement (.cpCopy) := of_none rfl
theorem Coding.cpWait : Coding.Statement (.cpWait) := of_none rfl
theorem Coding.signal : Coding.Statement (.signal) := of_none rfl
theorem Coding.loop : Coding.Statement (.loop) := of_none rfl
theorem Coding.endloop : Coding.Statement (.endloop) := of_none rfl
theorem Coding.cond : Coding.Statement (.cond) := of_none rfl
theorem Coding.graph : Coding.Statement (.graph) := of_none rfl
theorem Coding.snapshotOpen : Coding.Statement (.snapshotOpen) := of_none rfl
theorem Coding.snapshotPublish : Coding.Statement (.snapshotPublish) := of_none rfl
theorem Coding.snapshotClose : Coding.Statement (.snapshotClose) := of_none rfl
theorem Coding.resume : Coding.Statement (.resume) := of_none rfl
theorem Coding.worldFree : Coding.Statement (.worldFree) := of_none rfl
theorem Coding.create : Coding.Statement (.create) := of_none rfl
theorem Coding.destroy : Coding.Statement (.destroy) := of_none rfl
theorem Coding.freeze : Coding.Statement (.freeze) := of_none rfl
theorem Coding.thaw : Coding.Statement (.thaw) := of_none rfl
theorem Coding.scmdReset : Coding.Statement (.scmdReset) := of_none rfl
theorem Coding.provision : Coding.Statement (.provision) := of_none rfl
theorem Coding.activate : Coding.Statement (.activate) := of_none rfl
theorem Coding.bind : Coding.Statement (.bind) := of_none rfl
theorem Coding.retire : Coding.Statement (.retire) := of_none rfl
theorem Coding.revoke : Coding.Statement (.revoke) := of_none rfl
theorem Coding.clear : Coding.Statement (.clear) := of_none rfl
theorem Coding.evidence : Coding.Statement (.evidence) := of_none rfl
theorem Coding.unlock : Coding.Statement (.unlock) := of_none rfl
theorem Coding.domainKey : Coding.Statement (.domainKey) := of_none rfl
theorem Coding.keySlotEmpty : Coding.Statement (.keySlotEmpty) := of_none rfl
theorem Coding.alarmpolWrite : Coding.Statement (.alarmpolWrite) := of_none rfl
theorem Coding.euWindowEnd : Coding.Statement (.euWindowEnd) := of_none rfl
theorem Coding.lock : Coding.Statement (.lock) := of_none rfl
theorem Coding.run : Coding.Statement (.run) := of_none rfl
theorem Coding.hlScrub : Coding.Statement (.hlScrub) := of_none rfl
theorem Coding.hhDrop : Coding.Statement (.hhDrop) := of_none rfl
theorem Coding.dbmSwap : Coding.Statement (.dbmSwap) := of_none rfl
theorem Coding.dbmSwapComplete : Coding.Statement (.dbmSwapComplete) := of_none rfl
theorem Coding.linkDown : Coding.Statement .linkDown := of_none rfl
theorem Coding.moduleReset : Coding.Statement (.moduleReset) := of_none rfl
theorem Coding.releasedFramePush : Coding.Statement (.releasedFramePush) := of_none rfl
theorem Coding.sensorAlarm : Coding.Statement (.sensorAlarm) := of_none rfl
theorem Coding.keystoreAlarm : Coding.Statement (.keystoreAlarm) := of_none rfl
theorem Coding.linkUp : Coding.Statement (.linkUp) := of_none rfl

end Sys2Proof.Laws
end

