-- ==== Sys2Proof/Laws/State.lean ====
section
/-! SUPPORT. The fields of the state after each of its basic updates, and the updates that reach only the cores. -/

namespace Sys2Proof.Machine

open Sys2Proof

/-! ### `modCore` -/

@[simp] theorem State.modCore_ctrl (s : State) (c : Nat) (f : Core → Core) : (s.modCore c f).ctrl = s.ctrl := rfl
@[simp] theorem State.modCore_vault (s : State) (c : Nat) (f : Core → Core) : (s.modCore c f).vault = s.vault := rfl
@[simp] theorem State.modCore_worlds (s : State) (c : Nat) (f : Core → Core) : (s.modCore c f).worlds = s.worlds := rfl
@[simp] theorem State.modCore_hh (s : State) (c : Nat) (f : Core → Core) : (s.modCore c f).hh = s.hh := rfl
@[simp] theorem State.modCore_mergePos (s : State) (c : Nat) (f : Core → Core) : (s.modCore c f).mergePos = s.mergePos := rfl
@[simp] theorem State.modCore_relPending (s : State) (c : Nat) (f : Core → Core) : (s.modCore c f).relPending = s.relPending := rfl
@[simp] theorem State.modCore_sessions (s : State) (c : Nat) (f : Core → Core) : (s.modCore c f).sessions = s.sessions := rfl
@[simp] theorem State.modCore_incarnations (s : State) (c : Nat) (f : Core → Core) : (s.modCore c f).incarnations = s.incarnations := rfl
@[simp] theorem State.modCore_launches (s : State) (c : Nat) (f : Core → Core) : (s.modCore c f).launches = s.launches := rfl
@[simp] theorem State.modCore_nodes (s : State) (c : Nat) (f : Core → Core) : (s.modCore c f).nodes = s.nodes := rfl
@[simp] theorem State.modCore_cores (s : State) (c : Nat) (f : Core → Core) : (s.modCore c f).cores = updAt f s.cores c := rfl
@[simp] theorem State.modCore_tlb2 (s : State) (c : Nat) (f : Core → Core) : (s.modCore c f).tlb2 = s.tlb2 := rfl
@[simp] theorem State.modCore_cmds (s : State) (c : Nat) (f : Core → Core) : (s.modCore c f).cmds = s.cmds := rfl
@[simp] theorem State.modCore_fetches (s : State) (c : Nat) (f : Core → Core) : (s.modCore c f).fetches = s.fetches := rfl
@[simp] theorem State.modCore_pq (s : State) (c : Nat) (f : Core → Core) : (s.modCore c f).pq = s.pq := rfl
@[simp] theorem State.modCore_pops (s : State) (c : Nat) (f : Core → Core) : (s.modCore c f).pops = s.pops := rfl
@[simp] theorem State.modCore_queues (s : State) (c : Nat) (f : Core → Core) : (s.modCore c f).queues = s.queues := rfl
@[simp] theorem State.modCore_cpTurn (s : State) (c : Nat) (f : Core → Core) : (s.modCore c f).cpTurn = s.cpTurn := rfl
@[simp] theorem State.modCore_cpNext (s : State) (c : Nat) (f : Core → Core) : (s.modCore c f).cpNext = s.cpNext := rfl
@[simp] theorem State.modCore_doorbells (s : State) (c : Nat) (f : Core → Core) : (s.modCore c f).doorbells = s.doorbells := rfl
@[simp] theorem State.modCore_rings (s : State) (c : Nat) (f : Core → Core) : (s.modCore c f).rings = s.rings := rfl
@[simp] theorem State.modCore_bins (s : State) (c : Nat) (f : Core → Core) : (s.modCore c f).bins = s.bins := rfl
@[simp] theorem State.modCore_blended (s : State) (c : Nat) (f : Core → Core) : (s.modCore c f).blended = s.blended := rfl
@[simp] theorem State.modCore_textures (s : State) (c : Nat) (f : Core → Core) : (s.modCore c f).textures = s.textures := rfl
@[simp] theorem State.modCore_texFails (s : State) (c : Nat) (f : Core → Core) : (s.modCore c f).texFails = s.texFails := rfl
@[simp] theorem State.modCore_encoders (s : State) (c : Nat) (f : Core → Core) : (s.modCore c f).encoders = s.encoders := rfl
@[simp] theorem State.modCore_encDone (s : State) (c : Nat) (f : Core → Core) : (s.modCore c f).encDone = s.encDone := rfl
@[simp] theorem State.modCore_unitFaults (s : State) (c : Nat) (f : Core → Core) : (s.modCore c f).unitFaults = s.unitFaults := rfl
@[simp] theorem State.modCore_errCount (s : State) (c : Nat) (f : Core → Core) : (s.modCore c f).errCount = s.errCount := rfl
@[simp] theorem State.modCore_euCount (s : State) (c : Nat) (f : Core → Core) : (s.modCore c f).euCount = s.euCount := rfl
@[simp] theorem State.modCore_merging (s : State) (c : Nat) (f : Core → Core) : (s.modCore c f).merging = s.merging := rfl
@[simp] theorem State.modCore_cowRan (s : State) (c : Nat) (f : Core → Core) : (s.modCore c f).cowRan = s.cowRan := rfl
@[simp] theorem State.modCore_linkLate (s : State) (c : Nat) (f : Core → Core) : (s.modCore c f).linkLate = s.linkLate := rfl
@[simp] theorem State.modCore_reached (s : State) (c : Nat) (f : Core → Core) : (s.modCore c f).reached = s.reached := rfl
@[simp] theorem State.modCore_lasting (s : State) (c : Nat) (f : Core → Core) : (s.modCore c f).lasting = s.lasting := rfl
@[simp] theorem State.modCore_idle (s : State) (c : Nat) (f : Core → Core) : (s.modCore c f).idle = s.idle := rfl
@[simp] theorem State.modCore_irqs (s : State) (c : Nat) (f : Core → Core) : (s.modCore c f).irqs = s.irqs := rfl
@[simp] theorem State.modCore_alarmTodo (s : State) (c : Nat) (f : Core → Core) : (s.modCore c f).alarmTodo = s.alarmTodo := rfl
@[simp] theorem State.modCore_hostData (s : State) (c : Nat) (f : Core → Core) : (s.modCore c f).hostData = s.hostData := rfl
@[simp] theorem State.modCore_nextGid (s : State) (c : Nat) (f : Core → Core) : (s.modCore c f).nextGid = s.nextGid := rfl
@[simp] theorem State.modCore_nextCmd (s : State) (c : Nat) (f : Core → Core) : (s.modCore c f).nextCmd = s.nextCmd := rfl
@[simp] theorem State.modCore_runCtr (s : State) (c : Nat) (f : Core → Core) : (s.modCore c f).runCtr = s.runCtr := rfl
@[simp] theorem State.modCore_freeCtr (s : State) (c : Nat) (f : Core → Core) : (s.modCore c f).freeCtr = s.freeCtr := rfl
@[simp] theorem State.modCore_clash (s : State) (c : Nat) (f : Core → Core) : (s.modCore c f).clash = s.clash := rfl
@[simp] theorem State.modCore_issuer (s : State) (c : Nat) (f : Core → Core) : (s.modCore c f).issuer = s.issuer := rfl
@[simp] theorem State.modCore_agenda (s : State) (c : Nat) (f : Core → Core) : (s.modCore c f).agenda = s.agenda := rfl

/-! ### `modSession` -/

@[simp] theorem State.modSession_ctrl (s : State) (n : Nat) (f : Session → Session) : (s.modSession n f).ctrl = s.ctrl := rfl
@[simp] theorem State.modSession_vault (s : State) (n : Nat) (f : Session → Session) : (s.modSession n f).vault = s.vault := rfl
@[simp] theorem State.modSession_worlds (s : State) (n : Nat) (f : Session → Session) : (s.modSession n f).worlds = s.worlds := rfl
@[simp] theorem State.modSession_hh (s : State) (n : Nat) (f : Session → Session) : (s.modSession n f).hh = s.hh := rfl
@[simp] theorem State.modSession_mergePos (s : State) (n : Nat) (f : Session → Session) : (s.modSession n f).mergePos = s.mergePos := rfl
@[simp] theorem State.modSession_relPending (s : State) (n : Nat) (f : Session → Session) : (s.modSession n f).relPending = s.relPending := rfl
@[simp] theorem State.modSession_sessions (s : State) (n : Nat) (f : Session → Session) : (s.modSession n f).sessions = updFirst (fun x => x.slot == n) f s.sessions := rfl
@[simp] theorem State.modSession_incarnations (s : State) (n : Nat) (f : Session → Session) : (s.modSession n f).incarnations = s.incarnations := rfl
@[simp] theorem State.modSession_launches (s : State) (n : Nat) (f : Session → Session) : (s.modSession n f).launches = s.launches := rfl
@[simp] theorem State.modSession_nodes (s : State) (n : Nat) (f : Session → Session) : (s.modSession n f).nodes = s.nodes := rfl
@[simp] theorem State.modSession_cores (s : State) (n : Nat) (f : Session → Session) : (s.modSession n f).cores = s.cores := rfl
@[simp] theorem State.modSession_tlb2 (s : State) (n : Nat) (f : Session → Session) : (s.modSession n f).tlb2 = s.tlb2 := rfl
@[simp] theorem State.modSession_cmds (s : State) (n : Nat) (f : Session → Session) : (s.modSession n f).cmds = s.cmds := rfl
@[simp] theorem State.modSession_fetches (s : State) (n : Nat) (f : Session → Session) : (s.modSession n f).fetches = s.fetches := rfl
@[simp] theorem State.modSession_pq (s : State) (n : Nat) (f : Session → Session) : (s.modSession n f).pq = s.pq := rfl
@[simp] theorem State.modSession_pops (s : State) (n : Nat) (f : Session → Session) : (s.modSession n f).pops = s.pops := rfl
@[simp] theorem State.modSession_queues (s : State) (n : Nat) (f : Session → Session) : (s.modSession n f).queues = s.queues := rfl
@[simp] theorem State.modSession_cpTurn (s : State) (n : Nat) (f : Session → Session) : (s.modSession n f).cpTurn = s.cpTurn := rfl
@[simp] theorem State.modSession_cpNext (s : State) (n : Nat) (f : Session → Session) : (s.modSession n f).cpNext = s.cpNext := rfl
@[simp] theorem State.modSession_doorbells (s : State) (n : Nat) (f : Session → Session) : (s.modSession n f).doorbells = s.doorbells := rfl
@[simp] theorem State.modSession_rings (s : State) (n : Nat) (f : Session → Session) : (s.modSession n f).rings = s.rings := rfl
@[simp] theorem State.modSession_bins (s : State) (n : Nat) (f : Session → Session) : (s.modSession n f).bins = s.bins := rfl
@[simp] theorem State.modSession_blended (s : State) (n : Nat) (f : Session → Session) : (s.modSession n f).blended = s.blended := rfl
@[simp] theorem State.modSession_textures (s : State) (n : Nat) (f : Session → Session) : (s.modSession n f).textures = s.textures := rfl
@[simp] theorem State.modSession_texFails (s : State) (n : Nat) (f : Session → Session) : (s.modSession n f).texFails = s.texFails := rfl
@[simp] theorem State.modSession_encoders (s : State) (n : Nat) (f : Session → Session) : (s.modSession n f).encoders = s.encoders := rfl
@[simp] theorem State.modSession_encDone (s : State) (n : Nat) (f : Session → Session) : (s.modSession n f).encDone = s.encDone := rfl
@[simp] theorem State.modSession_unitFaults (s : State) (n : Nat) (f : Session → Session) : (s.modSession n f).unitFaults = s.unitFaults := rfl
@[simp] theorem State.modSession_errCount (s : State) (n : Nat) (f : Session → Session) : (s.modSession n f).errCount = s.errCount := rfl
@[simp] theorem State.modSession_euCount (s : State) (n : Nat) (f : Session → Session) : (s.modSession n f).euCount = s.euCount := rfl
@[simp] theorem State.modSession_merging (s : State) (n : Nat) (f : Session → Session) : (s.modSession n f).merging = s.merging := rfl
@[simp] theorem State.modSession_cowRan (s : State) (n : Nat) (f : Session → Session) : (s.modSession n f).cowRan = s.cowRan := rfl
@[simp] theorem State.modSession_linkLate (s : State) (n : Nat) (f : Session → Session) : (s.modSession n f).linkLate = s.linkLate := rfl
@[simp] theorem State.modSession_reached (s : State) (n : Nat) (f : Session → Session) : (s.modSession n f).reached = s.reached := rfl
@[simp] theorem State.modSession_lasting (s : State) (n : Nat) (f : Session → Session) : (s.modSession n f).lasting = s.lasting := rfl
@[simp] theorem State.modSession_idle (s : State) (n : Nat) (f : Session → Session) : (s.modSession n f).idle = s.idle := rfl
@[simp] theorem State.modSession_irqs (s : State) (n : Nat) (f : Session → Session) : (s.modSession n f).irqs = s.irqs := rfl
@[simp] theorem State.modSession_alarmTodo (s : State) (n : Nat) (f : Session → Session) : (s.modSession n f).alarmTodo = s.alarmTodo := rfl
@[simp] theorem State.modSession_hostData (s : State) (n : Nat) (f : Session → Session) : (s.modSession n f).hostData = s.hostData := rfl
@[simp] theorem State.modSession_nextGid (s : State) (n : Nat) (f : Session → Session) : (s.modSession n f).nextGid = s.nextGid := rfl
@[simp] theorem State.modSession_nextCmd (s : State) (n : Nat) (f : Session → Session) : (s.modSession n f).nextCmd = s.nextCmd := rfl
@[simp] theorem State.modSession_runCtr (s : State) (n : Nat) (f : Session → Session) : (s.modSession n f).runCtr = s.runCtr := rfl
@[simp] theorem State.modSession_freeCtr (s : State) (n : Nat) (f : Session → Session) : (s.modSession n f).freeCtr = s.freeCtr := rfl
@[simp] theorem State.modSession_clash (s : State) (n : Nat) (f : Session → Session) : (s.modSession n f).clash = s.clash := rfl
@[simp] theorem State.modSession_issuer (s : State) (n : Nat) (f : Session → Session) : (s.modSession n f).issuer = s.issuer := rfl
@[simp] theorem State.modSession_agenda (s : State) (n : Nat) (f : Session → Session) : (s.modSession n f).agenda = s.agenda := rfl

/-! ### `modLaunch` -/

@[simp] theorem State.modLaunch_phys (s : State) (n m : Nat) (f : Launch → Launch) : (s.modLaunch n m f).phys = s.phys := rfl
@[simp] theorem State.modLaunch_ctrl (s : State) (n m : Nat) (f : Launch → Launch) : (s.modLaunch n m f).ctrl = s.ctrl := rfl
@[simp] theorem State.modLaunch_vault (s : State) (n m : Nat) (f : Launch → Launch) : (s.modLaunch n m f).vault = s.vault := rfl
@[simp] theorem State.modLaunch_worlds (s : State) (n m : Nat) (f : Launch → Launch) : (s.modLaunch n m f).worlds = s.worlds := rfl
@[simp] theorem State.modLaunch_hh (s : State) (n m : Nat) (f : Launch → Launch) : (s.modLaunch n m f).hh = s.hh := rfl
@[simp] theorem State.modLaunch_mergePos (s : State) (n m : Nat) (f : Launch → Launch) : (s.modLaunch n m f).mergePos = s.mergePos := rfl
@[simp] theorem State.modLaunch_relPending (s : State) (n m : Nat) (f : Launch → Launch) : (s.modLaunch n m f).relPending = s.relPending := rfl
@[simp] theorem State.modLaunch_sessions (s : State) (n m : Nat) (f : Launch → Launch) : (s.modLaunch n m f).sessions = s.sessions := rfl
@[simp] theorem State.modLaunch_incarnations (s : State) (n m : Nat) (f : Launch → Launch) : (s.modLaunch n m f).incarnations = s.incarnations := rfl
@[simp] theorem State.modLaunch_launches (s : State) (n m : Nat) (f : Launch → Launch) : (s.modLaunch n m f).launches = updFirst (fun l => l.session == n && l.number == m) f s.launches := rfl
@[simp] theorem State.modLaunch_nodes (s : State) (n m : Nat) (f : Launch → Launch) : (s.modLaunch n m f).nodes = s.nodes := rfl
@[simp] theorem State.modLaunch_cores (s : State) (n m : Nat) (f : Launch → Launch) : (s.modLaunch n m f).cores = s.cores := rfl
@[simp] theorem State.modLaunch_tlb2 (s : State) (n m : Nat) (f : Launch → Launch) : (s.modLaunch n m f).tlb2 = s.tlb2 := rfl
@[simp] theorem State.modLaunch_cmds (s : State) (n m : Nat) (f : Launch → Launch) : (s.modLaunch n m f).cmds = s.cmds := rfl
@[simp] theorem State.modLaunch_fetches (s : State) (n m : Nat) (f : Launch → Launch) : (s.modLaunch n m f).fetches = s.fetches := rfl
@[simp] theorem State.modLaunch_pq (s : State) (n m : Nat) (f : Launch → Launch) : (s.modLaunch n m f).pq = s.pq := rfl
@[simp] theorem State.modLaunch_pops (s : State) (n m : Nat) (f : Launch → Launch) : (s.modLaunch n m f).pops = s.pops := rfl
@[simp] theorem State.modLaunch_queues (s : State) (n m : Nat) (f : Launch → Launch) : (s.modLaunch n m f).queues = s.queues := rfl
@[simp] theorem State.modLaunch_cpTurn (s : State) (n m : Nat) (f : Launch → Launch) : (s.modLaunch n m f).cpTurn = s.cpTurn := rfl
@[simp] theorem State.modLaunch_cpNext (s : State) (n m : Nat) (f : Launch → Launch) : (s.modLaunch n m f).cpNext = s.cpNext := rfl
@[simp] theorem State.modLaunch_doorbells (s : State) (n m : Nat) (f : Launch → Launch) : (s.modLaunch n m f).doorbells = s.doorbells := rfl
@[simp] theorem State.modLaunch_rings (s : State) (n m : Nat) (f : Launch → Launch) : (s.modLaunch n m f).rings = s.rings := rfl
@[simp] theorem State.modLaunch_bins (s : State) (n m : Nat) (f : Launch → Launch) : (s.modLaunch n m f).bins = s.bins := rfl
@[simp] theorem State.modLaunch_blended (s : State) (n m : Nat) (f : Launch → Launch) : (s.modLaunch n m f).blended = s.blended := rfl
@[simp] theorem State.modLaunch_textures (s : State) (n m : Nat) (f : Launch → Launch) : (s.modLaunch n m f).textures = s.textures := rfl
@[simp] theorem State.modLaunch_texFails (s : State) (n m : Nat) (f : Launch → Launch) : (s.modLaunch n m f).texFails = s.texFails := rfl
@[simp] theorem State.modLaunch_encoders (s : State) (n m : Nat) (f : Launch → Launch) : (s.modLaunch n m f).encoders = s.encoders := rfl
@[simp] theorem State.modLaunch_encDone (s : State) (n m : Nat) (f : Launch → Launch) : (s.modLaunch n m f).encDone = s.encDone := rfl
@[simp] theorem State.modLaunch_unitFaults (s : State) (n m : Nat) (f : Launch → Launch) : (s.modLaunch n m f).unitFaults = s.unitFaults := rfl
@[simp] theorem State.modLaunch_errCount (s : State) (n m : Nat) (f : Launch → Launch) : (s.modLaunch n m f).errCount = s.errCount := rfl
@[simp] theorem State.modLaunch_euCount (s : State) (n m : Nat) (f : Launch → Launch) : (s.modLaunch n m f).euCount = s.euCount := rfl
@[simp] theorem State.modLaunch_merging (s : State) (n m : Nat) (f : Launch → Launch) : (s.modLaunch n m f).merging = s.merging := rfl
@[simp] theorem State.modLaunch_cowRan (s : State) (n m : Nat) (f : Launch → Launch) : (s.modLaunch n m f).cowRan = s.cowRan := rfl
@[simp] theorem State.modLaunch_linkLate (s : State) (n m : Nat) (f : Launch → Launch) : (s.modLaunch n m f).linkLate = s.linkLate := rfl
@[simp] theorem State.modLaunch_reached (s : State) (n m : Nat) (f : Launch → Launch) : (s.modLaunch n m f).reached = s.reached := rfl
@[simp] theorem State.modLaunch_lasting (s : State) (n m : Nat) (f : Launch → Launch) : (s.modLaunch n m f).lasting = s.lasting := rfl
@[simp] theorem State.modLaunch_idle (s : State) (n m : Nat) (f : Launch → Launch) : (s.modLaunch n m f).idle = s.idle := rfl
@[simp] theorem State.modLaunch_irqs (s : State) (n m : Nat) (f : Launch → Launch) : (s.modLaunch n m f).irqs = s.irqs := rfl
@[simp] theorem State.modLaunch_alarmTodo (s : State) (n m : Nat) (f : Launch → Launch) : (s.modLaunch n m f).alarmTodo = s.alarmTodo := rfl
@[simp] theorem State.modLaunch_hostData (s : State) (n m : Nat) (f : Launch → Launch) : (s.modLaunch n m f).hostData = s.hostData := rfl
@[simp] theorem State.modLaunch_nextGid (s : State) (n m : Nat) (f : Launch → Launch) : (s.modLaunch n m f).nextGid = s.nextGid := rfl
@[simp] theorem State.modLaunch_nextCmd (s : State) (n m : Nat) (f : Launch → Launch) : (s.modLaunch n m f).nextCmd = s.nextCmd := rfl
@[simp] theorem State.modLaunch_runCtr (s : State) (n m : Nat) (f : Launch → Launch) : (s.modLaunch n m f).runCtr = s.runCtr := rfl
@[simp] theorem State.modLaunch_freeCtr (s : State) (n m : Nat) (f : Launch → Launch) : (s.modLaunch n m f).freeCtr = s.freeCtr := rfl
@[simp] theorem State.modLaunch_clash (s : State) (n m : Nat) (f : Launch → Launch) : (s.modLaunch n m f).clash = s.clash := rfl
@[simp] theorem State.modLaunch_issuer (s : State) (n m : Nat) (f : Launch → Launch) : (s.modLaunch n m f).issuer = s.issuer := rfl
@[simp] theorem State.modLaunch_agenda (s : State) (n m : Nat) (f : Launch → Launch) : (s.modLaunch n m f).agenda = s.agenda := rfl

/-! ### `modNode` -/

@[simp] theorem State.modNode_phys (s : State) (n : Nat) (a : Dword) (f : Node → Node) : (s.modNode n a f).phys = s.phys := rfl
@[simp] theorem State.modNode_ctrl (s : State) (n : Nat) (a : Dword) (f : Node → Node) : (s.modNode n a f).ctrl = s.ctrl := rfl
@[simp] theorem State.modNode_vault (s : State) (n : Nat) (a : Dword) (f : Node → Node) : (s.modNode n a f).vault = s.vault := rfl
@[simp] theorem State.modNode_worlds (s : State) (n : Nat) (a : Dword) (f : Node → Node) : (s.modNode n a f).worlds = s.worlds := rfl
@[simp] theorem State.modNode_hh (s : State) (n : Nat) (a : Dword) (f : Node → Node) : (s.modNode n a f).hh = s.hh := rfl
@[simp] theorem State.modNode_mergePos (s : State) (n : Nat) (a : Dword) (f : Node → Node) : (s.modNode n a f).mergePos = s.mergePos := rfl
@[simp] theorem State.modNode_relPending (s : State) (n : Nat) (a : Dword) (f : Node → Node) : (s.modNode n a f).relPending = s.relPending := rfl
@[simp] theorem State.modNode_sessions (s : State) (n : Nat) (a : Dword) (f : Node → Node) : (s.modNode n a f).sessions = s.sessions := rfl
@[simp] theorem State.modNode_incarnations (s : State) (n : Nat) (a : Dword) (f : Node → Node) : (s.modNode n a f).incarnations = s.incarnations := rfl
@[simp] theorem State.modNode_launches (s : State) (n : Nat) (a : Dword) (f : Node → Node) : (s.modNode n a f).launches = s.launches := rfl
@[simp] theorem State.modNode_cores (s : State) (n : Nat) (a : Dword) (f : Node → Node) : (s.modNode n a f).cores = s.cores := rfl
@[simp] theorem State.modNode_tlb2 (s : State) (n : Nat) (a : Dword) (f : Node → Node) : (s.modNode n a f).tlb2 = s.tlb2 := rfl
@[simp] theorem State.modNode_cmds (s : State) (n : Nat) (a : Dword) (f : Node → Node) : (s.modNode n a f).cmds = s.cmds := rfl
@[simp] theorem State.modNode_fetches (s : State) (n : Nat) (a : Dword) (f : Node → Node) : (s.modNode n a f).fetches = s.fetches := rfl
@[simp] theorem State.modNode_pq (s : State) (n : Nat) (a : Dword) (f : Node → Node) : (s.modNode n a f).pq = s.pq := rfl
@[simp] theorem State.modNode_pops (s : State) (n : Nat) (a : Dword) (f : Node → Node) : (s.modNode n a f).pops = s.pops := rfl
@[simp] theorem State.modNode_queues (s : State) (n : Nat) (a : Dword) (f : Node → Node) : (s.modNode n a f).queues = s.queues := rfl
@[simp] theorem State.modNode_cpTurn (s : State) (n : Nat) (a : Dword) (f : Node → Node) : (s.modNode n a f).cpTurn = s.cpTurn := rfl
@[simp] theorem State.modNode_cpNext (s : State) (n : Nat) (a : Dword) (f : Node → Node) : (s.modNode n a f).cpNext = s.cpNext := rfl
@[simp] theorem State.modNode_doorbells (s : State) (n : Nat) (a : Dword) (f : Node → Node) : (s.modNode n a f).doorbells = s.doorbells := rfl
@[simp] theorem State.modNode_rings (s : State) (n : Nat) (a : Dword) (f : Node → Node) : (s.modNode n a f).rings = s.rings := rfl
@[simp] theorem State.modNode_bins (s : State) (n : Nat) (a : Dword) (f : Node → Node) : (s.modNode n a f).bins = s.bins := rfl
@[simp] theorem State.modNode_blended (s : State) (n : Nat) (a : Dword) (f : Node → Node) : (s.modNode n a f).blended = s.blended := rfl
@[simp] theorem State.modNode_textures (s : State) (n : Nat) (a : Dword) (f : Node → Node) : (s.modNode n a f).textures = s.textures := rfl
@[simp] theorem State.modNode_texFails (s : State) (n : Nat) (a : Dword) (f : Node → Node) : (s.modNode n a f).texFails = s.texFails := rfl
@[simp] theorem State.modNode_encoders (s : State) (n : Nat) (a : Dword) (f : Node → Node) : (s.modNode n a f).encoders = s.encoders := rfl
@[simp] theorem State.modNode_encDone (s : State) (n : Nat) (a : Dword) (f : Node → Node) : (s.modNode n a f).encDone = s.encDone := rfl
@[simp] theorem State.modNode_unitFaults (s : State) (n : Nat) (a : Dword) (f : Node → Node) : (s.modNode n a f).unitFaults = s.unitFaults := rfl
@[simp] theorem State.modNode_errCount (s : State) (n : Nat) (a : Dword) (f : Node → Node) : (s.modNode n a f).errCount = s.errCount := rfl
@[simp] theorem State.modNode_euCount (s : State) (n : Nat) (a : Dword) (f : Node → Node) : (s.modNode n a f).euCount = s.euCount := rfl
@[simp] theorem State.modNode_merging (s : State) (n : Nat) (a : Dword) (f : Node → Node) : (s.modNode n a f).merging = s.merging := rfl
@[simp] theorem State.modNode_cowRan (s : State) (n : Nat) (a : Dword) (f : Node → Node) : (s.modNode n a f).cowRan = s.cowRan := rfl
@[simp] theorem State.modNode_linkLate (s : State) (n : Nat) (a : Dword) (f : Node → Node) : (s.modNode n a f).linkLate = s.linkLate := rfl
@[simp] theorem State.modNode_reached (s : State) (n : Nat) (a : Dword) (f : Node → Node) : (s.modNode n a f).reached = s.reached := rfl
@[simp] theorem State.modNode_lasting (s : State) (n : Nat) (a : Dword) (f : Node → Node) : (s.modNode n a f).lasting = s.lasting := rfl
@[simp] theorem State.modNode_idle (s : State) (n : Nat) (a : Dword) (f : Node → Node) : (s.modNode n a f).idle = s.idle := rfl
@[simp] theorem State.modNode_irqs (s : State) (n : Nat) (a : Dword) (f : Node → Node) : (s.modNode n a f).irqs = s.irqs := rfl
@[simp] theorem State.modNode_alarmTodo (s : State) (n : Nat) (a : Dword) (f : Node → Node) : (s.modNode n a f).alarmTodo = s.alarmTodo := rfl
@[simp] theorem State.modNode_hostData (s : State) (n : Nat) (a : Dword) (f : Node → Node) : (s.modNode n a f).hostData = s.hostData := rfl
@[simp] theorem State.modNode_nextGid (s : State) (n : Nat) (a : Dword) (f : Node → Node) : (s.modNode n a f).nextGid = s.nextGid := rfl
@[simp] theorem State.modNode_nextCmd (s : State) (n : Nat) (a : Dword) (f : Node → Node) : (s.modNode n a f).nextCmd = s.nextCmd := rfl
@[simp] theorem State.modNode_runCtr (s : State) (n : Nat) (a : Dword) (f : Node → Node) : (s.modNode n a f).runCtr = s.runCtr := rfl
@[simp] theorem State.modNode_freeCtr (s : State) (n : Nat) (a : Dword) (f : Node → Node) : (s.modNode n a f).freeCtr = s.freeCtr := rfl
@[simp] theorem State.modNode_clash (s : State) (n : Nat) (a : Dword) (f : Node → Node) : (s.modNode n a f).clash = s.clash := rfl
@[simp] theorem State.modNode_issuer (s : State) (n : Nat) (a : Dword) (f : Node → Node) : (s.modNode n a f).issuer = s.issuer := rfl
@[simp] theorem State.modNode_agenda (s : State) (n : Nat) (a : Dword) (f : Node → Node) : (s.modNode n a f).agenda = s.agenda := rfl

/-! ### `modCmd` -/

@[simp] theorem State.modCmd_phys (s : State) (n : Nat) (f : Cmd → Cmd) : (s.modCmd n f).phys = s.phys := rfl
@[simp] theorem State.modCmd_ctrl (s : State) (n : Nat) (f : Cmd → Cmd) : (s.modCmd n f).ctrl = s.ctrl := rfl
@[simp] theorem State.modCmd_vault (s : State) (n : Nat) (f : Cmd → Cmd) : (s.modCmd n f).vault = s.vault := rfl
@[simp] theorem State.modCmd_worlds (s : State) (n : Nat) (f : Cmd → Cmd) : (s.modCmd n f).worlds = s.worlds := rfl
@[simp] theorem State.modCmd_hh (s : State) (n : Nat) (f : Cmd → Cmd) : (s.modCmd n f).hh = s.hh := rfl
@[simp] theorem State.modCmd_mergePos (s : State) (n : Nat) (f : Cmd → Cmd) : (s.modCmd n f).mergePos = s.mergePos := rfl
@[simp] theorem State.modCmd_relPending (s : State) (n : Nat) (f : Cmd → Cmd) : (s.modCmd n f).relPending = s.relPending := rfl
@[simp] theorem State.modCmd_sessions (s : State) (n : Nat) (f : Cmd → Cmd) : (s.modCmd n f).sessions = s.sessions := rfl
@[simp] theorem State.modCmd_incarnations (s : State) (n : Nat) (f : Cmd → Cmd) : (s.modCmd n f).incarnations = s.incarnations := rfl
@[simp] theorem State.modCmd_launches (s : State) (n : Nat) (f : Cmd → Cmd) : (s.modCmd n f).launches = s.launches := rfl
@[simp] theorem State.modCmd_nodes (s : State) (n : Nat) (f : Cmd → Cmd) : (s.modCmd n f).nodes = s.nodes := rfl
@[simp] theorem State.modCmd_cores (s : State) (n : Nat) (f : Cmd → Cmd) : (s.modCmd n f).cores = s.cores := rfl
@[simp] theorem State.modCmd_tlb2 (s : State) (n : Nat) (f : Cmd → Cmd) : (s.modCmd n f).tlb2 = s.tlb2 := rfl
@[simp] theorem State.modCmd_cmds (s : State) (n : Nat) (f : Cmd → Cmd) : (s.modCmd n f).cmds = updFirst (fun c => c.id == n) f s.cmds := rfl
@[simp] theorem State.modCmd_fetches (s : State) (n : Nat) (f : Cmd → Cmd) : (s.modCmd n f).fetches = s.fetches := rfl
@[simp] theorem State.modCmd_pq (s : State) (n : Nat) (f : Cmd → Cmd) : (s.modCmd n f).pq = s.pq := rfl
@[simp] theorem State.modCmd_pops (s : State) (n : Nat) (f : Cmd → Cmd) : (s.modCmd n f).pops = s.pops := rfl
@[simp] theorem State.modCmd_queues (s : State) (n : Nat) (f : Cmd → Cmd) : (s.modCmd n f).queues = s.queues := rfl
@[simp] theorem State.modCmd_cpTurn (s : State) (n : Nat) (f : Cmd → Cmd) : (s.modCmd n f).cpTurn = s.cpTurn := rfl
@[simp] theorem State.modCmd_cpNext (s : State) (n : Nat) (f : Cmd → Cmd) : (s.modCmd n f).cpNext = s.cpNext := rfl
@[simp] theorem State.modCmd_doorbells (s : State) (n : Nat) (f : Cmd → Cmd) : (s.modCmd n f).doorbells = s.doorbells := rfl
@[simp] theorem State.modCmd_rings (s : State) (n : Nat) (f : Cmd → Cmd) : (s.modCmd n f).rings = s.rings := rfl
@[simp] theorem State.modCmd_bins (s : State) (n : Nat) (f : Cmd → Cmd) : (s.modCmd n f).bins = s.bins := rfl
@[simp] theorem State.modCmd_blended (s : State) (n : Nat) (f : Cmd → Cmd) : (s.modCmd n f).blended = s.blended := rfl
@[simp] theorem State.modCmd_textures (s : State) (n : Nat) (f : Cmd → Cmd) : (s.modCmd n f).textures = s.textures := rfl
@[simp] theorem State.modCmd_texFails (s : State) (n : Nat) (f : Cmd → Cmd) : (s.modCmd n f).texFails = s.texFails := rfl
@[simp] theorem State.modCmd_encoders (s : State) (n : Nat) (f : Cmd → Cmd) : (s.modCmd n f).encoders = s.encoders := rfl
@[simp] theorem State.modCmd_encDone (s : State) (n : Nat) (f : Cmd → Cmd) : (s.modCmd n f).encDone = s.encDone := rfl
@[simp] theorem State.modCmd_unitFaults (s : State) (n : Nat) (f : Cmd → Cmd) : (s.modCmd n f).unitFaults = s.unitFaults := rfl
@[simp] theorem State.modCmd_errCount (s : State) (n : Nat) (f : Cmd → Cmd) : (s.modCmd n f).errCount = s.errCount := rfl
@[simp] theorem State.modCmd_euCount (s : State) (n : Nat) (f : Cmd → Cmd) : (s.modCmd n f).euCount = s.euCount := rfl
@[simp] theorem State.modCmd_merging (s : State) (n : Nat) (f : Cmd → Cmd) : (s.modCmd n f).merging = s.merging := rfl
@[simp] theorem State.modCmd_cowRan (s : State) (n : Nat) (f : Cmd → Cmd) : (s.modCmd n f).cowRan = s.cowRan := rfl
@[simp] theorem State.modCmd_linkLate (s : State) (n : Nat) (f : Cmd → Cmd) : (s.modCmd n f).linkLate = s.linkLate := rfl
@[simp] theorem State.modCmd_reached (s : State) (n : Nat) (f : Cmd → Cmd) : (s.modCmd n f).reached = s.reached := rfl
@[simp] theorem State.modCmd_lasting (s : State) (n : Nat) (f : Cmd → Cmd) : (s.modCmd n f).lasting = s.lasting := rfl
@[simp] theorem State.modCmd_idle (s : State) (n : Nat) (f : Cmd → Cmd) : (s.modCmd n f).idle = s.idle := rfl
@[simp] theorem State.modCmd_irqs (s : State) (n : Nat) (f : Cmd → Cmd) : (s.modCmd n f).irqs = s.irqs := rfl
@[simp] theorem State.modCmd_alarmTodo (s : State) (n : Nat) (f : Cmd → Cmd) : (s.modCmd n f).alarmTodo = s.alarmTodo := rfl
@[simp] theorem State.modCmd_hostData (s : State) (n : Nat) (f : Cmd → Cmd) : (s.modCmd n f).hostData = s.hostData := rfl
@[simp] theorem State.modCmd_nextGid (s : State) (n : Nat) (f : Cmd → Cmd) : (s.modCmd n f).nextGid = s.nextGid := rfl
@[simp] theorem State.modCmd_nextCmd (s : State) (n : Nat) (f : Cmd → Cmd) : (s.modCmd n f).nextCmd = s.nextCmd := rfl
@[simp] theorem State.modCmd_runCtr (s : State) (n : Nat) (f : Cmd → Cmd) : (s.modCmd n f).runCtr = s.runCtr := rfl
@[simp] theorem State.modCmd_freeCtr (s : State) (n : Nat) (f : Cmd → Cmd) : (s.modCmd n f).freeCtr = s.freeCtr := rfl
@[simp] theorem State.modCmd_clash (s : State) (n : Nat) (f : Cmd → Cmd) : (s.modCmd n f).clash = s.clash := rfl
@[simp] theorem State.modCmd_issuer (s : State) (n : Nat) (f : Cmd → Cmd) : (s.modCmd n f).issuer = s.issuer := rfl
@[simp] theorem State.modCmd_agenda (s : State) (n : Nat) (f : Cmd → Cmd) : (s.modCmd n f).agenda = s.agenda := rfl

/-! ### `modCtx` -/

@[simp] theorem State.modCtx_phys (s : State) (n : Nat) (f : QueueCtx → QueueCtx) : (s.modCtx n f).phys = s.phys := rfl
@[simp] theorem State.modCtx_ctrl (s : State) (n : Nat) (f : QueueCtx → QueueCtx) : (s.modCtx n f).ctrl = s.ctrl := rfl
@[simp] theorem State.modCtx_vault (s : State) (n : Nat) (f : QueueCtx → QueueCtx) : (s.modCtx n f).vault = s.vault := rfl
@[simp] theorem State.modCtx_worlds (s : State) (n : Nat) (f : QueueCtx → QueueCtx) : (s.modCtx n f).worlds = s.worlds := rfl
@[simp] theorem State.modCtx_hh (s : State) (n : Nat) (f : QueueCtx → QueueCtx) : (s.modCtx n f).hh = s.hh := rfl
@[simp] theorem State.modCtx_mergePos (s : State) (n : Nat) (f : QueueCtx → QueueCtx) : (s.modCtx n f).mergePos = s.mergePos := rfl
@[simp] theorem State.modCtx_relPending (s : State) (n : Nat) (f : QueueCtx → QueueCtx) : (s.modCtx n f).relPending = s.relPending := rfl
@[simp] theorem State.modCtx_sessions (s : State) (n : Nat) (f : QueueCtx → QueueCtx) : (s.modCtx n f).sessions = s.sessions := rfl
@[simp] theorem State.modCtx_incarnations (s : State) (n : Nat) (f : QueueCtx → QueueCtx) : (s.modCtx n f).incarnations = s.incarnations := rfl
@[simp] theorem State.modCtx_launches (s : State) (n : Nat) (f : QueueCtx → QueueCtx) : (s.modCtx n f).launches = s.launches := rfl
@[simp] theorem State.modCtx_nodes (s : State) (n : Nat) (f : QueueCtx → QueueCtx) : (s.modCtx n f).nodes = s.nodes := rfl
@[simp] theorem State.modCtx_cores (s : State) (n : Nat) (f : QueueCtx → QueueCtx) : (s.modCtx n f).cores = s.cores := rfl
@[simp] theorem State.modCtx_tlb2 (s : State) (n : Nat) (f : QueueCtx → QueueCtx) : (s.modCtx n f).tlb2 = s.tlb2 := rfl
@[simp] theorem State.modCtx_cmds (s : State) (n : Nat) (f : QueueCtx → QueueCtx) : (s.modCtx n f).cmds = s.cmds := rfl
@[simp] theorem State.modCtx_fetches (s : State) (n : Nat) (f : QueueCtx → QueueCtx) : (s.modCtx n f).fetches = s.fetches := rfl
@[simp] theorem State.modCtx_pq (s : State) (n : Nat) (f : QueueCtx → QueueCtx) : (s.modCtx n f).pq = s.pq := rfl
@[simp] theorem State.modCtx_pops (s : State) (n : Nat) (f : QueueCtx → QueueCtx) : (s.modCtx n f).pops = s.pops := rfl
@[simp] theorem State.modCtx_queues (s : State) (n : Nat) (f : QueueCtx → QueueCtx) : (s.modCtx n f).queues = updFirst (fun q => q.queue == n) f s.queues := rfl
@[simp] theorem State.modCtx_cpTurn (s : State) (n : Nat) (f : QueueCtx → QueueCtx) : (s.modCtx n f).cpTurn = s.cpTurn := rfl
@[simp] theorem State.modCtx_cpNext (s : State) (n : Nat) (f : QueueCtx → QueueCtx) : (s.modCtx n f).cpNext = s.cpNext := rfl
@[simp] theorem State.modCtx_doorbells (s : State) (n : Nat) (f : QueueCtx → QueueCtx) : (s.modCtx n f).doorbells = s.doorbells := rfl
@[simp] theorem State.modCtx_rings (s : State) (n : Nat) (f : QueueCtx → QueueCtx) : (s.modCtx n f).rings = s.rings := rfl
@[simp] theorem State.modCtx_bins (s : State) (n : Nat) (f : QueueCtx → QueueCtx) : (s.modCtx n f).bins = s.bins := rfl
@[simp] theorem State.modCtx_blended (s : State) (n : Nat) (f : QueueCtx → QueueCtx) : (s.modCtx n f).blended = s.blended := rfl
@[simp] theorem State.modCtx_textures (s : State) (n : Nat) (f : QueueCtx → QueueCtx) : (s.modCtx n f).textures = s.textures := rfl
@[simp] theorem State.modCtx_texFails (s : State) (n : Nat) (f : QueueCtx → QueueCtx) : (s.modCtx n f).texFails = s.texFails := rfl
@[simp] theorem State.modCtx_encoders (s : State) (n : Nat) (f : QueueCtx → QueueCtx) : (s.modCtx n f).encoders = s.encoders := rfl
@[simp] theorem State.modCtx_encDone (s : State) (n : Nat) (f : QueueCtx → QueueCtx) : (s.modCtx n f).encDone = s.encDone := rfl
@[simp] theorem State.modCtx_unitFaults (s : State) (n : Nat) (f : QueueCtx → QueueCtx) : (s.modCtx n f).unitFaults = s.unitFaults := rfl
@[simp] theorem State.modCtx_errCount (s : State) (n : Nat) (f : QueueCtx → QueueCtx) : (s.modCtx n f).errCount = s.errCount := rfl
@[simp] theorem State.modCtx_euCount (s : State) (n : Nat) (f : QueueCtx → QueueCtx) : (s.modCtx n f).euCount = s.euCount := rfl
@[simp] theorem State.modCtx_merging (s : State) (n : Nat) (f : QueueCtx → QueueCtx) : (s.modCtx n f).merging = s.merging := rfl
@[simp] theorem State.modCtx_cowRan (s : State) (n : Nat) (f : QueueCtx → QueueCtx) : (s.modCtx n f).cowRan = s.cowRan := rfl
@[simp] theorem State.modCtx_linkLate (s : State) (n : Nat) (f : QueueCtx → QueueCtx) : (s.modCtx n f).linkLate = s.linkLate := rfl
@[simp] theorem State.modCtx_reached (s : State) (n : Nat) (f : QueueCtx → QueueCtx) : (s.modCtx n f).reached = s.reached := rfl
@[simp] theorem State.modCtx_lasting (s : State) (n : Nat) (f : QueueCtx → QueueCtx) : (s.modCtx n f).lasting = s.lasting := rfl
@[simp] theorem State.modCtx_idle (s : State) (n : Nat) (f : QueueCtx → QueueCtx) : (s.modCtx n f).idle = s.idle := rfl
@[simp] theorem State.modCtx_irqs (s : State) (n : Nat) (f : QueueCtx → QueueCtx) : (s.modCtx n f).irqs = s.irqs := rfl
@[simp] theorem State.modCtx_alarmTodo (s : State) (n : Nat) (f : QueueCtx → QueueCtx) : (s.modCtx n f).alarmTodo = s.alarmTodo := rfl
@[simp] theorem State.modCtx_hostData (s : State) (n : Nat) (f : QueueCtx → QueueCtx) : (s.modCtx n f).hostData = s.hostData := rfl
@[simp] theorem State.modCtx_nextGid (s : State) (n : Nat) (f : QueueCtx → QueueCtx) : (s.modCtx n f).nextGid = s.nextGid := rfl
@[simp] theorem State.modCtx_nextCmd (s : State) (n : Nat) (f : QueueCtx → QueueCtx) : (s.modCtx n f).nextCmd = s.nextCmd := rfl
@[simp] theorem State.modCtx_runCtr (s : State) (n : Nat) (f : QueueCtx → QueueCtx) : (s.modCtx n f).runCtr = s.runCtr := rfl
@[simp] theorem State.modCtx_freeCtr (s : State) (n : Nat) (f : QueueCtx → QueueCtx) : (s.modCtx n f).freeCtr = s.freeCtr := rfl
@[simp] theorem State.modCtx_clash (s : State) (n : Nat) (f : QueueCtx → QueueCtx) : (s.modCtx n f).clash = s.clash := rfl
@[simp] theorem State.modCtx_issuer (s : State) (n : Nat) (f : QueueCtx → QueueCtx) : (s.modCtx n f).issuer = s.issuer := rfl
@[simp] theorem State.modCtx_agenda (s : State) (n : Nat) (f : QueueCtx → QueueCtx) : (s.modCtx n f).agenda = s.agenda := rfl

/-! ### `modKey` -/

@[simp] theorem State.modKey_phys (s : State) (n : Nat) (f : KeySlot → KeySlot) : (s.modKey n f).phys = s.phys := rfl
@[simp] theorem State.modKey_ctrl (s : State) (n : Nat) (f : KeySlot → KeySlot) : (s.modKey n f).ctrl = s.ctrl := rfl
@[simp] theorem State.modKey_worlds (s : State) (n : Nat) (f : KeySlot → KeySlot) : (s.modKey n f).worlds = s.worlds := rfl
@[simp] theorem State.modKey_hh (s : State) (n : Nat) (f : KeySlot → KeySlot) : (s.modKey n f).hh = s.hh := rfl
@[simp] theorem State.modKey_mergePos (s : State) (n : Nat) (f : KeySlot → KeySlot) : (s.modKey n f).mergePos = s.mergePos := rfl
@[simp] theorem State.modKey_relPending (s : State) (n : Nat) (f : KeySlot → KeySlot) : (s.modKey n f).relPending = s.relPending := rfl
@[simp] theorem State.modKey_sessions (s : State) (n : Nat) (f : KeySlot → KeySlot) : (s.modKey n f).sessions = s.sessions := rfl
@[simp] theorem State.modKey_incarnations (s : State) (n : Nat) (f : KeySlot → KeySlot) : (s.modKey n f).incarnations = s.incarnations := rfl
@[simp] theorem State.modKey_launches (s : State) (n : Nat) (f : KeySlot → KeySlot) : (s.modKey n f).launches = s.launches := rfl
@[simp] theorem State.modKey_nodes (s : State) (n : Nat) (f : KeySlot → KeySlot) : (s.modKey n f).nodes = s.nodes := rfl
@[simp] theorem State.modKey_cores (s : State) (n : Nat) (f : KeySlot → KeySlot) : (s.modKey n f).cores = s.cores := rfl
@[simp] theorem State.modKey_tlb2 (s : State) (n : Nat) (f : KeySlot → KeySlot) : (s.modKey n f).tlb2 = s.tlb2 := rfl
@[simp] theorem State.modKey_cmds (s : State) (n : Nat) (f : KeySlot → KeySlot) : (s.modKey n f).cmds = s.cmds := rfl
@[simp] theorem State.modKey_fetches (s : State) (n : Nat) (f : KeySlot → KeySlot) : (s.modKey n f).fetches = s.fetches := rfl
@[simp] theorem State.modKey_pq (s : State) (n : Nat) (f : KeySlot → KeySlot) : (s.modKey n f).pq = s.pq := rfl
@[simp] theorem State.modKey_pops (s : State) (n : Nat) (f : KeySlot → KeySlot) : (s.modKey n f).pops = s.pops := rfl
@[simp] theorem State.modKey_queues (s : State) (n : Nat) (f : KeySlot → KeySlot) : (s.modKey n f).queues = s.queues := rfl
@[simp] theorem State.modKey_cpTurn (s : State) (n : Nat) (f : KeySlot → KeySlot) : (s.modKey n f).cpTurn = s.cpTurn := rfl
@[simp] theorem State.modKey_cpNext (s : State) (n : Nat) (f : KeySlot → KeySlot) : (s.modKey n f).cpNext = s.cpNext := rfl
@[simp] theorem State.modKey_doorbells (s : State) (n : Nat) (f : KeySlot → KeySlot) : (s.modKey n f).doorbells = s.doorbells := rfl
@[simp] theorem State.modKey_rings (s : State) (n : Nat) (f : KeySlot → KeySlot) : (s.modKey n f).rings = s.rings := rfl
@[simp] theorem State.modKey_bins (s : State) (n : Nat) (f : KeySlot → KeySlot) : (s.modKey n f).bins = s.bins := rfl
@[simp] theorem State.modKey_blended (s : State) (n : Nat) (f : KeySlot → KeySlot) : (s.modKey n f).blended = s.blended := rfl
@[simp] theorem State.modKey_textures (s : State) (n : Nat) (f : KeySlot → KeySlot) : (s.modKey n f).textures = s.textures := rfl
@[simp] theorem State.modKey_texFails (s : State) (n : Nat) (f : KeySlot → KeySlot) : (s.modKey n f).texFails = s.texFails := rfl
@[simp] theorem State.modKey_encoders (s : State) (n : Nat) (f : KeySlot → KeySlot) : (s.modKey n f).encoders = s.encoders := rfl
@[simp] theorem State.modKey_encDone (s : State) (n : Nat) (f : KeySlot → KeySlot) : (s.modKey n f).encDone = s.encDone := rfl
@[simp] theorem State.modKey_unitFaults (s : State) (n : Nat) (f : KeySlot → KeySlot) : (s.modKey n f).unitFaults = s.unitFaults := rfl
@[simp] theorem State.modKey_errCount (s : State) (n : Nat) (f : KeySlot → KeySlot) : (s.modKey n f).errCount = s.errCount := rfl
@[simp] theorem State.modKey_euCount (s : State) (n : Nat) (f : KeySlot → KeySlot) : (s.modKey n f).euCount = s.euCount := rfl
@[simp] theorem State.modKey_merging (s : State) (n : Nat) (f : KeySlot → KeySlot) : (s.modKey n f).merging = s.merging := rfl
@[simp] theorem State.modKey_cowRan (s : State) (n : Nat) (f : KeySlot → KeySlot) : (s.modKey n f).cowRan = s.cowRan := rfl
@[simp] theorem State.modKey_linkLate (s : State) (n : Nat) (f : KeySlot → KeySlot) : (s.modKey n f).linkLate = s.linkLate := rfl
@[simp] theorem State.modKey_reached (s : State) (n : Nat) (f : KeySlot → KeySlot) : (s.modKey n f).reached = s.reached := rfl
@[simp] theorem State.modKey_lasting (s : State) (n : Nat) (f : KeySlot → KeySlot) : (s.modKey n f).lasting = s.lasting := rfl
@[simp] theorem State.modKey_idle (s : State) (n : Nat) (f : KeySlot → KeySlot) : (s.modKey n f).idle = s.idle := rfl
@[simp] theorem State.modKey_irqs (s : State) (n : Nat) (f : KeySlot → KeySlot) : (s.modKey n f).irqs = s.irqs := rfl
@[simp] theorem State.modKey_alarmTodo (s : State) (n : Nat) (f : KeySlot → KeySlot) : (s.modKey n f).alarmTodo = s.alarmTodo := rfl
@[simp] theorem State.modKey_hostData (s : State) (n : Nat) (f : KeySlot → KeySlot) : (s.modKey n f).hostData = s.hostData := rfl
@[simp] theorem State.modKey_nextGid (s : State) (n : Nat) (f : KeySlot → KeySlot) : (s.modKey n f).nextGid = s.nextGid := rfl
@[simp] theorem State.modKey_nextCmd (s : State) (n : Nat) (f : KeySlot → KeySlot) : (s.modKey n f).nextCmd = s.nextCmd := rfl
@[simp] theorem State.modKey_runCtr (s : State) (n : Nat) (f : KeySlot → KeySlot) : (s.modKey n f).runCtr = s.runCtr := rfl
@[simp] theorem State.modKey_freeCtr (s : State) (n : Nat) (f : KeySlot → KeySlot) : (s.modKey n f).freeCtr = s.freeCtr := rfl
@[simp] theorem State.modKey_clash (s : State) (n : Nat) (f : KeySlot → KeySlot) : (s.modKey n f).clash = s.clash := rfl
@[simp] theorem State.modKey_issuer (s : State) (n : Nat) (f : KeySlot → KeySlot) : (s.modKey n f).issuer = s.issuer := rfl
@[simp] theorem State.modKey_agenda (s : State) (n : Nat) (f : KeySlot → KeySlot) : (s.modKey n f).agenda = s.agenda := rfl

/-! ### `setCtrl` -/

@[simp] theorem State.setCtrl_phys (s : State) (f : Ctrl → Ctrl) : (s.setCtrl f).phys = s.phys := rfl
@[simp] theorem State.setCtrl_ctrl (s : State) (f : Ctrl → Ctrl) : (s.setCtrl f).ctrl = f s.ctrl := rfl
@[simp] theorem State.setCtrl_vault (s : State) (f : Ctrl → Ctrl) : (s.setCtrl f).vault = s.vault := rfl
@[simp] theorem State.setCtrl_worlds (s : State) (f : Ctrl → Ctrl) : (s.setCtrl f).worlds = s.worlds := rfl
@[simp] theorem State.setCtrl_hh (s : State) (f : Ctrl → Ctrl) : (s.setCtrl f).hh = s.hh := rfl
@[simp] theorem State.setCtrl_mergePos (s : State) (f : Ctrl → Ctrl) : (s.setCtrl f).mergePos = s.mergePos := rfl
@[simp] theorem State.setCtrl_relPending (s : State) (f : Ctrl → Ctrl) : (s.setCtrl f).relPending = s.relPending := rfl
@[simp] theorem State.setCtrl_sessions (s : State) (f : Ctrl → Ctrl) : (s.setCtrl f).sessions = s.sessions := rfl
@[simp] theorem State.setCtrl_incarnations (s : State) (f : Ctrl → Ctrl) : (s.setCtrl f).incarnations = s.incarnations := rfl
@[simp] theorem State.setCtrl_launches (s : State) (f : Ctrl → Ctrl) : (s.setCtrl f).launches = s.launches := rfl
@[simp] theorem State.setCtrl_nodes (s : State) (f : Ctrl → Ctrl) : (s.setCtrl f).nodes = s.nodes := rfl
@[simp] theorem State.setCtrl_cores (s : State) (f : Ctrl → Ctrl) : (s.setCtrl f).cores = s.cores := rfl
@[simp] theorem State.setCtrl_tlb2 (s : State) (f : Ctrl → Ctrl) : (s.setCtrl f).tlb2 = s.tlb2 := rfl
@[simp] theorem State.setCtrl_cmds (s : State) (f : Ctrl → Ctrl) : (s.setCtrl f).cmds = s.cmds := rfl
@[simp] theorem State.setCtrl_fetches (s : State) (f : Ctrl → Ctrl) : (s.setCtrl f).fetches = s.fetches := rfl
@[simp] theorem State.setCtrl_pq (s : State) (f : Ctrl → Ctrl) : (s.setCtrl f).pq = s.pq := rfl
@[simp] theorem State.setCtrl_pops (s : State) (f : Ctrl → Ctrl) : (s.setCtrl f).pops = s.pops := rfl
@[simp] theorem State.setCtrl_queues (s : State) (f : Ctrl → Ctrl) : (s.setCtrl f).queues = s.queues := rfl
@[simp] theorem State.setCtrl_cpTurn (s : State) (f : Ctrl → Ctrl) : (s.setCtrl f).cpTurn = s.cpTurn := rfl
@[simp] theorem State.setCtrl_cpNext (s : State) (f : Ctrl → Ctrl) : (s.setCtrl f).cpNext = s.cpNext := rfl
@[simp] theorem State.setCtrl_doorbells (s : State) (f : Ctrl → Ctrl) : (s.setCtrl f).doorbells = s.doorbells := rfl
@[simp] theorem State.setCtrl_rings (s : State) (f : Ctrl → Ctrl) : (s.setCtrl f).rings = s.rings := rfl
@[simp] theorem State.setCtrl_bins (s : State) (f : Ctrl → Ctrl) : (s.setCtrl f).bins = s.bins := rfl
@[simp] theorem State.setCtrl_blended (s : State) (f : Ctrl → Ctrl) : (s.setCtrl f).blended = s.blended := rfl
@[simp] theorem State.setCtrl_textures (s : State) (f : Ctrl → Ctrl) : (s.setCtrl f).textures = s.textures := rfl
@[simp] theorem State.setCtrl_texFails (s : State) (f : Ctrl → Ctrl) : (s.setCtrl f).texFails = s.texFails := rfl
@[simp] theorem State.setCtrl_encoders (s : State) (f : Ctrl → Ctrl) : (s.setCtrl f).encoders = s.encoders := rfl
@[simp] theorem State.setCtrl_encDone (s : State) (f : Ctrl → Ctrl) : (s.setCtrl f).encDone = s.encDone := rfl
@[simp] theorem State.setCtrl_unitFaults (s : State) (f : Ctrl → Ctrl) : (s.setCtrl f).unitFaults = s.unitFaults := rfl
@[simp] theorem State.setCtrl_errCount (s : State) (f : Ctrl → Ctrl) : (s.setCtrl f).errCount = s.errCount := rfl
@[simp] theorem State.setCtrl_euCount (s : State) (f : Ctrl → Ctrl) : (s.setCtrl f).euCount = s.euCount := rfl
@[simp] theorem State.setCtrl_merging (s : State) (f : Ctrl → Ctrl) : (s.setCtrl f).merging = s.merging := rfl
@[simp] theorem State.setCtrl_cowRan (s : State) (f : Ctrl → Ctrl) : (s.setCtrl f).cowRan = s.cowRan := rfl
@[simp] theorem State.setCtrl_linkLate (s : State) (f : Ctrl → Ctrl) : (s.setCtrl f).linkLate = s.linkLate := rfl
@[simp] theorem State.setCtrl_reached (s : State) (f : Ctrl → Ctrl) : (s.setCtrl f).reached = s.reached := rfl
@[simp] theorem State.setCtrl_lasting (s : State) (f : Ctrl → Ctrl) : (s.setCtrl f).lasting = s.lasting := rfl
@[simp] theorem State.setCtrl_idle (s : State) (f : Ctrl → Ctrl) : (s.setCtrl f).idle = s.idle := rfl
@[simp] theorem State.setCtrl_irqs (s : State) (f : Ctrl → Ctrl) : (s.setCtrl f).irqs = s.irqs := rfl
@[simp] theorem State.setCtrl_alarmTodo (s : State) (f : Ctrl → Ctrl) : (s.setCtrl f).alarmTodo = s.alarmTodo := rfl
@[simp] theorem State.setCtrl_hostData (s : State) (f : Ctrl → Ctrl) : (s.setCtrl f).hostData = s.hostData := rfl
@[simp] theorem State.setCtrl_nextGid (s : State) (f : Ctrl → Ctrl) : (s.setCtrl f).nextGid = s.nextGid := rfl
@[simp] theorem State.setCtrl_nextCmd (s : State) (f : Ctrl → Ctrl) : (s.setCtrl f).nextCmd = s.nextCmd := rfl
@[simp] theorem State.setCtrl_runCtr (s : State) (f : Ctrl → Ctrl) : (s.setCtrl f).runCtr = s.runCtr := rfl
@[simp] theorem State.setCtrl_freeCtr (s : State) (f : Ctrl → Ctrl) : (s.setCtrl f).freeCtr = s.freeCtr := rfl
@[simp] theorem State.setCtrl_clash (s : State) (f : Ctrl → Ctrl) : (s.setCtrl f).clash = s.clash := rfl
@[simp] theorem State.setCtrl_issuer (s : State) (f : Ctrl → Ctrl) : (s.setCtrl f).issuer = s.issuer := rfl
@[simp] theorem State.setCtrl_agenda (s : State) (f : Ctrl → Ctrl) : (s.setCtrl f).agenda = s.agenda := rfl

/-! ### `scmdEnd` -/

@[simp] theorem State.scmdEnd_phys (s : State) (n : Nat) : (s.scmdEnd n).phys = s.phys := rfl
@[simp] theorem State.scmdEnd_vault (s : State) (n : Nat) : (s.scmdEnd n).vault = s.vault := rfl
@[simp] theorem State.scmdEnd_worlds (s : State) (n : Nat) : (s.scmdEnd n).worlds = s.worlds := rfl
@[simp] theorem State.scmdEnd_hh (s : State) (n : Nat) : (s.scmdEnd n).hh = s.hh := rfl
@[simp] theorem State.scmdEnd_mergePos (s : State) (n : Nat) : (s.scmdEnd n).mergePos = s.mergePos := rfl
@[simp] theorem State.scmdEnd_relPending (s : State) (n : Nat) : (s.scmdEnd n).relPending = s.relPending := rfl
@[simp] theorem State.scmdEnd_sessions (s : State) (n : Nat) : (s.scmdEnd n).sessions = s.sessions := rfl
@[simp] theorem State.scmdEnd_incarnations (s : State) (n : Nat) : (s.scmdEnd n).incarnations = s.incarnations := rfl
@[simp] theorem State.scmdEnd_launches (s : State) (n : Nat) : (s.scmdEnd n).launches = s.launches := rfl
@[simp] theorem State.scmdEnd_nodes (s : State) (n : Nat) : (s.scmdEnd n).nodes = s.nodes := rfl
@[simp] theorem State.scmdEnd_cores (s : State) (n : Nat) : (s.scmdEnd n).cores = s.cores := rfl
@[simp] theorem State.scmdEnd_tlb2 (s : State) (n : Nat) : (s.scmdEnd n).tlb2 = s.tlb2 := rfl
@[simp] theorem State.scmdEnd_cmds (s : State) (n : Nat) : (s.scmdEnd n).cmds = s.cmds := rfl
@[simp] theorem State.scmdEnd_fetches (s : State) (n : Nat) : (s.scmdEnd n).fetches = s.fetches := rfl
@[simp] theorem State.scmdEnd_pq (s : State) (n : Nat) : (s.scmdEnd n).pq = s.pq := rfl
@[simp] theorem State.scmdEnd_pops (s : State) (n : Nat) : (s.scmdEnd n).pops = s.pops := rfl
@[simp] theorem State.scmdEnd_queues (s : State) (n : Nat) : (s.scmdEnd n).queues = s.queues := rfl
@[simp] theorem State.scmdEnd_cpTurn (s : State) (n : Nat) : (s.scmdEnd n).cpTurn = s.cpTurn := rfl
@[simp] theorem State.scmdEnd_cpNext (s : State) (n : Nat) : (s.scmdEnd n).cpNext = s.cpNext := rfl
@[simp] theorem State.scmdEnd_doorbells (s : State) (n : Nat) : (s.scmdEnd n).doorbells = s.doorbells := rfl
@[simp] theorem State.scmdEnd_rings (s : State) (n : Nat) : (s.scmdEnd n).rings = s.rings := rfl
@[simp] theorem State.scmdEnd_bins (s : State) (n : Nat) : (s.scmdEnd n).bins = s.bins := rfl
@[simp] theorem State.scmdEnd_blended (s : State) (n : Nat) : (s.scmdEnd n).blended = s.blended := rfl
@[simp] theorem State.scmdEnd_textures (s : State) (n : Nat) : (s.scmdEnd n).textures = s.textures := rfl
@[simp] theorem State.scmdEnd_texFails (s : State) (n : Nat) : (s.scmdEnd n).texFails = s.texFails := rfl
@[simp] theorem State.scmdEnd_encoders (s : State) (n : Nat) : (s.scmdEnd n).encoders = s.encoders := rfl
@[simp] theorem State.scmdEnd_encDone (s : State) (n : Nat) : (s.scmdEnd n).encDone = s.encDone := rfl
@[simp] theorem State.scmdEnd_unitFaults (s : State) (n : Nat) : (s.scmdEnd n).unitFaults = s.unitFaults := rfl
@[simp] theorem State.scmdEnd_errCount (s : State) (n : Nat) : (s.scmdEnd n).errCount = s.errCount := rfl
@[simp] theorem State.scmdEnd_euCount (s : State) (n : Nat) : (s.scmdEnd n).euCount = s.euCount := rfl
@[simp] theorem State.scmdEnd_merging (s : State) (n : Nat) : (s.scmdEnd n).merging = s.merging := rfl
@[simp] theorem State.scmdEnd_cowRan (s : State) (n : Nat) : (s.scmdEnd n).cowRan = s.cowRan := rfl
@[simp] theorem State.scmdEnd_linkLate (s : State) (n : Nat) : (s.scmdEnd n).linkLate = s.linkLate := rfl
@[simp] theorem State.scmdEnd_reached (s : State) (n : Nat) : (s.scmdEnd n).reached = s.reached := rfl
@[simp] theorem State.scmdEnd_lasting (s : State) (n : Nat) : (s.scmdEnd n).lasting = s.lasting := rfl
@[simp] theorem State.scmdEnd_idle (s : State) (n : Nat) : (s.scmdEnd n).idle = s.idle := rfl
@[simp] theorem State.scmdEnd_irqs (s : State) (n : Nat) : (s.scmdEnd n).irqs = s.irqs := rfl
@[simp] theorem State.scmdEnd_alarmTodo (s : State) (n : Nat) : (s.scmdEnd n).alarmTodo = s.alarmTodo := rfl
@[simp] theorem State.scmdEnd_hostData (s : State) (n : Nat) : (s.scmdEnd n).hostData = s.hostData := rfl
@[simp] theorem State.scmdEnd_nextGid (s : State) (n : Nat) : (s.scmdEnd n).nextGid = s.nextGid := rfl
@[simp] theorem State.scmdEnd_nextCmd (s : State) (n : Nat) : (s.scmdEnd n).nextCmd = s.nextCmd := rfl
@[simp] theorem State.scmdEnd_runCtr (s : State) (n : Nat) : (s.scmdEnd n).runCtr = s.runCtr := rfl
@[simp] theorem State.scmdEnd_freeCtr (s : State) (n : Nat) : (s.scmdEnd n).freeCtr = s.freeCtr := rfl
@[simp] theorem State.scmdEnd_clash (s : State) (n : Nat) : (s.scmdEnd n).clash = s.clash := rfl
@[simp] theorem State.scmdEnd_issuer (s : State) (n : Nat) : (s.scmdEnd n).issuer = s.issuer := rfl
@[simp] theorem State.scmdEnd_agenda (s : State) (n : Nat) : (s.scmdEnd n).agenda = s.agenda := rfl

/-! ### `vbEnd` -/

@[simp] theorem State.vbEnd_phys (s : State) (n m : Nat) : (s.vbEnd n m).phys = s.phys := rfl
@[simp] theorem State.vbEnd_vault (s : State) (n m : Nat) : (s.vbEnd n m).vault = s.vault := rfl
@[simp] theorem State.vbEnd_worlds (s : State) (n m : Nat) : (s.vbEnd n m).worlds = s.worlds := rfl
@[simp] theorem State.vbEnd_hh (s : State) (n m : Nat) : (s.vbEnd n m).hh = s.hh := rfl
@[simp] theorem State.vbEnd_mergePos (s : State) (n m : Nat) : (s.vbEnd n m).mergePos = s.mergePos := rfl
@[simp] theorem State.vbEnd_relPending (s : State) (n m : Nat) : (s.vbEnd n m).relPending = s.relPending := rfl
@[simp] theorem State.vbEnd_sessions (s : State) (n m : Nat) : (s.vbEnd n m).sessions = s.sessions := rfl
@[simp] theorem State.vbEnd_incarnations (s : State) (n m : Nat) : (s.vbEnd n m).incarnations = s.incarnations := rfl
@[simp] theorem State.vbEnd_launches (s : State) (n m : Nat) : (s.vbEnd n m).launches = s.launches := rfl
@[simp] theorem State.vbEnd_nodes (s : State) (n m : Nat) : (s.vbEnd n m).nodes = s.nodes := rfl
@[simp] theorem State.vbEnd_cores (s : State) (n m : Nat) : (s.vbEnd n m).cores = s.cores := rfl
@[simp] theorem State.vbEnd_tlb2 (s : State) (n m : Nat) : (s.vbEnd n m).tlb2 = s.tlb2 := rfl
@[simp] theorem State.vbEnd_cmds (s : State) (n m : Nat) : (s.vbEnd n m).cmds = s.cmds := rfl
@[simp] theorem State.vbEnd_fetches (s : State) (n m : Nat) : (s.vbEnd n m).fetches = s.fetches := rfl
@[simp] theorem State.vbEnd_pq (s : State) (n m : Nat) : (s.vbEnd n m).pq = s.pq := rfl
@[simp] theorem State.vbEnd_pops (s : State) (n m : Nat) : (s.vbEnd n m).pops = s.pops := rfl
@[simp] theorem State.vbEnd_queues (s : State) (n m : Nat) : (s.vbEnd n m).queues = s.queues := rfl
@[simp] theorem State.vbEnd_cpTurn (s : State) (n m : Nat) : (s.vbEnd n m).cpTurn = s.cpTurn := rfl
@[simp] theorem State.vbEnd_cpNext (s : State) (n m : Nat) : (s.vbEnd n m).cpNext = s.cpNext := rfl
@[simp] theorem State.vbEnd_doorbells (s : State) (n m : Nat) : (s.vbEnd n m).doorbells = s.doorbells := rfl
@[simp] theorem State.vbEnd_rings (s : State) (n m : Nat) : (s.vbEnd n m).rings = s.rings := rfl
@[simp] theorem State.vbEnd_bins (s : State) (n m : Nat) : (s.vbEnd n m).bins = s.bins := rfl
@[simp] theorem State.vbEnd_blended (s : State) (n m : Nat) : (s.vbEnd n m).blended = s.blended := rfl
@[simp] theorem State.vbEnd_textures (s : State) (n m : Nat) : (s.vbEnd n m).textures = s.textures := rfl
@[simp] theorem State.vbEnd_texFails (s : State) (n m : Nat) : (s.vbEnd n m).texFails = s.texFails := rfl
@[simp] theorem State.vbEnd_encoders (s : State) (n m : Nat) : (s.vbEnd n m).encoders = s.encoders := rfl
@[simp] theorem State.vbEnd_encDone (s : State) (n m : Nat) : (s.vbEnd n m).encDone = s.encDone := rfl
@[simp] theorem State.vbEnd_unitFaults (s : State) (n m : Nat) : (s.vbEnd n m).unitFaults = s.unitFaults := rfl
@[simp] theorem State.vbEnd_errCount (s : State) (n m : Nat) : (s.vbEnd n m).errCount = s.errCount := rfl
@[simp] theorem State.vbEnd_euCount (s : State) (n m : Nat) : (s.vbEnd n m).euCount = s.euCount := rfl
@[simp] theorem State.vbEnd_merging (s : State) (n m : Nat) : (s.vbEnd n m).merging = s.merging := rfl
@[simp] theorem State.vbEnd_cowRan (s : State) (n m : Nat) : (s.vbEnd n m).cowRan = s.cowRan := rfl
@[simp] theorem State.vbEnd_linkLate (s : State) (n m : Nat) : (s.vbEnd n m).linkLate = s.linkLate := rfl
@[simp] theorem State.vbEnd_reached (s : State) (n m : Nat) : (s.vbEnd n m).reached = s.reached := rfl
@[simp] theorem State.vbEnd_lasting (s : State) (n m : Nat) : (s.vbEnd n m).lasting = s.lasting := rfl
@[simp] theorem State.vbEnd_idle (s : State) (n m : Nat) : (s.vbEnd n m).idle = s.idle := rfl
@[simp] theorem State.vbEnd_irqs (s : State) (n m : Nat) : (s.vbEnd n m).irqs = s.irqs := rfl
@[simp] theorem State.vbEnd_alarmTodo (s : State) (n m : Nat) : (s.vbEnd n m).alarmTodo = s.alarmTodo := rfl
@[simp] theorem State.vbEnd_hostData (s : State) (n m : Nat) : (s.vbEnd n m).hostData = s.hostData := rfl
@[simp] theorem State.vbEnd_nextGid (s : State) (n m : Nat) : (s.vbEnd n m).nextGid = s.nextGid := rfl
@[simp] theorem State.vbEnd_nextCmd (s : State) (n m : Nat) : (s.vbEnd n m).nextCmd = s.nextCmd := rfl
@[simp] theorem State.vbEnd_runCtr (s : State) (n m : Nat) : (s.vbEnd n m).runCtr = s.runCtr := rfl
@[simp] theorem State.vbEnd_freeCtr (s : State) (n m : Nat) : (s.vbEnd n m).freeCtr = s.freeCtr := rfl
@[simp] theorem State.vbEnd_clash (s : State) (n m : Nat) : (s.vbEnd n m).clash = s.clash := rfl
@[simp] theorem State.vbEnd_issuer (s : State) (n m : Nat) : (s.vbEnd n m).issuer = s.issuer := rfl
@[simp] theorem State.vbEnd_agenda (s : State) (n m : Nat) : (s.vbEnd n m).agenda = s.agenda := rfl

/-! ### `cfgError` -/

@[simp] theorem State.cfgError_phys (s : State) (n : Nat) : (s.cfgError n).phys = s.phys := rfl
@[simp] theorem State.cfgError_vault (s : State) (n : Nat) : (s.cfgError n).vault = s.vault := rfl
@[simp] theorem State.cfgError_worlds (s : State) (n : Nat) : (s.cfgError n).worlds = s.worlds := rfl
@[simp] theorem State.cfgError_hh (s : State) (n : Nat) : (s.cfgError n).hh = s.hh := rfl
@[simp] theorem State.cfgError_mergePos (s : State) (n : Nat) : (s.cfgError n).mergePos = s.mergePos := rfl
@[simp] theorem State.cfgError_relPending (s : State) (n : Nat) : (s.cfgError n).relPending = s.relPending := rfl
@[simp] theorem State.cfgError_sessions (s : State) (n : Nat) : (s.cfgError n).sessions = s.sessions := rfl
@[simp] theorem State.cfgError_incarnations (s : State) (n : Nat) : (s.cfgError n).incarnations = s.incarnations := rfl
@[simp] theorem State.cfgError_launches (s : State) (n : Nat) : (s.cfgError n).launches = s.launches := rfl
@[simp] theorem State.cfgError_nodes (s : State) (n : Nat) : (s.cfgError n).nodes = s.nodes := rfl
@[simp] theorem State.cfgError_cores (s : State) (n : Nat) : (s.cfgError n).cores = s.cores := rfl
@[simp] theorem State.cfgError_tlb2 (s : State) (n : Nat) : (s.cfgError n).tlb2 = s.tlb2 := rfl
@[simp] theorem State.cfgError_cmds (s : State) (n : Nat) : (s.cfgError n).cmds = s.cmds := rfl
@[simp] theorem State.cfgError_fetches (s : State) (n : Nat) : (s.cfgError n).fetches = s.fetches := rfl
@[simp] theorem State.cfgError_pq (s : State) (n : Nat) : (s.cfgError n).pq = s.pq := rfl
@[simp] theorem State.cfgError_pops (s : State) (n : Nat) : (s.cfgError n).pops = s.pops := rfl
@[simp] theorem State.cfgError_queues (s : State) (n : Nat) : (s.cfgError n).queues = s.queues := rfl
@[simp] theorem State.cfgError_cpTurn (s : State) (n : Nat) : (s.cfgError n).cpTurn = s.cpTurn := rfl
@[simp] theorem State.cfgError_cpNext (s : State) (n : Nat) : (s.cfgError n).cpNext = s.cpNext := rfl
@[simp] theorem State.cfgError_doorbells (s : State) (n : Nat) : (s.cfgError n).doorbells = s.doorbells := rfl
@[simp] theorem State.cfgError_rings (s : State) (n : Nat) : (s.cfgError n).rings = s.rings := rfl
@[simp] theorem State.cfgError_bins (s : State) (n : Nat) : (s.cfgError n).bins = s.bins := rfl
@[simp] theorem State.cfgError_blended (s : State) (n : Nat) : (s.cfgError n).blended = s.blended := rfl
@[simp] theorem State.cfgError_textures (s : State) (n : Nat) : (s.cfgError n).textures = s.textures := rfl
@[simp] theorem State.cfgError_texFails (s : State) (n : Nat) : (s.cfgError n).texFails = s.texFails := rfl
@[simp] theorem State.cfgError_encoders (s : State) (n : Nat) : (s.cfgError n).encoders = s.encoders := rfl
@[simp] theorem State.cfgError_encDone (s : State) (n : Nat) : (s.cfgError n).encDone = s.encDone := rfl
@[simp] theorem State.cfgError_unitFaults (s : State) (n : Nat) : (s.cfgError n).unitFaults = s.unitFaults := rfl
@[simp] theorem State.cfgError_errCount (s : State) (n : Nat) : (s.cfgError n).errCount = s.errCount := rfl
@[simp] theorem State.cfgError_euCount (s : State) (n : Nat) : (s.cfgError n).euCount = s.euCount := rfl
@[simp] theorem State.cfgError_merging (s : State) (n : Nat) : (s.cfgError n).merging = s.merging := rfl
@[simp] theorem State.cfgError_cowRan (s : State) (n : Nat) : (s.cfgError n).cowRan = s.cowRan := rfl
@[simp] theorem State.cfgError_linkLate (s : State) (n : Nat) : (s.cfgError n).linkLate = s.linkLate := rfl
@[simp] theorem State.cfgError_reached (s : State) (n : Nat) : (s.cfgError n).reached = s.reached := rfl
@[simp] theorem State.cfgError_lasting (s : State) (n : Nat) : (s.cfgError n).lasting = s.lasting := rfl
@[simp] theorem State.cfgError_idle (s : State) (n : Nat) : (s.cfgError n).idle = s.idle := rfl
@[simp] theorem State.cfgError_irqs (s : State) (n : Nat) : (s.cfgError n).irqs = s.irqs := rfl
@[simp] theorem State.cfgError_alarmTodo (s : State) (n : Nat) : (s.cfgError n).alarmTodo = s.alarmTodo := rfl
@[simp] theorem State.cfgError_hostData (s : State) (n : Nat) : (s.cfgError n).hostData = s.hostData := rfl
@[simp] theorem State.cfgError_nextGid (s : State) (n : Nat) : (s.cfgError n).nextGid = s.nextGid := rfl
@[simp] theorem State.cfgError_nextCmd (s : State) (n : Nat) : (s.cfgError n).nextCmd = s.nextCmd := rfl
@[simp] theorem State.cfgError_runCtr (s : State) (n : Nat) : (s.cfgError n).runCtr = s.runCtr := rfl
@[simp] theorem State.cfgError_freeCtr (s : State) (n : Nat) : (s.cfgError n).freeCtr = s.freeCtr := rfl
@[simp] theorem State.cfgError_clash (s : State) (n : Nat) : (s.cfgError n).clash = s.clash := rfl
@[simp] theorem State.cfgError_issuer (s : State) (n : Nat) : (s.cfgError n).issuer = s.issuer := rfl
@[simp] theorem State.cfgError_agenda (s : State) (n : Nat) : (s.cfgError n).agenda = s.agenda := rfl

/-! ### `newNonce` -/

@[simp] theorem State.newNonce_phys (s : State)  : (s.newNonce).phys = s.phys := rfl
@[simp] theorem State.newNonce_vault (s : State)  : (s.newNonce).vault = s.vault := rfl
@[simp] theorem State.newNonce_worlds (s : State)  : (s.newNonce).worlds = s.worlds := rfl
@[simp] theorem State.newNonce_hh (s : State)  : (s.newNonce).hh = s.hh := rfl
@[simp] theorem State.newNonce_mergePos (s : State)  : (s.newNonce).mergePos = s.mergePos := rfl
@[simp] theorem State.newNonce_relPending (s : State)  : (s.newNonce).relPending = s.relPending := rfl
@[simp] theorem State.newNonce_sessions (s : State)  : (s.newNonce).sessions = s.sessions := rfl
@[simp] theorem State.newNonce_incarnations (s : State)  : (s.newNonce).incarnations = s.incarnations := rfl
@[simp] theorem State.newNonce_launches (s : State)  : (s.newNonce).launches = s.launches := rfl
@[simp] theorem State.newNonce_nodes (s : State)  : (s.newNonce).nodes = s.nodes := rfl
@[simp] theorem State.newNonce_cores (s : State)  : (s.newNonce).cores = s.cores := rfl
@[simp] theorem State.newNonce_tlb2 (s : State)  : (s.newNonce).tlb2 = s.tlb2 := rfl
@[simp] theorem State.newNonce_cmds (s : State)  : (s.newNonce).cmds = s.cmds := rfl
@[simp] theorem State.newNonce_fetches (s : State)  : (s.newNonce).fetches = s.fetches := rfl
@[simp] theorem State.newNonce_pq (s : State)  : (s.newNonce).pq = s.pq := rfl
@[simp] theorem State.newNonce_pops (s : State)  : (s.newNonce).pops = s.pops := rfl
@[simp] theorem State.newNonce_queues (s : State)  : (s.newNonce).queues = s.queues := rfl
@[simp] theorem State.newNonce_cpTurn (s : State)  : (s.newNonce).cpTurn = s.cpTurn := rfl
@[simp] theorem State.newNonce_cpNext (s : State)  : (s.newNonce).cpNext = s.cpNext := rfl
@[simp] theorem State.newNonce_doorbells (s : State)  : (s.newNonce).doorbells = s.doorbells := rfl
@[simp] theorem State.newNonce_rings (s : State)  : (s.newNonce).rings = s.rings := rfl
@[simp] theorem State.newNonce_bins (s : State)  : (s.newNonce).bins = s.bins := rfl
@[simp] theorem State.newNonce_blended (s : State)  : (s.newNonce).blended = s.blended := rfl
@[simp] theorem State.newNonce_textures (s : State)  : (s.newNonce).textures = s.textures := rfl
@[simp] theorem State.newNonce_texFails (s : State)  : (s.newNonce).texFails = s.texFails := rfl
@[simp] theorem State.newNonce_encoders (s : State)  : (s.newNonce).encoders = s.encoders := rfl
@[simp] theorem State.newNonce_encDone (s : State)  : (s.newNonce).encDone = s.encDone := rfl
@[simp] theorem State.newNonce_unitFaults (s : State)  : (s.newNonce).unitFaults = s.unitFaults := rfl
@[simp] theorem State.newNonce_errCount (s : State)  : (s.newNonce).errCount = s.errCount := rfl
@[simp] theorem State.newNonce_euCount (s : State)  : (s.newNonce).euCount = s.euCount := rfl
@[simp] theorem State.newNonce_merging (s : State)  : (s.newNonce).merging = s.merging := rfl
@[simp] theorem State.newNonce_cowRan (s : State)  : (s.newNonce).cowRan = s.cowRan := rfl
@[simp] theorem State.newNonce_linkLate (s : State)  : (s.newNonce).linkLate = s.linkLate := rfl
@[simp] theorem State.newNonce_reached (s : State)  : (s.newNonce).reached = s.reached := rfl
@[simp] theorem State.newNonce_lasting (s : State)  : (s.newNonce).lasting = s.lasting := rfl
@[simp] theorem State.newNonce_idle (s : State)  : (s.newNonce).idle = s.idle := rfl
@[simp] theorem State.newNonce_irqs (s : State)  : (s.newNonce).irqs = s.irqs := rfl
@[simp] theorem State.newNonce_alarmTodo (s : State)  : (s.newNonce).alarmTodo = s.alarmTodo := rfl
@[simp] theorem State.newNonce_hostData (s : State)  : (s.newNonce).hostData = s.hostData := rfl
@[simp] theorem State.newNonce_nextGid (s : State)  : (s.newNonce).nextGid = s.nextGid := rfl
@[simp] theorem State.newNonce_nextCmd (s : State)  : (s.newNonce).nextCmd = s.nextCmd := rfl
@[simp] theorem State.newNonce_runCtr (s : State)  : (s.newNonce).runCtr = s.runCtr := rfl
@[simp] theorem State.newNonce_clash (s : State)  : (s.newNonce).clash = s.clash := rfl
@[simp] theorem State.newNonce_issuer (s : State)  : (s.newNonce).issuer = s.issuer := rfl
@[simp] theorem State.newNonce_agenda (s : State)  : (s.newNonce).agenda = s.agenda := rfl

/-! ### `queueStep` -/

@[simp] theorem State.queueStep_phys (s : State) (i : Instr) : (s.queueStep i).phys = s.phys := rfl
@[simp] theorem State.queueStep_ctrl (s : State) (i : Instr) : (s.queueStep i).ctrl = s.ctrl := rfl
@[simp] theorem State.queueStep_vault (s : State) (i : Instr) : (s.queueStep i).vault = s.vault := rfl
@[simp] theorem State.queueStep_worlds (s : State) (i : Instr) : (s.queueStep i).worlds = s.worlds := rfl
@[simp] theorem State.queueStep_hh (s : State) (i : Instr) : (s.queueStep i).hh = s.hh := rfl
@[simp] theorem State.queueStep_mergePos (s : State) (i : Instr) : (s.queueStep i).mergePos = s.mergePos := rfl
@[simp] theorem State.queueStep_relPending (s : State) (i : Instr) : (s.queueStep i).relPending = s.relPending := rfl
@[simp] theorem State.queueStep_sessions (s : State) (i : Instr) : (s.queueStep i).sessions = s.sessions := rfl
@[simp] theorem State.queueStep_incarnations (s : State) (i : Instr) : (s.queueStep i).incarnations = s.incarnations := rfl
@[simp] theorem State.queueStep_launches (s : State) (i : Instr) : (s.queueStep i).launches = s.launches := rfl
@[simp] theorem State.queueStep_nodes (s : State) (i : Instr) : (s.queueStep i).nodes = s.nodes := rfl
@[simp] theorem State.queueStep_cores (s : State) (i : Instr) : (s.queueStep i).cores = s.cores := rfl
@[simp] theorem State.queueStep_tlb2 (s : State) (i : Instr) : (s.queueStep i).tlb2 = s.tlb2 := rfl
@[simp] theorem State.queueStep_cmds (s : State) (i : Instr) : (s.queueStep i).cmds = s.cmds := rfl
@[simp] theorem State.queueStep_fetches (s : State) (i : Instr) : (s.queueStep i).fetches = s.fetches := rfl
@[simp] theorem State.queueStep_pq (s : State) (i : Instr) : (s.queueStep i).pq = s.pq := rfl
@[simp] theorem State.queueStep_pops (s : State) (i : Instr) : (s.queueStep i).pops = s.pops := rfl
@[simp] theorem State.queueStep_queues (s : State) (i : Instr) : (s.queueStep i).queues = s.queues := rfl
@[simp] theorem State.queueStep_cpTurn (s : State) (i : Instr) : (s.queueStep i).cpTurn = s.cpTurn := rfl
@[simp] theorem State.queueStep_cpNext (s : State) (i : Instr) : (s.queueStep i).cpNext = s.cpNext := rfl
@[simp] theorem State.queueStep_doorbells (s : State) (i : Instr) : (s.queueStep i).doorbells = s.doorbells := rfl
@[simp] theorem State.queueStep_rings (s : State) (i : Instr) : (s.queueStep i).rings = s.rings := rfl
@[simp] theorem State.queueStep_bins (s : State) (i : Instr) : (s.queueStep i).bins = s.bins := rfl
@[simp] theorem State.queueStep_blended (s : State) (i : Instr) : (s.queueStep i).blended = s.blended := rfl
@[simp] theorem State.queueStep_textures (s : State) (i : Instr) : (s.queueStep i).textures = s.textures := rfl
@[simp] theorem State.queueStep_texFails (s : State) (i : Instr) : (s.queueStep i).texFails = s.texFails := rfl
@[simp] theorem State.queueStep_encoders (s : State) (i : Instr) : (s.queueStep i).encoders = s.encoders := rfl
@[simp] theorem State.queueStep_encDone (s : State) (i : Instr) : (s.queueStep i).encDone = s.encDone := rfl
@[simp] theorem State.queueStep_unitFaults (s : State) (i : Instr) : (s.queueStep i).unitFaults = s.unitFaults := rfl
@[simp] theorem State.queueStep_errCount (s : State) (i : Instr) : (s.queueStep i).errCount = s.errCount := rfl
@[simp] theorem State.queueStep_euCount (s : State) (i : Instr) : (s.queueStep i).euCount = s.euCount := rfl
@[simp] theorem State.queueStep_merging (s : State) (i : Instr) : (s.queueStep i).merging = s.merging := rfl
@[simp] theorem State.queueStep_cowRan (s : State) (i : Instr) : (s.queueStep i).cowRan = s.cowRan := rfl
@[simp] theorem State.queueStep_linkLate (s : State) (i : Instr) : (s.queueStep i).linkLate = s.linkLate := rfl
@[simp] theorem State.queueStep_reached (s : State) (i : Instr) : (s.queueStep i).reached = s.reached := rfl
@[simp] theorem State.queueStep_lasting (s : State) (i : Instr) : (s.queueStep i).lasting = s.lasting := rfl
@[simp] theorem State.queueStep_idle (s : State) (i : Instr) : (s.queueStep i).idle = s.idle := rfl
@[simp] theorem State.queueStep_irqs (s : State) (i : Instr) : (s.queueStep i).irqs = s.irqs := rfl
@[simp] theorem State.queueStep_alarmTodo (s : State) (i : Instr) : (s.queueStep i).alarmTodo = s.alarmTodo := rfl
@[simp] theorem State.queueStep_hostData (s : State) (i : Instr) : (s.queueStep i).hostData = s.hostData := rfl
@[simp] theorem State.queueStep_nextGid (s : State) (i : Instr) : (s.queueStep i).nextGid = s.nextGid := rfl
@[simp] theorem State.queueStep_nextCmd (s : State) (i : Instr) : (s.queueStep i).nextCmd = s.nextCmd := rfl
@[simp] theorem State.queueStep_runCtr (s : State) (i : Instr) : (s.queueStep i).runCtr = s.runCtr := rfl
@[simp] theorem State.queueStep_freeCtr (s : State) (i : Instr) : (s.queueStep i).freeCtr = s.freeCtr := rfl
@[simp] theorem State.queueStep_clash (s : State) (i : Instr) : (s.queueStep i).clash = s.clash := rfl
@[simp] theorem State.queueStep_issuer (s : State) (i : Instr) : (s.queueStep i).issuer = s.issuer := rfl
@[simp] theorem State.queueStep_agenda (s : State) (i : Instr) : (s.queueStep i).agenda = i :: s.agenda := rfl

/-! ### Updates that reach only the cores -/

theorem State.modGroupOn_cores (s : State) (c gid : Nat) (f : Group → Group) :
    s.modGroupOn c gid f = { s with cores := (s.modGroupOn c gid f).cores } := rfl

theorem State.modGroup_cores (s : State) (gid : Nat) (f : Group → Group) :
    s.modGroup gid f = { s with cores := (s.modGroup gid f).cores } := by unfold State.modGroup; split <;> rfl

theorem State.modLane_cores (s : State) (gid b l : Nat) (f : Lane → Lane) :
    s.modLane gid b l f = { s with cores := (s.modLane gid b l f).cores } := State.modGroup_cores _ _ _

theorem State.modLanes_cores (s : State) (i : Iss) (m : LaneMask) (f : Nat → Lane → Lane) :
    s.modLanes i m f = { s with cores := (s.modLanes i m f).cores } := rfl

theorem State.modLead_cores (s : State) (i : Iss) (f : Lead → Lead) :
    s.modLead i f = { s with cores := (s.modLead i f).cores } := rfl

theorem State.advance_cores (s : State) (i : Iss) (m : LaneMask) : s.advance i m = { s with cores := (s.advance i m).cores } := by
  rfl

theorem State.block_cores (s : State) (i : Iss) (w : Wait) : s.block i w = { s with cores := (s.block i w).cores } := by
  unfold State.block; first | rfl | (repeat' split) <;> rfl

theorem State.setStatus_cores (s : State) (i : Iss) (m : LaneMask) (x : Status) :
    s.setStatus i m x = { s with cores := (s.setStatus i m x).cores } := rfl

theorem State.kill_cores (s : State) (i : Iss) (en : LaneMask) (us : List Use) : s.kill i en us = { s with cores := (s.kill i en us).cores } := by
  unfold State.kill; split <;> rfl

theorem State.putG_cores (s : State) (i : Iss) (n : Nat) (v : Dword) : s.putG i n v = { s with cores := (s.putG i n v).cores } := rfl

theorem State.doomBy_cores (s : State) (p : Group → Bool) (self : Option LaneRef) (h : Lane → Bool) :
    s.doomBy p self h = { s with cores := (s.doomBy p self h).cores } := by unfold State.doomBy; split <;> rfl

theorem State.doom_cores (s : State) (p : Group → Bool) (self : Option LaneRef) (ls : List Nat) :
    s.doom p self ls = { s with cores := (s.doom p self ls).cores } := State.doomBy_cores ..

/-! ### Lanes: the forwarding window (02 R46) -/

@[simp] theorem Lane.put_regs (x : Lane) (p : Nat) (v : Word) : (x.put p v).regs = spSet x.regs p v := rfl
@[simp] theorem Lane.put_banks (x : Lane) (p : Nat) (v : Word) : (x.put p v).banks = x.banks := rfl
@[simp] theorem Lane.put_killed (x : Lane) (p : Nat) (v : Word) : (x.put p v).killed = x.killed.filter (· ≠ p) := rfl
@[simp] theorem Lane.put_pc (x : Lane) (p : Nat) (v : Word) : (x.put p v).pc = x.pc := rfl
@[simp] theorem Lane.put_k (x : Lane) (p : Nat) (v : Word) : (x.put p v).k = x.k := rfl
@[simp] theorem Lane.arrive_regs (x : Lane) (p : Nat) (v : Word) : (x.arrive p v).regs = spSet x.regs p v := rfl
@[simp] theorem Lane.arrive_banks (x : Lane) (p : Nat) (v : Word) : (x.arrive p v).banks = spSet x.banks p v := rfl
@[simp] theorem Lane.leave_regs (x : Lane) (out : Nat × Nat → Bool) : (x.leave out).regs = x.regs := rfl
@[simp] theorem Lane.leave_killed (x : Lane) (out : Nat × Nat → Bool) : (x.leave out).killed = x.killed := rfl
@[simp] theorem Lane.emptyWindow_regs (x : Lane) : x.emptyWindow.regs = x.regs := by unfold Lane.emptyWindow; split <;> rfl
@[simp] theorem Lane.ageWindow_regs (x : Lane) : x.ageWindow.regs = x.regs := by unfold Lane.ageWindow; split <;> rfl

/-! ### Lanes: moving on -/

@[simp] theorem Lane.advance_regs (x : Lane) : x.advance.regs = x.regs := by unfold Lane.advance; repeat' split
                                                                             all_goals rfl

@[simp] theorem Lane.advance_k (x : Lane) : x.advance.k = x.k := by unfold Lane.advance; repeat' split
                                                                    all_goals rfl

@[simp] theorem Lane.advance_txn (x : Lane) : x.advance.txn = x.txn := by unfold Lane.advance; repeat' split
                                                                          all_goals rfl

@[simp] theorem Lane.advance_status (x : Lane) : x.advance.status = x.status := by unfold Lane.advance; repeat' split
                                                                                   all_goals rfl

/-- A lane outside a `REPEAT` goes to the next PC and keeps everything else. -/
theorem Lane.advance_plain {x : Lane} (h : x.rep = none) : x.advance = { x with pc := nextPc x.pc } := by simp [Lane.advance, h]

end Sys2Proof.Machine
end

