-- ==== Sys2Proof/Tests/Slice0.lean ====
section
/-! SUPPORT. Tests: words written out from the encoding tables, ill-formed terms, results that the spec states, and for each
statement with hypotheses a state that meets them. -/

open Sys2Proof Sys2Proof.Machine

namespace Sys2Proof.Tests

-- one test at a time: their kernel evaluations at once would not fit in memory
set_option Elab.async false

/-! ### Decoding (07 R137 to R149)

Every sample word has guard (k2), D = v4, A = v5 with KILL, B = g6, C = v7, as far as its format has the field. -/

/-- The R form of a sample word. -/
def rf (ty : Ty) : RForm :=
  ⟨ty, ⟨false, 2⟩, ⟨false, false, 4⟩, ⟨true, false, 5⟩, ⟨false, true, 6⟩, ⟨false, false, 7⟩, 0, 0, false, false, false, false, false, 0⟩

/-- The I form, with IMM32 0x12345678. -/
def af (ty : Ty) : IForm := ⟨ty, ⟨false, 2⟩, ⟨false, false, 4⟩, ⟨true, false, 5⟩, 0x12345678, 0, false, false, false, 0⟩

/-- The M form, with DISP 0xFFFF0, SCOPE 3, ORDER 1, HINT 2 and IDX 1. -/
def mf (ty : Ty) : MForm :=
  ⟨ty, ⟨false, 2⟩, ⟨false, false, 4⟩, ⟨true, false, 5⟩, ⟨false, true, 6⟩, ⟨false, false, 7⟩, 0xFFFF0, 3, 1, 2, true⟩

/-- The B form, with LOFF -2, SLOT 3 and WSH 5. -/
def bf : BForm := ⟨.b32, ⟨false, 2⟩, ⟨false, false, 0⟩, ⟨true, false, 5⟩, 0xFFFFFFE, 3, 5, 0⟩

/-- The E form, with REPLY. -/
def ef : EForm := ⟨.b32, ⟨false, 2⟩, ⟨false, false, 4⟩, ⟨true, false, 5⟩, ⟨false, true, 6⟩, 0, true, 0⟩

/-- The T form, with tensor ids 0x11, 0x22 and 0x33, CRD g41, tile 3, slot 2, SHD and RND 5. -/
def tf : TForm := ⟨.b32, ⟨false, 2⟩, ⟨false, false, 4⟩, 0x11, 0x22, 0x33, ⟨false, true, 41⟩, 3, 2, true, 5, 0⟩

/-- Control: OP 0x00 to 0x07 (07 R137, R141, R143, R146). -/
theorem test_decode_control :
    decode 0x000020048054060070000000 = .nop (rf .b32) ∧
    decode 0x01002000805FFFFFFE605000 = .bra bf ∧
    decode 0x01102000805FFFFFFE605000 = .jmp bf ∧
    decode 0x01202000805FFFFFFE605000 = .brx bf ∧
    decode 0x02002000805FFFFFFE605000 = .call bf ∧
    decode 0x02102000805FFFFFFE605000 = .calli bf ∧
    decode 0x030020048054060070000000 = .ret (rf .b32) ∧
    decode 0x040020048054060070000000 = .exit (rf .b32) ∧
    decode 0x050020048051234567800000 = .alloc (af .b32) ∧
    decode 0x060020048054060070000000 = .split (rf .b32) ∧
    decode 0x061020048054060070000000 = .rejoin (rf .b32) ∧
    decode 0x070020048051234567800000 = .repeatImm (af .b32) ∧
    decode 0x071020048051234567800000 = .repeatReg (af .b32) := by
  decide +kernel

/-- Integer arithmetic: OP 0x10 to 0x12, a twin at 0x20 (07 R146). -/
theorem test_decode_integer :
    decode 0x100120048054060070000000 = .iadd (.r (rf .s32)) ∧
    decode 0x101120048054060070000000 = .isub (.r (rf .s32)) ∧
    decode 0x102120048054060070000000 = .imul (.r (rf .s32)) ∧
    decode 0x103120048054060070000000 = .imulhi (.r (rf .s32)) ∧
    decode 0x104C20048054060070000000 = .imad (rf .s16x2) ∧
    decode 0x105C20048054060070000000 = .iadd3 (rf .s16x2) ∧
    decode 0x106C20048054060070000000 = .addmin (rf .s16x2) ∧
    decode 0x107C20048054060070000000 = .addmax (rf .s16x2) ∧
    decode 0x110220048054060070000000 = .imin (.r (rf .n32)) ∧
    decode 0x111220048054060070000000 = .imax (.r (rf .n32)) ∧
    decode 0x112520048054060070000000 = .min3 (rf .n64) ∧
    decode 0x113520048054060070000000 = .max3 (rf .n64) ∧
    decode 0x114520048054060070000000 = .iabs (rf .n64) ∧
    decode 0x115520048054060070000000 = .ineg (rf .n64) ∧
    decode 0x116520048054060070000000 = .isad (rf .n64) ∧
    decode 0x120420048054060070000000 = .idiv (.r (rf .s64)) ∧
    decode 0x121420048054060070000000 = .irem (.r (rf .s64)) ∧
    decode 0x200120048051234567800000 = .iadd (.i (af .s32)) ∧
    decode 0x201120048051234567800000 = .isub (.i (af .s32)) := by
  decide +kernel

/-- Logic, shifts, fields, comparisons, moves, masks and LEA: OP 0x13 to 0x19, twins at 0x23 and 0x27 (07 R146). -/
theorem test_decode_logic :
    decode 0x130020048054060070000000 = .land (.r (rf .b32)) ∧
    decode 0x131020048054060070000000 = .lor (.r (rf .b32)) ∧
    decode 0x132020048054060070000000 = .lxor (.r (rf .b32)) ∧
    decode 0x133020048054060070000000 = .landn (.r (rf .b32)) ∧
    decode 0x134020048054060070000000 = .lorn (.r (rf .b32)) ∧
    decode 0x135320048054060070000000 = .lnot (rf .b64) ∧
    decode 0x140220048054060070000000 = .shl (.r (rf .n32)) ∧
    decode 0x141220048054060070000000 = .shr (.r (rf .n32)) ∧
    decode 0x142220048054060070000000 = .sar (.r (rf .n32)) ∧
    decode 0x143220048054060070000000 = .rol (.r (rf .n32)) ∧
    decode 0x144220048054060070000000 = .ror (.r (rf .n32)) ∧
    decode 0x145020048054060070000000 = .fshl (rf .b32) ∧
    decode 0x146020048054060070000000 = .fshr (rf .b32) ∧
    decode 0x150120048054060070000000 = .bfx (.r (rf .s32)) ∧
    decode 0x151020048054060070000000 = .bfi (rf .b32) ∧
    decode 0x152020048054060070000000 = .popc (rf .b32) ∧
    decode 0x153020048054060070000000 = .clz (rf .b32) ∧
    decode 0x154020048054060070000000 = .ctz (rf .b32) ∧
    decode 0x155020048054060070000000 = .brev (rf .b32) ∧
    decode 0x160220048054060070000000 = .icmp .eq (.r (rf .n32)) ∧
    decode 0x161220048054060070000000 = .icmp .ne (.r (rf .n32)) ∧
    decode 0x162220048054060070000000 = .icmp .lt (.r (rf .n32)) ∧
    decode 0x163220048054060070000000 = .icmp .le (.r (rf .n32)) ∧
    decode 0x164220048054060070000000 = .icmp .gt (.r (rf .n32)) ∧
    decode 0x165220048054060070000000 = .icmp .ge (.r (rf .n32)) ∧
    decode 0x170F20048054060070000000 = .mov (.r (rf .n8x4)) ∧
    decode 0x171620048054060070000000 = .sel (rf .f32) ∧
    decode 0x180020048054060070000000 = .kand (.r (rf .b32)) ∧
    decode 0x181020048054060070000000 = .kor (.r (rf .b32)) ∧
    decode 0x182020048054060070000000 = .kxor (.r (rf .b32)) ∧
    decode 0x183020048054060070000000 = .kandn (.r (rf .b32)) ∧
    decode 0x184020048054060070000000 = .knot (.r (rf .b32)) ∧
    decode 0x185020048054060070000000 = .kget (.r (rf .b32)) ∧
    decode 0x186020048054060070000000 = .kset (.r (rf .b32)) ∧
    decode 0x190520048054060070000000 = .lea (.r (rf .n64)) ∧
    decode 0x230020048051234567800000 = .land (.i (af .b32)) ∧
    decode 0x270020048051234567800000 = .mov (.i (af .b32)) := by
  decide +kernel

/-- Floating point: OP 0x30 to 0x34, twins at 0x40 and 0x43 (07 R147). -/
theorem test_decode_float :
    decode 0x300620048054060070000000 = .fadd (.r (rf .f32)) ∧
    decode 0x301620048054060070000000 = .fsub (.r (rf .f32)) ∧
    decode 0x302620048054060070000000 = .fmul (.r (rf .f32)) ∧
    decode 0x303A20048054060070000000 = .ffma (rf .f16x2) ∧
    decode 0x304820048054060070000000 = .fmin (.r (rf .f16)) ∧
    decode 0x305820048054060070000000 = .fmax (.r (rf .f16)) ∧
    decode 0x306720048054060070000000 = .fabs (rf .f64) ∧
    decode 0x310720048054060070000000 = .fdiv (rf .f64) ∧
    decode 0x311720048054060070000000 = .fsqrt (rf .f64) ∧
    decode 0x312720048054060070000000 = .frcp (rf .f64) ∧
    decode 0x313720048054060070000000 = .frsq (rf .f64) ∧
    decode 0x320820048054060070000000 = .fexp2 (rf .f16) ∧
    decode 0x321820048054060070000000 = .flog2 (rf .f16) ∧
    decode 0x322820048054060070000000 = .fsin (rf .f16) ∧
    decode 0x323820048054060070000000 = .fcos (rf .f16) ∧
    decode 0x324820048054060070000000 = .ftanh (rf .f16) ∧
    decode 0x330920048054060070000000 = .fcmp .eq (.r (rf .bf16)) ∧
    decode 0x331920048054060070000000 = .fcmp .ne (.r (rf .bf16)) ∧
    decode 0x332920048054060070000000 = .fcmp .lt (.r (rf .bf16)) ∧
    decode 0x333920048054060070000000 = .fcmp .le (.r (rf .bf16)) ∧
    decode 0x334920048054060070000000 = .fcmp .gt (.r (rf .bf16)) ∧
    decode 0x335920048054060070000000 = .fcmp .ge (.r (rf .bf16)) ∧
    decode 0x336920048054060070000000 = .fcmp .num (.r (rf .bf16)) ∧
    decode 0x337920048054060070000000 = .fcmp .nan (.r (rf .bf16)) ∧
    decode 0x340620048054060070000000 = .fclass (rf .f32) ∧
    decode 0x400620048051234567800000 = .fadd (.i (af .f32)) ∧
    decode 0x430620048051234567800000 = .fcmp .eq (.i (af .f32)) := by
  decide +kernel

/-- Conversions, packed and lane movement: OP 0x50 to 0x53 and 0x60 to 0x63, a twin at 0x64 (07 R147). -/
theorem test_decode_convert :
    decode 0x506120048054060070000000 = .cvt .f32 (rf .s32) ∧
    decode 0x50F820048054060070000000 = .cvt .n8x4 (rf .f16) ∧
    decode 0x510620048054060070000000 = .cvtq .e4m3 (rf .f32) ∧
    decode 0x511620048054060070000000 = .cvtq .e5m2 (rf .f32) ∧
    decode 0x512620048054060070000000 = .cvtq .e2m1 (rf .f32) ∧
    decode 0x520A20048054060070000000 = .cvtw .e4m3 (rf .f16x2) ∧
    decode 0x521A20048054060070000000 = .cvtw .e5m2 (rf .f16x2) ∧
    decode 0x522A20048054060070000000 = .cvtw .e2m1 (rf .f16x2) ∧
    decode 0x530E20048054060070000000 = .dot2 (rf .s8x4) ∧
    decode 0x531E20048054060070000000 = .dot4 (rf .s8x4) ∧
    decode 0x532E20048054060070000000 = .pack (rf .s8x4) ∧
    decode 0x533E20048054060070000000 = .bsel (rf .s8x4) ∧
    decode 0x600020048054060070000000 = .lgetAt (.r (rf .b32)) ∧
    decode 0x601020048054060070000000 = .lgetFlip (.r (rf .b32)) ∧
    decode 0x602320048054060070000000 = .lshup (rf .b64) ∧
    decode 0x603320048054060070000000 = .lshdn (rf .b64) ∧
    decode 0x610020048054060070000000 = .kpollAll (rf .b32) ∧
    decode 0x611020048054060070000000 = .kpollAny (rf .b32) ∧
    decode 0x612020048054060070000000 = .kpollWord (rf .b32) ∧
    decode 0x613020048054060070000000 = .lpeerEq (rf .b32) ∧
    decode 0x614020048054060070000000 = .lpeerUni (rf .b32) ∧
    decode 0x620620048054060070000000 = .lfold .add (rf .f32) ∧
    decode 0x621620048054060070000000 = .lfold .min (rf .f32) ∧
    decode 0x622620048054060070000000 = .lfold .max (rf .f32) ∧
    decode 0x623620048054060070000000 = .lfold .and (rf .f32) ∧
    decode 0x624620048054060070000000 = .lfold .or (rf .f32) ∧
    decode 0x625620048054060070000000 = .lfold .xor (rf .f32) ∧
    decode 0x630120048054060070000000 = .lpfx .add (rf .s32) ∧
    decode 0x631120048054060070000000 = .lpfx .min (rf .s32) ∧
    decode 0x632120048054060070000000 = .lpfx .max (rf .s32) ∧
    decode 0x640020048051234567800000 = .lgetAt (.i (af .b32)) := by
  decide +kernel

/-- Memory and transactions: OP 0x70 to 0x77 (07 R142, R148). -/
theorem test_decode_memory :
    decode 0x700D2004805406007FFFF06D = .ld (mf .n16x2) ∧
    decode 0x70102004805406007FFFF06D = .ldN8 (mf .b32) ∧
    decode 0x70202004805406007FFFF06D = .ldS8 (mf .b32) ∧
    decode 0x70302004805406007FFFF06D = .ldN16 (mf .b32) ∧
    decode 0x70402004805406007FFFF06D = .ldS16 (mf .b32) ∧
    decode 0x71032004805406007FFFF06D = .st (mf .b64) ∧
    decode 0x71102004805406007FFFF06D = .stB8 (mf .b32) ∧
    decode 0x71202004805406007FFFF06D = .stB16 (mf .b32) ∧
    decode 0x72002004805406007FFFF06D = .pref (mf .b32) ∧
    decode 0x73022004805406007FFFF06D = .atom .add (mf .n32) ∧
    decode 0x73122004805406007FFFF06D = .atom .min (mf .n32) ∧
    decode 0x73222004805406007FFFF06D = .atom .max (mf .n32) ∧
    decode 0x73322004805406007FFFF06D = .atom .and (mf .n32) ∧
    decode 0x73422004805406007FFFF06D = .atom .or (mf .n32) ∧
    decode 0x73522004805406007FFFF06D = .atom .xor (mf .n32) ∧
    decode 0x73622004805406007FFFF06D = .atom .exch (mf .n32) ∧
    decode 0x73722004805406007FFFF06D = .atom .cas (mf .n32) ∧
    decode 0x73822004805406007FFFF06D = .atom .inc (mf .n32) ∧
    decode 0x73922004805406007FFFF06D = .atom .dec (mf .n32) ∧
    decode 0x74062004805406007FFFF06D = .red .add (mf .f32) ∧
    decode 0x74162004805406007FFFF06D = .red .min (mf .f32) ∧
    decode 0x74262004805406007FFFF06D = .red .max (mf .f32) ∧
    decode 0x74362004805406007FFFF06D = .red .and (mf .f32) ∧
    decode 0x74462004805406007FFFF06D = .red .or (mf .f32) ∧
    decode 0x74562004805406007FFFF06D = .red .xor (mf .f32) ∧
    decode 0x74862004805406007FFFF06D = .red .inc (mf .f32) ∧
    decode 0x74962004805406007FFFF06D = .red .dec (mf .f32) ∧
    decode 0x75002004805406007FFFF06D = .fence (mf .b32) ∧
    decode 0x75102004805406007FFFF06D = .fenceUn (mf .b32) ∧
    decode 0x76002000805FFFFFFE605000 = .xbegin bf ∧
    decode 0x770020048054060070000000 = .xend (rf .b32) ∧
    decode 0x771020048054060070000000 = .xabort (rf .b32) ∧
    decode 0x772020048054060070000000 = .xtest (rf .b32) := by
  decide +kernel

/-- Barriers, waits, queues, streams and engines: OP 0x90 to 0xB3 (07 R144, R148; 10 R229 to R232). -/
theorem test_decode_queues :
    decode 0x900020048054060070000000 = .barGrp (rf .b32) ∧
    decode 0x901020048054060070000000 = .barClu (rf .b32) ∧
    decode 0x91032004805406007FFFF06D = .waitf .eq (mf .b64) ∧
    decode 0x91132004805406007FFFF06D = .waitf .ne (mf .b64) ∧
    decode 0x91232004805406007FFFF06D = .waitf .ge (mf .b64) ∧
    decode 0x91332004805406007FFFF06D = .waitf .lt (mf .b64) ∧
    decode 0xA00020048054060070000000 = .pushf (rf .b32) ∧
    decode 0xA01020048054060070000000 = .pushfRow (rf .b32) ∧
    decode 0xA02020048054060070000000 = .pushfAll (rf .b32) ∧
    decode 0xA03020048054060070000000 = .pushfAllRow (rf .b32) ∧
    decode 0xA10320048054060070000000 = .popf (rf .b64) ∧
    decode 0xA20320048054060070000000 = .pushb (rf .b64) ∧
    decode 0xA30020048054060070000000 = .popb (rf .b32) ∧
    decode 0xA40020048054060070000000 = .streamCfg (rf .b32) ∧
    decode 0xA41020048054060070000000 = .streamGo (rf .b32) ∧
    decode 0xB00020048054060000100000 = .engCopy ef ∧
    decode 0xB00020048054060000300000 = .engFill ef ∧
    decode 0xB10020048054060000100000 = .engGsubmit ef ∧
    decode 0xB10020048054060000300000 = .engGsignal ef ∧
    decode 0xB10020048054060000500000 = .engGwatch ef ∧
    decode 0xB20020048054060000100000 = .engDappend ef ∧
    decode 0xB20020048054060000300000 = .engDdrain ef ∧
    decode 0xB30020048054060000100000 = .engAllreduce ef ∧
    decode 0xB30020048054060000300000 = .engAllgather ef ∧
    decode 0xB30020048054060000500000 = .engBcast ef := by
  decide +kernel

/-- Matrix, tensor, reservoir and compositing instructions: OP 0xC0 to 0xDD (07 R145, R149). -/
theorem test_decode_matrix :
    decode 0xC00020041122334291968000 = .mloadb tf ∧
    decode 0xC10020041122334291968000 = .mma tf ∧
    decode 0xC20020041122334291968000 = .mcommit tf ∧
    decode 0xC21020041122334291968000 = .mdiscard tf ∧
    decode 0xC30020041122334291968000 = .mzero tf ∧
    decode 0xC40020041122334291968000 = .mdrain tf ∧
    decode 0xC80020048054060070000000 = .ttld (rf .b32) ∧
    decode 0xC81020048054060070000000 = .ttst (rf .b32) ∧
    decode 0xC82020048054060070000000 = .ttinv (rf .b32) ∧
    decode 0xD00620048054060070000000 = .rsvinit (rf .f32) ∧
    decode 0xD10620048054060070000000 = .rsvupd (rf .f32) ∧
    decode 0xD20620048054060070000000 = .rsvmrg (rf .f32) ∧
    decode 0xD30620048054060070000000 = .rsvfin (rf .f32) ∧
    decode 0xD40320048054060070000000 = .rsvget .payload (rf .b64) ∧
    decode 0xD41020048054060070000000 = .rsvget .wsum (rf .b32) ∧
    decode 0xD42020048054060070000000 = .rsvget .phat (rf .b32) ∧
    decode 0xD43020048054060070000000 = .rsvget .w (rf .b32) ∧
    decode 0xD44020048054060070000000 = .rsvget .m (rf .b32) ∧
    decode 0xD45020048054060070000000 = .rsvget .dctr (rf .b32) ∧
    decode 0xD50320048054060070000000 = .rsvput .payload (rf .b64) ∧
    decode 0xD55020048054060070000000 = .rsvput .dctr (rf .b32) ∧
    decode 0xD60320048054060070000000 = .rsvseed (rf .b64) ∧
    decode 0xD80620048054060070000000 = .cainit (rf .f32) ∧
    decode 0xD90620048054060070000000 = .caadd (rf .f32) ∧
    decode 0xDA0620048054060070000000 = .caflush (rf .f32) ∧
    decode 0xDB0620048054060070000000 = .caresolve (rf .f32) ∧
    decode 0xDC0620048054060070000000 = .careplay (rf .f32) ∧
    decode 0xDD0620048054060070000000 = .castat (rf .f32) := by
  decide +kernel

/-- Work, graphics and system instructions: OP 0xE0 to 0xFB (07 R149). -/
theorem test_decode_system :
    decode 0xE0002004805406007FFFF06D = .fetchwk (mf .b32) ∧
    decode 0xE10020048054060070000000 = .pqpush (rf .b32) ∧
    decode 0xE20020048054060070000000 = .pqpop (rf .b32) ∧
    decode 0xE30020048054060070000000 = .wlpush (rf .b32) ∧
    decode 0xE40020048054060070000000 = .wlpop (rf .b32) ∧
    decode 0xE50020048054060070000000 = .quiesce (rf .b32) ∧
    decode 0xE80020048054060070000000 = .tex (rf .b32) ∧
    decode 0xE81020048054060070000000 = .texWait (rf .b32) ∧
    decode 0xE90020048054060070000000 = .tld (rf .b32) ∧
    decode 0xEA0020048054060070000000 = .rayq (rf .b32) ∧
    decode 0xEB0020048054060070000000 = .rayres (rf .b32) ∧
    decode 0xEC0020048054060070000000 = .atlasreq (rf .b32) ∧
    decode 0xED0020048054060070000000 = .emit (rf .b32) ∧
    decode 0xF00020048051234567800000 = .trap (af .b32) ∧
    decode 0xF10020048054060070000000 = .brkpt (rf .b32) ∧
    decode 0xF20020048051234567800000 = .rdsr (af .b32) ∧
    decode 0xF30020048051234567800000 = .wrsr (af .b32) ∧
    decode 0xF80020048054060070000000 = .tret (rf .b32) ∧
    decode 0xF90020048054060070000000 = .tlbinv (rf .b32) ∧
    decode 0xFA0020048054060070000000 = .fork (rf .b32) ∧
    decode 0xFB0020048054060070000000 = .cflush (rf .b32) := by
  decide +kernel

/-- Bits [19:0] of the R form: RND 5, SAT, FTZ, the three negations and SEG 3; bits [27:20] and [7:0] (07 R141). -/
theorem test_decode_modifiers :
    decode 0x30368004805406007A5BF3C1 = .ffma ⟨.f32, ⟨true, 0⟩, ⟨false, false, 4⟩, ⟨true, false, 5⟩, ⟨false, true, 6⟩, ⟨false, false, 7⟩,
      0xA5, 5, true, true, true, true, true, 0x3C1⟩ ∧
    decode 0x600000040050000000000500 = .lgetAt (.r ⟨.b32, ⟨false, 0⟩, ⟨false, false, 4⟩, ⟨false, false, 5⟩, ⟨false, false, 0⟩,
      ⟨false, false, 0⟩, 0, 0, false, false, false, false, false, 0x500⟩) := by
  decide +kernel

/-- Worked encodings of the programs: ICMP.eq of 16, LD with an index and FORK of 25, MMA of 15, FFMA of 07. -/
theorem test_decode_worked :
    decode 0x2602000100500000A0A00000 =
      .icmp .eq (.i ⟨.n32, ⟨false, 0⟩, ⟨false, false, 1⟩, ⟨false, false, 5⟩, 0x0A0A, 0, false, false, false, 0⟩) ∧
    decode 0x700000040020010000024001 =
      .ld ⟨.b32, ⟨false, 0⟩, ⟨false, false, 4⟩, ⟨false, false, 2⟩, ⟨false, false, 1⟩, ⟨false, false, 0⟩, 0x240, 0, 0, 0, true⟩ ∧
    decode 0x910000050020010120010069 =
      .waitf .eq ⟨.b32, ⟨false, 0⟩, ⟨false, false, 5⟩, ⟨false, false, 2⟩, ⟨false, false, 1⟩, ⟨false, false, 18⟩, 0x100, 3, 1, 0, true⟩ ∧
    decode 0xFA0004044004010000000000 =
      .fork ⟨.b32, ⟨false, 0⟩, ⟨false, true, 4⟩, ⟨false, true, 0⟩, ⟨false, true, 1⟩, ⟨false, false, 0⟩, 0, 0, false, false, false, false,
        false, 0⟩ ∧
    decode 0x6020001100901200F0000000 =
      .lshup ⟨.b32, ⟨false, 0⟩, ⟨false, false, 17⟩, ⟨false, false, 9⟩, ⟨false, false, 18⟩, ⟨false, false, 15⟩, 0, 0, false, false, false,
        false, false, 0⟩ := by
  decide +kernel

/-- An unassigned OP (0xB4), an unassigned FN (`SPLIT` has 0 and 1), a twin of an instruction that reads C, an EFN not listed
and a sixth condition are no instruction (07 R144, R150, R151). -/
theorem test_decode_refuses :
    decode? 0xB40000000000000000000000 = none ∧ decode? 0x062000000000000000000000 = none ∧ decode? 0x204000000000000000000000 = none ∧
    decode? 0xB00000000000000000400000 = none ∧ decode? 0x166000000000000000000000 = none ∧ decode? 0x746000000000000000000000 = none := by
  decide +kernel

/-- A NOP is the all-zero word (10 R219), and the table's bits are the word's bits. -/
theorem test_table_word :
    decodeTableWord 96 0 = some (.nop ⟨.b32, ⟨false, 0⟩, ⟨false, false, 0⟩, ⟨false, false, 0⟩, ⟨false, false, 0⟩, ⟨false, false, 0⟩, 0, 0,
      false, false, false, false, false, 0⟩) := by
  decide +kernel

/-! ### Well-formedness: each check refuses an ill-formed term (07 R137 to R145) -/

/-- A lane register, a group register, no register. -/
def v (n : Nat) : Spec := ⟨false, false, BitVec.ofNat 10 n⟩
def g (n : Nat) : Spec := ⟨false, true, BitVec.ofNat 10 n⟩
def z : Spec := ⟨false, false, 0⟩

/-- Forms with their operands and nothing else set. -/
def r (ty : Ty) (d a b c : Spec) : RForm := ⟨ty, ⟨false, 0⟩, d, a, b, c, 0, 0, false, false, false, false, false, 0⟩
def im (ty : Ty) (d a : Spec) (n : Nat) : IForm := ⟨ty, ⟨false, 0⟩, d, a, BitVec.ofNat 32 n, 0, false, false, false, 0⟩
def m (ty : Ty) (d a b c : Spec) (disp : Nat) : MForm := ⟨ty, ⟨false, 0⟩, d, a, b, c, BitVec.ofNat 20 disp, 0, 0, 0, false⟩
def br (a : Spec) (loff slot wsh : Nat) : BForm :=
  ⟨.b32, ⟨false, 0⟩, z, a, BitVec.ofNat 28 loff, BitVec.ofNat 3 slot, BitVec.ofNat 9 wsh, 0⟩
def e (d a b : Spec) (reply : Bool) : EForm := ⟨.b32, ⟨false, 0⟩, d, a, b, 0, reply, 0⟩
def tn (tidA tidB : Nat) (crd : Spec) (tile slot : Nat) (shd : Bool) : TForm :=
  ⟨.b32, ⟨false, 0⟩, z, BitVec.ofNat 8 tidA, BitVec.ofNat 8 tidB, 0, crd, BitVec.ofNat 5 tile, BitVec.ofNat 4 slot, shd, 0, 0⟩

/-- The R form: type, guard, the four specifiers, bits [27:20], RND, bits [11:0] without and with SEG. -/
theorem test_wf_refuses_r :
    (Instr.iadd (.r (r .s32 (v 4) (v 5) (v 6) z))).wf = true ∧
    (Instr.iadd (.r (r .f32 (v 4) (v 5) (v 6) z))).wf = false ∧
    (Instr.iadd (.r { r .s32 (v 4) (v 5) (v 6) z with g := ⟨true, 0⟩ })).wf = false ∧
    (Instr.iadd (.r (r .s32 ⟨true, false, 4⟩ (v 5) (v 6) z))).wf = false ∧
    (Instr.iadd (.r (r .s32 (v 640) (v 5) (v 6) z))).wf = false ∧
    (Instr.iadd (.r (r .s32 (v 4) (v 640) (v 6) z))).wf = false ∧
    (Instr.iadd (.r (r .s32 (v 4) (v 5) (v 640) z))).wf = false ∧
    (Instr.imad (r .s32 (v 4) (v 5) (v 6) (v 640))).wf = false ∧
    (Instr.iadd (.r { r .s32 (v 4) (v 5) (v 6) z with hi := 1 })).wf = false ∧
    (Instr.iadd (.r { r .s32 (v 4) (v 5) (v 6) z with rnd := 6 })).wf = false ∧
    (Instr.iadd (.r { r .s32 (v 4) (v 5) (v 6) z with low := 0x100 })).wf = false ∧
    (Instr.lshup { r .b32 (v 4) (v 5) (v 6) z with low := 0x500 }).wf = true ∧
    (Instr.lshup { r .b32 (v 4) (v 5) (v 6) z with low := 0x600 }).wf = false ∧
    (Instr.lshup { r .b32 (v 4) (v 5) (v 6) z with low := 0x501 }).wf = false := by
  decide

/-- The I, M, B, E and T forms. -/
theorem test_wf_refuses_others :
    (Instr.alloc { im .b32 z z 8 with low := 1 }).wf = false ∧
    (Instr.alloc { im .b32 z z 8 with rnd := 7 }).wf = false ∧
    (Instr.ld (m .b32 (v 4) (v 8) z z 16)).wf = true ∧
    (Instr.ld { m .b32 (v 4) (v 8) z z 16 with scope := 5 }).wf = false ∧
    (Instr.ld (m .b32 (v 4) (v 8) (v 1) z 16)).wf = false ∧
    (Instr.ldN8 (m .s32 (v 4) (v 8) z z 16)).wf = false ∧
    (Instr.red .cas (m .b32 z (v 8) z (v 1) 0)).wf = false ∧
    (Instr.bra (br z 1 4 0)).wf = true ∧
    (Instr.bra (br z 1 5 0)).wf = false ∧
    (Instr.bra (br z 1 0 1)).wf = false ∧
    (Instr.call (br z 1 0 79)).wf = true ∧
    (Instr.call (br z 1 0 80)).wf = false ∧
    (Instr.bra { br z 1 0 0 with d := v 1 }).wf = false ∧
    (Instr.bra { br z 1 0 0 with low := 1 }).wf = false ∧
    (Instr.engCopy (e (v 4) (v 8) z true)).wf = true ∧
    (Instr.engCopy (e (v 4) (v 8) z false)).wf = false ∧
    (Instr.engCopy { e (v 4) (v 8) z true with mid := 1 }).wf = false ∧
    (Instr.engCopy { e (v 4) (v 8) z true with low := 1 }).wf = false ∧
    (Instr.mma { tn 9 0 (g 40) 3 2 true with low := 1 }).wf = false ∧
    (Instr.mma { tn 9 0 (g 40) 3 2 true with rnd := 6 }).wf = false := by
  decide

/-- The numbers of the other agents' steps. -/
theorem test_wf_refuses_numbers :
    (Instr.runStart 64 0).wf = false ∧ (Instr.runStart 63 4).wf = false ∧ (Instr.resultArrival ⟨0, 16, .lead⟩).wf = false ∧
    (Instr.resultArrival ⟨0, 15, .lanes 32 1⟩).wf = false ∧ (Instr.resultArrival ⟨0, 15, .stream 2⟩).wf = false ∧
    (Instr.placeGroup 128).wf = false ∧ (Instr.waitfSatisfy ⟨0, 0, .lead⟩ 32).wf = false ∧ (Instr.pqPopServe 4).wf = false ∧
    (Instr.listRequestServe 0 1 64).wf = false ∧ (Instr.watchdogFire 16384).wf = false ∧ (Instr.encodeDone 8).wf = false ∧
    (Instr.powerGate (.die 4)).wf = false ∧ (Instr.powerGate (.encoder 8)).wf = false ∧ (Instr.powerGate (.channel 6)).wf = false ∧
    (Instr.hostRead (.memory (2 ^ 52)) 1).wf = false ∧ (Instr.errorCorrected (.l2 4 0)).wf = false ∧ (Instr.errorUncorrected (.line (2 ^ 52))).wf = false ∧
    (Instr.streamPush 0 0 2).wf = false ∧ (Instr.unassignedOpcode 0).wf = false := by
  decide

/-- A decoded word whose fields break the rules of its format is an instruction, and not a well-formed one. -/
theorem test_wf_of_decoded :
    (decode 0x303620048050060070000000).wf = true ∧ (decode 0x303680048050060070000000).wf = false := by
  decide +kernel

/-! ### Results the spec states -/

/-- A machine that runs one privileged band of one launch on core 0: its group has gid 1, and `who` issues. -/
def small (who : Who) : State :=
  { State.reset with
    phys := State.reset.phys.placed 0
    ctrl := { Ctrl.reset with bootStep := 5, bootResult := 1, cfgState := 2, linkUp := true }
    sessions := [placedSession], launches := [placedLaunch], cores := placedCore 1 :: List.replicate 63 Core.init, nextGid := 2
    issuer := some { core := 0, rgs := 0, who := who } }

/-- The group, and a lane of its band. -/
def grp (s : State) : Group := ((s.core 0).active.groups.find? fun g => g.gid == 1).getD (newGroup 0 placedLaunch 0
  { blocks := [], pos := [], scratchAt := 0, acc := [], slots := [], rgs := 0 } [] 0)
def ln (s : State) (l : Nat) : Lane := (grp s).lane 0 l

/-- `s` with the group changed, a lane changed, lane registers set. -/
def on (s : State) (f : Group → Group) : State := s.modGroupOn 0 1 f
def onLane (s : State) (l : Nat) (f : Lane → Lane) : State := on s fun g => g.modLane 0 l f
def put (s : State) (l : Nat) (rs : List (Nat × Nat)) : State :=
  onLane s l fun x => { x with regs := rs.foldl (fun t e => spSet t e.1 (BitVec.ofNat 32 e.2)) x.regs }
def putG (s : State) (rs : List (Nat × Nat)) : State :=
  on s fun g => { g with g := rs.foldl (fun t e => spSet t e.1 (BitVec.ofNat 64 e.2)) g.g }

/-- What `f` says of the state after an instruction that completes. -/
def after {α : Type} (i : Instr) (s : State) (f : State → α) : Option α :=
  match exec i s with
  | .next t => some (f t)
  | _ => none

/-- v4 of lane 0 once lane 0 alone has run an instruction on the registers given. -/
def res (i : Instr) (rs : List (Nat × Nat)) : Option Nat :=
  after i (put (small (.lanes 0 1)) 0 rs) fun t => (spGet (ln t 0).regs 4).toNat

/-- v4, v5 as a pair, and the flags. -/
def res2 (i : Instr) (rs : List (Nat × Nat)) : Option Nat :=
  after i (put (small (.lanes 0 1)) 0 rs) fun t => (spGet (ln t 0).regs 4).toNat + (spGet (ln t 0).regs 5).toNat * 2 ^ 32
def resF (i : Instr) (rs : List (Nat × Nat)) : Option (Nat × Nat) :=
  after i (put (small (.lanes 0 1)) 0 rs) fun t => ((spGet (ln t 0).regs 4).toNat, (ln t 0).fpflags.toNat)
/-- k1 of lane 0. -/
def resK (i : Instr) (rs : List (Nat × Nat)) : Option Bool :=
  after i (put (small (.lanes 0 1)) 0 rs) fun t => kBit (ln t 0).k 1

def rr (ty : Ty) : RForm := r ty (v 4) (v 8) (v 10) (v 12)
def r1 (ty : Ty) : RForm := r ty (v 4) (v 8) z z
def r2 (ty : Ty) : RForm := r ty (v 4) (v 8) (v 10) z

/-- IADD wraps and saturates; ISUB, IMUL, IMULHI, IMAD, IADD3 (08 R162). -/
theorem test_add_multiply :
    res (.iadd (.r (r2 .s32))) [(8, 0x7FFFFFFF), (10, 1)] = some 0x80000000 ∧
    res (.iadd (.r { r2 .s32 with sat := true })) [(8, 0x7FFFFFFF), (10, 1)] = some 0x7FFFFFFF ∧
    res (.isub (.r { r2 .n16x2 with sat := true })) [(8, 0x00050003), (10, 0x00060001)] = some 0x00000002 ∧
    res (.imul (.r (r2 .s8x4))) [(8, 0xFF020304), (10, 0x02FF0440)] = some 0xFEFE0C00 ∧
    res (.imulhi (.r (r2 .s32))) [(8, 0x80000000), (10, 2)] = some 0xFFFFFFFF ∧
    res (.imulhi (.r (r2 .n32))) [(8, 0x80000000), (10, 2)] = some 1 ∧
    res (.imad { rr .s32 with sat := true }) [(8, 0x10000), (10, 0x10000), (12, 5)] = some 0x7FFFFFFF ∧
    res (.iadd3 (rr .n32)) [(8, 0xFFFFFFFF), (10, 0xFFFFFFFF), (12, 3)] = some 1 ∧
    res2 (.iadd (.r (r2 .n64))) [(8, 0xFFFFFFFF), (9, 0), (10, 1), (11, 5)] = some (6 * 2 ^ 32) ∧
    res (.iadd (.i (im .s32 (v 4) (v 8) 0xFFFFFFFE))) [(8, 1)] = some 0xFFFFFFFF := by
  decide +kernel

/-- ADDMIN and ADDMAX saturate their sum (08 R163); minima, maxima, absolute values, ISAD (R164); division (R165). -/
theorem test_minimum_divide :
    res (.addmin (rr .n16x2)) [(8, 0xFFFF0001), (10, 0x00020002), (12, 0xFFFE0009)] = some 0xFFFE0003 ∧
    res (.addmax (rr .s32)) [(8, 0x7FFFFFFF), (10, 1), (12, 5)] = some 0x7FFFFFFF ∧
    res (.imin (.r (r2 .s32))) [(8, 0xFFFFFFFF), (10, 1)] = some 0xFFFFFFFF ∧
    res (.imax (.r (r2 .n32))) [(8, 0xFFFFFFFF), (10, 1)] = some 0xFFFFFFFF ∧
    res (.min3 (rr .s32)) [(8, 3), (10, 0xFFFFFFFE), (12, 7)] = some 0xFFFFFFFE ∧
    res (.max3 (rr .s32)) [(8, 3), (10, 0xFFFFFFFE), (12, 7)] = some 7 ∧
    res (.iabs (r1 .s32)) [(8, 0x80000000)] = some 0x80000000 ∧
    res (.iabs { r1 .s32 with sat := true }) [(8, 0x80000000)] = some 0x7FFFFFFF ∧
    res (.ineg { r1 .n32 with sat := true }) [(8, 7)] = some 0 ∧
    res (.isad (rr .s32)) [(8, 0xFFFFFFFD), (10, 4), (12, 10)] = some 17 ∧
    res (.idiv (.r (r2 .s32))) [(8, 0xFFFFFFF9), (10, 2)] = some 0xFFFFFFFD ∧
    res (.idiv (.r (r2 .s32))) [(8, 7), (10, 0)] = some 0xFFFFFFFF ∧
    res (.irem (.r (r2 .s32))) [(8, 0xFFFFFFF9), (10, 2)] = some 0xFFFFFFFF ∧
    res (.irem (.r (r2 .s32))) [(8, 0x80000000), (10, 0xFFFFFFFF)] = some 0 := by
  decide +kernel

/-- Logic (08 R166), shifts by b mod w, rotates and funnels (R167). -/
theorem test_logic_shift :
    res (.land (.r (r2 .b32))) [(8, 0xF0F0), (10, 0xFF00)] = some 0xF000 ∧
    res (.lor (.r (r2 .b32))) [(8, 0xF0F0), (10, 0xFF00)] = some 0xFFF0 ∧
    res (.lxor (.r (r2 .b32))) [(8, 0xF0F0), (10, 0xFF00)] = some 0x0FF0 ∧
    res (.landn (.i (im .b32 (v 4) (v 8) 0xFF))) [(8, 0x1234)] = some 0x1200 ∧
    res (.lorn (.r (r2 .b32))) [(8, 1), (10, 0xFFFFFFF0)] = some 0xF ∧
    res (.lnot (r1 .b32)) [(8, 0xFFFF0000)] = some 0xFFFF ∧
    res (.shl (.r (r2 .b32))) [(8, 3), (10, 33)] = some 6 ∧
    res (.shr (.r (r2 .s32))) [(8, 0x80000000), (10, 31)] = some 1 ∧
    res (.sar (.r (r2 .b32))) [(8, 0x80000000), (10, 31)] = some 0xFFFFFFFF ∧
    res (.rol (.r (r2 .b32))) [(8, 0x80000001), (10, 4)] = some 0x18 ∧
    res (.ror (.r (r2 .b32))) [(8, 0x80000001), (10, 4)] = some 0x18000000 ∧
    res (.fshl (rr .b32)) [(8, 0x12345678), (10, 8), (12, 0xAABBCCDD)] = some 0x345678AA ∧
    res (.fshr (rr .b32)) [(8, 0x12345678), (10, 8), (12, 0xAABBCCDD)] = some 0x78AABBCC := by
  decide +kernel

/-- Fields and counts (08 R168, its example `BFX.s32 v2, v9, 0x0804`), moves (R170, its example), LEA (R172). -/
theorem test_fields_moves :
    res (.bfx (.i (im .s32 (v 4) (v 8) 0x0804))) [(8, 0x00000F80)] = some 0xFFFFFFF8 ∧
    res (.bfx (.r (r2 .s32))) [(8, 0xFFFFFFFF), (10, 0x0020)] = some 0 ∧
    res (.bfi (rr .b32)) [(8, 0xFF), (10, 0x0408), (12, 0x12345678)] = some 0x12345F78 ∧
    res (.popc (r1 .b32)) [(8, 0xF00F0001)] = some 9 ∧
    res (.clz (r1 .b32)) [(8, 0)] = some 32 ∧ res (.clz (r1 .b32)) [(8, 0x00010000)] = some 15 ∧
    res (.ctz (r1 .b32)) [(8, 0x00010000)] = some 16 ∧
    res (.brev (r1 .b32)) [(8, 0x80000002)] = some 0x40000001 ∧
    res2 (.mov (.i (im .f64 (v 4) z 0x3FC00000))) [] = some 0x3FF8000000000000 ∧
    res (.sel { rr .b32 with c := v 2 }) [(8, 7), (10, 9)] = some 9 ∧
    res2 (.lea (.r (r2 .b64))) [(8, 0x10), (9, 1), (10, 0xFFFFFFFF)] = some (2 ^ 32 + 0xF) ∧
    res2 (.lea (.r (r2 .n64))) [(8, 0x10), (9, 1), (10, 0xFFFFFFFF)] = some (2 ^ 32 * 2 + 0xF) := by
  decide +kernel

/-- Comparisons into masks (08 R169, R177) and mask instructions (R171). -/
theorem test_compare_mask :
    resK (.icmp .lt (.r { r2 .s32 with d := v 1 })) [(8, 0xFFFFFFFF), (10, 0)] = some true ∧
    resK (.icmp .lt (.r { r2 .n32 with d := v 1 })) [(8, 0xFFFFFFFF), (10, 0)] = some false ∧
    resK (.fcmp .eq (.r { r2 .f32 with d := v 1 })) [(8, 0x80000000), (10, 0)] = some true ∧
    resK (.fcmp .nan (.r { r2 .f32 with d := v 1 })) [(8, 0x7FC00000), (10, 0)] = some true ∧
    resK (.fcmp .ne (.r { r2 .f32 with d := v 1 })) [(8, 0x7FC00000), (10, 0)] = some true ∧
    resK (.knot (.r { r .b32 (v 1) z (v 2) z with d := v 1 })) [] = some true ∧
    resK (.kand (.r (r .b32 (v 1) z (v 2) z))) [] = some false ∧
    resK (.kor (.r (r .b32 (v 1) z (v 2) z))) [] = some true ∧
    resK (.kandn (.r (r .b32 (v 1) z (v 2) z))) [] = some true ∧
    resK (.kxor (.r (r .b32 (v 1) z z z))) [] = some false ∧
    resK (.kset (.i (im .b32 (v 1) z 0xFFFF))) [] = some true ∧
    res (.kget (.r (r .b32 (v 4) z z z))) [] = some 0xFFFFFFFF := by
  decide +kernel

/-- Floating point with flags (inexact, underflow, overflow, divide by zero, invalid from bit 0 up): NaN results are canonical,
one rounding, the signs of zero (04 R71, R72, R74; 08 R173 to R175). -/
theorem test_float :
    resF (.fadd (.r (r2 .f32))) [(8, 0x3F800000), (10, 0x33800000)] = some (0x3F800000, 1) ∧
    resF (.fadd (.r { r2 .f32 with rnd := 3 })) [(8, 0x3F800000), (10, 0x33800000)] = some (0x3F800001, 1) ∧
    resF (.fsub (.r (r2 .f32))) [(8, 0x3F800000), (10, 0x3F800000)] = some (0, 0) ∧
    resF (.fmul (.r (r2 .f32))) [(8, 0x7F000000), (10, 0x7F000000)] = some (0x7F800000, 5) ∧
    resF (.ffma (rr .f32)) [(8, 0x3F800001), (10, 0x3F800001), (12, 0xBF800002)] = some (0x28800000, 0) ∧
    resF (.fmin (.r (r2 .f32))) [(8, 0x7FC00000), (10, 0x80000000)] = some (0x80000000, 0) ∧
    resF (.fmax (.r (r2 .f32))) [(8, 0x80000000), (10, 0)] = some (0, 0) ∧
    resF (.fabs (r1 .f32)) [(8, 0xFF800000)] = some (0x7F800000, 0) ∧
    resF (.fdiv (r2 .f32)) [(8, 0x3F800000), (10, 0)] = some (0x7F800000, 8) ∧
    resF (.fsqrt (r1 .f32)) [(8, 0xBF800000)] = some (0x7FC00000, 16) ∧
    resF (.frcp (r1 .f32)) [(8, 0x40000000)] = some (0x3F000000, 0) ∧
    resF (.fmul (.r { r2 .f32 with ftz := true })) [(8, 0x00400000), (10, 0x40000000)] = some (0, 0) := by
  decide +kernel

/-- Special values (08 R176) and classes (R178). -/
theorem test_approximations :
    resF (.fexp2 (r1 .f32)) [(8, 0xFF800000)] = some (0, 0) ∧ resF (.fexp2 (r1 .f32)) [(8, 0x40400000)] = some (0x41000000, 0) ∧
    resF (.flog2 (r1 .f32)) [(8, 0x80000000)] = some (0xFF800000, 8) ∧ resF (.flog2 (r1 .f32)) [(8, 0x41000000)] = some (0x40400000, 0) ∧
    resF (.fsin (r1 .f32)) [(8, 0x80000000)] = some (0x80000000, 0) ∧ resF (.fcos (r1 .f32)) [(8, 0)] = some (0x3F800000, 0) ∧
    resF (.ftanh (r1 .f32)) [(8, 0xFF800000)] = some (0xBF800000, 0) ∧ resF (.fsin (r1 .f32)) [(8, 0x7F800000)] = some (0x7FC00000, 16) ∧
    resF (.frsq (r1 .f32)) [(8, 0xBF800000)] = some (0x7FC00000, 16) ∧
    res (.fclass { r1 .f32 with ty := .f32 }) [(8, 0x7F800001)] = some 256 ∧ res (.fclass (r1 .f32)) [(8, 0x80000001)] = some 4 := by
  decide +kernel

/-- The packing example of 08: 1.0, -0.3, 500.0 and 2^-10 into E4M3 (R180, R181), and a floor (R179). -/
theorem test_pack_e4m3 :
    resF (.cvtq .e4m3 (r .f32 (v 4) (v 8) (v 10) (v 12))) [(8, 0x3F800000), (10, 0xBE99999A), (12, 0)] = some (0xAA380000, 1) ∧
    resF (.cvtq .e4m3 (r .f32 (v 4) (v 8) (v 10) (v 12))) [(8, 0x43FA0000), (10, 0x3A800000), (12, 0xAA380000)] =
      some (0x007FAA38, 7) ∧
    resF (.cvtq .e4m3 { r .f32 (v 4) (v 8) (v 10) (v 12) with sat := true }) [(8, 0x43FA0000), (10, 0x3A800000), (12, 0xAA380000)] =
      some (0x007EAA38, 7) ∧
    resF (.cvtw .e4m3 (r2 .f32)) [(8, 0x007FAA38), (10, 1)] = some (0xBEA00000, 0) ∧
    resF (.cvt .f32 { r1 .s32 with rnd := 2 }) [(8, 0xBFC00000)] = some (0xFFFFFFFE, 1) := by
  decide +kernel

/-- Dot products (08 R182), PACK (R183) and the BSEL example of R184. -/
theorem test_dot_pack :
    res (.dot4 { rr .s8x4 with sat := true }) [(8, 0x80808080), (10, 0x80808080), (12, 0x7FFFFFFF)] = some 0x7FFFFFFF ∧
    res (.dot2 (rr .f16x2)) [(8, 0x3C003C00), (10, 0x40004000), (12, 0x3F800000)] = some 0x40A00000 ∧
    res (.pack (rr .s8x4)) [(8, 300), (10, 0xFFFFFF00), (12, 0xABCD)] = some 0xABCD807F ∧
    res (.pack { r2 .bf16x2 with ty := .bf16x2 }) [(8, 0x3F800000), (10, 0xC0000000)] = some 0xC0003F80 ∧
    res (.bsel (rr .b32)) [(8, 0x44332211), (10, 0x887766AA), (12, 0x17040100)] = some 0xFFAA2211 := by
  decide +kernel

/-- One LFOLD example of 09 (R190, R191): lanes 0 to 3 hold 1, 2^24, 1 and -2^24. -/
def folding : State :=
  (List.range 4).foldl (fun s l => put s l [(8, [0x3F800000, 0x4B800000, 0x3F800000, 0xCB800000].getD l 0)]) (small (.lanes 0 0xF))
def v4F (s : State) (l : Nat) : Nat × Nat := ((spGet (ln s l).regs 4).toNat, (ln s l).fpflags.toNat)

theorem test_fold :
    after (.lfold .add (r1 .f32)) folding (fun t => (List.range 4).map (v4F t)) = some [(0, 1), (0, 1), (0, 1), (0, 1)] ∧
    after (.lpfx .add (r1 .f32)) folding (fun t => (List.range 4).map (v4F t)) =
      some [(0x3F800000, 0), (0x4B800000, 1), (0x4B800000, 1), (0, 1)] ∧
    after (.lfold .add { r1 .f32 with low := 0x400 }) folding (fun t => (List.range 4).map (v4F t)) =
      some [(0x4B800000, 1), (0x4B800000, 1), (0xCB7FFFFF, 0), (0xCB7FFFFF, 0)] := by
  decide +kernel

/-- Moves between lanes (09 R186 to R189): a lane takes the source lane's value; a source outside the segment gives c. -/
theorem test_lanes :
    after (.lgetAt (.i (im .b32 (v 4) (v 8) 1))) folding (fun t => (List.range 4).map fun l => (v4F t l).1) =
      some [0x4B800000, 0x4B800000, 0x4B800000, 0x4B800000] ∧
    after (.lgetFlip (.i (im .b32 (v 4) (v 8) 1))) folding (fun t => (List.range 4).map fun l => (v4F t l).1) =
      some [0x4B800000, 0x3F800000, 0xCB800000, 0x3F800000] ∧
    after (.lshup (r .b32 (v 4) (v 8) (v 10) (v 8))) ((List.range 4).foldl (fun s l => put s l [(10, 1)]) folding)
      (fun t => (List.range 4).map fun l => (v4F t l).1) = some [0x3F800000, 0x3F800000, 0x4B800000, 0x3F800000] ∧
    after (.lshdn { r .b32 (v 4) (v 8) (v 10) (v 9) with low := 0x300 }) ((List.range 4).foldl (fun s l => put s l [(10, 1), (9, 7)]) folding)
      (fun t => (List.range 4).map fun l => (v4F t l).1) = some [0x4B800000, 0x3F800000, 0xCB800000, 7] ∧
    after (.lpeerEq (r1 .b32)) folding (fun t => (List.range 4).map fun l => (v4F t l).1) = some [5, 2, 5, 8] ∧
    after (.lpeerUni (r1 .b32)) folding (fun t => (v4F t 0).1) = some 0 ∧
    after (.kpollWord (r .b32 (v 4) z z z)) folding (fun t => (v4F t 0).1) = some 15 := by
  decide +kernel

/-- Memory at `a` of the mapped page, and a lane that addresses it by the pair v8, v9. -/
def mem (s : State) (a : Nat) (bs : List Nat) : State := { s with phys := s.phys.place a (bs.map (BitVec.ofNat 8)) }
def aimed (s : State) (l a : Nat) : State := put s l [(8, a)]

/-- Little-endian loads, zero and sign extension, the displacement (09 R193, 07 R142). -/
theorem test_load :
    after (.ld (m .b32 (v 4) (v 8) z z 4)) (mem (aimed (small (.lanes 0 1)) 0 0x10400) 0x10404 [0x78, 0x56, 0x34, 0x92])
      (fun t => (spGet (ln t 0).regs 4).toNat) = some 0x92345678 ∧
    after (.ldS8 (m .b32 (v 4) (v 8) z z 0xFFFFF)) (mem (aimed (small (.lanes 0 1)) 0 0x10408) 0x10404 [0x78, 0x56, 0x34, 0x92])
      (fun t => (spGet (ln t 0).regs 4).toNat) = some 0xFFFFFF92 ∧
    after (.ldN16 (m .b32 (v 4) (v 8) z z 2)) (mem (aimed (small (.lanes 0 1)) 0 0x10404) 0x10404 [0x78, 0x56, 0x34, 0x92])
      (fun t => (spGet (ln t 0).regs 4).toNat) = some 0x9234 ∧
    after (.ldS16 (m .b32 (v 4) (v 8) z z 2)) (mem (aimed (small (.lanes 0 1)) 0 0x10404) 0x10404 [0x78, 0x56, 0x34, 0x92])
      (fun t => (spGet (ln t 0).regs 4).toNat) = some 0xFFFF9234 ∧
    after (.ldN8 (m .b32 (v 4) (v 8) z z 3)) (mem (aimed (small (.lanes 0 1)) 0 0x10404) 0x10404 [0x78, 0x56, 0x34, 0x92])
      (fun t => (spGet (ln t 0).regs 4).toNat) = some 0x92 := by
  decide +kernel

/-- Stores of a pair and of narrow values; the lanes store in ascending order (09 R194). -/
theorem test_store :
    after (.st (m .b64 z (v 8) z (v 4) 0)) (put (small (.lanes 0 1)) 0 [(8, 0x10400), (4, 0x44332211), (5, 0x88776655)])
      (fun t => t.phys.num 0x10400 8) = some 0x8877665544332211 ∧
    after (.stB8 (m .b32 z (v 8) z (v 4) 0)) (put (small (.lanes 0 1)) 0 [(8, 0x10400), (4, 0x44332211)])
      (fun t => t.phys.num 0x10400 8) = some 0x11 ∧
    after (.stB16 (m .b32 z (v 8) z (v 4) 0)) (put (put (small (.lanes 0 3)) 0 [(8, 0x10400), (4, 1)]) 1 [(8, 0x10400), (4, 2)])
      (fun t => t.phys.num 0x10400 8) = some 2 := by
  decide +kernel

/-- Four lanes wrap a counter (the example of 09 R200), and `RED` stores without a result (R199). -/
theorem test_atomics :
    after (.atom .inc (m .n32 (v 4) (v 8) z (v 5) 0))
      (mem ((List.range 4).foldl (fun s l => put s l [(8, 0x10400), (5, 2)]) (small (.lanes 0 0xF))) 0x10400 [1])
      (fun t => ((List.range 4).map fun l => (spGet (ln t l).regs 4).toNat, t.phys.num 0x10400 4)) = some ([1, 2, 0, 1], 2) ∧
    after (.red .max (m .s32 z (v 8) z (v 5) 0)) (mem (put (small (.lanes 0 1)) 0 [(8, 0x10400), (5, 0xFFFFFFFF)]) 0x10400 [7])
      (fun t => t.phys.num 0x10400 4) = some 7 := by
  decide +kernel

/-- A code line whose slot 0 is a target, of the words given. -/
def coded (s : State) (ws : List (BitVec 96)) : State :=
  let n := leNat (ws.flatMap fun w => toLE 12 w.toNat)
  { s with phys := s.phys.place 0x10000 (toLE 64 (n + 2 ^ 480 * (1 + 2 ^ 24 * parityOf n))) }

/-- The repeat of 10 R222's example: `REPEAT 4, 1, 1, 0, 0` before `FADD.f32 v8, v0, v4`. With SIZE 16 it sets the repeat state, with
SIZE 8 its first iteration names v8 and it raises REPEAT_BOUNDS. A count of 0 skips the next instruction. -/
def repeating (size : Nat) : State :=
  coded (onLane (small (.lanes 0 1)) 0 fun x => { x with size := size }) [0x070002400000000000400000, 0x300600080000040000000000]

theorem test_repeat :
    after (decode 0x070002400000000000400000) (repeating 16) (fun t => ((ln t 0).pc.toNat, (ln t 0).rep)) =
      some (0x10001, some ⟨4, 0, 1, 1, 0, 0⟩) ∧
    (∃ i ∈ (repeating 8).iss?, ∃ t ∈ (match repeatCheck (repeating 8) i [1, 1, 0, 0] 4 with
        | .error (.trap t) => some t
        | _ => none), t.code = 0x05) ∧
    after (.repeatImm (im .b32 z z 0)) (small (.lanes 0 1)) (fun t => ((ln t 0).pc.toNat, (ln t 0).rep)) = some (0x10002, none) := by
  decide +kernel

/-- Transfers: two lines back to slot 3, and itself (07 R143, its worked encodings); the first line word is a target of slot 0 only. -/
theorem test_branch :
    directTarget 0x10080 0xFFFFFFE 3 0 = 0x10003 ∧ directTarget 0x10000 0 0 0 = 0x10000 ∧
    after (.bra (br z 0 0 0)) (small (.lanes 0 1)) (fun t => (ln t 0).pc.toNat) = some 0x10000 := by
  decide +kernel

/-- The two updates of 11 R253's example that no draw decides: the first candidate is taken whatever its draw, and `RSVFIN` gives
8.0 and 1.0. -/
theorem test_reservoir :
    (let q : Rsv := ({ payload := 0, wsum := 0, phat := 0, w := 0, m := 0, dctr := 0 } : Rsv).stream 5 0x40000000 1 77 0x3F000000
     (q.payload, q.phat, q.wsum, q.m, q.dctr)) = (77, 0x3F000000, 0x40000000, 1, 1) ∧
    ({ payload := 1, wsum := 0x41000000, phat := 0x3F000000, w := 0, m := 2, dctr := 2 } : Rsv).finish = 0x41000000 ∧
    ({ payload := 2, wsum := 0x41000000, phat := 0x40800000, w := 0, m := 2, dctr := 2 } : Rsv).finish = 0x3F800000 ∧
    selected 0xC00000 0x41000000 0x40C00000 = false ∧ selected 0x400000 0x41000000 0x40C00000 = true := by
  decide +kernel

/-- The example of 11 R263: six arrivals, an overflow, a flush and two replay steps. Depths and colours are FP32 numbers. -/
def arrivals : List (Word × Word × Word) :=
  [(0x40A00000, 0x3F000000, 0x3F800000), (0x40000000, 0x3F000000, 0x3F800000), (0x41000000, 0x3F000000, 0x3F000000),
   (0x40400000, 0x3F000000, 0x3F000000), (0x40C00000, 0x3E800000, 0x3F800000), (0x3F800000, 0x3F000000, 0x40000000)]
def composed (n : Nat) : Comp × List (Nat × Nat) :=
  (arrivals.take n).foldl (fun c a => let r := c.1.add 0x3B800000 (fun _ => true) a.1 [a.2.2, 0, 0, a.2.1]; (r.1, c.2 ++ r.2)) (Comp.init true, [])
def flushed : Comp × List (Nat × Nat) := let r := (composed 6).1.flush 0x3B800000 (fun _ => true); (r.1, (composed 6).2 ++ r.2)

theorem test_compositing :
    ((composed 4).1.buf.map (·.z), (composed 4).1.cr) = ([0x40000000, 0x40400000, 0x40A00000, 0x41000000], 0) ∧
    ((composed 5).1.cr, (composed 5).1.t, (composed 5).1.front, (composed 5).1.term) = (0x3F000000, 0x3F000000, 0x40000000, 1) ∧
    ((composed 6).1.cr, (composed 6).1.t, (composed 6).1.ovf, (composed 6).1.term) = (0x3F800000, 0x3E800000, 1, 2) ∧
    (flushed.1.cr, flushed.1.t, flushed.1.front, flushed.1.term, flushed.1.buf) = (0x3F938000, 0x3CC00000, 0x41000000, 6, []) ∧
    (let a := flushed.1.replay ((flushed.2.getD 5 (0, 0)).2) [0x3F800000, 0, 0] 0
     let b := a.1.replay ((flushed.2.getD 4 (0, 0)).2) [0x3F800000, 0, 0] (a.2.getD 0 0)
     (a.1.t, a.2, b.1.t, b.1.term, b.2)) =
      (0x3D400000, [0x3C400000, 0x3CC00000, 0, 0, 0x3CC00000], 0x3D800000, 4, [0x3CE00000, 0x3C800000, 0, 0, 0x3D400000]) := by
  decide +kernel

/-- The example of 04 R90: two products of 4.0 under a band scale of 2^-26, in two bands and in one. -/
def aRow : Line :=
  { vals := (List.range 128).map fun k => scaled (tfElem 4 (if k == 0 || k == 1 || k == 64 then 2 else 0)) (tfBlockScale 4 0x60 k)
    s0 := tfBandScale 4 0x3280, s1 := tfBandScale 4 0x3280 }
def bCol (k1 : Nat) : Line :=
  { vals := (List.range 128).map fun k => scaled (tfElem 2 (if k == 0 || k == k1 then 0x48 else 0)) (tfBlockScale 2 0 k)
    s0 := tfBandScale 2 0, s1 := tfBandScale 2 0 }

theorem test_matrix_order : mmaElem 0x3F800000 aRow (bCol 64) = 0x3F800000 ∧ mmaElem 0x3F800000 aRow (bCol 1) = 0x3F800001 := by
  decide +kernel

/-- The example of 04 R96: two blocks drained to MXF4. -/
theorem test_drain_mxf4 :
    (let d (xs : List Nat) : List Nat × List Nat :=
       let r := drainBlock 9 0 (List.replicate 32 0) (xs ++ List.replicate (32 - xs.length) 0)
       (r.1.map (·.toNat), r.2.take xs.length)
     (d [0x40A00000, 0x40200000, 0xBE800000, 0x3FA00000], d [0x41500000, 0xC0400000])) =
      (([127], [6, 4, 8, 2]), ([128], [7, 0xB])) := by
  decide +kernel

/-- Four pops in one cycle (the example of 12 R269): the keys 3, 3, 5 and 7 are served. -/
def pushed : State :=
  { State.reset with
    pq := [7, 3, 9, 3, 12, 5].map fun k => ⟨1, 0, 1, k, 0⟩
    pops := [⟨1, 0, 1, 20, ⟨1, some 0, 0, 4⟩, 2, false⟩, ⟨1, 0, 1, 20, ⟨1, some 0, 1, 4⟩, 2, false⟩, ⟨1, 0, 1, 20, ⟨1, some 0, 2, 4⟩, 2, false⟩,
             ⟨1, 0, 1, 25, ⟨2, some 0, 0, 4⟩, 2, false⟩] }

theorem test_priority_pops :
    after (.pqPopServe 1) pushed (fun t => (t.pq.map (·.key), t.pops)) = some ([9, 12], []) ∧
    after (.pqPopServe 0) pushed (fun t => t.pq.length) = some 6 := by
  decide +kernel

/-- Writes around the lock (the example of 24 R426): SLICE is taken, then GRACE after the lock and SCHED_CTL before RUN are
discarded. -/
def open_ : State := { State.reset with ctrl := { Ctrl.reset with bootStep := 5, bootResult := 1 } }

theorem test_lock :
    after (.registerWrite ⟨0x1018, 8⟩ 400000) open_ (fun t => t.ctrl.slice) = some 400000 ∧
    after .lock open_ (fun t => t.ctrl.cfgState) = some 1 ∧
    after (.registerWrite ⟨0x1020, 8⟩ 40000) { open_ with ctrl := { open_.ctrl with cfgState := 1 } } (fun t => (t.ctrl.grace, t.ctrl.cfgErr)) =
      some (32000, 1) ∧
    after (.registerWrite ⟨0x1000, 8⟩ 1) { open_ with ctrl := { open_.ctrl with cfgState := 1 } } (fun t => (t.ctrl.schedEnable, t.ctrl.cfgErr)) =
      some (false, 16) := by
  decide +kernel

/-- The sixteenth corrected error of a region within a window raises FAULT (23 R419, EU_LIMIT's reset value). -/
theorem test_error_limit :
    (let c : Region := .channel 7
     after (.errorCorrected c) { open_ with errCount := [(c, 14)] } (fun t => t.ctrl.alarms) = some 0 ∧
     after (.errorCorrected c) { open_ with errCount := [(c, 15)] } (fun t => (t.ctrl.alarms.getLsbD 1, t.lasting)) = some (true, [c]) ∧
     after (.errorCorrected c) { open_ with errCount := [(c, 15)], euCount := 0x80000000 } (fun t => (t.ctrl.alarms, t.errCount)) =
       some (0, [(c, 1)])) := by
  decide +kernel


/-! ### Witnesses: a state and operands that meet the hypotheses of each statement -/

/-- The issuing unit, and that nothing keeps it from an instruction with this view. -/
def readyFor (s : State) (v : Iss → View) : Bool := s.iss?.any fun i => i.clear s (v i)

def valsOf {α : Type} [Inhabited α] (f : Nat → Except Halt α) (l : Nat) : α := match f l with
  | .ok x => x
  | .error _ => default

theorem vals_ok {α : Type} [Inhabited α] {f : Nat → Except Halt α} {ls : List Nat} (h : ls.all (fun l => (f l).isOk) = true) :
    ∀ l ∈ ls, f l = .ok (valsOf f l) := by
  intro l hl
  have := List.all_eq_true.mp h l hl
  unfold valsOf
  split <;> simp_all [Except.isOk, Except.toBool]

theorem isOk_ok {α : Type} {x : Except Halt α} (h : x.isOk = true) : ∃ a, x = .ok a := by
  cases x <;> simp_all [Except.isOk, Except.toBool]

theorem opt_any {α : Type} {o : Option α} {p : α → Bool} (h : o.any p = true) : ∃ a, o = some a ∧ p a = true := by
  cases o <;> simp_all

/-- The hypotheses of the statements about results, as a computation. -/
def regMeets (s : State) (op : Iss → Option RegOp) : Bool := s.iss?.any fun i => (op i).any fun o =>
  i.clear s o.view && (i.lanes (i.en o.view)).all (fun l => (mapE (rdOp (s.begun i o.view) i l) o.srcs).isOk) &&
  (foldE (o.give i (valsOf fun l => mapE (rdOp (s.begun i o.view) i l) o.srcs)) (s.begun i o.view) (i.lanes (i.en o.view))).isOk

theorem regMeets_spec {s : State} {op : Iss → Option RegOp} (h : regMeets s op = true) :
    ∃ i o vals t, op i = some o ∧ Ready s i o.view ∧ o.reads s i vals ∧
      foldE (o.give i vals) (s.begun i o.view) (i.lanes (i.en o.view)) = .ok t := by
  obtain ⟨i, hi, h⟩ := opt_any h
  obtain ⟨o, ho, h⟩ := opt_any h
  simp only [Bool.and_eq_true] at h
  obtain ⟨t, ht⟩ := isOk_ok h.2
  exact ⟨i, o, _, t, ho, ⟨hi, h.1.1⟩, vals_ok h.1.2, ht⟩

def maskMeets (s : State) (ins : Instr) : Bool := s.iss?.any fun i => (maskOp i ins).any fun o =>
  i.clear s o.view && (i.lanes (i.en o.view)).all (fun l => (mapE (rdOp (s.begun i o.view) i l) o.srcs).isOk)

theorem maskMeets_spec {s : State} {ins : Instr} (h : maskMeets s ins = true) :
    ∃ i o vals, maskOp i ins = some o ∧ Ready s i o.view ∧ o.reads s i vals := by
  obtain ⟨i, hi, h⟩ := opt_any h
  obtain ⟨o, ho, h⟩ := opt_any h
  simp only [Bool.and_eq_true] at h
  exact ⟨i, o, _, ho, ⟨hi, h.1⟩, vals_ok h.2⟩

def moveMeets (s : State) (ins : Instr) : Bool := s.iss?.any fun i => (moveOp i ins).any fun o =>
  i.clear s o.view && (i.lanes (i.en o.view)).all (fun l => (o.value (s.begun i o.view) l).isOk) &&
  (foldE (o.give i (valsOf (o.value (s.begun i o.view)))) (s.begun i o.view) (i.lanes (i.en o.view))).isOk

theorem moveMeets_spec {s : State} {ins : Instr} (h : moveMeets s ins = true) :
    ∃ i o vals t, moveOp i ins = some o ∧ Ready s i o.view ∧ (∀ l ∈ i.lanes (i.en o.view), o.value (s.begun i o.view) l = .ok (vals l)) ∧
      foldE (o.give i vals) (s.begun i o.view) (i.lanes (i.en o.view)) = .ok t := by
  obtain ⟨i, hi, h⟩ := opt_any h
  obtain ⟨o, ho, h⟩ := opt_any h
  simp only [Bool.and_eq_true] at h
  obtain ⟨t, ht⟩ := isOk_ok h.2
  exact ⟨i, o, _, t, ho, ⟨hi, h.1.1⟩, vals_ok h.1.2, ht⟩

/-- Lanes 0 and 31 of the band, and the lead stream. -/
def lanes2 : State := small (.lanes 0 0x80000001)
def leads : State := on (small .lead) fun g => { g with lead := { g.lead with status := .running, pc := 0x10000, priv := true } }

/-- Lane 0 in user state. -/
def user (rs : Nat) : State := onLane (small (.lanes 0 1)) 0 fun x => { x with priv := false, regs := spSet x.regs 8 (BitVec.ofNat 32 rs) }
def okOf {ε α : Type} : Except ε α → Option α
  | .ok a => some a
  | .error _ => none

def one : State := small (.lanes 0 1)

/-- The session and the translation record of the placed launch keep their limits (22 R385, 21 R366). -/
theorem test_placed_records : recordOk placedRecord = true ∧ trecOk placedTrec = true := by decide +kernel

theorem wit_DecodeEncode : ∃ i w, i.wf = true ∧ encode i = some w := ⟨decode 0x303620048050060070000000, _, by decide +kernel, rfl⟩
theorem wit_EncodeDecode : ∃ w i, decode? w = some i := ⟨0x303620048050060070000000, _, rfl⟩
theorem wit_SpecWordsDecode : ∃ w, decode? w = none := ⟨0xFF0000000000000000000000, by decide +kernel⟩

/-- A line of a sum, fetched by a band of all 32 lanes. -/
def fetching : State := State.reset.withFetchWord 96 0x100100040050060000000000
def everyLane : UnitRef := ⟨0, 0, .lanes 0 0xFFFFFFFF⟩

theorem wit_UnitRunsDecoded : ∃ i ∈ ({ fetching with issuer := some everyLane } : State).iss?, i.active ≠ 0 ∧
    ∃ line ∈ okOf (fetchLine { fetching with issuer := some everyLane } i i.pc), checkLine line = none ∧ (i.atEntry = true → targetBit line (i.pc.toNat % 64) = true) := by
  decide +kernel

theorem wit_StepRunsOneTurn : fetching.agenda = [] ∧ fetching.open_ = [] ∧ fetching.turns = [{ unit := everyLane, slot := some 0, captured := none }] ∧
    (match fetching.issueTurn { unit := everyLane, slot := some 0, captured := none } with
      | .next u => u.clash
      | _ => true) = false := by
  decide +kernel

theorem wit_StepRunsOneTurn_agenda : ∃ (s t : State) (i : Instr) (rest : List Instr), s.agenda = i :: rest ∧ exec i { s with agenda := rest } = .next t ∧ t.clash = false :=
  ⟨{ State.reset with agenda := [.linkUp] }, _, .linkUp, [], rfl, rfl, rfl⟩

theorem wit_IntegerResults : ∀ ins ∈ ([.iadd (.r (r2 .s32)), .isub (.r (r2 .b64)), .imul (.r (r2 .n16x2)), .imulhi (.r (r2 .s8x4)),
    .imad (rr .s32), .iadd3 (rr .n64), .addmin (rr .s32), .addmax (rr .n16x2), .imin (.r (r2 .s32)), .imax (.r (r2 .n64)), .min3 (rr .s32),
    .max3 (rr .n32), .iabs (r1 .s32), .ineg (r1 .b32), .isad (rr .s32), .idiv (.r (r2 .n32)), .irem (.r (r2 .s64)), .land (.r (r2 .b32)),
    .lor (.r (r2 .b64)), .lxor (.i (im .b32 (v 4) (v 8) 5)), .landn (.r (r2 .b32)), .lorn (.r (r2 .b32)), .lnot (r1 .b32),
    .shl (.r (r2 .b32)), .shr (.r (r2 .n64)), .sar (.r (r2 .s32)), .rol (.r (r2 .b32)), .ror (.r (r2 .b32)), .fshl (rr .b32), .fshr (rr .b64),
    .bfx (.r (r2 .s32)), .bfi (rr .b32), .popc (r1 .b32), .clz (r1 .b32), .ctz (r1 .b64), .brev (r1 .b32),
    .lea (.r (r2 .b64)), .mov (.i (im .f64 (v 4) z 5))] : List Instr), regMeets lanes2 (fun i => intOp i.rep ins) = true := by
  decide +kernel

theorem wit_FloatResults : ∀ ins ∈ ([.fadd (.r (r2 .f32)), .fsub (.r (r2 .f64)), .fmul (.r (r2 .f16x2)), .ffma (rr .bf16), .fmin (.r (r2 .f32)),
    .fmax (.r (r2 .f16)), .fabs (r1 .f32), .fdiv (r2 .f32), .fsqrt (r1 .f64), .frcp (r1 .f32), .frsq (r1 .f32), .fexp2 (r1 .f32),
    .flog2 (r1 .f16), .fsin (r1 .f32), .fcos (r1 .f32), .ftanh (r1 .f32), .fclass (r1 .f32)] : List Instr),
    regMeets lanes2 (fun i => floatOp i.rep ins) = true := by
  decide +kernel

theorem wit_ConversionResults : (∀ ins ∈ ([.cvt .f32 (r1 .s32), .cvtq .e4m3 (rr .f32), .cvtw .e2m1 (r2 .f16x2), .dot2 (rr .f16x2), .dot4 (rr .s8x4),
    .pack (r2 .b32), .bsel (rr .b32)] : List Instr), regMeets lanes2 (fun i => convertOp i.rep ins) = true) ∧
    (∀ ins ∈ ([.kget (.r (r .b32 (v 4) z (v 1) z)), .kpollWord (r .b32 (v 4) z (v 1) z), .xtest (r .b32 (v 4) z z z)] : List Instr),
    regMeets lanes2 (fun i => wordOp i ins) = true) := by
  decide +kernel

theorem wit_MaskResults : ∀ ins ∈ ([.icmp .ge (.r (r .s32 (v 7) (v 8) (v 10) z)), .fcmp .num (.r (r .f32 (v 1) (v 8) (v 10) z)),
    .kand (.r (r .b32 (v 1) (v 2) (v 3) z)), .kor (.r (r .b32 (v 1) (v 2) (v 3) z)), .kxor (.r (r .b32 (v 0) (v 2) (v 3) z)),
    .kandn (.i (im .b32 (v 1) (v 2) 7)), .knot (.r (r .b32 (v 1) z (v 3) z)), .kset (.r (r .b32 (v 1) z (v 8) z)),
    .kpollAll (r .b32 (v 1) z (v 2) z), .kpollAny (r .b32 (v 1) z (v 2) z)] : List Instr), maskMeets lanes2 ins = true := by
  decide +kernel

theorem wit_LaneMoves : ∀ ins ∈ ([.lgetAt (.r (r .b32 (v 4) (v 8) (v 10) z)), .lgetFlip (.i (im .b64 (v 4) (v 8) 3)),
    .lshup (r .b32 (v 4) (v 8) (v 10) (v 12)), .lshdn (r .b32 (v 4) (v 8) (v 10) (v 12)), .lpeerEq (r1 .b32), .lpeerUni (r1 .b64),
    .lfold .add (r1 .f32), .lpfx .min (r1 .s32), .sel (r .b32 (v 4) (v 8) (v 10) (v 1))] : List Instr), moveMeets lanes2 ins = true := by
  decide +kernel

theorem wit_RegisterAccess : (∃ i ∈ lanes2.iss?, ∀ l ∈ [0, 31], ∀ n ∈ [0, 591], (i.group.lane i.band l).lo ≤ (i.group.lane i.band l).base + n) ∧
    spWf (Lane.init).regs = true ∧ (7 : Nat) ≠ 8 ∧ Lane.init.killed.contains 7 = false ∧ (0 : Nat) < 7 := by
  decide +kernel

/-- A type outside the set of the instruction; a privileged instruction in user state; an unassigned word. -/
theorem wit_ChecksThatTrap : (∃ v ∈ viewOf (.iadd (.r (r2 .f32))), ∃ i ∈ lanes2.iss?, i.doomed = 0 ∧ i.active ≠ 0 ∧ i.rep = none ∧
      ((v i).check i).isSome = true) ∧
    (∀ ins ∈ ([.tret, .tlbinv, .fork, .cflush] : List (RForm → Instr)), ∃ v ∈ viewOf (ins (r .b32 z z z z)),
      ∃ i ∈ (user 0).iss?, i.doomed = 0 ∧ i.active ≠ 0 ∧ i.priv = false ∧
      (v i).types.contains .b32 = true ∧ (if i.lead then (v i).lead else (v i).lane) = true) := by
  decide +kernel

theorem wit_NoLaneEnabled : ∃ v ∈ viewOf (.iadd (.r { r2 .s32 with g := ⟨false, 1⟩ })), ∃ i ∈ lanes2.iss?, i.doomed = 0 ∧ i.active ≠ 0 ∧
    i.rep = none ∧ (v i).check i = none ∧ i.en (v i) = 0 ∧
    (Use.mask { kill := false, bank := false, idx := (v i).g.mask.setWidth 10 }).busy i i.active = false := by
  decide +kernel

theorem wit_Transfers :
    (∃ i ∈ one.iss?, i.clear one (viewBra (br z 0 0 0)) = true ∧ ∀ l ∈ i.lanes (i.en (viewBra (br z 0 0 0))),
      checkTarget (one.begun i (viewBra (br z 0 0 0))) i l false (directTarget i.pc 0 0 0) = .ok ()) ∧
    (∃ i ∈ (aimed one 0 0x10000).iss?, i.clear (aimed one 0 0x10000) (viewJmp (br (v 8) 0 0 0)) = true ∧
      ∀ l ∈ i.lanes (i.en (viewJmp (br (v 8) 0 0 0))),
        rd2 ((aimed one 0 0x10000).begun i (viewJmp (br (v 8) 0 0 0))) i l (v 8) = .ok 0x10000 ∧
        checkTarget ((aimed one 0 0x10000).begun i (viewJmp (br (v 8) 0 0 0))) i l true 0x10000 = .ok ()) ∧
    (∃ i ∈ one.iss?, i.clear one (viewBrx (br (v 8) 0 0 0)) = true ∧ ∀ l ∈ i.lanes (i.en (viewBrx (br (v 8) 0 0 0))),
        (rd1 (one.begun i (viewBrx (br (v 8) 0 0 0))) i l (v 8)).map (fun x => directTarget i.pc 0 0 x.toNat) = .ok 0x10000 ∧
        checkTarget (one.begun i (viewBrx (br (v 8) 0 0 0))) i l true 0x10000 = .ok ()) := by
  decide +kernel

/-- A call of the smallest and of the largest window shift that leaves eight registers. -/
theorem wit_Calls :
    (∀ k ∈ [0, 73], ∃ i ∈ one.iss?, i.clear one (viewCall (br z 0 0 k)) = true ∧
      (∀ l ∈ i.lanes (i.en (viewCall (br z 0 0 k))), 8 * k + 8 ≤ (i.group.lane i.band l).size ∧ (i.group.lane i.band l).nlinks < 4096 ∧
        (i.group.lane i.band l).base + (i.group.lane i.band l).size ≤ i.sess.rsDepth ∧ (i.group.lane i.band l).links.length < 8 ∧
        checkTarget (one.begun i (viewCall (br z 0 0 k))) i l false (directTarget i.pc 0 0 0) = .ok ()) ∧
      (foldE (fun t l => pushCall t i l (8 * k) (directTarget i.pc 0 0 0)) (one.begun i (viewCall (br z 0 0 k)))
        (i.lanes (i.en (viewCall (br z 0 0 k))))).isOk = true) ∧
    (∃ i ∈ (aimed one 0 0x10000).iss?, i.clear (aimed one 0 0x10000) (viewCalli (br (v 8) 0 0 1)) = true ∧
      ∀ l ∈ i.lanes (i.en (viewCalli (br (v 8) 0 0 1))),
        rd2 ((aimed one 0 0x10000).begun i (viewCalli (br (v 8) 0 0 1))) i l (v 8) = .ok 0x10000 ∧
        checkTarget ((aimed one 0 0x10000).begun i (viewCalli (br (v 8) 0 0 1))) i l true 0x10000 = .ok ()) ∧
    sessionSpace 0x10004 = true ∧ 0x10004 % 64 < 5 := by
  decide +kernel

/-- A lane with one link, and a lane whose nine links spill. -/
def called (n : Nat) : State := onLane one 0 fun x =>
  { x with base := 8, size := 584, nlinks := n, links := [linkWord 0x10000 8 592] }

theorem wit_ReturnPopsLink :
    (∃ i ∈ (called 1).iss?, i.clear (called 1) (viewRet (r .b32 z z z z)) = true ∧ ∀ l ∈ i.lanes (i.en (viewRet (r .b32 z z z z))),
      let x := i.group.lane i.band l
      1 ≤ x.nlinks ∧ x.links.getLastD 0 = linkWord 0x10000 8 592 ∧
      checkTarget ((called 1).begun i (viewRet (r .b32 z z z z))) i l false (linkPc (linkWord 0x10000 8 592)) = .ok () ∧
      spillIn ((called 1).begun i (viewRet (r .b32 z z z z))) i l (min x.lo (max 0 (592 - i.launch.desc.blockRegs))) x.lo = .ok [] ∧
      x.links.length ≤ 1 ∧ x.links.dropLast = []) := by
  decide +kernel

theorem wit_ExitSplitRejoinNop : readyFor one (fun _ => viewExit (r .b32 z z z z)) = true ∧ readyFor leads (fun _ => viewExit (r .b32 z z z z)) = true ∧
    (∃ i ∈ one.iss?, i.clear one (viewSplit (r .b32 (v 4) z z z)) = true ∧ (foldE (fun t l => writeV t i l 4 i.active)
      (one.begun i (viewSplit (r .b32 (v 4) z z z))) (i.lanes (i.en (viewSplit (r .b32 (v 4) z z z))))).isOk = true) ∧
    (∃ i ∈ one.iss?, i.clear one (viewRejoin (r .b32 z (v 4) z z)) = true ∧ ∀ l ∈ i.lanes (i.en (viewRejoin (r .b32 z (v 4) z z))),
      readV (one.begun i (viewRejoin (r .b32 z (v 4) z z))) i l 4 = .ok 0) := by
  decide +kernel

theorem wit_ExitSplitRejoinNop_quiet : readyFor one (fun _ => viewNop (r .b32 z z z z)) = true ∧ readyFor one (fun _ => viewPref (m .b32 z (v 8) z z 0)) = true ∧
    readyFor one (fun _ => viewFence { m .b32 z z z z 0 with scope := 4 } true) = true ∧ readyFor one (fun _ => viewFenceUn (m .b32 z z z z 0)) = true := by
  decide +kernel

theorem wit_AllocSetsWindow : ∀ n ∈ [8, 592], ∃ i ∈ one.iss?, i.clear one (viewAlloc (im .b32 z z n)) = true ∧
    (∀ l ∈ i.lanes (i.en (viewAlloc (im .b32 z z n))), (i.group.lane i.band l).base + n ≤ i.sess.rsDepth ∧
      ((one.begun i (viewAlloc (im .b32 z z n))).spillOut i.sess i.bandOf l (i.group.lane i.band l) (i.group.lane i.band l).lo
        (newLo i.launch.desc.blockRegs (i.group.lane i.band l).lo (i.group.lane i.band l).base n)).isOk = true) ∧
    (foldE (fun (u : State) l =>
      let x := i.group.lane i.band l
      let lo := newLo i.launch.desc.blockRegs x.lo x.base n
      (u.raiseTop i.sess i.bandOf l x (x.base + x.size) (x.base + n) lo).map fun r =>
        r.1.modLanes i (maskOf (· == l)) fun _ _ => { r.2 with size := n })
      (one.begun i (viewAlloc (im .b32 z z n))) (i.lanes (i.en (viewAlloc (im .b32 z z n))))).isOk = true := by
  decide +kernel

theorem wit_Repeat : readyFor one (fun _ => viewRepeatImm (im .b32 z z 0)) = true ∧
    (∃ i ∈ (repeating 16).iss?, i.clear (repeating 16) (viewRepeatImm (im .b32 ⟨false, false, 0x240⟩ z 4)) = true ∧
      repeatCheck ((repeating 16).begun i (viewRepeatImm (im .b32 ⟨false, false, 0x240⟩ z 4))) i (strides ⟨false, false, 0x240⟩) 4 = .ok ()) ∧
    readyFor one (fun _ => viewRepeatReg (im .b32 z (g 2) 0)) = true := by
  decide +kernel

theorem wit_Repeat_advance : ∃ (x y : Lane) (p q : RepState), x.rep = some p ∧ p.remain = 1 ∧ y.rep = some q ∧ 1 < q.remain.toNat :=
  ⟨{ Lane.init with rep := some ⟨1, 3, 1, 0, 0, 0⟩ }, { Lane.init with rep := some ⟨2, 0, 1, 0, 0, 0⟩ }, _, _, rfl, rfl, rfl, by decide⟩

/-- The five loads at the mapped page, the last byte of it among them. -/
theorem wit_Loads : ∀ e ∈ ([(.ld (m .b64 (v 4) (v 8) z z 0), 0x10400), (.ldN8 (m .b32 (v 4) (v 8) z z 0), 0x10FFF), (.ldS8 (m .b32 (v 4) (v 8) z z 0), 0x10400),
    (.ldN16 (m .b32 (v 4) (v 8) z z 0), 0x10400), (.ldS16 (m .b32 (v 4) (v 8) z z 0), 0x10400)] : List (Instr × Nat)),
    let s := aimed one 0 e.2
    ∃ i ∈ s.iss?, ∃ o ∈ loadOp i.rep e.1, i.clear s o.view = true ∧ i.inTxn (i.en o.view) = 0 ∧
      ∃ p ∈ okOf (checkAccess (s.begun i o.view) i { acc := .read, aligned := false, types := anyType } (BitVec.ofNat 64 e.2) (2 ^ o.lg)),
        (∀ l ∈ i.lanes (i.en o.view), o.allowed (s.begun i o.view) i .read l (BitVec.ofNat 64 e.2) p) ∧
        (foldE (fun (u : State) l =>
          (giveLoad o.f o.ty o.signed i (u.sign i.group.gid p true false) l (u.bytesAt i.sess i.group.gid p (2 ^ o.lg))).map
            fun w => w.advance i (maskOf (· == l))) (s.begun i o.view) (i.lanes (i.en o.view))).isOk = true := by
  unfold MemOp.allowed
  decide +kernel

/-- The three stores, which also complete and leave memory in form. -/
theorem wit_Stores : ∀ ins ∈ ([.st (m .b32 z (v 8) z (v 4) 0), .stB8 (m .b32 z (v 8) z (v 4) 0), .stB16 (m .b32 z (v 8) z (v 4) 0)] : List Instr),
    let s := aimed one 0 0x10400
    ∃ i ∈ s.iss?, ∃ o ∈ storeOp i.rep ins, i.clear s o.view = true ∧ i.inTxn (i.en o.view) = 0 ∧
      ∃ p ∈ okOf (checkAccess (s.begun i o.view) i { acc := .write, aligned := false, types := anyType } 0x10400 (2 ^ o.lg)),
        (∀ l ∈ i.lanes (i.en o.view), o.allowed (s.begun i o.view) i .write l 0x10400 p ∧ rdT (s.begun i o.view) i l o.ty o.f.c = .ok 0) ∧
        ∃ q ∈ okOf (prepareStore (s.begun i o.view) i { acc := .write, aligned := false, types := anyType } (2 ^ o.lg)
          ((i.lanes (i.en o.view)).map fun l => ⟨l, 0x10400, p⟩)), q.1.ctrl.dbmEnable = false ∧ spWf q.1.phys.bytes = true := by
  unfold MemOp.allowed
  decide +kernel

theorem wit_StoreFrame_plain : ∃ i ∈ one.iss?, i.group.buffering = false ∧
    (∃ p ∈ okOf (checkAccess one i { acc := .write, aligned := false, types := anyType } 0x10400 4),
      p.hasContent = false ∧ one.placePoisonW i.sess p 4 = false) ∧ (∀ y ∈ one.sessions, y.tokenHolder = none) := by
  decide +kernel

/-- A run of eight bytes of plain memory; a group with a version; a group's scratchpad. -/
def tasked : State := on one fun g =>
  { g with ver := some { bytes := [], hints := [], rs := 0, ws := 0, base := 0, held := [], serial := false, token := false } }

theorem wit_ReadAfterWrite : (toLE 8 5).length = 8 ∧ Memory.wf one.phys.bytes = true ∧ one.ctrl.linkUp = true ∧ one.ctrl.dbmEnable = false ∧
    ((one.find? 1).any fun e => !e.2.buffering && spWf e.2.scratch) = true ∧ ((tasked.find? 1).any fun e => e.2.buffering) = true := by
  decide +kernel

theorem wit_Atomics : ∀ ret ∈ [true, false],
    let s := put one 0 [(8, 0x10400), (5, 2)]
    let f := m .n32 (if ret then v 4 else z) (v 8) z (v 5) 0
    let w := if ret then viewAtom .inc f else viewRed .inc f
    let nd : Need := { acc := .atomic, aligned := true, types := atomTypes }
    ∃ i ∈ s.iss?, i.clear s w = true ∧ ∃ p ∈ okOf (checkAccess (s.begun i w) i nd 0x10400 4),
      (∀ l ∈ i.lanes (i.en w), mAddr (s.begun i w) i f 2 l = .ok 0x10400 ∧ rdAtomC .inc f i (s.begun i w) l = .ok (2, 0) ∧
        (s.begun i w).placePoison i.sess p 4 = false ∧ (s.begun i w).tileIdle i p = true ∧ p.hostLink = false) ∧
      ∃ q ∈ okOf (prepareStore (s.begun i w) i nd 4 ((i.lanes (i.en w)).map fun l => ⟨l, 0x10400, p⟩)),
        (foldE (fun (u : State) (a : Acc) =>
          let o := leNat (u.bytesAt i.sess i.group.gid a.place 4)
          let x := (u.putAt i.sess i.group.gid (i.self a.lane) a.place (toLE 4 (atomNew .inc f.ty o 2 0))).sign i.group.gid a.place true true
          if ret then wrT x i a.lane f.ty f.d o else .ok x) q.1 q.2).isOk = true := by
  decide +kernel

theorem wit_WaitsAndBarriers :
    (let s := aimed one 0 0x10400
     let f := { m .b32 (v 5) (v 8) z (v 4) 0 with order := 1, scope := 3 }
     ∃ i ∈ s.iss?, i.clear s (viewWaitf f) = true ∧ ∃ p ∈ okOf (waitCheck (s.begun i (viewWaitf f)) i 0x10400 4),
       ∀ l ∈ i.lanes (i.en (viewWaitf f)), mAddr (s.begun i (viewWaitf f)) i f 2 l = .ok 0x10400 ∧
         rdT (s.begun i (viewWaitf f)) i l .b32 (v 4) = .ok 0 ∧ waitCheck (s.begun i (viewWaitf f)) i 0x10400 4 = .ok p ∧
         (s.begun i (viewWaitf f)).placePoison i.sess p 4 = false) ∧
    readyFor one (fun _ => viewBar (r .b32 z z z z)) = true ∧ readyFor leads (fun _ => viewBar (r .b32 z z z z)) = true := by
  decide +kernel

/-- A lane in a transaction; a lane that has aborted eight times, with the token free and held. -/
def inTxn : State := onLane one 0 fun x => { x with txn := { x.txn with active := true, target := 0x10000 } }
def tried (t : Option LaneRef) : State :=
  { onLane one 0 (fun x => { x with txn := { x.txn with aborts := 8 } }) with sessions := [{ placedSession with tokenHolder := t }] }

theorem wit_Transactions :
    (∃ i ∈ one.iss?, i.clear one (viewXbegin (br z 0 0 0)) = true ∧ ∀ l ∈ i.lanes (i.en (viewXbegin (br z 0 0 0))),
      checkTarget (one.begun i (viewXbegin (br z 0 0 0))) i l false (directTarget i.pc 0 0 0) = .ok () ∧
      (i.group.lane i.band l).txn.active = false ∧ (i.group.lane i.band l).txn.aborts ≠ 8) ∧
    (∃ i ∈ inTxn.iss?, (i.group.lane i.band 0).txn.active = true) ∧
    (∀ t ∈ [none, some ⟨1, 0, 7⟩], ∃ i ∈ (tried t).iss?, (i.group.lane i.band 0).txn.active = false ∧ (i.group.lane i.band 0).txn.aborts = 8 ∧
      ∃ y ∈ (tried t).session? i.sess.slot, y.tokenHolder = t ∧ y.tokenQueue = []) ∧
    (∃ i ∈ inTxn.iss?, i.clear inTxn (viewXend (r .b32 z z z z)) = true ∧ i.group.ver = none ∧
      ∀ l ∈ i.lanes (i.en (viewXend (r .b32 z z z z))), (i.group.lane i.band l).txn.active = true ∧
        (inTxn.begun i (viewXend (r .b32 z z z z))).heldFrom i.group (i.self l) (txnOf (inTxn.begun i (viewXend (r .b32 z z z z))) i l).wset = false ∧
        (txnOf (inTxn.begun i (viewXend (r .b32 z z z z))) i l).serial = false) ∧
    (∃ i ∈ inTxn.iss?, i.clear inTxn (viewXabort (r .b32 z z (v 8) z)) = true ∧ ∀ l ∈ i.lanes (i.en (viewXabort (r .b32 z z (v 8) z))),
      (i.group.lane i.band l).txn.active = true ∧ rd1 (inTxn.begun i (viewXabort (r .b32 z z (v 8) z))) i l (v 8) = .ok 0) := by
  decide +kernel

/-- The stores of `wit_Stores` complete, at an address outside the stored bytes. -/
theorem wit_StoreFrame : ∀ ins ∈ ([.st (m .b32 z (v 8) z (v 4) 0), .stB8 (m .b32 z (v 8) z (v 4) 0), .stB16 (m .b32 z (v 8) z (v 4) 0)] : List Instr),
    after ins (aimed one 0 0x10400) (fun t => spGet t.phys.bytes 0x10404) = some 0 := by
  decide +kernel

theorem wit_ForwardAndBackQueues :
    (∀ row ∈ [false, true], ∀ all ∈ [false, true], ∃ i ∈ leads.iss?, i.clear leads (viewPushf (r .b32 z (g 32) (if all then z else g 2) z) row all) = true ∧
      (i.gReg 2).toNat % 32 < i.group.bands.length ∧ i.group.anyFull (if all then i.group.allBands else maskOf (· == (i.gReg 2).toNat % 32)) = false) ∧
    (let s := on one fun g => g.modBand 0 fun b => { b with fq := [List.replicate 32 7] }
     ∃ i ∈ s.iss?, i.clear s (viewPopf (r .b32 (v 4) z z z)) = true ∧ i.bandOf.fq = [List.replicate 32 7] ∧
       (foldE (fun u l => wrT u i l .b32 (v 4) ((List.replicate 32 (7 : Dword)).getD l 0).toNat)
         ((s.begun i (viewPopf (r .b32 (v 4) z z z))).modGroupOn i.core i.group.gid fun g => g.modBand i.band fun b => { b with fq := [] })
         (i.lanes (i.en (viewPopf (r .b32 (v 4) z z z))))).isOk = true) ∧
    (∃ i ∈ lanes2.iss?, i.clear lanes2 (viewPushb (r .b32 z (v 4) z z)) = true ∧
      (∀ l ∈ lanesOf (i.en (viewPushb (r .b32 z (v 4) z z))), rdT (lanes2.begun i (viewPushb (r .b32 z (v 4) z z))) i l .b32 (v 4) = .ok 0) ∧
      i.group.bq.length + (lanesOf (i.en (viewPushb (r .b32 z (v 4) z z)))).length ≤ 64) ∧
    (let s := on leads fun g => { g with bq := [(5, 0, 31)] }
     ∃ i ∈ s.iss?, i.clear s (viewPopb (r .b32 (g 4) z z z)) = true ∧ i.group.bq = [(5, 0, 31)]) := by
  decide +kernel

/-- The stream of the column sum (the example of 10 R225). -/
def streaming : State := putG leads [(0, 0x4000 * 2 ^ 48), (1, 0x0001000100030020), (2, 0x10000000004), (4, 0x80)]

theorem wit_StreamAndEngineCommands_streams :
    (∃ i ∈ streaming.iss?, i.clear streaming (viewStream (r .b32 z (g 0) z z) true) = true ∧
      (let x := streamOf (i.gReg 0) (i.gReg 1) (i.gReg 2) (i.gReg 3) (i.gReg 4)
       x.n0 = 32 ∧ x.n1 = 3 ∧ x.n2 = 1 ∧ x.n3 = 1 ∧ bitsOf (i.gReg 4).toNat 63 16 = 0 ∧ bitsOf (i.gReg 4).toNat 5 0 = 0 ∧
       x.band < i.group.bands.length ∧ (i.group.stream 0).running = false)) ∧
    (let s := on leads fun g => g.modStream 1 fun _ => streamOf 0 0x1000100030020 0 0 0x80
     ∃ i ∈ s.iss?, i.clear s (viewStream (r .b32 z z z (v 1)) false) = true ∧ (i.group.stream 1).configured = true ∧
       (i.group.stream 1).running = false) := by
  decide +kernel

theorem wit_StreamAndEngineCommands_engines : (∀ ins ∈ ([.engCopy (e (v 4) (v 8) z true), .engFill (e z (v 8) z false), .engGsubmit (e (v 4) (v 8) z true),
      .engGsignal (e z (v 8) z false), .engGwatch (e (v 4) (v 8) (v 10) true), .engDappend (e (v 4) (v 8) (v 10) true),
      .engDdrain (e (v 4) (v 8) (v 10) true)] : List Instr),
    ∃ i ∈ lanes2.iss?, ∃ o ∈ engOp ins, i.clear lanes2 o.view = true ∧
      (∀ l ∈ i.lanes (i.en o.view), rd2 (lanes2.begun i o.view) i l o.f.a = .ok 0 ∧
        (if o.hasB then rd1 (lanes2.begun i o.view) i l o.f.b = .ok 0 else (0 : Word) = 0)) ∧
      (lanes2.begun i o.view).inFlight i.core + (i.lanes (i.en o.view)).length ≤ 64) ∧
    (∀ ins ∈ ([.engAllreduce (e (v 4) (v 8) z true), .engAllgather (e (v 4) (v 8) z true), .engBcast (e (v 4) (v 8) z true)] : List Instr),
    ∃ i ∈ one.iss?, ∃ c ∈ collOp ins, i.clear one (viewColl c.2) = true ∧ i.lanes (i.en (viewColl c.2)) = [0] ∧
      (let t := (one.begun i (viewColl c.2)).modGroupOn i.core i.group.gid fun g => { g with collectives := i.group.collectives + 1 }
       rd2 t i 0 c.2.a = .ok 0 ∧ t.inFlight i.core + 1 ≤ 64)) := by
  decide +kernel

/-- A whole band, and a session whose tensor 9 is a 2 by 1 FP32 matrix of E4M3 or FP32 elements at 0x10400. -/
def entry (fmt size0 size1 : Nat) : Nat :=
  1 + 8 * fmt + 2 ^ 168 * 16 + 2 ^ 288 * size0 + 2 ^ 320 * size1 + 2 ^ 352 + 2 ^ 384 + 0x10400 * 2 ^ 464
def whole (fmt size0 size1 : Nat) : State :=
  { small (.lanes 0 0xFFFFFFFF) with sessions := [{ placedSession with tensors := [(9, BitVec.ofNat 512 (entry fmt size0 size1))] }] }
def wide : State := whole 2 2 1
def opened : State := on wide fun g => { g with opens := 0x4000 }

theorem test_entry : entryOk (entry 2 2 1) = true ∧ entryOk (entry 12 2 1) = true := by decide +kernel

theorem wit_MatrixQueues :
    (∀ shd ∈ [false, true], ∃ i ∈ wide.iss?, i.clear wide (viewMzero (tn 0 0 z 14 0 shd)) = true ∧ (selectTile i 14 shd).toOption.isSome = true) ∧
    (∀ s ∈ [wide, opened], ∃ i ∈ s.iss?, i.clear s (viewResolve (tn 0 0 z 14 0 false)) = true ∧ 14 + 16 < i.launch.desc.acc) ∧
    (∃ i ∈ wide.iss?, i.group.opens = 0) ∧ (∃ i ∈ opened.iss?, i.group.opens = 0x4000) := by
  decide +kernel

theorem wit_MatrixQueues_mma :
    (∃ i ∈ wide.iss?, i.clear wide (viewMma (tn 9 0 (g 40) 30 15 false)) = true ∧ i.bandOf.frags = [] ∧ i.active = BitVec.allOnes 32 ∧
      ((wide.begun i (viewMma (tn 9 0 (g 40) 30 15 false))).core i.core).mqueue.length < 8 ∧
      ∃ e ∈ okOf (tensor i 9), teFmt e = 2 ∧ 15 < i.launch.desc.slots ∧ (slotAt i 15).hasRecord = false ∧ (slotAt i 15).loading = false ∧
        (i.gReg 40).toNat = 0 ∧ selectTile i 30 false = .ok (30, 30, false) ∧ teStride e 1 = 16 ∧ i.group.scratchBytes = 262144 ∧ 16 * 31 + 128 ≤ 262144) := by
  decide +kernel

theorem wit_MatrixLoadsAndDrains :
    (∃ i ∈ wide.iss?, i.clear wide (viewMloadb (tn 0 9 (g 40) 0 15 false)) = true ∧ i.bandOf.frags = [] ∧ i.active = BitVec.allOnes 32 ∧
      ∃ e ∈ okOf (tensor i 9), teFmt e = 2 ∧ coords i 40 = (0, 0, 0, 0) ∧ 0 < teSize e 2 ∧ 0 < teSize e 3 ∧
        ((wide.begun i (viewMloadb (tn 0 9 (g 40) 0 15 false))).core i.core).slotsFree i.group (slotsChanged i.group 2 15) = true ∧
        (slotData (wide.begun i (viewMloadb (tn 0 9 (g 40) 0 15 false))) i e 0 0 0 0).toOption.isSome = true) ∧
    (∀ fm ∈ [2, 12], ∃ i ∈ (whole fm 2 1).iss?, i.clear (whole fm 2 1) (viewMdrain (tn 9 0 (g 40) 30 0 false)) = true ∧
      ∃ e ∈ okOf (tensor i 9), tfSpan (teFmt e) = 0 ∧ 30 < i.launch.desc.acc ∧ coords i 40 = (0, 0, 0, 0) ∧ (i.gReg 42).toNat = 0 ∧
        ∃ q ∈ okOf (drainPrepare ((whole fm 2 1).begun i (viewMdrain (tn 9 0 (g 40) 30 0 false))) i e e 0 0 0 0 2),
          (q.1.core i.core).mqueue.length < 8 ∧ q.2.length = 2) := by
  decide +kernel

theorem wit_TensorTable :
    (let s := putG (mem wide 0x10440 ((toLE 64 (entry 2 2 1)).map (·.toNat))) [(9, 0x10440)]
     ∃ i ∈ s.iss?, i.clear s (viewTtld (r .b32 (v 255) (g 9) z z)) = true ∧ i.launch.desc.versioned = false ∧
       ∃ p ∈ okOf (ttPlace (s.begun i (viewTtld (r .b32 (v 255) (g 9) z z))) i .read (i.gReg 9)),
         entryOk (leNat ((s.begun i (viewTtld (r .b32 (v 255) (g 9) z z))).bytesAt i.sess i.group.gid p 64)) = true) ∧
    (let s := putG wide [(9, 0x10440)]
     ∃ i ∈ s.iss?, i.clear s (viewTtst (r .b32 z (g 9) (v 255) z)) = true ∧
       ∃ p ∈ okOf (ttPlace (s.begun i (viewTtst (r .b32 z (g 9) (v 255) z))) i .write (i.gReg 9)),
         ∃ q ∈ okOf (prepareStore (s.begun i (viewTtst (r .b32 z (g 9) (v 255) z))) i { acc := .write, aligned := true, types := matTypes } 64
           [{ lane := 0, ea := i.gReg 9, place := p }]), q.2.length = 1) ∧
    (∃ i ∈ wide.iss?, i.clear wide (viewTtinv (r .b32 (v 9) z z z)) = true ∧ i.bandOf.frags = [] ∧ i.active = BitVec.allOnes 32 ∧
      i.launch.desc.versioned = false) := by
  decide +kernel

/-- Each reservoir instruction is ready with its operands readable, and every element of its result can be written. -/
theorem wit_Reservoirs :
    readyFor one (fun _ => viewRsvinit (r .f32 (v 7) z z z)) = true ∧ readyFor one (fun _ => viewRsvfin (r .f32 (v 7) z z z)) = true ∧
    (∃ i ∈ one.iss?, i.clear one (viewRsvseed (r .b64 (v 7) (v 8) (v 10) z)) = true ∧
      ∀ l ∈ i.lanes (i.en (viewRsvseed (r .b64 (v 7) (v 8) (v 10) z))),
        rd2 (one.begun i (viewRsvseed (r .b64 (v 7) (v 8) (v 10) z))) i l (v 8) = .ok 0 ∧
        rd1 (one.begun i (viewRsvseed (r .b64 (v 7) (v 8) (v 10) z))) i l (v 10) = .ok 0) ∧
    (∃ i ∈ one.iss?, i.clear one (viewRsvupd (r .f32 (v 1) (v 4) (v 6) (v 7))) = true ∧
      ∀ l ∈ i.lanes (i.en (viewRsvupd (r .f32 (v 1) (v 4) (v 6) (v 7)))),
        rd2 (one.begun i (viewRsvupd (r .f32 (v 1) (v 4) (v 6) (v 7)))) i l (v 4) = .ok 0 ∧
        rd1 (one.begun i (viewRsvupd (r .f32 (v 1) (v 4) (v 6) (v 7)))) i l (v 6) = .ok 0 ∧
        rd1 (one.begun i (viewRsvupd (r .f32 (v 1) (v 4) (v 6) (v 7)))) i l (v 7) = .ok 0) ∧
    (∃ i ∈ one.iss?, i.clear one (viewRsvmrg (r .f32 (v 1) (v 2) (v 6) (v 7))) = true ∧
      ∀ l ∈ i.lanes (i.en (viewRsvmrg (r .f32 (v 1) (v 2) (v 6) (v 7)))),
        rd1 (one.begun i (viewRsvmrg (r .f32 (v 1) (v 2) (v 6) (v 7)))) i l (v 6) = .ok 0 ∧
        rd1 (one.begun i (viewRsvmrg (r .f32 (v 1) (v 2) (v 6) (v 7)))) i l (v 7) = .ok 0) ∧
    (∀ x ∈ [RsvField.payload, .wsum, .phat, .w, .m, .dctr], ∃ i ∈ one.iss?, i.clear one (viewRsvget x (r .b64 (v 4) (v 1) z z)) = true ∧
      (foldE (fun u l => wrT u i l .b64 (v 4) ((rsvOf i l (v 1)).get x)) (one.begun i (viewRsvget x (r .b64 (v 4) (v 1) z z)))
        (i.lanes (i.en (viewRsvget x (r .b64 (v 4) (v 1) z z))))).isOk = true) ∧
    (∀ x ∈ [RsvField.payload, .wsum, .phat, .w, .m, .dctr], ∃ i ∈ one.iss?, i.clear one (viewRsvput x (r .b64 (v 1) (v 4) z z)) = true ∧
      ∀ l ∈ i.lanes (i.en (viewRsvput x (r .b64 (v 1) (v 4) z z))), rdT (one.begun i (viewRsvput x (r .b64 (v 1) (v 4) z z))) i l .b64 (v 4) = .ok 0) := by
  decide +kernel

theorem wit_CompositingResults :
    readyFor one (fun _ => viewCaflush (r .f32 (v 1) z z z)) = true ∧
    (∃ i ∈ one.iss?, i.clear one (viewCainit (r .f32 (v 1) (v 4) z z)) = true ∧ ∀ l ∈ i.lanes (i.en (viewCainit (r .f32 (v 1) (v 4) z z))),
      rd1 (one.begun i (viewCainit (r .f32 (v 1) (v 4) z z))) i l (v 4) = .ok 0) ∧
    (∃ i ∈ one.iss?, i.clear one (viewCaadd (r .f32 z (v 4) (v 8) z)) = true ∧ ∀ l ∈ i.lanes (i.en (viewCaadd (r .f32 z (v 4) (v 8) z))),
      rd1 (one.begun i (viewCaadd (r .f32 z (v 4) (v 8) z))) i l (v 4) = .ok 0 ∧
      rdRun (one.begun i (viewCaadd (r .f32 z (v 4) (v 8) z))) i l (v 8) 4 = .ok [0, 0, 0, 0]) ∧
    (∃ i ∈ one.iss?, i.clear one (viewCaresolve (r .f32 (v 4) (v 1) z z)) = true ∧
      (foldE (fun u l =>
        let q := (compOf i l (v 1)).flush i.launch.desc.compThr (hasRecord i l (v 1))
        wrRun (logComp i l (v 1) u q) i l (v 4) 0 [q.1.cr, q.1.cg, q.1.cb, q.1.t]) (one.begun i (viewCaresolve (r .f32 (v 4) (v 1) z z)))
        (i.lanes (i.en (viewCaresolve (r .f32 (v 4) (v 1) z z))))).isOk = true) ∧
    (∃ i ∈ one.iss?, i.clear one (viewCareplay (r .f32 (v 4) (v 1) (v 12) z)) = true ∧
      (∀ l ∈ i.lanes (i.en (viewCareplay (r .f32 (v 4) (v 1) (v 12) z))),
        rdRun (one.begun i (viewCareplay (r .f32 (v 4) (v 1) (v 12) z))) i l (v 12) 4 = .ok [0, 0, 0, 0]) ∧
      (foldE (fun u l => wrRun u i l (v 4) 0 ((compOf i l (v 1)).replay 0 [0, 0, 0] 0).2) (one.begun i (viewCareplay (r .f32 (v 4) (v 1) (v 12) z)))
        (i.lanes (i.en (viewCareplay (r .f32 (v 4) (v 1) (v 12) z))))).isOk = true) ∧
    (∃ i ∈ one.iss?, i.clear one (viewCastat (r .f32 (v 4) (v 1) z z)) = true ∧
      (foldE (fun u l => wr1 u i l .f32 (v 4) (BitVec.ofNat 32 (compOf i l (v 1)).stat)) (one.begun i (viewCastat (r .f32 (v 4) (v 1) z z)))
        (i.lanes (i.en (viewCastat (r .f32 (v 4) (v 1) z z))))).isOk = true) := by
  decide +kernel

/-- A launch of work source 2, and one whose list 0 holds an item. -/
def dynamic : State := { one with launches := [{ placedLaunch with desc := { placedDesc with workSource := 2 } }] }
def listing (quiescent : Bool) : State := { one with launches := [{ placedLaunch with quiescent := quiescent }] }

theorem wit_WorkRequests :
    (let s := put one 0 [(8, 16), (9, 0x40000000)]
     ∃ i ∈ s.iss?, i.clear s (viewFetchwk (m .b32 z (v 8) z z 0)) = true ∧ i.launch.desc.versioned = false ∧
       ∀ l ∈ i.lanes (i.en (viewFetchwk (m .b32 z (v 8) z z 0))),
         mAddr (s.begun i (viewFetchwk (m .b32 z (v 8) z z 0))) i (m .b32 z (v 8) z z 0) 0 l = .ok 0x4000000000000010 ∧
         mailbox i 0x4000000000000010 = .ok 16) ∧
    (∃ i ∈ dynamic.iss?, i.clear dynamic (viewPqpush (r .b32 (v 4) (v 8) (v 10) z)) = true ∧ i.launch.desc.workSource = 2 ∧
      (∀ l ∈ i.lanes (i.en (viewPqpush (r .b32 (v 4) (v 8) (v 10) z))),
        rd1 (dynamic.begun i (viewPqpush (r .b32 (v 4) (v 8) (v 10) z))) i l (v 8) = .ok 0 ∧
        rd1 (dynamic.begun i (viewPqpush (r .b32 (v 4) (v 8) (v 10) z))) i l (v 10) = .ok 0) ∧
      (foldE (fun (t : State) l => wr1 { t with pq := t.pq ++ [⟨dieOf i.core, i.sess.slot, i.launch.number, 0, 0⟩] } i l .b32 (v 4) (replyWord 1 0))
        (dynamic.begun i (viewPqpush (r .b32 (v 4) (v 8) (v 10) z))) (i.lanes (i.en (viewPqpush (r .b32 (v 4) (v 8) (v 10) z))))).isOk = true) ∧
    (∃ i ∈ dynamic.iss?, i.clear dynamic (viewPqpop (r .b32 (v 6) z z (v 2))) = true ∧ i.launch.desc.workSource = 2 ∧ i.launch.desc.versioned = false) ∧
    (∃ i ∈ one.iss?, i.clear one (viewWlpush (r .b32 (v 4) (v 8) (v 10) z)) = true ∧
      ∀ l ∈ i.lanes (i.en (viewWlpush (r .b32 (v 4) (v 8) (v 10) z))), rd1 (one.begun i (viewWlpush (r .b32 (v 4) (v 8) (v 10) z))) i l (v 8) = .ok 0 ∧
        itemOf (one.begun i (viewWlpush (r .b32 (v 4) (v 8) (v 10) z))) i l (v 10) = .ok [0, 0, 0, 0]) ∧
    (∃ i ∈ one.iss?, i.clear one (viewWlpop (r .b32 (v 4) (v 8) z z)) = true ∧ i.launch.desc.versioned = false ∧
      ∀ l ∈ i.lanes (i.en (viewWlpop (r .b32 (v 4) (v 8) z z))), rd1 (one.begun i (viewWlpop (r .b32 (v 4) (v 8) z z))) i l (v 8) = .ok 0) ∧
    (∀ q ∈ [false, true], ∃ i ∈ (listing q).iss?, i.clear (listing q) (viewQuiesce (r .b32 (v 4) z z z)) = true ∧ i.launch.desc.versioned = false ∧
      i.launch.quiescent = q ∧ i.launch.lists = []) := by
  decide +kernel

/-- A 1 by 1 texture at 0x10000, nearest and never streamed, and a state word of an atlas; an acceleration structure. -/
def texturing : State :=
  { putG (mem (mem one 0x10880 ([0, 0, 1] ++ List.replicate 5 0 ++ [1, 0, 1, 0, 1, 0, 0, 0] ++ [0, 8, 1] ++ List.replicate 21 0 ++ [0, 0xC, 1]))
      0x10C00 [2]) [(8, 0x10880), (9, 0x10900)] with
    launches := [{ placedLaunch with desc := { placedDesc with outputs := 1 } }] }
def structured : State := mem texturing 0x10900 ([0, 0x9, 1] ++ List.replicate 5 0 ++ [0, 0xA, 1] ++ List.replicate 5 0 ++ [16])
def rayed : State := onLane structured 0 fun x =>
  { x with rays := [⟨0, [], 0, 0, 0, 16, some .miss⟩] }

theorem wit_TexturesAndRays_textures :
    (∀ w ∈ [false, true], ∃ i ∈ texturing.iss?, i.clear texturing (viewTex (r .b32 (v 4) (v 12) (g 8) (v 1))) = true ∧
      ∃ d ∈ okOf (readDesc (texturing.begun i (viewTex (r .b32 (v 4) (v 12) (g 8) (v 1)))) i 1 (g 8)), texOk d = true ∧
        (∀ l ∈ i.lanes (i.en (viewTex (r .b32 (v 4) (v 12) (g 8) (v 1)))),
          rdRun (texturing.begun i (viewTex (r .b32 (v 4) (v 12) (g 8) (v 1)))) i l (v 12) 3 = .ok [0, 0, 0]) ∧
        (match texLane (texturing.begun i (viewTex (r .b32 (v 4) (v 12) (g 8) (v 1)))) i (texOf d) w 0 0 0 with
          | .ok (.done _ b ps as) => !b && ps.isEmpty && as == [0x10000]
          | _ => false) = true) ∧
    (∃ i ∈ texturing.iss?, i.clear texturing (viewTld (r .b32 (v 4) (v 12) (g 8) z)) = true ∧
      ∃ d ∈ okOf (readDesc (texturing.begun i (viewTld (r .b32 (v 4) (v 12) (g 8) z))) i 1 (g 8)), texOk d = true ∧
        (match tldLane (texturing.begun i (viewTld (r .b32 (v 4) (v 12) (g 8) z))) i (texOf d) 0 0 0 with
          | .ok (.done _ _ ps as) => ps.isEmpty && as == [0x10000]
          | _ => false) = true) := by
  decide +kernel

theorem wit_TexturesAndRays_rays :
    (∃ i ∈ structured.iss?, i.clear structured (viewRayq (r .b32 (v 4) (v 12) (g 9) (v 20))) = true ∧
      ∃ d ∈ okOf (readDesc (structured.begun i (viewRayq (r .b32 (v 4) (v 12) (g 9) (v 20)))) i 1 (g 9)), accelOk d = true ∧
        ∀ l ∈ i.lanes (i.en (viewRayq (r .b32 (v 4) (v 12) (g 9) (v 20)))),
          rdRun (structured.begun i (viewRayq (r .b32 (v 4) (v 12) (g 9) (v 20)))) i l (v 12) 8 = .ok [0, 0, 0, 0, 0, 0, 0, 0] ∧
          rd1 (structured.begun i (viewRayq (r .b32 (v 4) (v 12) (g 9) (v 20)))) i l (v 20) = .ok 0 ∧
          freeHandle (i.group.lane i.band l) = some 0) ∧
    (∃ i ∈ rayed.iss?, i.clear rayed (viewRayres (r .b32 (v 4) (v 12) z z)) = true ∧
      ∀ l ∈ i.lanes (i.en (viewRayres (r .b32 (v 4) (v 12) z z))),
        rd1 (rayed.begun i (viewRayres (r .b32 (v 4) (v 12) z z))) i l (v 12) = .ok 0 ∧
        (i.group.lane i.band l).rays.find? (fun r => r.handle == 0) = some ⟨0, [], 0, 0, 0, 16, some .miss⟩) := by
  decide +kernel

theorem wit_RecordsAndRequests :
    (∀ size ∈ [16, 1024], ∃ i ∈ (putG one [(8, size * 65536)]).iss?, i.clear (putG one [(8, size * 65536)]) (viewEmit (r .b32 (v 4) (v 12) (g 8) z)) = true ∧
      (i.gReg 8).toNat = size * 65536 ∧ ∀ l ∈ i.lanes (i.en (viewEmit (r .b32 (v 4) (v 12) (g 8) z))),
        rd1 ((putG one [(8, size * 65536)]).begun i (viewEmit (r .b32 (v 4) (v 12) (g 8) z))) i l (v 12) = .ok 0 ∧ recordPlace i size 0 = .ok 0) ∧
    (let f := r .b32 (v 4) (v 12) (g 8) z
     ∃ i ∈ texturing.iss?, i.clear texturing (viewAtlasreq f) = true ∧ i.launch.desc.versioned = false ∧
      ∃ d ∈ okOf (readDesc (texturing.begun i (viewAtlasreq f)) i 1 (g 8)), texOk d = true ∧ fld d 52 16 < i.launch.desc.outputs ∧
        fld d 40 64 = 0x10C00 ∧ (texOf d).w = 1 ∧ (texOf d).h = 1 ∧ fld d 48 32 = 0 ∧
        ∃ as ∈ okOf (checkAll (texturing.begun i (viewAtlasreq f)) i { acc := .atomic, aligned := true, types := atomTypes } 4 [(0, 0x10C00)]),
          ∃ q ∈ okOf (prepareStore (texturing.begun i (viewAtlasreq f)) i { acc := .atomic, aligned := true, types := atomTypes } 4 as),
            ((atlasAll f i [(0, some ⟨0, i.launch.desc.outBase, 0x10C00, 0⟩)] q.1 false).isOk) = true) := by
  decide +kernel

theorem wit_SoftwareTrapsAndSpecialRegisters :
    readyFor one (fun _ => viewTrap (im .b32 z z 0xFFFF)) = true ∧ readyFor one (fun _ => viewBrkpt (r .b32 z z z z)) = true ∧
    (∀ n ∈ [0x000, 0x011, 0x012], ∃ i ∈ one.iss?, i.clear one (viewRdsr (im .b32 (v 4) z n) i.lead) = true ∧
      (foldE (fun (u : State) l =>
        let x := readSr (one.begun i (viewRdsr (im .b32 (v 4) z n) i.lead)) i l n 0
        if srWide n then wr2 u i l (v 4) (BitVec.ofNat 64 x) else wr1 u i l .b32 (v 4) (BitVec.ofNat 32 x))
        (one.begun i (viewRdsr (im .b32 (v 4) z n) i.lead)) (i.lanes (i.en (viewRdsr (im .b32 (v 4) z n) i.lead)))).isOk = true) ∧
    (∃ i ∈ one.iss?, i.clear one (viewWrsr (im .b32 z (v 8) 0x011)) = true ∧ srPriv 0x011 = false ∧ srWide 0x011 = false ∧ srLimit 0x011 0 = true ∧
      ∀ l ∈ i.lanes (i.en (viewWrsr (im .b32 z (v 8) 0x011))),
        (rd1 (one.begun i (viewWrsr (im .b32 z (v 8) 0x011))) i l (v 8)).map (·.toNat) = .ok 0) ∧
    (∃ i ∈ one.iss?, i.clear one (viewWrsr (im .b32 z (v 8) 0x201)) = true ∧ srPriv 0x201 = true ∧
      ∀ l ∈ i.lanes (i.en (viewWrsr (im .b32 z (v 8) 0x201))), srLimit 0x201 0 = true ∧
        (if srWide 0x201 then (rd2 (one.begun i (viewWrsr (im .b32 z (v 8) 0x201))) i l (v 8)).map (·.toNat) = .ok 0
         else (rd1 (one.begun i (viewWrsr (im .b32 z (v 8) 0x201))) i l (v 8)).map (·.toNat) = .ok 0)) := by
  decide +kernel

/-- Lane 0 in a handler. -/
def frame0 : TrapFrame := { k := 2, fpflags := 0, base := 0, size := 552, pc := 0x10000, code := 0x0F, lanes := 1, rep := none }
def handling : State := onLane one 0 fun x => { x with base := 552, size := 32, frame := some frame0 }

theorem wit_HandlerReturns : ∃ i ∈ handling.iss?, i.clear handling (viewTret (r .b32 z (v 8) z z)) = true ∧ i.lead = false ∧
    (∀ l ∈ lanesOf (i.en (viewTret (r .b32 z (v 8) z z))), (i.bandOf.lane l).frame = some frame0 ∧
      (rd1 (handling.begun i (viewTret (r .b32 z (v 8) z z))) i l (v 8)).map (·.toNat) = .ok 0) ∧
    (∀ l ∈ lanesOf (handled i.bandOf 0), (i.bandOf.lane l).frame = some frame0 ∧
      ((okOf (tretFill (handling.begun i (viewTret (r .b32 z (v 8) z z))) i l frame0)).any fun q => q.1 == l &&
        q.2.1 == (i.group.lane i.band l).base + (i.group.lane i.band l).size && q.2.2.1 == frame0 && q.2.2.2 == (0, [])) = true) := by
  decide +kernel

theorem wit_PrivilegedServices :
    (∃ i ∈ one.iss?, i.clear one (viewTlbinv (r .b32 z (v 8) (v 10) z)) = true ∧ ∀ l ∈ i.lanes (i.en (viewTlbinv (r .b32 z (v 8) (v 10) z))),
      rd2 (one.begun i (viewTlbinv (r .b32 z (v 8) (v 10) z))) i l (v 8) = .ok 0 ∧
      rd1 (one.begun i (viewTlbinv (r .b32 z (v 8) (v 10) z))) i l (v 10) = .ok 0) ∧
    (∃ i ∈ one.iss?, i.clear one (viewCflush (r .b32 z (v 8) (v 10) z)) = true ∧ ∀ l ∈ i.lanes (i.en (viewCflush (r .b32 z (v 8) (v 10) z))),
      rd2 (one.begun i (viewCflush (r .b32 z (v 8) (v 10) z))) i l (v 8) = .ok 0 ∧
      rd1 (one.begun i (viewCflush (r .b32 z (v 8) (v 10) z))) i l (v 10) = .ok 0) ∧
    (∃ i ∈ one.iss?, i.clear one (viewFork (r .b32 (v 4) (v 8) (v 10) z)) = true ∧ (∀ l ∈ i.lanes (i.en (viewFork (r .b32 (v 4) (v 8) (v 10) z))),
      rd2 (one.begun i (viewFork (r .b32 (v 4) (v 8) (v 10) z))) i l (v 8) = .ok 0 ∧
      rd1 (one.begun i (viewFork (r .b32 (v 4) (v 8) (v 10) z))) i l (v 10) = .ok 0) ∧
      (foldE (fun (u : State) l => wr1 (u.fork i.sess 0 0).1 i l .b32 (v 4) (u.fork i.sess 0 0).2)
        (one.begun i (viewFork (r .b32 (v 4) (v 8) (v 10) z))) (i.lanes (i.en (viewFork (r .b32 (v 4) (v 8) (v 10) z))))).isOk = true) := by
  decide +kernel

/-! #### Events of the cores and of the distributor -/

def onCore (s : State) (f : Core → Core) : State := s.modCore 0 f
def onSess (s : State) (f : Session → Session) : State := s.modSession 0 f
def onLaunch (s : State) (f : Launch → Launch) : State := s.modLaunch 0 1 f

/-- Slot 0 between two runs; and a lane with two spilled positions, whose band waits for its stores, in a session whose register stack
is at 0x10000. -/
def idling : State := onCore one fun c => { c with slots := Core.init.slots }
def starting : State :=
  onSess (on (onLane one 0 fun x => { x with lo := 2 }) fun g => g.modBand 0 fun b => { b with started := false }) fun x => { x with rsBase := 0x10000 }

/-- Lane 0 pops an empty queue that nothing will fill; lane 0 has reached the REJOIN of its one lane. -/
def popping : State := onLane (on one fun g => { g with lead := { g.lead with status := .exited } }) 0 fun x => { x with wait := .fqPop }
def parkedAlone : State := onLane one 0 fun x => { x with status := .parked 1 }

theorem wit_CoreEvents_run :
    (∃ x ∈ (idling.core 0).slots[0]?, x.run = none ∧ (idling.core 0).mayIssue = true ∧
      ∃ e ∈ argMin (fun (e : Nat × Nat × Band) => e.2.2.turnKey)
        (((idling.core 0).eligible 0).filter fun (e : Nat × Nat × Band) => (idling.anyGroup e.1).any idling.together),
        (broadcast e.2.2.lastRun (e.2.2.waitingPcs x e.1 e.2.1)) = some 0x10000) ∧
    (one.unit? { core := 0, rgs := 0, who := .lanes 0 1 }).isSome = true ∧ (leads.unit? { core := 0, rgs := 0, who := .lead }).isSome = true := by
  decide +kernel

theorem wit_CoreEvents_spill :
    ∃ g ∈ starting.groupAt? 0 0, ∃ b ∈ g.bands[0]?, b.started = false ∧ (maskOf fun l => (b.lane l).status != .tail).getLsbD 0 = true ∧
      ∃ i ∈ starting.issOf 0 g.gid (.lanes 0 (maskOf fun l => (b.lane l).status != .tail)),
        (foldE (fun (t : State) (l : Nat) => foldE (fun u p => areaStore u i l (BitVec.ofNat 64 (stackAddr i.sess b p l)) (toLE 4 0)) t
          (List.range (b.lane l).lo)) starting (lanesOf (maskOf fun l => (b.lane l).status != .tail))).isOk = true := by
  decide +kernel

theorem wit_CoreEvents_traps :
    (∃ g ∈ popping.groupAt? 0 0, g.phase = .running ∧ ∃ e ∈ g.queueTrouble, e.2 = 1 ∧ (popping.issOf 0 g.gid e.1).isSome = true) ∧
    (∃ g ∈ parkedAlone.groupAt? 0 0, ∃ b ∈ g.bands[0]?, b.released ≠ 0) := by
  decide +kernel

/-- A running stream that loads 40 words at 0x10400. -/
def streams : State := on one fun g => g.modStream 0 fun _ => { streamOf 0x10400 0x1000100010028 4 0 0x80 with running := true, status := .running }

theorem wit_StreamsBarriersWaits_streams :
    ∃ g ∈ streams.groupAt? 0 0, (g.stream 0).running = true ∧ (g.stream 0).status = .running ∧ g.phase = .running ∧
      g.anyFull ((g.stream 0).targets g) = false ∧ ∃ i ∈ streams.issOf 0 g.gid (.stream 0),
        (streamFill i 32 streams (g.stream 0)).2.2 = none ∧ (streamFill i 32 streams (g.stream 0)).2.1.row.length = 32 := by
  decide +kernel

/-- Every lane waits at the first group barrier, and the lead stream has ended. -/
def meeting : State := on one fun g =>
  { g with
    lead := { g.lead with status := .exited }
    bands := g.bands.map fun b => { b with lanes := b.lanes.map fun x => { x with barGrp := 1, barClu := 1, wait := .barrier true 1 } } }
def waiting (c : WCond) : State := onLane (mem one 0x10400 [5]) 0 fun x => { x with wait := .waitf c false 0x10400 5 1 (v 4) false 0 none }
def broken : State := onLane one 0 fun x => { x with txn := { x.txn with active := true, doomed := true } }
def token1 : State := onSess (onLane one 0 fun x => { x with wait := .token }) fun x => { x with tokenQueue := [⟨1, 0, 0⟩] }

theorem wit_StreamsBarriersWaits_barriers :
    (∃ g ∈ meeting.groupAt? 0 0, ∃ gs ∈ meeting.barrierGroups 0 g true, (∃ e ∈ gs, e.2.waitsAt true 1 = true) ∧ ∀ e ∈ gs, e.2.arrivedAll true 1 = true) ∧
    (∃ g ∈ broken.groupAt? 0 0, (broken.issOf 0 g.gid (.lanes 0 (maskOf (· == 0)))).isSome = true ∧ (g.lane 0 0).txn.active = true ∧
      (g.lane 0 0).txn.doomed = true) ∧
    (∃ x ∈ token1.session? 0, x.tokenHolder = none ∧ x.tokenQueue = [⟨1, 0, 0⟩] ∧ token1.wantsToken ⟨1, 0, 0⟩ = true) := by
  decide +kernel

theorem wit_StreamsBarriersWaits_waits :
    ∀ c ∈ [WCond.eq, WCond.lt], ∃ e ∈ (waiting c).unit? { core := 0, rgs := 0, who := .lanes 0 1 },
      waitOf e.2 0 = .waitf c false 0x10400 5 1 (v 4) false 0 none ∧ (∀ q ∈ okOf (waitCheck (waiting c) e.2 0x10400 4), q.fences false = false) ∧ ∃ p ∈ okOf (waitCheck (waiting c) e.2 0x10400 4),
        (waiting c).placePoison e.2.sess p 4 = false ∧ leNat ((waiting c).bytesAt e.2.sess e.2.group.gid p 4) = 5 ∧
        condMet c 5 5 = decide (c = .eq) ∧
        ((setMet ((waiting c).sign e.2.group.gid p true false) e.2 0 5).unit? { core := 0, rgs := 0, who := .lanes 0 1 }).isSome = true := by
  decide +kernel

/-- Cores 0 and 1 hold the session and no group; the launch has groups still to place, alone or as a cluster of two. -/
def unplaced (n : Nat) : State :=
  { onSess one (fun x => { x with rsBands := 2 }) with
    launches := [{ placedLaunch with nextGroup := 0, desc := { placedDesc with gx := n, cluster := n } }]
    cores := List.replicate 2 { Core.init with session := some 0, active := { session := 0, groups := [] } } ++ List.replicate 62 Core.init }

theorem wit_DistributorEvents_place :
    (∃ x ∈ (unplaced 1).session? 0, ∃ l ∈ (unplaced 1).headLaunch 0, ¬ 1 < l.desc.cluster ∧
      ((unplaced 1).placeAll x l ((unplaced 1).placeCores 0) l.headGroups).isSome = true) ∧
    (∃ x ∈ (unplaced 2).session? 0, ∃ l ∈ (unplaced 2).headLaunch 0, 1 < l.desc.cluster ∧
      (((List.range 4).map fun d => ((unplaced 2).placeCores 0).filter fun c => dieOf c == d).findSome? fun cs =>
        (unplaced 2).placeAll x l cs l.headGroups).isSome = true) := by
  decide +kernel

/-- The group asks for work, in a launch that has one group more and in one that has none. -/
def asking (n : Nat) : State := onLaunch { one with fetches := [⟨0, 1, 16⟩] } fun l => { l with desc := { l.desc with gx := n, workSource := 1 } }

theorem wit_DistributorEvents_fetch : ∀ n ∈ [1, 2], ∃ r ∈ (asking n).fetchReq? 0,
    ∃ e ∈ ({ asking n with fetches := (asking n).fetches.erase r } : State).find? r.gid,
      ((({ asking n with fetches := (asking n).fetches.erase r } : State).launchOf? e.2).bind fun l => l.withdrawNext) =
        if n = 1 then none else some 1 := by
  decide +kernel

/-- The group's streams have ended; and it is RETIRING; and the launch has no group left. -/
def over1 : State := on one fun g =>
  { g with
    lead := { g.lead with status := .exited }
    bands := g.bands.map fun b => { b with lanes := b.lanes.map fun x => { x with status := .exited } } }
def leaving : State := on one fun g => { g with phase := .retiring }
def done1 : State := onCore one fun c => { c with active := { session := 0, groups := [] } }

theorem wit_DistributorEvents_end :
    (∃ g ∈ over1.groupAt? 0 0, g.phase = .running ∧ g.over = true) ∧
    (∃ g ∈ (leaving.core 0).active.groups.find? fun g => g.gid == 1, g.phase = .retiring ∧ leaving.copiesInto 1 = false) ∧
    (∃ l ∈ done1.launch? 0 1, ∃ x ∈ done1.session? 0, done1.launchOver l = true ∧ l.complFault = none ∧ l.complLost = false ∧
      (okOf (done1.sxWrite x l.desc.compl.toNat (complRecord done1 x l))).isSome = true) := by
  decide +kernel

/-- A command of the group, with a reply to v4; its launch has list 0 at 0x10400 with one item. -/
def cmd1 (k : CmdKind) : Cmd :=
  { id := 0, session := 0, gen := 0, gid := 1, queue := none, node := none, core := 0, launch := 1, reply := some ⟨1, some 0, 0, 4⟩, kind := k,
    held := false, done := 0, fault := none, declined := false, priv := true, noCtr := false, first := 0 }
def listed (k : CmdKind) : State :=
  onLaunch { mem one 0x10400 [1, 2, 3, 4] with cmds := [cmd1 k], nextCmd := 1 } fun l => { l with lists := [⟨0x10400, 64, 0, 1⟩] }

theorem wit_WorkEvents_pops :
    (∃ e ∈ argMin (fun (e : PqEntry) => e.key.toNat) ([⟨0, 0, 1, 5, 6⟩, ⟨0, 0, 1, 4, 7⟩, ⟨1, 0, 1, 0, 8⟩].filter fun e =>
      e.die == 0 && e.session == 0 && e.launch == 1), e.value = 7) := by
  decide +kernel

theorem wit_WorkEvents_lists : ∀ k ∈ [CmdKind.dappend 0x10500 0 1, .ddrain 0x10500 0 1024, .wlpush 0 [1, 2, 3, 4], .wlpop 0],
    ∃ c ∈ (listed k).listReq? 0 1 0, ∃ x ∈ (listed k).session? 0, c.fault = none ∧ c.held = false ∧ c.kind = k ∧
      ∃ w ∈ (listed k).list? 0 1 0, c.reply = some ⟨1, some 0, 0, 4⟩ ∧ ((okOf ((listed k).takeItem x 1 0 w)).any fun r => r.isSome) = true := by
  decide +kernel

theorem wit_WorkEvents_quiescence : ∃ l ∈ over1.launch? 0 1, l.quiescent = false ∧ over1.quiescentNow l = true := by
  decide +kernel

/-- The matrix queue of the core holds an instruction; the engine runs one. -/
def queued (o : MatOp) : State := onCore one fun c => { c with mqueue := [o] }
def engaged : State := onCore one fun c => { c with mrun := some (.zero 1 0) }

theorem wit_EngineEvents_matrix :
    (∀ o ∈ [MatOp.zero 1 0, .drain 1 0 30 0 0 1 0 0 [] []], ((queued o).core 0).mrun = none ∧ ((queued o).core 0).mqueue = [o] ∧
      (((queued o).core 0).active.groups.find? fun g => g.gid == o.gid).isSome = true) ∧
    (engaged.core 0).mrun = some (.zero 1 0) ∧
    ((onCore one fun c => { c with port := [⟨1, 0, 3, false⟩] }).core 0).port = [⟨1, 0, 3, false⟩] := by
  decide +kernel

/-- An `MMA` waits for slot 3, whose record names tensor 9 of the statements about matrices. -/
def reloading : State := on wide fun g =>
  { g with
    slots := (List.range 16).map fun _ => { WSlot.init with hasRecord := true, fmt := 2, entry := BitVec.ofNat 512 (entry 2 2 1) }
    bands := g.bands.map fun b => { b with lanes := b.lanes.map fun x => { x with wait := .reload 3 } } }

theorem wit_EngineEvents_reload : ∃ g ∈ reloading.groupAt? 0 0, waitingReload g 0 = some 3 ∧
    ∃ i ∈ reloading.issOf 0 g.gid (.lanes 0 (BitVec.allOnes 32)), (slotAt i 3).hasRecord = true ∧ (slotAt i 3).valid = false ∧
      (slotData reloading i (slotAt i 3).entry.toNat (slotAt i 3).i0 (slotAt i 3).i1 (slotAt i 3).i2 (slotAt i 3).i3).toOption.isSome = true := by
  decide +kernel

/-- A copy, moving or held; a node whose body has ended. -/
def copying (held : Bool) : State :=
  { one with cmds := [{ cmd1 (.copy false 0x10400 0x10500 64 0 0xFFFFFFFF 0x10600) with held := held }] }
def ended1 : State :=
  { one with nodes := [{ session := 0, addr := 0x10400, handle := 1, launch := false, pred := 0, succs := [.node 0x10440, .counter 1 16], body := 0,
                         st := .ended, predError := false, status := 0, queue := none, fault := none, declined := false }] }

theorem wit_EngineEvents_copies :
    (∀ h ∈ [false, true], ∃ c ∈ (copying h).cmd? 0, ((copying h).session? c.session).isSome = true ∧ c.fault = none ∧ c.held = h ∧
      c.kind = .copy false 0x10400 0x10500 64 0 0xFFFFFFFF 0x10600 ∧ (copying h).anyOut (copyGroups (copying h) c false 0x10400 0x10500 0) = false) ∧
    (∃ n ∈ ended1.node? 0 0x10400, n.st = .ended) := by
  decide +kernel

/-- The one member of a cluster has joined a sum of four words of its memory. -/
def summing : State := { one with cmds := [cmd1 (.collective 0 0x10400 0x10500 4 0x100 0 false)] }

def members (s : State) (g : Group) (n : Nat) : List Member :=
  ((List.range n).filterMap (s.member g)).filterMap fun h => s.joined h 0
def summed (x : Session) (m : Member) : Bool := match collReads summing x [m] with
  | .ok srcs => (collWrites x (collResult m srcs) [m] summing).2.isNone
  | .error _ => false

theorem wit_EngineEvents_collectives :
    ∃ x ∈ summing.session? 0, ∃ g ∈ summing.anyGroup 1, ∃ l ∈ summing.launchOf? g,
      (members summing g l.desc.cluster).length = 1 ∧ (∀ m ∈ members summing g l.desc.cluster, m.cmd.fault = none ∧ summed x m = true) ∧
      collRefused summing (members summing g l.desc.cluster) l.desc.cluster = none ∧
      ((List.range l.desc.cluster).filterMap (summing.member g)).all (fun h => (summing.joined h 0).isSome) = true ∧
      summing.anyOut ((List.range l.desc.cluster).filterMap (summing.member g)) = false := by
  decide +kernel

/-! #### Graphics, versions, faults -/

/-- Page 0 of a compressed tier at 0x10500 is being streamed: an entry of the size given, not compressed. -/
def paging (size : Nat) : State :=
  { mem one 0x10508 ((toLE 4 size ++ toLE 4 1).map (·.toNat)) with
    textures := [{ session := 0, page := 0x20000, index := 0, resmask := 0x10600, ctier := 0x10500, age := 0 }] }
def pageIs (size : Nat) (f : Option (List Byte) → Bool) : Bool := ((paging size).textures[0]?).any fun t =>
  ((paging size).session? t.session).any fun x => !(paging size).unitBlocked x.slot 0 && (okOf (streamPage (paging size) x t)).any f

theorem wit_GraphicsEvents_pages : pageIs 65536 Option.isSome = true ∧ pageIs 0 Option.isNone = true := by decide +kernel

/-- A ray that meets an empty node. -/
def ray0 : Ray := { handle := 0, query := List.replicate 8 0, flags := 0, root := 0x10A00, spill := 0x10B00, stkcap := 16, result := none }
def tracing : State := onLane one 0 fun x => { x with rays := [ray0] }

theorem wit_GraphicsEvents_rays : ∃ g ∈ tracing.groupAt? 0 0,
    (g.lane 0 0).rays.find? (fun r => r.handle == 0 && r.result.isNone) = some ray0 ∧
    ∃ i ∈ tracing.issOf 0 g.gid (.lanes 0 (maskOf (· == 0))),
      ((travRun { i := i, ray := ray0, area := 0x10B00 } travFuel
        { s := tracing, stack := [.child 0 ray0.root.toNat 0], spilled := 0, onchip := 1, ray := ray0.query, inst := none, best := none, stop := none,
          malformed := false }).any fun t => t.stop.isNone && t.best.isNone) = true := by
  decide +kernel

/-- A ring of one record for the node at 0x10400, and another node's ring that is full. -/
def ring1 (kind : Nat) : Ring :=
  { session := 0, desc := 0x10500, base := 0x10600, head := 0, tail := 1, cap := 4, rsize := 64, kind := kind, consumer := 0x10400, list := 0,
    order := [0], launch := 1 }
def fullRing : Ring := { ring1 1 with desc := 0x10540, consumer := 0x10440, cap := 1, order := [1] }
def u16s (ns : List Nat) : List Nat := ns.flatMap fun n => (toLE 2 n).map (·.toNat)
def u32s (ns : List Nat) : List Nat := ns.flatMap fun n => (toLE 4 n).map (·.toNat)

/-- The triangle (0, 0), (4, 0), (0, 4) with compare operation ALWAYS, and flags; a target of 2 by 2 pixels, its statistics at 0x10700. -/
def triangle (flags : Nat) : List Nat := u32s [0, 0, 0, 0x40800000, 0, 0, 0, 0x40800000, 0, 7, 0, 0, flags]
def rastering (flags qout : Nat) : State :=
  { mem (mem one 0x10400 (u32s [0x10800, 0, 32] ++ u16s [2, 2] ++ u32s [0x10700, 0, 0, 0, qout])) 0x10600 (triangle flags) with
    rings := [ring1 1, fullRing], bins := [{ session := 0, node := 0x10400, x := 0, y := 0, tris := [(triangle flags ++ List.replicate 12 0).map (BitVec.ofNat 8)],
                                              sent := 0, replays := 0 }] }

def triMeets (flags : Nat) (f : State → Session → Nat → List Byte → Bool) : Bool :=
  let s := rastering flags 0
  (s.rings[0]?).any fun r => (s.session? r.session).any fun x => s.isNext r (sameNode r) && !s.unitBlocked x.slot 1 &&
    (okOf (nodeDesc s x r)).any fun v => (okOf (recordOf s x r 64)).any fun bs =>
      (okOf (addCounter (s.consume r) x (fld v 16 64) 1)).any fun u => f u x v bs

theorem wit_GraphicsEvents_triangles :
    triMeets 0x70 (fun _ _ v bs => (parseTri (fld v 40 8) bs).isSome) = true ∧
    triMeets 0x73 (fun u x v bs => (parseTri (fld v 40 8) bs).isNone && (addCounter u x (fld v 16 64 + 8) 1).toOption.isSome) = true := by
  decide +kernel

def binMeets (qout : Nat) (f : State → Session → Bin → Nat → BinOut → BinEnv → Bool) : Bool :=
  let s := rastering 0x70 qout
  (s.bins[0]?).any fun b => (s.session? b.session).any fun x => !s.unitBlocked x.slot 1 && (okOf (runBin s x b)).any fun q =>
    f q.1 x b q.2.1 q.2.2.1 q.2.2.2

theorem wit_GraphicsEvents_bins :
    binMeets 0 (fun u x b n r e => r.quads.length == 1 && decide (r.quads.length ≤ n) && (okOf (writeTile u x e r.tile)).any fun u2 =>
      (binCounts u2 x b r e).toOption.isSome) = true ∧
    binMeets 0x10540 (fun u x b n r _ => decide (n < r.quads.length) && (okOf (u.accRead x false b.node.toNat 64)).any fun bs =>
      (addCounter u x (fld (leNat bs) 16 64 + 48) 1).toOption.isSome) = true := by
  decide +kernel

/-- A blender of 2 by 1 pixels, its accumulators at 0x10800, whose next record is a splat, or a flush. -/
def blending (flush : Bool) : State :=
  { mem (mem one 0x10400 (u32s [0x10900, 0, 32] ++ u16s [2, 1] ++ u32s [0x3F000000, 0, 0x10800])) 0x10600
      (if flush then [255, 255, 255, 255] else u16s [1, 0] ++ u32s [0, 0x3F800000]) with rings := [ring1 2] }
def blendMeets (flush : Bool) : Bool :=
  let s := blending flush
  (s.rings[0]?).any fun r => (s.session? r.session).any fun x => s.isNext r (sameNode r) && !s.unitBlocked x.slot 2 &&
    (okOf (nodeDesc s x r)).any fun v => (okOf (recordOf s x r 32)).any fun bs => (isFlush bs == flush) &&
      (okOf (blendStart s x r v)).any fun u => (if flush then flushAll u x v else splat u x v bs).toOption.isSome

theorem wit_GraphicsEvents_blending : blendMeets false = true ∧ blendMeets true = true := by decide +kernel

/-- A frame record for engine 5, and one that breaks a limit at the engine. -/
def encoding : State :=
  { mem one 0x10400 [5] with
    rings := [ring1 3]
    encoders := [{ engine := 6, session := 0, record := (u32s ([1] ++ List.replicate 11 0 ++ [0x10700, 0, 0, 0])).map (BitVec.ofNat 8) }] }

theorem wit_GraphicsEvents_encoding :
    (∃ r ∈ encoding.rings[0]?, ∃ x ∈ encoding.session? r.session, encEngine encoding r = .ok (some 5) ∧ (∀ f ∈ encoding.encoders, f.engine ≠ 5) ∧
      encoding.isNext r (feedsEngine encoding 5) = true ∧ encoding.unitBlocked x.slot 3 = false ∧
      (okOf (recordOf encoding x r 64)).isSome = true) ∧
    (∃ f ∈ encoding.encoders.find? fun f => f.engine == 6, ∃ x ∈ encoding.session? f.session, encoding.unitBlocked x.slot 3 = false ∧
      (okOf (encode1 encoding x 6 f.record)).isSome = true) := by
  decide +kernel

/-- Lane 31 waits for an atlas whose block is already shaded. -/
def shading : State := onLane (mem lanes2 0x10C00 [2]) 31 fun x => { x with wait := .atlas 0x10500 (v 4) 0x10C00 0 }

theorem wit_GraphicsEvents_atlas : ∃ g ∈ shading.groupAt? 0 0, (g.lane 0 31).wait = .atlas 0x10500 (v 4) 0x10C00 0 ∧
    ∃ i ∈ shading.issOf 0 g.gid (.lanes 0 (maskOf (· == 31))),
      ((List.range 31).all fun l => match (g.lane 0 l).wait with
        | .atlas _ _ _ _ => false
        | _ => true) = true ∧
      (match atlasOne shading i { lane := 31, out := 0x10500, word := 0x10C00, record := 0 } with
        | .answer v _ => v == 0
        | _ => false) = true := by
  decide +kernel

/-- A task of a versioned launch that is to be judged, having written a byte; it read what another commit wrote, or did not. -/
def version1 (rs : Nat) : Version :=
  { bytes := [(0x10400, 7)], hints := [], rs := BitVec.ofNat 1024 rs, ws := 1, base := 0, held := [.pq 0 1 2], serial := false, token := false }
def judged (rs : Nat) : State :=
  onLaunch (on one fun g => { g with ver := some (version1 rs), phase := .committing }) fun l =>
    { l with commitNo := 1, commits := [(1, 2)], commitQueue := [1], serialQueue := [1], desc := { l.desc with versioned := true } }
def restarting1 : State := on (judged 0) fun g => { g with phase := .restarting true }

theorem wit_VersionEvents :
    (∀ rs ∈ [0, 2], ∃ x ∈ (judged rs).session? 0, ∃ l ∈ (judged rs).launch? 0 1, (judged rs).toRestart l = none ∧ (judged rs).nextTask l = some 1 ∧
      ∃ e ∈ (judged rs).find? 1, e.2.ver = some (version1 rs) ∧ conflicts l (version1 rs) = decide (rs = 2) ∧ (judged rs).unitBlocked x.slot 4 = false ∧
        (okOf (performBytes x l.desc.priv (version1 rs) (judged rs))).isSome = true) ∧
    (∃ l ∈ restarting1.launch? 0 1, (restarting1.session? 0).isSome = true ∧ restarting1.toRestart l = some (1, true)) ∧
    (∃ l ∈ (judged 0).launch? 0 1, (∀ h ∈ (judged 0).allGroupsOf 0 1, (h.ver.map (·.token)).getD false = false) ∧ l.serialQueue = [1] ∧
      ((judged 0).find? 1).isSome = true) := by
  decide +kernel

/-- Memory that the device reads by physical address: 64-bit numbers from `a` on. -/
def dev8 (s : State) (a : Nat) (ns : List Nat) : State := mem s a (ns.flatMap fun n => (toLE 8 n).map (·.toNat))

/-- Lane 0 holds a trap, or a page fault; the fault ring of the session is at 0x11000. -/
def heldBy (st : Status) : State := dev8 (onLane one 0 fun x => { x with status := st }) 0x1010 [0x11000]
def fault1 : Trap := { mkTrap 1 0 with pages := [(0x12000, false)] }

/-- The service has answered the one record of batch 1. -/
def answered (res : Nat) : State :=
  mem (dev8 (heldBy (.faulted 1 fault1 none)) 0x11000 [1, 0]) 0x11048 ([1, 0, 0, 0, 1, 0, 0, 0] ++ [1, 0, res])

theorem wit_FaultAndPageEvents_faults :
    (∃ g ∈ (heldBy (.held fault1 none)).groupAt? 0 0, ((heldBy (.held fault1 none)).issOf 0 g.gid (g.widen (.lanes 0 1))).isSome = true ∧
      statusOf g (.lanes 0 1) = .held fault1 none) ∧
    (∃ g ∈ (heldBy (.heldFault fault1)).groupAt? 0 0, ∃ i ∈ (heldBy (.heldFault fault1)).issOf 0 g.gid (g.widen (.lanes 0 1)),
      statusOf g (.lanes 0 1) = .heldFault fault1 ∧
      ((heldBy (.heldFault fault1)).faultBatch i.sess fault1.pages (fault1.sub.toNat % 4) false).isSome = true) ∧
    (∃ x ∈ (answered 1).session? 0, (answered 1).batchAnswer x 1 = some true) ∧ (∃ x ∈ (answered 2).session? 0, (answered 2).batchAnswer x 1 = some false) := by
  decide +kernel

/-- The die's TLB holds the page, or the walk finds it. -/
def cached (hit : Bool) : State := { one with tlb2 := if hit then [(0, ⟨0, 16, false, 0x1003D⟩)] else [] }

theorem wit_FaultAndPageEvents_tlb : ∀ h ∈ [false, true], ∃ x ∈ (cached h).session? 0, tlbFind ((cached h).core 0).tlb 0 0x10400 = none ∧
    (tlbFind (((cached h).tlb2.filter fun e => e.1 == dieOf 0).map (·.2)) 0 0x10400).isSome = h ∧
    (match (cached h).walk x 0x10400 with
      | .leaf l => l.bits == 0x1003D
      | _ => false) = true := by
  decide +kernel

/-- Page 0x11000 is a content page with frame 24; the pool at 0x13000 has frame 25. -/
def sharing : State := dev8 (dev8 (dev8 one 0x8110 [0x1883D]) 0x1020 [0x13000, 6]) 0x13000 ([0, 1] ++ List.replicate 6 0 ++ [0x19000])

/-- Domain 1 merges the one page of its region, 0x11000, which is not writable. -/
def merging : State :=
  let s := dev8 (mem (dev8 one 0x8110 [0x1802D]) 0x1008 [1, 2, 1, 0]) 0x1040 [0x11000, 1]
  { s with ctrl := { s.ctrl with mergeEn := true } }

theorem wit_FaultAndPageEvents_pages :
    (∃ x ∈ sharing.session? 0, (sharing.cowPage x none 0x11000 1).toOption.isSome = true) ∧
    (merging.ctrl.mergeEn = true ∧ merging.relPending = [] ∧ ∃ p ∈ merging.mergeNext merging.mergePos, ∃ x ∈ merging.session? p.session,
      (match merging.walk x ((fld (merging.region x p.region) 0 64 + 4096 * p.page) % 2 ^ 48) with
        | .leaf l => !l.big && l.type == 0 && !l.w && !l.content && l.omask == 0
        | _ => false) = true) ∧
    (one.dev0 (one.ctrl.relBase.toNat + 8) 8 - one.dev0 one.ctrl.relBase.toNat 8 < 2 ^ one.ctrl.relCap) := by
  decide +kernel

/-- Two sessions with work: session 0 on core 0, session 1 with the smaller virtual time. -/
def sched (on_ : Bool) (vt1 : Nat) : State :=
  { one with
    ctrl := { one.ctrl with schedEnable := on_ }
    sessions := [{ placedSession with vt := 10 }, { placedSession with slot := 1, st := .runnable, vt := BitVec.ofNat 64 vt1 }]
    launches := [placedLaunch, { placedLaunch with session := 1, nextGroup := 0 }] }
def swapping (w : Swap) : State := onCore (sched true 5) fun c => { c with swap := w }
def emptied (on_ : Bool) : State := onCore (sched on_ 5) fun c => { c with session := none, active := { session := 0, groups := [] } }

theorem wit_SchedulerEvents_choice :
    (∀ b ∈ [false, true], (emptied b).idleCore 0 = true ∧
      (((((emptied b).unload 0).releaseCore 0).modCore 0 fun c => { c with swap := .none }).choose 0) = if b then some 1 else none) ∧
    (((sched true 5).core 0).session = some 0 ∧ ((sched true 5).core 0).swap = .none ∧ (sched true 5).choose 0 = some 1 ∧
      (sched false 5).choose 0 = none ∧ (sched true 20).choose 0 = some 0) ∧
    ((swapping (.grace 1 [[1]])).core 0).swap = .grace 1 [[1]] ∧
    (((swapping (.quiesce 1)).core 0).swap = .quiesce 1 ∧ (swapping (.quiesce 1)).settled 0 = true) := by
  decide +kernel

/-- Session 1 has a saved context, which core 0's shadow bank may hold. -/
def saving (w : Swap) (sh : Shadow) (saved : List Context) : State :=
  let s := onCore (swapping w) fun c => { c with shadow := sh }
  { s with
    sessions := s.sessions.map fun x => if x.slot == 1 then { x with saved := saved } else x
    launches := [placedLaunch, { placedLaunch with session := 1 }] }
def ctx1 : Context := { session := 1, groups := [{ grp one with gid := 9, session := 1 }] }

theorem wit_SchedulerEvents_contexts :
    (∀ sh ∈ [Shadow.empty, .loaded ctx1], ((saving (.exchange 1) sh []).core 0).swap = .exchange 1 ∧ (saving (.exchange 1) sh []).nextNow 0 1 = some 1 ∧
      ((saving (.exchange 1) sh []).core 0).session = some 0 ∧ ((saving (.exchange 1) sh []).incoming 0 1).isSome = true) ∧
    ((saving .none (.outgoing ctx1) []).core 0).shadow = .outgoing ctx1 ∧
    (((saving (.named 1) .empty [ctx1]).core 0).swap.next? = some 1 ∧ ((saving (.named 1) .empty [ctx1]).core 0).shadow = .empty ∧
      (∃ x ∈ (saving (.named 1) .empty [ctx1]).session? 1, x.saved = [ctx1]) ∧ (saving (.named 1) .empty [ctx1]).restores 1 = true) := by
  decide +kernel

/-- Every lane waits at a barrier in a session with a waiting budget. -/
def outOfBudget : State := onSess meeting fun x => { x with waitBudget := 1000 }

theorem wit_SchedulerEvents_budget : ∃ x ∈ ((outOfBudget.core 0).session.bind outOfBudget.session?), x.waitBudget ≠ 0 ∧
    (outOfBudget.core 0).canIssue = false ∧ (outOfBudget.core 0).swap = .none ∧
    ((List.range 16).filterMap (outOfBudget.core 0).groupAt?).flatMap (snapRecords outOfBudget) ≠ [] := by
  decide +kernel

/-- Queue 0 of session 0: its entry is at 0x3000 and its ring at 0x10400, where a command stands at index `rptr`. -/
def queueing (rptr wptr status : Nat) (mapped : List QueueCtx) : State :=
  let s := mem (dev8 one 0x3000 [0x10400, wptr, rptr]) 0x3018 [4, 0, 0, 1, status]
  { s with ctrl := { s.ctrl with mqtBase := 0x3000, schedEnable := true, doorbell := 0 }, queues := mapped, launches := [] }
def ctx0 : QueueCtx :=
  { slot := 0, queue := 0, session := 0, next := 0, loops := [], skip := 0, launches := [], cmds := [], nodes := [], fault := none, declined := false,
    wptr := 1, wdog := 0, idleFor := 4096 }

theorem wit_QueuesAndCommands_queues :
    (∀ w ∈ [1, 17], ∃ x ∈ (queueing 0 w 0 []).session? (qOwner ((queueing 0 w 0 []).queueEntry 0)), qEnabled ((queueing 0 w 0 []).queueEntry 0) = true ∧
      x.st ≠ .resetting ∧ (queueing 0 w 0 []).doorbells = [] ∧ qStatus ((queueing 0 w 0 []).queueEntry 0) = 0 ∧
      overrun ((queueing 0 w 0 []).queueEntry 0) (qWptr ((queueing 0 w 0 []).queueEntry 0)) = decide (w = 17) ∧ (queueing 0 w 0 []).queueReady 0 w = true ∧ (queueing 0 w 0 []).ctxOf 0 = none) ∧
    (∃ x ∈ (queueing 0 1 0 [ctx0]).session? 0, x.st ≠ .resetting ∧ ((queueing 0 1 0 [ctx0]).ctxOf 0).isSome = true) ∧
    (∃ q ∈ ({ queueing 0 1 0 [] with doorbells := [(0, 1)] } : State).nextQueue, q = (0, 1) ∧
      ({ queueing 0 1 0 [] with doorbells := [(0, 1)] } : State).freeQueueSlot = some 0) ∧
    ((List.range 128).findSome? fun n => ((queueing 1 1 0 [ctx0]).ctxAt n).filter fun k =>
      (queueing 1 1 0 [ctx0]).queueIdle k && decide (4096 ≤ k.idleFor)) = some ctx0 := by
  decide +kernel

/-- A command of 64-bit words at index 0, and what holds where a command processor stands at one of this OPC. -/
def command (loops : List CpLoop) (ns : List Nat) : State := dev8 (queueing 0 1 0 [{ ctx0 with loops := loops }]) 0x10400 ns
def cmdMeets (s : State) (opc : Nat) (f : Session → QueueCtx → Nat → Bool) : Bool := match s.cpHead s.cpTurn with
  | .cmd x q v => cpOp v == opc && bitsOf v 63 9 == 0 && (!cpAfter v || q.idle) && f x q v
  | _ => false

theorem wit_QueuesAndCommands_plain :
    cmdMeets (command [] [0x100]) 0 (fun _ _ v => zeroFrom v 8) = true ∧ cmdMeets (command [] [0, 1]) 0 (fun _ _ v => !zeroFrom v 8) = true ∧
    cmdMeets (command [] [3, 0x10600]) 3 (fun _ _ v => zeroFrom v 16) = true ∧
    (∀ y ∈ [0, 1], cmdMeets (command [] [4, 0x10600, y, 0]) 4 (fun x _ v => zeroFrom v 28 && match cpCond (command [] [4, 0x10600, y, 0]) x v with
      | some (.ok b) => b == (y == 0)
      | _ => false) = true) ∧
    (∀ w ∈ [0, 1], cmdMeets (command [] [5, 0x10600, 7, w]) 5 (fun x _ v => zeroFrom v 28 && fld v 8 64 % 8 == 0 && fld v 24 32 == w &&
      ((command [] [5, 0x10600, 7, w]).sxWriteNum x (fld v 8 64) (if fld v 24 32 = 1 then 8 else 4)
        (fld v 16 (8 * (if fld v 24 32 = 1 then 8 else 4)))).toOption.isSome) = true) ∧
    (∀ n ∈ [1, 0xFFFFFFFF], cmdMeets (command [] [6, n]) 6 (fun _ q v => zeroFrom v 16 && decide (1 ≤ fld v 8 64) && decide (fld v 8 64 < 2 ^ 32) &&
      decide (q.loops.length < 4)) = true) ∧
    (∀ n ∈ [1, 2], cmdMeets (command [⟨0, n⟩] [7]) 7 (fun _ q v => zeroFrom v 8 && q.loops.getLast? == some ⟨0, n⟩) = true) ∧
    (∀ y ∈ [0, 1], cmdMeets (command [] [8, 0x10600, y, 255 * 2 ^ 32]) 8 (fun x _ v => zeroFrom v 32 && decide (1 ≤ fld v 28 32) && decide (fld v 28 32 < 256) &&
      match cpCond (command [] [8, 0x10600, y, 255 * 2 ^ 32]) x v with
      | some (.ok b) => b == (y == 0)
      | _ => false) = true) := by
  decide +kernel

def isDone : Started → Bool
  | .done _ _ => true
  | _ => false
def isStatus0 : GraphRes → Bool
  | .status _ 0 => true
  | _ => false

theorem wit_QueuesAndCommands_launches :
    cmdMeets (command [] [1, 0x10600]) 1 (fun x q v => zeroFrom v 16 && fld v 8 64 % 64 == 0 &&
      isDone ((command [] [1, 0x10600]).startLaunch x (fld v 8 64) none ((command [] [1, 0x10600]).queuePriv x (some q.queue)) q.declined (some q.queue) none)) = true ∧
    cmdMeets (command [] [2, 0x10600, 0x10700]) 2 (fun x q v => zeroFrom v 24 && fld v 8 64 % 64 == 0 &&
      (okOf ((command [] [2, 0x10600, 0x10700]).sxNum x (fld v 16 64) 12)).any fun g =>
        isDone ((command [] [2, 0x10600, 0x10700]).startLaunch x (fld v 8 64) (some (fld g 0 32, fld g 4 32, fld g 8 32))
          ((command [] [2, 0x10600, 0x10700]).queuePriv x (some q.queue)) q.declined (some q.queue) none)) = true ∧
    cmdMeets (command [] [9, 0x10600]) 9 (fun x q v => zeroFrom v 16 && isStatus0 ((command [] [9, 0x10600]).submit x
      { id := (command [] [9, 0x10600]).nextCmd, session := x.slot, gen := x.gen, gid := 0, queue := some q.queue, node := none, core := 64, launch := 0,
        reply := none, kind := .start 0xB1 0 (BitVec.ofNat 64 (fld v 8 64)) 0, held := false, done := 0, fault := none,
        declined := q.declined, priv := true, noCtr := false, first := 0 } (BitVec.ofNat 64 (fld v 8 64)))) = true := by
  decide +kernel

/-- Lane 0 is parked with the record of number 0 in the trap ring at 0x10800. -/
def resuming (action : Nat) : State :=
  onSess (onLane (dev8 (dev8 (command [] [11, 0, action]) 0x10800 [1]) 0x10858 [0x0F]) 0 fun x => { x with status := .trapped (mkTrap 0x0F 0) (some 0) })
    fun x => { x with tring := 0x10800, tringcap := 6 }

theorem wit_QueuesAndCommands_resume : ∀ a ∈ [0, 3], cmdMeets (resuming a) 11 (fun x _ v => zeroFrom v 24 && decide (fld v 16 64 < 4) && x.tring != 0 &&
    (okOf ((resuming a).sxNum x x.tring.toNat 8)).any fun w => decide (fld v 8 64 < w) && decide (w - fld v 8 64 ≤ 2 ^ x.tringcap.toNat) &&
      (okOf ((resuming a).sxNum x (x.tring.toNat + 64 * (1 + fld v 8 64 % 2 ^ x.tringcap.toNat)) 64)).any fun r =>
        fld r 24 8 != 0x10 && fld r 24 8 != 0x11 && ((resuming a).trappedUnit x.slot (fld v 8 64)).isSome) = true := by
  decide +kernel

/-- A region at 0x12000 (an SO page) of one page and two maps; the block at 0x10600 names an operation on it, with VWORD `vword`. -/
def snapping (op vword : Nat) : State :=
  mem (dev8 (dev8 (dev8 (dev8 (command [] [10, 0x10600]) 0x8120 [0x1A53D]) 0x8130 [0x1B53D]) 0x1A000 [0, 1 + 2 * 2 ^ 32]) 0x10600 [0x12000, op, 0x14000, vword])
    0x10620 [1]
def snapMeets (op code : Nat) : Bool := cmdMeets (snapping op 0) 10 fun x _ v => zeroFrom v 16 &&
  (okOf ((snapping op 0).sxNum x (fld v 8 64) 64)).any fun b => (fld b 8 8 == op) && match snapRun (snapping op 0) x (fld v 8 64) b with
    | .status u c => (c == code) && (u.sxWriteNum x (fld v 8 64 + 33) 1 c).toOption.isSome
    | .fault _ => false

theorem wit_QueuesAndCommands_snapshots : snapMeets 0 0 = true ∧ snapMeets 3 1 = true ∧ snapMeets 1 0 = true ∧ snapMeets 2 0 = true ∧
    (∃ x ∈ (snapping 1 0).session? 0, 1 < (⟨0, 1, 2⟩ : SnapHead).maps ∧ (okOf (snapRead (snapping 1 0) x (readersAt 0x12000 1) 8)) = some 0 ∧
      1 ≠ (⟨0, 1, 2⟩ : SnapHead).vword % 256 ∧ (okOf (snapWrite8 (snapping 1 0) x 0x12000 (((0 / 256 + 1) * 256 + 1) % 2 ^ 64))).isSome = true) := by
  decide +kernel

/-! #### Sessions, trust, the host, traps -/

/-- A session command with OP and SLOT, on sessions in a given state; the record of slot 1 is in the session table at 0x3000. -/
def scmd (op slot : Nat) (st : SessState) : State :=
  let s := mem (onSess one fun x => { x with st := st }) 0x3100 ((toLE 256 placedRecord).map (·.toNat))
  { s with ctrl := { s.ctrl with stabBase := 0x3000, mqtBase := 0x4000, scmd := BitVec.ofNat 64 (op * 256 + slot) }, launches := [] }

theorem wit_SessionEvents_create : scmdOp (scmd 1 1 .idle).ctrl.scmd = 1 ∧ (scmd 1 1 .idle).session? (scmdSlot (scmd 1 1 .idle).ctrl.scmd) = none ∧
    ((scmd 1 1 .idle).dev ((scmd 1 1 .idle).recordAt (scmdSlot (scmd 1 1 .idle).ctrl.scmd)) 256).any
      (fun v => recordOk v && (scmd 1 1 .idle).goodTrec (fld v 16 64)) = true := by
  decide +kernel

/-- No queue of session 0 is enabled, in memory that holds nothing; one is. -/
def unowning : State := { scmd 2 0 .idle with phys := State.reset.phys }
def owning : State := mem (scmd 2 0 .idle) 0x401B [1]

theorem queues_none {s : State} (h : s.phys.bytes = []) (n : Nat) : s.queuesOwned n = [] := by
  have z : ∀ k a, leNat (spGetList ([] : Sparse 8) a k) = 0 := by
    intro k
    induction k with
    | zero => intro a; rfl
    | succ k ih => intro a; simp [spGetList, leNat, spGet, ih]
  have e : ∀ q, s.queueEntry q = 0 := by
    intro q
    simp only [State.queueEntry, State.dev0, State.dev, Phys.num, Phys.bytesAt, h, z]
    split <;> rfl
  simp [State.queuesOwned, State.queueUnused, e, show qEnabled 0 = false from rfl]

theorem wit_SessionEvents_commands :
    (∀ e ∈ [(1, SessState.idle), (2, .idle), (3, .idle), (4, .frozen), (5, .running), (5, .resetting)],
      ∃ x ∈ (scmd e.1 0 e.2).session? (scmdSlot (scmd e.1 0 e.2).ctrl.scmd), scmdOp (scmd e.1 0 e.2).ctrl.scmd = e.1 ∧ x.st = e.2) := by
  decide +kernel

theorem wit_SessionEvents_destroy :
    (∃ x ∈ unowning.session? (scmdSlot unowning.ctrl.scmd), scmdOp unowning.ctrl.scmd = 2 ∧ x.st = .idle ∧ x.slot = 0) ∧ unowning.queuesOwned 0 = [] ∧
    (∃ x ∈ owning.session? (scmdSlot owning.ctrl.scmd), scmdOp owning.ctrl.scmd = 2 ∧ x.st = .idle ∧ x.slot = 0) ∧ owning.queuesOwned 0 ≠ [] := by
  refine ⟨by decide +kernel, queues_none rfl 0, by decide +kernel, ?_⟩
  exact List.ne_nil_of_mem (a := 0) (List.mem_filter.mpr ⟨List.mem_range.mpr (by decide), by decide +kernel⟩)

/-- Queue 0 has a watchdog and an unfinished launch; and a session in reset whose launches have completed. -/
def guarded : State := { dev8 (queueing 0 1 0 [ctx0]) 0x3020 [1000] with launches := [{ placedLaunch with queue := some 0 }] }

theorem wit_SessionEvents_resets :
    (∃ q ∈ guarded.ctxOf 0, ∃ x ∈ guarded.session? q.session, guarded.watched x 0 = true) ∧
    (∃ x ∈ (scmd 0 0 .resetting).session? 0, x.st = .resetting ∧ ∀ l ∈ (scmd 0 0 .resetting).launches, l.session ≠ 0) := by
  decide +kernel

/-- A command of Verbena on key slot 0, in a state, for session 0 and domain 1. -/
def vb (op : Nat) (st : KeyState) (dom : Bool) : State :=
  let s := (onSess one fun x => { x with st := .idle }).modKey 0 fun k => { k with st := st, domainKind := dom }
  { s with ctrl := { s.ctrl with vbCmd := BitVec.ofNat 64 (op + 2 ^ 24), vbParam := 0x5000 } }

theorem wit_KeyTrustAndErrors_keys :
    (∀ e ∈ [(1, KeyState.empty, false), (2, .provisioned, false), (3, .active, false), (9, .active, true), (4, .active, false), (5, .provisioned, false),
        (5, .active, false), (5, .retiring, false), (6, .revoked, false), (4, .empty, false), (7, .empty, false), (8, .empty, false)],
      vbOp (vb e.1 e.2.1 e.2.2).ctrl.vbCmd = e.1 ∧ ((vb e.1 e.2.1 e.2.2).keySlot (vbSlot (vb e.1 e.2.1 e.2.2).ctrl.vbCmd)).st = e.2.1 ∧
        ((vb e.1 e.2.1 e.2.2).keySlot (vbSlot (vb e.1 e.2.1 e.2.2).ctrl.vbCmd)).domainKind = e.2.2) ∧
    ((vb 1 .empty false).vbBytes 512).isSome = true ∧ ((vb 7 .empty false).vbBytes 64).isSome = true ∧ ((vb 8 .empty false).vbBytes 1024).isSome = true ∧
    (∃ x ∈ (vb 3 .active false).session? (vbSession (vb 3 .active false).ctrl.vbCmd), x.st = .idle ∧ x.keySlot = none) ∧
    (vbDomain (vb 9 .active true).ctrl.vbCmd = 1 ∧ (vb 9 .active true).domainKey 1 = none) ∧
    ((vb 7 .empty false).session? (vbSession (vb 7 .empty false).ctrl.vbCmd)).isSome = true ∧
    (vb 8 .empty false).vault.unlockFails < 4 ∧ 4 ≤ ({ vb 8 .empty false with vault := { (vb 8 .empty false).vault with unlockFails := 4 } } : State).vault.unlockFails := by
  decide +kernel

/-- A world whose launch has gone, of a key slot that is retiring. -/
def retiring1 : State := { vb 4 .retiring false with worlds := [⟨3, 0, 7, 1, 0, 0, none, true⟩] }

theorem wit_KeyTrustAndErrors_ends :
    argMin (fun (w : World) => w.index) (retiring1.worlds.filter retiring1.worldGone) = some ⟨3, 0, 7, 1, 0, 0, none, true⟩ ∧
    (List.range 64).find? retiring1.keyGone = some 0 ∧
    (raisesPolicy one.ctrl.alarmPol.toNat 0x0FFF = true ∧ raisesPolicy one.ctrl.alarmPol.toNat 0 = false) ∧
    one.errors (.channel 5) + 1 ≠ one.ctrl.euLimit.toNat ∧ ({ one with errCount := [(.channel 5, 15)] } : State).errors (.channel 5) + 1 = one.ctrl.euLimit.toNat ∧
    one.euCount < one.ctrl.euWindow.toNat ∧ 2 ≤ one.ctrl.euLimit.toNat ∧
    (let s : State := { one with euCount := 0x80000000 }; s.ctrl.euWindow.toNat ≤ s.euCount) ∧
    (∃ g ∈ one.groupAt? 0 0, (one.issOf 0 g.gid (g.widen (.lanes 0 1))).isSome = true ∧ statusOf g (.lanes 0 1) = .running) := by
  decide +kernel

theorem wit_HostEvents :
    (one.ctrl.bootResult = 1 ∧ one.alarmTodo = [] ∧ (∀ l ∈ linesOf 0x10000 128, one.keyed l = false ∧ one.phys.poison.contains l = false) ∧ 0x10000 % 8 = 0) ∧
    State.reset.ctrl.bootResult ≠ 1 ∧
    (let s := { one with ctrl := { one.ctrl with cfgState := 0 } }
     s.ctrl.bootResult = 1 ∧ s.ctrl.cfgState = 0 ∧ s.ctrl.stabBase.toNat % 4096 = 0 ∧ s.ctrl.mqtBase.toNat % 4096 = 0 ∧ 10000 ≤ s.ctrl.slice.toNat ∧
     s.ctrl.relBase.toNat % 4096 = 0 ∧ 6 ≤ s.ctrl.relCap ∧ s.ctrl.relCap ≤ 20 ∧ s.ctrl.dbmBase0.toNat % 4096 = 0 ∧ s.ctrl.dbmBase1.toNat % 4096 = 0 ∧
     2 ^ 20 ≤ s.ctrl.euWindow.toNat ∧ 2 ≤ s.ctrl.euLimit.toNat ∧ 10000 ≤ s.ctrl.pwrIdle.toNat) ∧
    one.ctrl.cfgState ≠ 0 ∧ one.ctrl.cfgState ≠ 1 ∧ ({ one with ctrl := { one.ctrl with cfgState := 1 } } : State).ctrl.cfgState = 1 ∧
    (((paging 65536).textures.map fun t => { t with age := 100000001 })[0]?.any fun t => decide (100000000 < t.age)) = true ∧
    ({ one with ctrl := { one.ctrl with pwrIdle := 10000 }, idle := [(63, 10000)] } : State).mayGate (.core 63) = true := by
  decide +kernel

/-- The host-poisoned line 0x10000 / 64, in memory that keeps its form. -/
theorem wit_HostEvents_scrub : let s := { one with phys := { one.phys with hostPoison := [0x400] } }
    0x10000 / 64 ∈ s.phys.hostPoison ∧ 0x10040 / 64 ∉ s.phys.hostPoison ∧ spWf s.phys.bytes = true ∧ s.ctrl.dbmEnable = false := by
  decide +kernel

/-- A settled state with memory in its form whose next step answers. -/
def answers (o : Host.Outcome State Fault Refusal) : Bool := match o with
  | .next _ => true
  | _ => false
theorem answers_next {o : Host.Outcome State Fault Refusal} (h : answers o = true) : ∃ t, o = .next t := by
  cases o with
  | next t => exact ⟨t, rfl⟩
  | _ => cases h
def linking : State := { State.reset with agenda := [.linkUp] }
theorem wit_StepKeepsSettled : linking.Settled ∧ ∃ t, step linking = .next t := ⟨⟨rfl, rfl, rfl⟩, answers_next (by decide +kernel)⟩
theorem wit_StepKeepsMemoryForm : Memory.wf linking.phys.bytes = true ∧ ∃ t, step linking = .next t :=
  ⟨rfl, answers_next (by decide +kernel)⟩
theorem wit_ResetAndBoot : spWf State.reset.phys.bytes = true := rfl

/-- A session whose trap ring at 0x10800 has room or not, with a handler at 0x20000 for every trap, or none. -/
def trapping (w : Nat) (priv : Bool) (vec : Pc) : State :=
  onSess (onLane (dev8 one 0x10800 [w, 0]) 0 fun x => { x with priv := priv }) fun x =>
    { x with tring := 0x10800, tringcap := 3, tvec := vec, tdeleg := BitVec.allOnes 32 }
def info0 (i : Iss) : List Byte := recordBytes i 0 (unitInfo i i.bandOf 1 1) (mkTrap 0x0F 0) false
def writesRecord (w : Nat) (priv : Bool) (vec : Pc) (done : Bool) : Bool := (trapping w priv vec).iss?.any fun i =>
  !i.launch.desc.versioned && i.group.ver.isNone && i.sess.tring != 0 && (i.priv == priv) && (i.sess.tvec == vec) && i.sess.tdeleg.getLsbD 0x0F &&
  match ((trapping w priv vec).ringWrite i.sess (info0 i)).2 with
  | .done n => done && n == w
  | .full => !done
  | _ => false

theorem wit_TrapDelivery_records :
    (∃ i ∈ one.iss?, i.launch.desc.versioned = false ∧ i.group.ver = none ∧ i.sess.tring = 0) ∧
    writesRecord 3 true 0 true = true ∧ writesRecord 3 false 0 true = true ∧ writesRecord 8 true 0 false = true := by
  decide +kernel

theorem wit_TrapDelivery_stream : ∃ i ∈ (onLane (trapping 3 false 0x20000) 0 fun x => { x with base := 8, size := 32, lo := 0 }).iss?,
    i.who = .lanes 0 1 ∧ i.priv = false ∧ i.launch.desc.versioned = false ∧ i.group.ver = none ∧ i.sess.tring ≠ 0 ∧ i.sess.tvec ≠ 0 ∧
    i.sess.tdeleg.getLsbD 0x0F = true ∧ ∃ b ∈ i.group.bands[i.band]?, (b.lane 0).base + (b.lane 0).size + 32 ≤ i.sess.rsDepth ∧
      (b.lane 0).base + (b.lane 0).size + 32 ≤ (b.lane 0).lo + i.launch.desc.blockRegs := by
  decide +kernel

def delivers : Bool :=
  let s := onLane (trapping 3 false 0x20000) 0 fun x => { x with base := 8, size := 32, lo := 0 }
  s.iss?.any fun i => match s.ringWrite i.sess (info0 i) with
    | (s1, .done n) => (s1.deliverInStream i 1 (i.sess.tring + BitVec.ofNat 64 (64 * (1 + n % 2 ^ i.sess.tringcap.toNat))) (mkTrap 0x0F 0) 1).isSome
    | _ => false

theorem wit_TrapDelivery_instream : delivers = true := by decide +kernel

/-- The hypotheses of the statements about results, with every register written resident, and the instruction completing. -/
theorem wit_RegisterFrame : ∃ i ∈ lanes2.iss?, ∃ o ∈ intOp i.rep (.iadd (.r (r2 .s32))), i.clear lanes2 o.view = true ∧ i.lead = false ∧
    (∀ l ∈ i.lanes (i.en o.view), (mapE (rdOp (lanes2.begun i o.view) i l) o.srcs) = .ok [0, 0] ∧
      (i.group.lane i.band l).lo ≤ (i.group.lane i.band l).base + (o.d.idx.toNat + 0)) ∧ (if tyWide o.dt then 2 else 1) = 1 ∧
    after (.iadd (.r (r2 .s32))) lanes2 (fun t => ((t.core i.core).active.groups.find? fun h => h.gid == i.group.gid).isSome &&
      spWf (i.group.lane i.band 0).regs) = some true := by
  decide +kernel

theorem wit_MaskRegisters : (∃ i ∈ lanes2.iss?, i.lead = false ∧ i.active.getLsbD 31 = true) ∧ ∃ i ∈ leads.iss?, i.lead = true := by decide +kernel

/-- A lane one register too deep for `ALLOC 640`, lanes at the end of the link stack and past the stack's depth, and one without a link. -/
theorem wit_StackLimits :
    (∃ i ∈ (called 1).iss?, i.clear (called 1) (viewAlloc (im .b32 z z 640)) = true ∧
      ∃ l ∈ i.lanes (i.en (viewAlloc (im .b32 z z 640))), i.sess.rsDepth < (i.group.lane i.band l).base + 640) ∧
    (∀ x ∈ [((0, 592, 4096) : Nat × Nat × Nat), (600, 592, 0)], let s := onLane one 0 fun y => { y with base := x.1, size := x.2.1, nlinks := x.2.2 }
      ∃ i ∈ s.iss?, i.clear s (viewCall (br z 0 0 1)) = true ∧ ∃ l ∈ i.lanes (i.en (viewCall (br z 0 0 1))),
        (∀ m ∈ i.lanes (i.en (viewCall (br z 0 0 1))), l ≤ m) ∧ 16 ≤ (i.group.lane i.band l).size ∧
        checkTarget (s.begun i (viewCall (br z 0 0 1))) i l false (directTarget i.pc 0 0 0) = .ok () ∧
        (4096 ≤ (i.group.lane i.band l).nlinks ∧ (i.group.lane i.band l).base + (i.group.lane i.band l).size ≤ i.sess.rsDepth ∨
         i.sess.rsDepth < (i.group.lane i.band l).base + (i.group.lane i.band l).size)) ∧
    (∃ i ∈ one.iss?, i.clear one (viewRet (r .b32 z z z z)) = true ∧ ∃ l ∈ i.lanes (i.en (viewRet (r .b32 z z z z))),
      (i.group.lane i.band l).nlinks = 0 ∧ ∀ m ∈ i.lanes (i.en (viewRet (r .b32 z z z z))), l ≤ m) := by
  decide +kernel

/-- A session that waits for work with VT 5 and a boost of 2: alone, and beside one that is runnable with VT 9. -/
def sleeping (two : Bool) : State :=
  let s : State := onLaunch (onSess one fun x => { x with st := .idle, vt := 5, boost := 2 }) fun l => { l with returned := [0] }
  if two then { s with sessions := s.sessions ++ s.sessions.map fun (x : Session) => { x with slot := 1, st := .runnable, vt := 9 } } else s
def waking (two : Bool) (vmin : Nat) : Bool := let s : State := sleeping two
  (s.session? 0).any fun x => x.st == .idle && s.hasWork 0 &&
    ((s.sessions.filter fun (y : Session) => y.slot != 0 && (y.st == .runnable || y.st == .running)).map fun (y : Session) => y.vt.toNat) ==
      (if two then [vmin] else []) && (two || x.vt.toNat == vmin)
theorem wit_WakeVirtualTime : waking false 5 = true ∧ waking true 9 = true := by decide +kernel

theorem test_wake : (((sleeping true).wake 0).session? 0).map (·.vt) = some 7 := by decide +kernel

/-- A gated core that holds a context is awake at the end of the step, and so is its die (24 R427). -/
theorem test_powerWake :
    (let c := (({ one with ctrl := { one.ctrl with pwrCores := BitVec.allOnes 64, pwrDie := 15, pwrEnc := 3 } } : State).wakeUsed).ctrl
     (c.pwrCores, c.pwrDie, c.pwrEnc)) = (BitVec.allOnes 64 - 1, 14, 3) := by
  decide +kernel

/-! #### Clauses met apart -/

/-- A load whose slot is still loading, and one that a swap found in flight and that is reissued. -/
def loadingSlot : State := on (onCore one fun c => { c with port := [⟨1, 0, 3, false⟩] }) fun g =>
  { g with slots := (List.range 16).map fun _ => { WSlot.init with loading := true } }
def reissuing : State := onCore reloading fun c => { c with port := [⟨1, 0, 3, false⟩] }

theorem wit_EngineEvents_port :
    (∃ g ∈ (loadingSlot.core 0).active.groups.find? fun g => g.gid == 1, (loadingSlot.core 0).port = [⟨1, 0, 3, false⟩] ∧
      (g.slots.getD 3 WSlot.init).loading = true) ∧
    (∃ g ∈ (reissuing.core 0).active.groups.find? fun g => g.gid == 1, (reissuing.core 0).port = [⟨1, 0, 3, false⟩] ∧
      (g.slots.getD 3 WSlot.init).loading = false ∧ ∃ i ∈ reissuing.issOf 0 1 (.lanes 0 (BitVec.allOnes 32)),
        (slotAt i 3).hasRecord = true ∧ (slotAt i 3).valid = false ∧
        (slotData reissuing i (slotAt i 3).entry.toNat (slotAt i 3).i0 (slotAt i 3).i1 (slotAt i 3).i2 (slotAt i 3).i3).toOption.isSome = true) := by
  decide +kernel

/-- The core's own session is to take it again: from a bank with groups, which goes out first, and from one with none left. -/
def again (gs : List Group) : State := onCore (swapping (.exchange 0)) fun c => { c with active := { c.active with groups := gs } }

theorem wit_SchedulerEvents_again :
    ((saving (.exchange 1) .empty []).awaitsDiscarded 1 = false) ∧
    (∀ gs ∈ [[grp one], []], ((again gs).core 0).swap = .exchange 0 ∧ (again gs).awaitsDiscarded 0 = false ∧ (again gs).landing 0 = false ∧
      ((again gs).core 0).shadow = .empty) := by
  decide +kernel

/-- A core has used up its waiting budget, or a queue its watchdog, in a session whose ring has room and whose snapshot has its place. -/
def written (s : State) : State := onSess (dev8 s 0x10800 [3, 0]) fun x => { x with tring := 0x10800, tringcap := 3, snap := 0x10A00 }

theorem wit_SchedulerEvents_snapshot : ∃ x ∈ ((written outOfBudget).core 0).session.bind (written outOfBudget).session?, x.waitBudget ≠ 0 ∧
    ((written outOfBudget).core 0).canIssue = false ∧ ((written outOfBudget).core 0).swap = .none ∧ (written outOfBudget).unitBlocked x.slot 6 = false ∧
    (let recs := ((List.range 16).filterMap ((written outOfBudget).core 0).groupAt?).flatMap (snapRecords (written outOfBudget))
     recs.isEmpty = false ∧ ∃ p ∈ okOf ((written outOfBudget).snapshot x false recs),
       (p.1.tryRecord x false (plainRecord x 0x11 0 (BitVec.ofNat 64 (p.2.getD ((p.1.sxNum x x.snap.toNat 8).toOption.getD 0)))
         ((written outOfBudget).core 0).clock)).toOption.isSome = true) := by
  decide +kernel

theorem wit_SessionEvents_watchdog : ∃ q ∈ (written guarded).ctxOf 0, ∃ x ∈ (written guarded).session? q.session, (written guarded).watched x 0 = true ∧
    (written guarded).unitBlocked x.slot 6 = false ∧ ((written guarded).tryRecord x false (plainRecord x 0x10 0 (BitVec.ofNat 64 0) 0)).toOption.isSome = true := by
  decide +kernel

/-- The bin of the statements about bins comes first; and its depth tile cannot be read. -/
def noDepth : State := { rastering 0x70 0 with phys := (mem one 0x10400 (u32s [0xF0000000, 0, 32] ++ u16s [2, 2] ++ u32s [0x10700])).phys }

theorem wit_GraphicsEvents_binFault :
    (∃ b ∈ (rastering 0x70 0).bins[0]?, (rastering 0x70 0).binFirst 0 b = true) ∧
    (∃ b ∈ noDepth.bins[0]?, ∃ x ∈ noDepth.session? b.session, noDepth.binFirst 0 b = true ∧ noDepth.unitBlocked x.slot 1 = false ∧
      (runBin noDepth x b).toOption.isNone = true) := by
  decide +kernel

/-- The task of a version is done as it stands, and nothing it holds waits. -/
theorem wit_VersionEvents_done : ∀ rs ∈ [0, 2], ∃ x ∈ (judged rs).session? 0, ∃ l ∈ (judged rs).launch? 0 1, ∃ e ∈ ((judged rs).taskDone 1).find? 1,
    e.2.ver = some (version1 rs) ∧ conflicts l (version1 rs) = decide (rs = 2) ∧
    (∀ h ∈ (version1 rs).held, heldWaits x.slot l.number ((judged rs).taskDone 1) h = false) ∧
    ((judged rs).taskDone 1).unitBlocked x.slot 4 = false ∧
    (okOf (performBytes x l.desc.priv (version1 rs) ((judged rs).taskDone 1))).isSome = true := by
  decide +kernel

theorem wit_FaultAndPageEvents_merge : ∃ p ∈ merging.mergeNext merging.mergePos, ∃ x ∈ merging.session? p.session,
    (match merging.walk x (((((alGet? p.regions x.slot).getD []).getD p.region (0, 0, false)).1 + 4096 * p.page) % 2 ^ 48) with
      | .leaf l => !l.big && l.type == 0 && !l.w && !l.content && l.omask == 0
      | _ => false) = true := by
  decide +kernel

/-- A doorbell of a frozen session's queue, and of one in reset. -/
def ringing (st : SessState) : State := onSess (queueing 0 1 0 []) fun x => { x with st := st }
theorem wit_QueueEvents_kept : ∀ st ∈ [SessState.frozen, .resetting], ∃ x ∈ (ringing st).session? (qOwner ((ringing st).queueEntry 0)), x.st = st ∧
    qEnabled ((ringing st).queueEntry 0) = true ∧ overrun ((ringing st).queueEntry 0) (qWptr ((ringing st).queueEntry 0)) = false ∧
    (ringing st).ctxOf 0 = none ∧ (ringing st).doorbells = [] := by
  decide +kernel

/-- Lane 0 holds the descriptor that its waiting `TEX` read, and has no failed stream. -/
def holding : State := onLane texturing 0 fun x => { x with tex := some (BitVec.ofNat 512 (leNat ((texturing.phys.bytesAt 0x10880 64))), [0, 0, 0], []) }
theorem wit_TextureResults_held : ∃ i ∈ holding.iss?, i.clear holding (viewTex (r .b32 (v 4) (v 12) (g 8) (v 1))) = true ∧
    (∀ l ∈ i.lanes (i.en (viewTex (r .b32 (v 4) (v 12) (g 8) (v 1)))), (i.group.lane i.band l).tex.isSome = true) ∧
    ∃ h ∈ (i.group.lane i.band 0).tex, (match texLane (holding.begun i (viewTex (r .b32 (v 4) (v 12) (g 8) (v 1)))) i (texOf h.1.toNat) false 0 0 0 with
      | .ok (.done _ b ps as) => !b && ps.isEmpty && as == [0x10000]
      | _ => false) = true := by
  decide +kernel

/-- The block has room for a handler's window, and the ring is full. -/
theorem wit_TrapDelivery_full :
    (onLane (trapping 8 false 0x20000) 0 fun x => { x with base := 8, size := 32, lo := 0 }).iss?.any (fun i => i.bandOf.handlerFits 1 i.sess.rsDepth &&
      (match ((onLane (trapping 8 false 0x20000) 0 fun x => { x with base := 8, size := 32, lo := 0 }).ringWrite i.sess (info0 i)).2 with
        | .full => true
        | _ => false)) = true := by
  decide +kernel

/-- An `MMA` of a whole band names a slot with a record and no valid data. -/
def stale : State := on wide fun g =>
  { g with slots := (List.range 16).map fun _ => { WSlot.init with hasRecord := true, fmt := 2, entry := BitVec.ofNat 512 (entry 2 2 1) } }
theorem wit_MatrixQueues_reload : ∃ i ∈ stale.iss?, i.clear stale (viewMma (tn 9 0 (g 40) 30 15 false)) = true ∧ i.bandOf.frags = [] ∧
    i.active = BitVec.allOnes 32 ∧ (slotAt i 15).hasRecord = true ∧ (slotAt i 15).valid = false ∧ (slotAt i 15).loading = false ∧
    ((stale.begun i (viewMma (tn 9 0 (g 40) 30 15 false))).core i.core).portHolds i.group [15] = false ∧ tfInt (slotAt i 15).fmt.toNat = tfInt 2 ∧
    tfWide (slotAt i 15).fmt.toNat = false ∧ (i.gReg 40).toNat = 0 ∧ selectTile i 30 false = .ok (30, 30, false) ∧
    ∃ e ∈ okOf (tensor i 9), teFmt e = 2 ∧ 15 < i.launch.desc.slots ∧ teStride e 1 = 16 ∧ i.group.scratchBytes = 262144 := by
  decide +kernel

theorem wit_MatrixQueues_port : ∃ i ∈ wide.iss?, ((wide.begun i (viewMma (tn 9 0 (g 40) 30 15 false))).core i.core).portHolds i.group [15] = false := by
  decide +kernel

/-! #### Commands that stop their queue, alarms, the host -/

/-- A command processor stands at a command of this OPC whose bits 63 to 9 are zero, and one of its fields breaks its rules. -/
theorem wit_CommandProcessor_stops :
    cmdMeets (command [] [1, 0x10600, 1]) 1 (fun _ _ v => !zeroFrom v 16) = true ∧
    cmdMeets (command [] [1, 0x10608]) 1 (fun _ _ v => fld v 8 64 % 64 != 0) = true ∧
    cmdMeets (command [] [2, 0x10608, 0x10700]) 2 (fun x _ v => fld v 8 64 % 64 != 0 &&
      ((command [] [2, 0x10608, 0x10700]).sxNum x (fld v 16 64) 12).toOption.isSome) = true ∧
    cmdMeets (command [] [2, 0x10600, 0x10700, 1]) 2 (fun _ _ v => !zeroFrom v 24) = true ∧
    cmdMeets (command [] [3, 0x10600, 1]) 3 (fun _ _ v => !zeroFrom v 16) = true ∧
    (∀ ns ∈ [[4, 0x10600, 0, 0, 1], [4, 0x10604], [4, 0x10600, 0, 8]], cmdMeets (command [] ns) 4 (fun _ _ v =>
      !zeroFrom v 28 || fld v 8 64 % 8 != 0 || decide (8 ≤ fld v 24 32)) = true) ∧
    (∀ ns ∈ [[5, 0x10600, 0, 0, 1], [5, 0x10604], [5, 0x10600, 0, 2]], cmdMeets (command [] ns) 5 (fun _ _ v =>
      !zeroFrom v 28 || fld v 8 64 % 8 != 0 || decide (2 ≤ fld v 24 32)) = true) ∧
    (∀ e ∈ ([([], [6, 1, 1]), ([], [6, 0]), ([], [6, 2 ^ 32]), (List.replicate 4 ⟨0, 2⟩, [6, 1])] : List (List CpLoop × List Nat)),
      cmdMeets (command e.1 e.2) 6 (fun _ q v =>
        !zeroFrom v 16 || fld v 8 64 == 0 || decide (2 ^ 32 ≤ fld v 8 64) || decide (4 ≤ q.loops.length)) = true) ∧
    (∀ e ∈ ([([⟨0, 2⟩], [7, 1]), ([], [7])] : List (List CpLoop × List Nat)),
      cmdMeets (command e.1 e.2) 7 (fun _ q v => !zeroFrom v 8 || q.loops.isEmpty) = true) ∧
    (∀ ns ∈ [[8, 0x10600, 0, 2 ^ 32, 1], [8, 0x10600], [8, 0x10600, 0, 256 * 2 ^ 32], [8, 0x10604, 0, 2 ^ 32], [8, 0x10600, 0, 2 ^ 32 + 8]],
      cmdMeets (command [] ns) 8 (fun _ _ v => !zeroFrom v 32 || fld v 28 32 == 0 || decide (256 ≤ fld v 28 32) || fld v 8 64 % 8 != 0 ||
        decide (8 ≤ fld v 24 32)) = true) ∧
    cmdMeets (command [] [9, 0x10600, 1]) 9 (fun _ _ v => !zeroFrom v 16) = true ∧
    (∀ ns ∈ [[11, 0, 0, 1], [11, 0, 4], [11, 0, 0]], cmdMeets (command [] ns) 11 (fun x _ v =>
      !zeroFrom v 24 || decide (4 ≤ fld v 16 64) || x.tring == 0) = true) := by
  decide +kernel

theorem wit_CommandProcessor_words :
    (∀ k < 12, (match (command [] [512 + k]).cpHead (command [] [512 + k]).cpTurn with
      | .cmd _ _ v => cpOp v == k && bitsOf v 63 9 != 0
      | _ => false) = true) ∧
    (∀ k ∈ [12, 255], (match (command [] [k]).cpHead (command [] [k]).cpTurn with
      | .cmd _ _ v => cpOp v == k
      | _ => false) = true) := by
  decide +kernel

theorem wit_SnapshotCommands_stop : ∀ op ∈ [0, 1, 2, 3], cmdMeets (dev8 (snapping op 0) 0x10410 [1]) 10 (fun x _ v => !zeroFrom v 16 &&
    (okOf ((dev8 (snapping op 0) 0x10410 [1]).sxNum x (fld v 8 64) 64)).any fun b => fld b 8 8 == op) = true := by
  decide +kernel

/-- A publish where the region's word is the one that was read, and where it is another. -/
theorem wit_SnapshotCommands_publish : (okOf (snapRead (snapping 1 0) placedSession (readersAt 0x12000 1) 8)) = some 0 ∧
    (okOf (snapWrite8 ((snapping 1 0).releaseOn ((snapping 1 0).coresOf 0) 4) placedSession 0x12000
      (((0 / 256 + 1) * 256 + 1) % 2 ^ 64))).isSome = true ∧ (⟨5, 1, 2⟩ : SnapHead).vword ≠ 0 ∧ 1 ≠ (⟨5, 1, 2⟩ : SnapHead).vword % 256 := by
  decide +kernel

def policy (n : Nat) : State := { one with ctrl := { one.ctrl with polWrite := BitVec.ofNat 64 n } }
theorem wit_AlarmsAndErrors_lowering :
    65536 ≤ (policy 65536).ctrl.polWrite.toNat ∧
    (∃ i < 8, bitsOf (policy 0).ctrl.polWrite.toNat (2 * i + 1) (2 * i) < bitsOf (policy 0).ctrl.alarmPol.toNat (2 * i + 1) (2 * i)) ∧
    (policy 0xFFFF).ctrl.polWrite.toNat < 65536 ∧ raisesPolicy (policy 0xFFFF).ctrl.alarmPol.toNat (policy 0xFFFF).ctrl.polWrite.toNat = true ∧
    (Region.channel 5).ok = true ∧ (Region.llc 0).ok = true := by
  decide +kernel

/-- A texture stream that has waited for the link for too long. -/
def late : State := { one with textures := ((paging 0).textures).map fun t => { t with age := 100000001 } }

theorem wit_HostEvents_link : (∃ t ∈ late.textures[0]?, 100000000 < t.age) ∧ late.ctrl.linkUp = true ∧
    (∀ w ∈ [4, 8], one.ctrl.bootResult = 1 ∧ (384 * 2 ^ 30) % w = 0) ∧
    (∃ n, one.register 0x1018 = some n) ∧ one.register 0xFFF8 = none ∧ (0x1018 % 8 = 0 ∧ 0xFFF8 % 8 = 0 ∧ 0x1019 % 8 ≠ 0) := by
  refine ⟨by decide +kernel, by decide +kernel, by decide +kernel, ?_, by decide +kernel, by decide +kernel⟩
  exact ⟨_, rfl⟩

/-- Idle long enough, with one die all of whose cores are gated. -/
def unused : State :=
  { one with
    ctrl := { one.ctrl with pwrIdle := 10000, pwrCores := BitVec.ofNat 64 (0xFFFF * 2 ^ 16) }
    idle := [(5, 10000), (66, 10000), (75, 10000)] }
theorem wit_HostEvents_power : unused.mayGate (.core 5) = true ∧ unused.mayGate (.core 6) = false ∧ unused.mayGate (.die 0) = false ∧
    unused.mayGate (.encoder 3) = false ∧ unused.mayGate (.channel 2) = false ∧ (∀ k < 16, unused.ctrl.pwrCores.getLsbD (16 * 1 + k) = true) ∧
    unused.encoders = [] ∧ unused.idleLong (64 + 2) = true ∧ unused.idleLong (72 + 3) = true := by
  decide +kernel

/-! #### The merge engine's swap, contexts, waits -/

/-- The merge engine has read a leaf, which stands as it was or has been changed since. -/
def merged1 (old : Nat) : State :=
  { merging with
    hh := [{ domain := 1, tag := 5, frame := 0x19, count := 0 }]
    merging := some { session := 0, va := 0x11000, old := 0x18, at_ := 0x8110, leaf := BitVec.ofNat 128 old, wafter := false, tag := 5,
                      frame := 0x19, made := true } }
theorem wit_FaultAndPageEvents_swap : ∀ old ∈ [0x1802D, 0], (merged1 old).ctrl.mergeEn = true ∧ (merged1 old).relPending = [] ∧
    ∃ m ∈ (merged1 old).merging, ∃ x ∈ (merged1 old).session? m.session, (let t : State := { merged1 old with merging := none }
      (old = 0x1802D → t.dev m.at_ 16 = some m.leaf.toNat ∧ ∃ y ∈ t.hh, y.domain = t.sdom x ∧ y.frame = m.frame) ∧
      (old = 0 → t.dev m.at_ 16 ≠ some m.leaf.toNat)) := by
  decide +kernel

def quiescing : State := onCore leaving fun c => { c with swap := .quiesce 1 }
theorem wit_SchedulerEvents_quiesce : (quiescing.core 0).swap = .quiesce 1 ∧ quiescing.settled 0 = true ∧
    ((saving .none (.outgoing ctx1) []).core 0).shadow = .outgoing ctx1 := by
  decide +kernel

theorem wit_StreamsBarriersWaits_cluster : ∃ g ∈ meeting.groupAt? 0 0, ∃ gs ∈ meeting.barrierGroups 0 g true,
    (∃ e ∈ gs, e.2.waitsAt true (g.barClu + 1) = true) ∧ ∀ e ∈ gs, e.2.arrivedAll true (g.barClu + 1) = true := by
  decide +kernel

/-- `WAITF.acq` of lane 0, at scope 2, whose location meets `eq` and does not meet `lt`. -/
def acquiring (c : WCond) : State := onLane (mem one 0x10400 [5]) 0 fun x => { x with wait := .waitf c false 0x10400 5 1 (v 4) true 2 none }
theorem wit_StreamsBarriersWaits_acquire :
    ∀ c ∈ [WCond.eq, WCond.lt], ∃ e ∈ (acquiring c).unit? { core := 0, rgs := 0, who := .lanes 0 1 },
      waitOf e.2 0 = .waitf c false 0x10400 5 1 (v 4) true 2 none ∧ ∃ p ∈ okOf (waitCheck (acquiring c) e.2 0x10400 4),
        p.fences true = true ∧ (acquiring c).placePoison e.2.sess p 4 = false ∧ condMet c (leNat ((acquiring c).bytesAt e.2.sess e.2.group.gid p 4)) 5 = decide (c = .eq) ∧
        ((setMet (((acquiring c).acquire e.2.core (p.scope 2)).sign e.2.group.gid p true false) e.2 0 5).unit?
          { core := 0, rgs := 0, who := .lanes 0 1 }).isSome = true := by
  decide +kernel

/-- Nine pops of a die, one of them carried over. -/
def carrying : State := { pushed with pops := (List.range 9).map fun k => ⟨1, 0, 1, 20 + k, ⟨1, some 0, 0, 4⟩, 2, k == 8⟩ }
theorem test_carried_pop_first : (carrying.popsOf 1).map (·.core) = [28, 20, 21, 22, 23, 24, 25, 26, 27] ∧
    (argMin (fun (e : PqEntry) => e.key.toNat) (carrying.pq.filter fun e => e.die == 1 && e.session == 0 && e.launch == 1)).isSome = true := by
  decide +kernel

theorem wit_DistributorEvents_retiring : leaving.fetches = [] ∧ leaving.copiesInto 1 = false := by decide +kernel

/-- The members of the collective keep their cores while its result is written. -/
theorem wit_EngineEvents_members : ∃ x ∈ summing.session? 0, ∃ g ∈ summing.anyGroup 1, ∃ m ∈ members summing g 1,
    ∃ srcs ∈ okOf (collReads summing x [m]),
      (let r := collWrites x (collResult m srcs) [m] (summing.engSeen m.cmd x m.sbuf m.srcLen)
       r.2.isNone = true ∧ (r.1.find? m.gid).map (·.1) = (summing.find? m.gid).map (·.1)) := by
  decide +kernel

theorem wit_GraphicsEvents_tileFault : ∃ b ∈ noDepth.bins[0]?, ∃ x ∈ noDepth.session? b.session,
    (match runBin noDepth x b with
      | .error t => t.tile
      | .ok _ => false) = true := by
  decide +kernel

/-! #### Transactions, the register stack, traps -/

def inside (s : State) (ls : List Nat) : State :=
  ls.foldl (fun s l => onLane s l fun x => { x with txn := { x.txn with active := true, target := 0x10000 } }) s
def pairIn : State := inside (aimed (aimed lanes2 0 0x10400) 31 0x10400) [0, 31]

theorem wit_TransactionalAccess_loads : ∀ ins ∈ ([.ld (m .b32 (v 4) (v 8) z z 0), .ldS8 (m .b32 (v 4) (v 8) z z 0)] : List Instr),
    ∃ i ∈ pairIn.iss?, ∃ o ∈ loadOp i.rep ins, i.clear pairIn o.view = true ∧
      (∀ l ∈ i.lanes (i.en o.view), mAddr (pairIn.begun i o.view) i o.f o.lg l = .ok 0x10400) ∧
      (match checkLanes (pairIn.begun i o.view) i { acc := .read, aligned := false, types := anyType } 0x70 (2 ^ o.lg) (i.inTxn (i.en o.view))
        ((i.lanes (i.en o.view)).map fun l => (l, 0x10400)) with
        | .ok as => as.isEmpty
        | .error _ => false) = true ∧
      (foldE (fun (u : State) l => if (txnOf u i l).active then (match txAccess u i 0x70 (2 ^ o.lg) l o.f.hint.toNat 0x10400 none with
        | .error e => .error e
        | .ok (w, none) => .ok w
        | .ok (w, some bs) => (giveLoad o.f o.ty o.signed i w l bs).map fun z => z.advance i (maskOf (· == l))) else .ok u)
        (pairIn.begun i o.view) (i.lanes (i.en o.view))).isOk = true := by
  decide +kernel

theorem wit_TransactionalAccess_stores : ∃ i ∈ pairIn.iss?, ∃ o ∈ storeOp i.rep (.st (m .b32 z (v 8) z (v 4) 0)), i.clear pairIn o.view = true ∧
    (∀ l ∈ i.lanes (i.en o.view), mAddr (pairIn.begun i o.view) i o.f o.lg l = .ok 0x10400 ∧ rdT (pairIn.begun i o.view) i l o.ty o.f.c = .ok 0) ∧
    (match checkLanes (pairIn.begun i o.view) i { acc := .write, aligned := false, types := anyType } 0x71 (2 ^ o.lg) (i.inTxn (i.en o.view))
      ((i.lanes (i.en o.view)).map fun l => (l, 0x10400)) with
      | .ok as => as.isEmpty
      | .error _ => false) = true ∧
    (match prepareStore (pairIn.begun i o.view) i { acc := .write, aligned := false, types := anyType } (2 ^ o.lg) [] with
      | .ok r => r.2.isEmpty
      | .error _ => false) = true ∧
    (foldE (fun (u : State) l => if (txnOf u i l).active then
        (match txAccess u i 0x71 (2 ^ o.lg) l o.f.hint.toNat 0x10400 (some (toLE (2 ^ o.lg) 0)) with
        | .error e => .error e
        | .ok (w, none) => .ok w
        | .ok (w, some _) => .ok (w.advance i (maskOf (· == l)))) else .ok u)
      (pairIn.begun i o.view) (i.lanes (i.en o.view))).isOk = true := by
  decide +kernel

/-- Lane 0 in a transaction that has touched n lines. -/
def deep (n : Nat) : State := onLane (inside (aimed one 0 0x10400) [0]) 0 fun x =>
  { x with txn := { x.txn with touched := (List.range n).map fun k => ⟨k, k, true, false, 0, 0⟩ } }

theorem wit_TransactionalAccess_footprint : sessionSpace 0xFFFF000000000000 = false ∧ sessionSpace 0x10400 = true ∧
    (∀ n ∈ [31, 32], ∃ i ∈ (deep n).iss?, bandLines (deep n) i (linesMet (deep n) i 0x10400 4) = n + 1 ∧
      intra (deep n) i 0 true (linesMet (deep n) i 0x10400 4) = [] ∧ (match txClass (deep n) i .write 0x71 4 0x10400 with
        | .ok p => !(deep n).heldFrom i.group (i.self 0) (p.holdLines i 4) && !p.hasContent && (match p with
          | .virt [q] => q.len == 4 && q.pa % 64 == q.va.toNat % 64
          | _ => false)
        | _ => false) = true ∧
      ((deep n).find? i.group.gid).map (·.1) = some i.core ∧ i.band < i.group.bands.length ∧ i.bandOf.lanes.length = 32) := by
  decide +kernel

theorem wit_TransactionalAccess_barred : ∀ ins ∈ ([.atom .add (m .n32 (v 4) (v 8) z (v 5) 0), .red .add (m .n32 z (v 8) z (v 5) 0)] : List Instr),
    ∃ w ∈ viewOf ins, ∃ i ∈ pairIn.iss?, i.doomed = 0 ∧ i.active ≠ 0 ∧ i.rep = none ∧ i.lead = false ∧ (w i).check i = none ∧
      i.txnBarred (i.en (w i)) (w i).op = i.active := by
  decide +kernel

/-- A serial transaction's end. -/
def serial0 : State := onSess (onLane (inside one [0]) 0 fun x => { x with txn := { x.txn with serial := true, aborts := 8 } })
  fun x => { x with tokenHolder := some ⟨1, 0, 0⟩ }
theorem wit_XendCommits_serial : ∃ i ∈ serial0.iss?, i.clear serial0 (viewXend (r .b32 z z z z)) = true ∧ i.group.ver = none ∧
    ∀ l ∈ i.lanes (i.en (viewXend (r .b32 z z z z))), (i.group.lane i.band l).txn.active = true ∧
      (serial0.begun i (viewXend (r .b32 z z z z))).heldFrom i.group (i.self l) (txnOf (serial0.begun i (viewXend (r .b32 z z z z))) i l).wset = false ∧
      (commitReady (serial0.begun i (viewXend (r .b32 z z z z))) i l).toOption.isSome = true := by
  decide +kernel

/-- Lane 0 stores to a line that lane 31's serial transaction holds, with the token in the unit. -/
def heldLine : State := onSess (onLane (onLane (inside (aimed lanes2 0 0x10400) [31]) 0 fun x => { x with k := 2 }) 31 fun x =>
    { x with txn := { x.txn with serial := true, touched := [⟨0x410, 0x410, false, true, 0, 0⟩] } })
  fun x => { x with tokenHolder := some ⟨1, 0, 31⟩ }
theorem wit_Stores_held : ∃ i ∈ heldLine.iss?, ∃ o ∈ storeOp i.rep (.st { m .b32 z (v 8) z (v 4) 0 with g := ⟨false, 1⟩ }),
    i.clear heldLine o.view = true ∧ i.inTxn (i.en o.view) = 0 ∧ i.tokenHere = true ∧
    ∃ p ∈ okOf (checkAccess (heldLine.begun i o.view) i { acc := .write, aligned := false, types := anyType } 0x10400 4),
      heldLanes (heldLine.begun i o.view) i 4 [⟨0, 0x10400, p⟩] = 1 := by
  decide +kernel

theorem wit_ReadAfterWrite_run : one.linkLate ≠ 1 ∧ (∀ j < 8, onChip (0x10400 + j) = false) := by decide +kernel

/-- The guard of `POPF` enables no lane and a row is there. -/
def rows2 : State := on one fun g => { g with bands := g.bands.map fun b => { b with fq := [[1], [2]] } }
theorem wit_ForwardPops_none : ∃ i ∈ rows2.iss?, i.doomed = 0 ∧ i.active ≠ 0 ∧
    (viewPopf { r .b32 (v 4) z z z with g := ⟨false, 1⟩ }).check i = none ∧ i.en (viewPopf { r .b32 (v 4) z z z with g := ⟨false, 1⟩ }) = 0 ∧
    (viewPopf { r .b32 (v 4) z z z with g := ⟨false, 1⟩ }).guardUse.busy i i.active = false ∧ i.bandOf.fq = [[1], [2]] := by
  decide +kernel

/-- A register stack in memory; a lane whose LO stands above its window, and one that grows past its block. -/
def stacked (base size lo : Nat) : State :=
  onSess (onLane (dev8 (dev8 one 0x8120 [0x1A03D]) 0x8130 [0x1B03D]) 0 fun x => { x with base := base, size := size, lo := lo })
    fun x => { x with rsBase := 0x12000 }
def raises (s : State) (n : Nat) : Bool := s.iss?.any fun i => i.clear s (viewAlloc (im .b32 z z n)) &&
  (i.lanes (i.en (viewAlloc (im .b32 z z n)))).all fun l => decide ((i.group.lane i.band l).base + n ≤ i.sess.rsDepth) &&
    ((s.begun i (viewAlloc (im .b32 z z n))).raiseTop i.sess i.bandOf l (i.group.lane i.band l)
      ((i.group.lane i.band l).base + (i.group.lane i.band l).size) ((i.group.lane i.band l).base + n)
      (newLo i.launch.desc.blockRegs (i.group.lane i.band l).lo (i.group.lane i.band l).base n)).toOption.isSome
theorem wit_AllocSetsWindow_memory : raises (stacked 0 592 0) 640 = true ∧ raises (stacked 16 8 32) 64 = true := by decide +kernel

/-- Positions below LO that come back read as zero, though register-stack memory held another word (03 R57). -/
theorem test_alloc_below_lo : after (.alloc (im .b32 z z 64)) (mem (stacked 16 8 32) 0x1AC00 (List.replicate 8 7)) (fun t =>
    (spGet t.phys.bytes 0x1AC00, spGet t.phys.bytes 0x1AC03)) = some (0, 0) := by
  decide +kernel

/-- Lane 0 has room for the window and lane 31 has none. -/
def second : State := onLane lanes2 31 fun x => { x with base := 600 }
theorem wit_StackLimits_second : ∃ i ∈ second.iss?, i.clear second (viewAlloc (im .b32 z z 592)) = true ∧
    i.lanes (i.en (viewAlloc (im .b32 z z 592))) = [0, 31] ∧ i.sess.rsDepth < (i.group.lane i.band 31).base + 592 ∧
    (i.group.lane i.band 0).base + 592 ≤ i.sess.rsDepth ∧
    ((second.begun i (viewAlloc (im .b32 z z 592))).raiseTop i.sess i.bandOf 0 (i.group.lane i.band 0)
      ((i.group.lane i.band 0).base + (i.group.lane i.band 0).size) ((i.group.lane i.band 0).base + 592)
      (newLo i.launch.desc.blockRegs (i.group.lane i.band 0).lo (i.group.lane i.band 0).base 592)).toOption.isSome = true := by
  decide +kernel

/-- A unit with a ring and a fault service, with a ring alone, and with the service alone. -/
def faulting (ring service : Bool) : State :=
  let s := if service then dev8 one 0x1010 [0x11000] else one
  if ring then onSess (dev8 s 0x10800 [3, 0]) fun x => { x with tring := 0x10800, tringcap := 3, tdeleg := 0 } else s
def pageTrap : Trap := { mkTrap 8 1 with pages := [(0x12000, true)] }
def recorded (s : State) (t : Trap) (f : State → Iss → Ring1 → Bool) : Bool := s.iss?.any fun i =>
  (s.issOf i.core i.group.gid i.who).any fun j => match s.ringWrite j.sess (recordBytes { j with active := i.active, pc := i.pc, priv := i.priv }
      (t.taken s i 1).clock (unitInfo { j with active := i.active, pc := i.pc, priv := i.priv } j.bandOf 1 1) (t.taken s i 1) false) with
    | (s2, r) => f s2 i r

theorem wit_TrapTaken : pageTrap.code.toNat = 8 ∧ (mkTrap 0x0F 0).code.toNat ≠ 8 ∧ (mkTrap 0x0B 0).code.toNat = 0x0B ∧
    recorded (faulting true true) pageTrap (fun s2 i r => s2.fring i.sess != 0 && (match r with
      | .done n => n == 3
      | _ => false) && (s2.faultBatch i.sess pageTrap.pages (pageTrap.sub.toNat % 4) false).isSome) = true ∧
    recorded (faulting true false) pageTrap (fun s2 i r => s2.fring i.sess == 0 && (match r with
      | .done n => n == 3
      | _ => false)) = true ∧
    ((faulting false true).iss?.any fun i => i.sess.tring == 0 && (faulting false true).fring i.sess != 0 &&
      ((faulting false true).faultBatch i.sess pageTrap.pages (pageTrap.sub.toNat % 4) false).isSome) = true := by
  decide +kernel

/-- Lane 31 is at another PC than lane 0: a trap of lane 0 splits the band. -/
theorem wit_TrapTaken_split : ∃ i ∈ (onLane lanes2 31 fun x => { x with pc := 0x10001 }).iss?,
    i.bandOf.classes (i.bandOf.partOf 0) = [0x7FFFFFFF, 0x80000000] ∧ (i.bandOf.partOf 0).getLsbD 31 = true ∧ (i.bandOf.lane 31).runnable = true := by
  decide +kernel

theorem wit_TrapTaken_capacity : ∃ i ∈ (onLaunch tasked fun l => { l with desc := { l.desc with policy := true, versioned := true } }).iss?,
    i.launch.desc.policy = true := by
  decide +kernel

/-- A result of the lead stream; and lane 31 left out by its guard. -/
theorem wit_RegisterFrame_others : regMeets leads (fun i => intOp i.rep (.iadd (.r (r .s32 (g 4) (g 8) (g 10) z)))) = true ∧
    (leads.iss?.any fun i => i.lead && spWf i.group.g) = true ∧
    ((onLane lanes2 0 fun x => { x with k := 2 }).iss?.any fun i => (intOp i.rep (.iadd (.r { r2 .s32 with g := ⟨false, 1⟩ }))).any fun o =>
      i.en o.view == 1 && i.active.getLsbD 31 && !i.active.getLsbD 5) = true := by
  decide +kernel

end Sys2Proof.Tests
end

section
/-! PROOFS. The execution model (01_execution_model.md): a unit's turn, a step, and the events of a core. -/

namespace Sys2Proof.Machine

open Sys2Proof

/-! ### A unit's turn (07 R133 to R136) -/

/-- The word of a checked line is the word of its slot, where the entry check, if one is due, passes. -/
theorem State.wordOf_checked {s : State} {i : Iss} {line : Nat} (hline : fetchLine s i i.pc = .ok line) (hcheck : checkLine line = none)
    (htarget : i.atEntry = true → targetBit line (i.pc.toNat % 64) = true) :
    s.wordOf i = .ok (slotWord line (i.pc.toNat % 64), runEnd line (i.pc.toNat % 64)) := by
  have hentry : (i.atEntry && !targetBit line (i.pc.toNat % 64)) = false := by
    cases he : i.atEntry
    · rfl
    · simp [htarget he]
  simp [State.wordOf, hline, hcheck, hentry]

/-- A unit outside a slot's run executes the word that its fetch returns, and has had its turn. -/
theorem State.issueTurn_fetched {s : State} {u : UnitRef} {i : Iss} {w : BitVec 96} {last : Bool}
    (hiss : ({ s with issuer := some u } : State).iss? = some i) (hactive : i.active ≠ 0)
    (hword : ({ s with issuer := some u } : State).wordOf i = .ok (w, last)) :
    s.issueTurn { unit := u, slot := none, captured := none } =
      (match exec (decode w) ((({ s with issuer := some u } : State).entered i).captureWord i w) with
      | .next t => .next (t.turned i)
      | .fault f => .fault f
      | .refused r => .refused r) := by
  have hsome : (i.active == 0) = false := by simpa using hactive
  simp only [State.issueTurn, hiss, hsome, hword, Bool.false_eq_true, if_false] <;> rfl

/-- Settles O4: the fetched word is that of the slot, and a unit outside a run does no more than execute it. -/
theorem unitRunsDecoded : Obligations.UnitRunsDecoded := by
  intro s u i line o hiss hactive hline hcheck htarget hexec
  subst hexec
  exact State.issueTurn_fetched hiss hactive (State.wordOf_checked hline hcheck htarget)

/-! ### A step (entry 2) -/

/-- With an empty agenda, the module acts on its own. -/
theorem step_of_agenda_nil {s : State} (hagenda : s.agenda = []) : step s = s.internal := by
  simp [step, State.cycle, hagenda, State.takeNext]

/-- Where no other agent has a step and one unit may issue, that unit issues. -/
theorem State.internal_of_one_turn {s : State} {t : Turn} (hopen : s.open_ = []) (hturns : s.turns = [t]) : s.internal = s.issueStep t := by
  simp [State.internal, hopen, hturns, pick]

/-- A step whose writes no serial transaction holds back: the instruction, then what a walker may fill. -/
theorem State.issueStep_next {s u : State} {t : Turn} (h : s.issueTurn t = .next u) :
    s.issueStep t = .next (if u.clash then s else u.mayFill t.unit.core).finish := by
  simp only [State.issueStep, h]
  split <;> rfl

/-- An input at the head of the agenda is taken where no serial transaction holds it back. -/
theorem step_of_agenda_cons {s t : State} {i : Instr} {rest : List Instr} (hagenda : s.agenda = i :: rest)
    (hexec : exec i { s with agenda := rest } = .next t) (hclash : t.clash = false) : step s = .next t.finish := by
  simp [step, State.cycle, hagenda, State.takeNext, hexec, hclash]

/-- Settles O5: `internal` has one choice left, and `takeNext` takes the head of the agenda. -/
theorem stepRunsOneTurn : Obligations.StepRunsOneTurn := by
  refine ⟨?_, fun s t i rest => step_of_agenda_cons⟩
  intro s u t hagenda hopen hturns hturn
  refine ⟨if u.clash then s else u.mayFill t.unit.core, ?_, ?_, ?_⟩
  · rw [step_of_agenda_nil hagenda, State.internal_of_one_turn hopen hturns, State.issueStep_next hturn]
  · intro hclash; simp [hclash]
  · intro hclash; simp [hclash]

/-! ### The events of a core -/

/-- `RUN_START`: the band whose turn it is runs at its broadcast PC (01 R25, 02 R41). -/
theorem exec_runStart {s : State} {core slot gid bi : Nat} {x : IssueSlot} {b : Band} {pc : Pc}
    (hslot : (s.core core).slots[slot]? = some x) (hfree : x.run = none) (hissue : (s.core core).mayIssue = true)
    (hturn : argMin (fun (e : Nat × Nat × Band) => e.2.2.turnKey)
      (((s.core core).eligible slot).filter fun (e : Nat × Nat × Band) => (s.anyGroup e.1).any s.together) = some (gid, bi, b))
    (hpc : broadcast b.lastRun (b.waitingPcs x gid bi) = some pc) :
    exec (.runStart core slot) s = .next ((s.modGroupOn core gid fun g => g.modBand bi fun y => { y with lastRun := pc }).modCore core
      fun k => { k with slots := updAt (fun y => { y with run := some { gid := gid, band := bi, pc := pc, count := 0 } }) k.slots slot }) := by
  change execRunStart core slot s = _
  simp [execRunStart, hslot, hfree, hissue, hturn, hpc]

/-- `RESULT_ARRIVAL` of lanes: those whose wait has lifted issue again (02 R43). -/
theorem exec_resultArrival_lanes {s : State} {u : UnitRef} {g : Group} {i : Iss} {b : Nat} {m : LaneMask} (hunit : s.unit? u = some (g, i))
    (hwho : u.who = .lanes b m) : exec (.resultArrival u) s = .next (s.modLanes i m fun l x =>
      if s.lifted u.core g (some b) l x.wait then { x with wait := .none } else x) := by
  change execResultArrival u s = _
  simp only [execResultArrival, hunit, hwho]

/-- `RESULT_ARRIVAL` of a lead stream whose wait has lifted (02 R43). -/
theorem exec_resultArrival_lead {s : State} {u : UnitRef} {g : Group} {i : Iss} (hunit : s.unit? u = some (g, i)) (hwho : u.who = .lead) :
    exec (.resultArrival u) s = .next (s.modLead i fun x =>
      if s.lifted u.core g none 0 x.wait then { x with wait := .none } else x) := by
  change execResultArrival u s = _
  simp only [execResultArrival, hunit, hwho]

/-- `SPILL_TRANSFER_DONE` of a lane whose band has still to start: its lanes' stores of zeros are performed, and it starts (03 R56). -/
theorem exec_spillTransferDone {s t : State} {core rgs band lane : Nat} {g : Group} {b : Band} {i : Iss}
    (hgroup : s.groupAt? core rgs = some g) (hband : g.bands[band]? = some b) (hstarted : b.started = false)
    (hlane : (maskOf fun l => (b.lane l).status != .tail).getLsbD lane = true)
    (hiss : s.issOf core g.gid (.lanes band (maskOf fun l => (b.lane l).status != .tail)) = some i)
    (hzeros : foldE (fun (t : State) (l : Nat) => foldE (fun u p => areaStore u i l (BitVec.ofNat 64 (stackAddr i.sess b p l)) (toLE 4 0)) t
      (List.range (b.lane l).lo)) s (lanesOf (maskOf fun l => (b.lane l).status != .tail)) = .ok t) :
    exec (.spillTransferDone core rgs band lane) s =
      .next (t.modGroupOn core g.gid fun h => h.modBand band fun y => { y with started := true }) := by
  change execSpillTransferDone core rgs band lane s = _
  simp only [execSpillTransferDone, hgroup, hband, hstarted, hlane, hiss, hzeros, Bool.not_true, Bool.or_self, Bool.false_eq_true, if_false]

/-- `QUEUE_PROTOCOL_DETECT`: the unit of a running group whose queues cannot progress traps (01 R22). -/
theorem exec_queueProtocolDetect {s : State} {core rgs k : Nat} {g : Group} {who : Who} {i : Iss} (hgroup : s.groupAt? core rgs = some g)
    (hphase : g.phase = .running) (htrouble : g.queueTrouble = some (who, k)) (hiss : s.issOf core g.gid who = some i) :
    exec (.queueProtocolDetect core rgs) s = .next (s.takeTrap i (poppingEnabled s i) (mkTrap queueProtocol k)) := by
  change execQueueProtocolDetect core rgs s = _
  simp [execQueueProtocolDetect, hgroup, hphase, htrouble, hiss]

/-- `REJOIN_RELEASE`: the released lanes run on as one fragment (01 R27). -/
theorem exec_rejoinRelease {s : State} {core rgs band : Nat} {g : Group} {b : Band} (hgroup : s.groupAt? core rgs = some g)
    (hband : g.bands[band]? = some b) (hreleased : b.released ≠ 0) :
    exec (.rejoinRelease core rgs band) s = .next (s.modGroupOn core g.gid fun h => h.modBand band fun x =>
      { x with
        lanes := x.lanes.mapIdx fun l y => if b.released.getLsbD l then { y with status := .running }.advance else y
        frags := b.reunite b.released }) := by
  change execRejoinRelease core rgs band s = _
  have hsome : (b.released == 0) = false := by simpa using hreleased
  simp only [execRejoinRelease, hgroup, hband, hsome, Bool.false_eq_true, if_false]

/-! ### Masks of lanes -/

/-- The number whose bits below `n` are the answers of a test. -/
def bitSum (p : Nat → Bool) (n : Nat) : Nat := (List.range n).foldl (fun a l => if p l then a + 2 ^ l else a) 0

theorem maskOf_eq_bitSum (p : Nat → Bool) : maskOf p = BitVec.ofNat 32 (bitSum p 32) := rfl

theorem bitSum_succ (p : Nat → Bool) (n : Nat) : bitSum p (n + 1) = 2 ^ n * (p n).toNat + bitSum p n := by
  cases h : p n <;> simp [bitSum, List.range_succ, h, Nat.add_comm]

theorem bitSum_lt (p : Nat → Bool) (n : Nat) : bitSum p n < 2 ^ n := by
  induction n with
  | zero => simp [bitSum]
  | succ n ih =>
    rw [bitSum_succ, Nat.pow_succ]
    cases p n <;> simp <;> omega

theorem testBit_bitSum (p : Nat → Bool) (n l : Nat) : (bitSum p n).testBit l = (decide (l < n) && p l) := by
  induction n with
  | zero => simp [bitSum]
  | succ n ih =>
    rw [bitSum_succ, Nat.testBit_two_pow_mul_add _ (bitSum_lt p n), ih]
    rcases Nat.lt_trichotomy l n with h | rfl | h
    · simp [h, Nat.lt_succ_of_lt h]
    · cases p l <;> simp
    · have habove : ¬ l < n + 1 := by omega
      simp [Nat.not_lt_of_gt h, habove, Nat.testBit_bool_toNat, Nat.sub_ne_zero_of_lt h]

/-- A mask holds the lanes below 32 that pass its test. -/
@[simp] theorem getLsbD_maskOf (p : Nat → Bool) (l : Nat) : (maskOf p).getLsbD l = (decide (l < 32) && p l) := by
  rw [maskOf_eq_bitSum, BitVec.getLsbD_ofNat, testBit_bitSum, ← Bool.and_assoc, Bool.and_self]

/-- Lanes parked at the PC of a released lane are released with it (01 R27). -/
theorem Band.released_of_same_pc {b : Band} {l m : Nat} (hm : m < 32) (hl : b.released.getLsbD l = true)
    (hparked : (b.parkedMask m).isSome = true) (hpc : (b.lane m).pc = (b.lane l).pc) : b.released.getLsbD m = true := by
  unfold Band.released at hl ⊢
  split at hl
  · simp at hl
  · next l0 _ =>
    simp only [getLsbD_maskOf, Bool.and_eq_true, beq_iff_eq] at hl
    obtain ⟨_, _, hpc0⟩ := hl
    simp [hm, hparked, hpc, hpc0]

/-- Settles O40: each event's meaning where its condition holds, and the lanes that a release takes together. -/
theorem coreEvents : Obligations.CoreEvents := by
  refine ⟨fun _ _ _ _ _ _ _ _ => exec_runStart, ?arrival, fun _ _ _ _ _ _ _ _ _ => exec_spillTransferDone,
    fun _ _ _ _ _ _ _ => exec_queueProtocolDetect, fun _ _ _ _ _ _ => exec_rejoinRelease, fun _ _ _ _ => Band.released_of_same_pc⟩
  case arrival => exact fun _ _ _ _ hunit => ⟨fun _ _ => exec_resultArrival_lanes hunit, exec_resultArrival_lead hunit⟩

end Sys2Proof.Machine
end

section
/-! PROOFS. From a launch to issue (02_launch_to_issue.md): placing groups, answering `FETCHWK`, the ends of groups and launches. -/

namespace Sys2Proof.Machine

open Sys2Proof

/-! ### Placing (02 R34 to R39) -/

/-- The head of a session is placed on the first set of cores that holds it, by the step of its kind: a group or a cluster. -/
theorem State.placeHead_found {s t : State} {slot : Nat} {cluster : Bool} {x : Session} {l : Launch} {sets : List (List Nat)}
    (hsession : s.session? slot = some x) (hhead : s.headLaunch slot = some l) (hkind : decide (1 < l.desc.cluster) = cluster)
    (hfound : sets.findSome? (fun cs => s.placeAll x l cs l.headGroups) = some t) :
    s.placeHead slot cluster sets = t.modLaunch slot l.number fun y => y.markPlaced l.headGroups := by
  simp [State.placeHead, hsession, hhead, hkind, hfound]

/-- `PLACE_GROUP`: the head group is placed on a core of the session's set (02 R34 to R36). -/
theorem exec_placeGroup {s t : State} {session : Nat} {x : Session} {l : Launch} (hsession : s.session? session = some x)
    (hhead : s.headLaunch session = some l) (hkind : ¬ 1 < l.desc.cluster)
    (hroom : s.placeAll x l (s.placeCores session) l.headGroups = some t) :
    exec (.placeGroup session) s = .next (t.modLaunch session l.number fun y => y.markPlaced l.headGroups) := by
  change execPlaceGroup session s = _
  have hfound : [s.placeCores session].findSome? (fun cs => s.placeAll x l cs l.headGroups) = some t := by simp [hroom]
  rw [execPlaceGroup, State.placeHead_found hsession hhead (decide_eq_false hkind) hfound]

/-- `PLACE_CLUSTER`: the members of the head cluster are placed on the first die that holds them all (02 R39). -/
theorem exec_placeCluster {s t : State} {session : Nat} {x : Session} {l : Launch} (hsession : s.session? session = some x)
    (hhead : s.headLaunch session = some l) (hkind : 1 < l.desc.cluster)
    (hroom : ((List.range 4).map fun d => (s.placeCores session).filter fun c => dieOf c == d).findSome?
      (fun cs => s.placeAll x l cs l.headGroups) = some t) :
    exec (.placeCluster session) s = .next (t.modLaunch session l.number fun y => y.markPlaced l.headGroups) := by
  change execPlaceCluster session s = _
  rw [execPlaceCluster, State.placeHead_found hsession hhead (decide_eq_true hkind) hroom]

/-! ### Answering `FETCHWK` (02 R49) -/

/-- Bytes written at an offset of a resident group's scratchpad. -/
def State.putScratch (s : State) (core gid off : Nat) (bs : List Byte) : State :=
  s.modGroupOn core gid fun h => { h with scratch := spSetList h.scratch off bs }

/-- A `FETCHWK` whose launch has no group left is answered with FLAG 2 alone (02 R49). -/
theorem exec_fetchwkServe_end {s : State} {slot c : Nat} {r : FetchReq} {g : Group} (hreq : s.fetchReq? slot = some r)
    (hgroup : ({ s with fetches := s.fetches.erase r } : State).find? r.gid = some (c, g))
    (hend : ((({ s with fetches := s.fetches.erase r } : State).launchOf? g).bind fun l => l.withdrawNext) = none) :
    exec (.fetchwkServe slot) s =
      .next (({ s with fetches := s.fetches.erase r } : State).putScratch c r.gid r.off (toLE 4 2)) := by
  change execFetchwkServe slot s = _
  have hpair : ((({ s with fetches := s.fetches.erase r } : State).launchOf? g).bind fun l => l.withdrawNext.map fun n => (l, n)) = none := by
    simpa using hend
  simp only [execFetchwkServe, hreq, hgroup, hpair, State.putScratch]

/-- A `FETCHWK` whose launch has a group left withdraws it: the mailbox holds its coordinates, then FLAG 1 (02 R49). -/
theorem exec_fetchwkServe_withdraw {s : State} {slot c n : Nat} {r : FetchReq} {g : Group} {l : Launch} (hreq : s.fetchReq? slot = some r)
    (hgroup : ({ s with fetches := s.fetches.erase r } : State).find? r.gid = some (c, g))
    (hlaunch : ({ s with fetches := s.fetches.erase r } : State).launchOf? g = some l) (hnext : l.withdrawNext = some n) :
    exec (.fetchwkServe slot) s =
      .next ((((({ s with fetches := s.fetches.erase r } : State).modLaunch g.session g.launch fun k => { k with nextGroup := n + 1 }).modGroupOn
        c r.gid fun h => { h with withdrawn := h.withdrawn ++ [n] }).putScratch c r.gid (r.off + 4)
          (toLE 4 (l.desc.coords n).1 ++ toLE 2 (l.desc.coords n).2.1 ++ toLE 2 (l.desc.coords n).2.2 ++ toLE 4 0)).putScratch c r.gid r.off
          (toLE 4 1)) := by
  change execFetchwkServe slot s = _
  simp only [execFetchwkServe, hreq, hgroup, hlaunch, Option.bind_some, hnext, Option.map_some, State.putScratch]

/-! ### The end of a group (01 R15) -/

/-- What a group keeps when all its streams have ended: no queued rows, no running affine stream, and the phase in which it waits to leave. -/
def Group.finished (g : Group) (task : Bool) : Group :=
  { g with
    phase := if task then .committing else .retiring
    bq := []
    streams := g.streams.map fun x => { x with running := false }
    bands := g.bands.map fun b => { b with fq := [] } }

/-- `GROUP_FINISH`: a running group whose streams have ended enters RETIRING, or as a task joins the commit queue of its launch. -/
theorem exec_groupFinish {s : State} {core rgs : Nat} {g : Group} (hgroup : s.groupAt? core rgs = some g) (hphase : g.phase = .running)
    (hover : g.over = true) :
    exec (.groupFinish core rgs) s =
      (let s1 := (s.petWatchdog g.session g.launch).modGroupOn core g.gid fun h => h.finished g.ver.isSome
       .next (if g.ver.isSome then
         s1.modLaunch g.session g.launch fun l => { l with commitQueue := l.commitQueue ++ [g.gid] } else s1)) := by
  change execGroupFinish core rgs s = _
  have hstays : (g.phase != .running || !g.over) = false := by simp [hphase, hover]
  simp only [execGroupFinish, hgroup, hstays, Group.finished, Bool.false_eq_true, if_false]

/-- `RETIRING_END`: nothing still reaches the group, so its matrix instructions complete, its stores are performed and it leaves
(01 R15, 06 R130). -/
theorem exec_retiringEnd {s : State} {core gid : Nat} {g : Group}
    (hgroup : ((s.core core).active.groups.find? fun g => g.gid == gid) = some g) (hphase : g.phase = .retiring)
    (hcopies : s.copiesInto gid = false) (hfetches : ∀ r ∈ s.fetches, r.gid ≠ gid) :
    exec (.retiringEnd core gid) s = .next (((s.opsDone core gid).performAll core).dropGroup core gid) := by
  change execRetiringEnd core gid s = _
  have hanswered : (s.fetches.any fun r => r.gid == gid) = false := by simpa using hfetches
  simp [execRetiringEnd, hgroup, hphase, hcopies, hanswered]

/-! ### The end of a launch (22 R393) -/

/-- `LAUNCH_COMPLETE`: a launch that is over, and whose record can be written, ends with its record. -/
theorem exec_launchComplete {s t : State} {session launch : Nat} {l : Launch} {x : Session} (hlaunch : s.launch? session launch = some l)
    (hsession : s.session? session = some x) (hover : s.launchOver l = true) (hfault : l.complFault = none) (hlost : l.complLost = false)
    (hwrite : s.sxWrite x l.desc.compl.toNat (complRecord s x l) = .ok t) :
    exec (.launchComplete session launch) s = .next (t.closeLaunch l) := by
  change execLaunchComplete session launch s = _
  simp [execLaunchComplete, hlaunch, hsession, hover, hfault, hlost, hwrite]

/-- Settles O42: each event's meaning where its condition holds; a head is placed as a group or as a cluster by the size its launch names. -/
theorem distributorEvents : Obligations.DistributorEvents := by
  refine ⟨?place, ?fetch, fun _ _ _ _ => exec_groupFinish, fun _ _ _ _ => exec_retiringEnd, fun _ _ _ _ _ _ => exec_launchComplete⟩
  case place =>
    intro s t session x l cluster hsession hhead hkind hroom
    cases cluster with
    | false => exact exec_placeGroup hsession hhead (by simpa using hkind) hroom
    | true => exact exec_placeCluster hsession hhead (hkind.mp rfl) hroom
  case fetch =>
    exact fun _ _ _ _ _ hreq hgroup => ⟨exec_fetchwkServe_end hreq hgroup, fun _ _ => exec_fetchwkServe_withdraw hreq hgroup⟩

end Sys2Proof.Machine
end

section
/-! PROOFS. The machine state (03_machine_state.md): lane registers, mask registers and guards, and the limits of the register stack. -/

namespace Sys2Proof.Machine

open Sys2Proof

/-! ### Lane registers (03 R53, R57) -/

/-- A write makes its value the newest one of its position and takes back the kill mark there. -/
theorem Lane.value_put_same {x : Lane} (hwf : spWf x.regs = true) (ctr l p : Nat) (v : Word) : (x.put p v).value ctr l p = v := by
  have hlive : (x.put p v).killed.contains p = false := by simp
  simp only [Lane.value, hlive, Bool.false_and, Bool.false_eq_true, if_false, Lane.put_regs, spGet_spSet_same hwf]

theorem Lane.value_put_other {x : Lane} (hwf : spWf x.regs = true) (ctr l : Nat) {p q : Nat} (hq : q ≠ p) (v : Word) :
    (x.put p v).value ctr l q = x.value ctr l q := by
  have hkill : (x.put p v).killed.contains q = x.killed.contains q := by
    rw [Bool.eq_iff_iff]
    simp [hq]
  simp only [Lane.value, hkill, Lane.put_regs, Lane.put_banks, spGet_spSet_other hwf v hq]

/-- A position at or above LO is read in the register array. -/
theorem readV_resident {s : State} {i : Iss} {l idx : Nat} (hlo : (i.group.lane i.band l).lo ≤ (i.group.lane i.band l).base + idx) :
    readV s i l idx = .ok ((i.group.lane i.band l).value s.freeCtr l ((i.group.lane i.band l).base + idx)) := by
  simp only [readV, readPos, hlo, if_true]

/-- A position at or above LO is written in the register array. -/
theorem writeV_resident {s : State} {i : Iss} {l idx : Nat} (v : Word)
    (hlo : (i.group.lane i.band l).lo ≤ (i.group.lane i.band l).base + idx) :
    writeV s i l idx v = .ok (s.modGroupOn i.core i.group.gid fun g =>
      g.modLane i.band l fun y => y.put ((i.group.lane i.band l).base + idx) v) := by
  simp only [writeV, writePos, hlo, if_true]

/-- Settles O11: a resident position takes no access to memory, and the register array reads as it was last written. -/
theorem Lane.registerAccess : Obligations.RegisterAccess := by
  refine ⟨fun s i l idx v hlo => ⟨readV_resident hlo, writeV_resident v hlo⟩, fun x ctr l p q v hwf => ⟨?same, ?other, ?canonical⟩⟩
  case same => exact Lane.value_put_same hwf ctr l p v
  case other => exact fun hq => Lane.value_put_other hwf ctr l hq v
  case canonical => exact spWf_spSet p v hwf

/-! ### Mask registers and guards (03 R60) -/

@[simp] theorem kBit_zero (k : BitVec 8) : kBit k 0 = true := rfl

@[simp] theorem setK_zero (k : BitVec 8) (v : Bool) : setK k 0 v = k := rfl

theorem kBit_of_pos (k : BitVec 8) {n : Nat} (hn : 0 < n) : kBit k n = k.getLsbD n := by simp [kBit, Nat.ne_of_gt hn]

theorem setK_true (k : BitVec 8) {n : Nat} (hn : 0 < n) : setK k n true = k ||| BitVec.ofNat 8 (2 ^ n) := by
  simp [setK, Nat.ne_of_gt hn]

theorem setK_false (k : BitVec 8) {n : Nat} (hn : 0 < n) : setK k n false = k &&& ~~~ BitVec.ofNat 8 (2 ^ n) := by
  simp [setK, Nat.ne_of_gt hn]

theorem getLsbD_oneBit {n m : Nat} (hm : m < 8) : (BitVec.ofNat 8 (2 ^ n)).getLsbD m = decide (m = n) := by
  rw [BitVec.getLsbD_ofNat, Nat.testBit_two_pow, decide_eq_true hm, Bool.true_and]
  exact decide_eq_decide.mpr eq_comm

/-- A write reaches the bit of its own mask register alone. -/
theorem getLsbD_setK (k : BitVec 8) {n m : Nat} (v : Bool) (hn : 0 < n) (hm : m < 8) :
    (setK k n v).getLsbD m = if m = n then v else k.getLsbD m := by
  cases v with
  | true =>
    rw [setK_true k hn, BitVec.getLsbD_or, getLsbD_oneBit hm]
    by_cases hmn : m = n <;> simp [hmn]
  | false =>
    rw [setK_false k hn, BitVec.getLsbD_and, BitVec.getLsbD_not, getLsbD_oneBit hm]
    by_cases hmn : m = n <;> simp [hmn, hm]

theorem kBit_setK_same (k : BitVec 8) {n : Nat} (v : Bool) (hn : 0 < n) (hn8 : n < 8) : kBit (setK k n v) n = v := by
  simp [kBit_of_pos _ hn, getLsbD_setK k v hn hn8]

theorem kBit_setK_other (k : BitVec 8) {n m : Nat} (v : Bool) (hm : m < 8) (hmn : m ≠ n) : kBit (setK k n v) m = kBit k m := by
  rcases Nat.eq_zero_or_pos n with rfl | hn
  · rfl
  · rcases Nat.eq_zero_or_pos m with rfl | hm0
    · rfl
    · rw [kBit_of_pos _ hm0, kBit_of_pos _ hm0, getLsbD_setK k v hn hm, if_neg hmn]

/-- A lane is enabled where it is active and its bit of the guard's mask register is the one asked for. -/
theorem Iss.getLsbD_enabled {i : Iss} (g : Guard) {l : Nat} (hlane : i.lead = false) (hl : l < 32) :
    (i.enabled g).getLsbD l = true ↔ i.active.getLsbD l = true ∧ kBit (i.group.lane i.band l).k g.mask.toNat = !g.neg := by
  simp only [Iss.enabled, Iss.kAt, hlane, Bool.false_eq_true, if_false, getLsbD_maskOf, decide_eq_true hl, Bool.true_and, Bool.and_eq_true,
    bne_iff_ne, ne_eq, Bool.eq_not_iff]

/-- The lead stream is enabled where its own bit of the guard's mask register is the one asked for. -/
theorem Iss.enabled_lead {i : Iss} (g : Guard) (hlead : i.lead = true) :
    i.enabled g ≠ 0 ↔ kBit i.group.lead.k g.mask.toNat = !g.neg := by
  simp [Iss.enabled, hlead, Bool.eq_not_iff]

/-- A write of a mask bit is to the lead stream's set, or to the lane's. -/
theorem State.wrK_eq (s : State) (i : Iss) (l n : Nat) (v : Bool) :
    s.wrK i l n v = s.modGroupOn i.core i.group.gid fun g =>
      if i.lead then { g with lead := { g.lead with k := setK g.lead.k n v } }
      else g.modLane i.band l fun x => { x with k := setK x.k n v } := by
  cases hlead : i.lead <;> simp [State.wrK, State.modLead, hlead]

/-- Settles O58: `k0` has no bit of its own, and a guard compares one bit. -/
theorem maskRegisters : Obligations.MaskRegisters := by
  refine ⟨fun k n m v hm => ⟨kBit_zero _, setK_zero k v, ?same, kBit_setK_other k v hm⟩, State.wrK_eq,
    fun i g l => Iss.getLsbD_enabled g, fun i g => Iss.enabled_lead g⟩
  case same =>
    rintro hn rfl
    exact kBit_setK_same k v hn hm

/-! ### The lowest failing lane -/

theorem Iss.lanes_ascending (i : Iss) (en : LaneMask) : (i.lanes en).Pairwise (· < ·) := by
  unfold Iss.lanes lanesOf
  split
  · exact List.pairwise_singleton _ _
  · exact List.pairwise_lt_range.filter _

/-- A map along ascending items stops at the lowest one that fails. -/
theorem mapE_lowest {β ε : Type} {f : Nat → Except ε β} {e : ε} {l : Nat} : ∀ {xs : List Nat}, xs.Pairwise (· < ·) → l ∈ xs →
    (∀ m ∈ xs, m < l → ∃ a, f m = .ok a) → f l = .error e → mapE f xs = .error e
  | x :: xs, hasc, hl, hbefore, hfail => by
    rw [List.pairwise_cons] at hasc
    obtain ⟨hx, hasc⟩ := hasc
    rcases List.mem_cons.mp hl with rfl | hl
    · simp [mapE, hfail]
    · obtain ⟨a, ha⟩ := hbefore x List.mem_cons_self (hx l hl)
      have ih := mapE_lowest hasc hl (fun m hm => hbefore m (List.mem_cons_of_mem _ hm)) hfail
      simp [mapE, ha, ih]

/-- A trap that is no `PAGE_FAULT` asks for no pages, whatever other lanes meet. -/
theorem Halt.beside_trap {α β : Type} {t : Trap} (hcode : t.code.toNat ≠ pageFault) (xs : List α) (f : α → Except Halt β) :
    (Halt.trap t).beside xs f = .trap t := by
  simp [Halt.beside, Halt.also, hcode]

/-- The trap of the lowest failing lane is that of the instruction, and no lane is written. -/
theorem perLane_trap {α : Type} {i : Iss} {en : LaneMask} {s : State} {read : Nat → Except Halt α}
    {write : State → Nat → α → Except Halt State} {l : Nat} {t : Trap} (hl : l ∈ i.lanes en)
    (hbefore : ∀ m ∈ i.lanes en, m < l → ∃ a, read m = .ok a) (hfail : read l = .error (.trap t))
    (hcode : t.code.toNat ≠ pageFault) : perLane i en s read write = .error (.trap t) := by
  have hmap : mapE (fun l => (read l).map fun a => (l, a)) (i.lanes en) = .error (.trap t) := by
    refine mapE_lowest (i.lanes_ascending en) hl (fun m hm hlt => ?_) (by simp [hfail, Except.map])
    obtain ⟨a, ha⟩ := hbefore m hm hlt
    exact ⟨(m, a), by simp [ha, Except.map]⟩
  simp [perLane, mapLanes, hmap, Halt.beside_trap hcode]

/-- An instruction whose body traps has no effect but the trap. -/
theorem issue_trap {s : State} {i : Iss} {vf : Iss → View} (ctl always : Bool) {body : Body} {t : Trap} (h : Ready s i (vf i))
    (hbody : body i (i.en (vf i)) (s.begun i (vf i)) = .error (.trap t)) :
    issue s vf ctl always body = .next (s.takeTrap i (i.en (vf i)) t) := by
  rw [issue_ready ctl always body h, runBody, hbody]

/-! ### The limits of the register stack (03 R58) -/

/-- The `STACK_LIMIT` trap of a lane. -/
def stackTrap (l sub : Nat) : Trap := { mkTrap stackLimit sub with lane := l, field := 8 }

theorem memTrap_stackLimit (l sub : Nat) : memTrap false l (mkTrap stackLimit sub) = .trap (stackTrap l sub) := rfl

theorem stackTrap_not_pageFault (l sub : Nat) : (stackTrap l sub).code.toNat ≠ pageFault := by
  change (BitVec.ofNat 8 stackLimit).toNat ≠ pageFault
  decide

/-- `ALLOC`: the lowest lane without room for its window traps, where the lanes before it could take theirs. -/
theorem exec_alloc_depth {s : State} {i : Iss} {f : IForm} {l : Nat} (h : Ready s i (viewAlloc f)) (heights : f.imm.toNat % 8 = 0)
    (hmin : 8 ≤ f.imm.toNat) (hmax : f.imm.toNat ≤ 640) (hl : l ∈ i.lanes (i.en (viewAlloc f)))
    (hdeep : i.sess.rsDepth < (i.group.lane i.band l).base + f.imm.toNat)
    (hbefore : ∀ m ∈ i.lanes (i.en (viewAlloc f)), m < l → (i.group.lane i.band m).base + f.imm.toNat ≤ i.sess.rsDepth ∧
      ∃ w, (s.begun i (viewAlloc f)).raiseTop i.sess i.bandOf m (i.group.lane i.band m)
        ((i.group.lane i.band m).base + (i.group.lane i.band m).size) ((i.group.lane i.band m).base + f.imm.toNat)
        (newLo i.launch.desc.blockRegs (i.group.lane i.band m).lo (i.group.lane i.band m).base f.imm.toNat) = .ok w) :
    exec (.alloc f) s = .next (s.takeTrap i (i.en (viewAlloc f)) (stackTrap l 0)) := by
  change execAlloc f s = _
  rw [execAlloc]
  have hsize : (f.imm.toNat % 8 != 0 || decide (f.imm.toNat < 8) || decide (f.imm.toNat > 640)) = false := by
    simp [heights, Nat.not_lt.mpr hmin, Nat.not_lt.mpr hmax]
  apply issue_trap (vf := fun _ => viewAlloc f) _ _ h
  refine perLane_trap hl (fun m hm hlt => ?before) ?fails (stackTrap_not_pageFault l 0)
  case before =>
    obtain ⟨hroom, w, hraise⟩ := hbefore m hm hlt
    exact ⟨newLo i.launch.desc.blockRegs (i.group.lane i.band m).lo (i.group.lane i.band m).base f.imm.toNat, by
      simp only [hsize, Nat.not_lt.mpr hroom, hraise, gt_iff_lt, Bool.false_eq_true, if_false]⟩
  case fails => simp only [hsize, hdeep, memTrap_stackLimit, gt_iff_lt, Bool.false_eq_true, if_false, if_true]

/-- What a lane of the call family has passed before its stack is looked at: its shift leaves a window, and its target may be entered. -/
structure CallReaches (f : BForm) (indirect : Bool) (s : State) (i : Iss) (l : Nat) (target : Pc) : Prop where
  shift : 8 * f.wsh.toNat + 8 ≤ (i.group.lane i.band l).size
  enters : checkTarget s i l indirect target = .ok ()

/-- The stack of a lane has room for a call. -/
structure CallFits (i : Iss) (l : Nat) : Prop where
  links : (i.group.lane i.band l).nlinks < 4096
  depth : (i.group.lane i.band l).base + (i.group.lane i.band l).size ≤ i.sess.rsDepth

/-- The stack of a lane has no room for a call, with the subcode that says why. -/
inductive CallRefused (i : Iss) (l : Nat) : Nat → Prop
  | depth (hdeep : i.sess.rsDepth < (i.group.lane i.band l).base + (i.group.lane i.band l).size) : CallRefused i l 0
  | links (hdepth : (i.group.lane i.band l).base + (i.group.lane i.band l).size ≤ i.sess.rsDepth)
      (hfull : 4096 ≤ (i.group.lane i.band l).nlinks) : CallRefused i l 1

/-- The call family: the lowest lane that its stack refuses traps, where the lanes before it could call. -/
theorem callBody_stackLimit {f : BForm} {indirect : Bool} {target : Iss → State → Nat → Except Halt Pc} {pc : Nat → Pc} {i : Iss}
    {en : LaneMask} {s : State} {l sub : Nat} (hl : l ∈ i.lanes en) (htarget : ∀ m ∈ i.lanes en, target i s m = .ok (pc m))
    (hreach : ∀ m ∈ i.lanes en, m ≤ l → CallReaches f indirect s i m (pc m))
    (hbefore : ∀ m ∈ i.lanes en, m < l → CallFits i m) (hfull : CallRefused i l sub) :
    callBody f indirect target i en s = .error (.trap (stackTrap l sub)) := by
  rw [callBody]
  refine perLane_trap hl (fun m hm hlt => ⟨pc m, ?before⟩) ?fails (stackTrap_not_pageFault l sub)
  case before =>
    obtain ⟨hshift, henters⟩ := hreach m hm (Nat.le_of_lt hlt)
    obtain ⟨hlinks, hdepth⟩ := hbefore m hm hlt
    simp [Nat.not_lt.mpr hshift, htarget m hm, henters, Nat.not_lt.mpr hdepth, Nat.not_le.mpr hlinks]
  case fails =>
    obtain ⟨hshift, henters⟩ := hreach l hl (Nat.le_refl l)
    cases hfull with
    | depth hdeep => simp [Nat.not_lt.mpr hshift, htarget l hl, henters, hdeep, memTrap_stackLimit]
    | links hdepth hlinks => simp [Nat.not_lt.mpr hshift, htarget l hl, henters, Nat.not_lt.mpr hdepth, hlinks, memTrap_stackLimit]

/-- An instruction of the call family: its view, and what its lanes' targets are. -/
def CallsTo (s : State) (i : Iss) (f : BForm) (ins : Instr) (v : View) (indirect : Bool) (target : Nat → Pc) : Prop :=
  ins = .call f ∧ v = viewCall f ∧ indirect = false ∧ (∀ m, target m = directTarget i.pc f.loff f.slot 0) ∨
  ins = .calli f ∧ v = viewCalli f ∧ indirect = true ∧ (∀ m ∈ i.lanes (i.en v), rd2 (s.begun i v) i m f.a = .ok (target m))

/-- `CALL` and `CALLI`: the lowest lane that its stack refuses traps, and the call has no effect. -/
theorem exec_call_stackLimit {s : State} {i : Iss} {f : BForm} {ins : Instr} {v : View} {indirect : Bool} {target : Nat → Pc} {l sub : Nat}
    (hins : CallsTo s i f ins v indirect target) (h : Ready s i v) (hl : l ∈ i.lanes (i.en v))
    (hreach : ∀ m ∈ i.lanes (i.en v), m ≤ l → CallReaches f indirect (s.begun i v) i m (target m))
    (hbefore : ∀ m ∈ i.lanes (i.en v), m < l → CallFits i m) (hfull : CallRefused i l sub) :
    exec ins s = .next (s.takeTrap i (i.en v) (stackTrap l sub)) := by
  rcases hins with ⟨rfl, rfl, rfl, htarget⟩ | ⟨rfl, rfl, rfl, htarget⟩
  · change execCall f s = _
    rw [execCall]
    exact issue_trap (vf := fun _ => viewCall f) _ _ h
      (callBody_stackLimit hl (fun m _ => congrArg Except.ok (htarget m).symm) hreach hbefore hfull)
  · change execCalli f s = _
    rw [execCalli]
    exact issue_trap (vf := fun _ => viewCalli f) _ _ h (callBody_stackLimit hl htarget hreach hbefore hfull)

/-- LO after a return, as `RET` chooses it (03 R57). -/
theorem Returns.lo_eq {s : State} {i : Iss} {l : Nat} {r : RetInfo} (h : Returns s i l r) :
    (let x := i.group.lane i.band l
     let low := max (x.base - linkShift r.link) (x.base - linkShift r.link + linkSize r.link - i.launch.desc.blockRegs)
     if x.lo > low then low else x.lo) = r.lo := by
  obtain ⟨_, _, _, hlo, _⟩ := h
  rw [hlo]
  dsimp only
  split <;> omega

/-- The links left on chip after a return, as `RET` finds them: read back where the last one is popped and older ones are in
memory (03 R59). -/
theorem Returns.links_eq {s : State} {i : Iss} {l : Nat} {r : RetInfo} (h : Returns s i l r) :
    (let x := i.group.lane i.band l
     if x.links.dropLast.isEmpty && decide (x.nlinks - 1 > 0) then
       mapE (fun j => linkRead s i l (x.nlinks - 1 - min 8 (x.nlinks - 1) + j)) (List.range (min 8 (x.nlinks - 1)))
     else .ok x.links.dropLast) = .ok r.links := by
  obtain ⟨_, _, _, _, _, hlinks⟩ := h
  have hlast : ((i.group.lane i.band l).links.dropLast.isEmpty && decide ((i.group.lane i.band l).nlinks - 1 > 0)) = true ↔
      (i.group.lane i.band l).links.length ≤ 1 ∧ 1 < (i.group.lane i.band l).nlinks := by
    simp only [Bool.and_eq_true, List.isEmpty_iff_length_eq_zero, List.length_dropLast, decide_eq_true_eq]
    omega
  simp only [hlast]
  split at hlinks
  · next hmore => rw [if_pos hmore, hlinks]
  · next hmore => rw [if_neg hmore, hlinks]

/-- `RET`: the lowest lane without a link traps, where the lanes before it could return. -/
theorem exec_ret_empty {s : State} {i : Iss} {f : RForm} {r : Nat → RetInfo} {l : Nat} (h : Ready s i (viewRet f))
    (hl : l ∈ i.lanes (i.en (viewRet f))) (hempty : (i.group.lane i.band l).nlinks = 0)
    (hbefore : ∀ m ∈ i.lanes (i.en (viewRet f)), m < l → Returns (s.begun i (viewRet f)) i m (r m)) :
    exec (.ret f) s = .next (s.takeTrap i (i.en (viewRet f)) (stackTrap l 2)) := by
  change execRet f s = _
  rw [execRet]
  apply issue_trap (vf := fun _ => viewRet f) _ _ h
  refine perLane_trap hl (fun m hm hlt => ⟨r m, ?before⟩) ?fails (stackTrap_not_pageFault l 2)
  case before =>
    have hreturns := hbefore m hm hlt
    have hlo := hreturns.lo_eq
    have hlinks := hreturns.links_eq
    obtain ⟨hsome, hlink, henters, _, hfill, _⟩ := hreturns
    have hpushed : ((i.group.lane i.band m).nlinks == 0) = false := by simpa using Nat.ne_of_gt hsome
    simp only [hpushed, ← hlink, hlo, hfill, hlinks, henters, Bool.false_eq_true, if_false]
  case fails => simp only [hempty, memTrap_stackLimit, beq_self_eq_true, if_true]

/-- Settles O59: in each case the lowest lane over its limit traps, and the instruction has no effect but that trap. -/
theorem stackLimits : Obligations.StackLimits := by
  refine ⟨?alloc, ?call, ?ret⟩
  case alloc =>
    rintro s i f h heights hmin hmax ⟨l, hl, hdeep, hbefore⟩
    exact ⟨stackTrap l 0, rfl, rfl, exec_alloc_depth h heights hmin hmax hl hdeep hbefore⟩
  case call =>
    intro s i f ins v indirect target l hins h hl hpass
    have hreach : ∀ m ∈ i.lanes (i.en v), m ≤ l → CallReaches f indirect (s.begun i v) i m (target m) := fun m hm hle =>
      let ⟨hshift, henters, _⟩ := hpass m hm hle
      ⟨hshift, henters⟩
    have hbefore : ∀ m ∈ i.lanes (i.en v), m < l → CallFits i m := fun m hm hlt =>
      let ⟨_, _, hfits⟩ := hpass m hm (Nat.le_of_lt hlt)
      let ⟨hlinks, hdepth⟩ := hfits hlt
      ⟨hlinks, hdepth⟩
    exact ⟨fun hdeep => ⟨stackTrap l 0, rfl, rfl, exec_call_stackLimit hins h hl hreach hbefore (.depth hdeep)⟩,
      fun hdepth hfull => ⟨stackTrap l 1, rfl, rfl, exec_call_stackLimit hins h hl hreach hbefore (.links hdepth hfull)⟩⟩
  case ret =>
    intro s i f r l h hl hempty hbefore
    exact ⟨stackTrap l 2, rfl, rfl, exec_ret_empty h hl hempty hbefore⟩

end Sys2Proof.Machine
end

section
/-! PROOFS. The memory hierarchy (05_memory_hierarchy.md): bytes stored at a place read back there, and no others change. -/

namespace Sys2Proof

/-! ### Reads after writes of lists -/

/-- Successive entries, read one by one. -/
theorem spGetList_eq_map {w : Nat} (m : Sparse w) (n : Nat) : ∀ i, spGetList m i n = (List.range n).map fun j => spGet m (i + j) := by
  induction n with
  | zero => intro i; rfl
  | succ n ih =>
    intro i
    simp only [spGetList, ih, List.range_succ_eq_map, List.map_cons, List.map_map, Nat.add_zero]
    congr 2
    funext j
    simp only [Function.comp_apply, Nat.add_right_comm i 1 j, Nat.add_succ]

/-- The indices that a list of values was written to read as that list. -/
theorem map_spGet_spSetList {w : Nat} {m : Sparse w} (i : Nat) (vs : List (BitVec w)) (h : spWf m = true) :
    ((List.range vs.length).map fun j => spGet (spSetList m i vs) (i + j)) = vs := by
  apply List.ext_getElem
  · simp
  · intro j _ hj
    simp [spGet_spSetList vs i (i + j) h, hj]

theorem alGet?_alSet {α : Type} (m : List (Nat × α)) (i j : Nat) (v : α) :
    alGet? (alSet m i v) j = if j = i then some v else alGet? m j := by
  induction m with
  | nil => simp only [alSet, alGet?]
  | cons e m ih =>
    simp only [alSet]
    split
    · next heq => subst heq; simp only [alGet?]; split <;> rfl
    split
    · simp only [alGet?]
    · next hne _ =>
      simp only [alGet?, ih]
      by_cases hj : j = e.1
      · simp [hj, Ne.symm hne]
      · simp [hj]

/-- The keys set one after another each hold the value set for them. -/
theorem alGet?_foldl_alSet {α : Type} (v : Nat → α) (a n : Nat) (m : List (Nat × α)) {j : Nat} (hj : j < n) :
    alGet? ((List.range n).foldl (fun m k => alSet m (a + k) (v k)) m) (a + j) = some (v j) := by
  induction n with
  | zero => omega
  | succ n ih =>
    rw [List.range_succ, List.foldl_append, List.foldl_cons, List.foldl_nil, alGet?_alSet]
    by_cases hlast : j = n
    · simp [hlast]
    · simp [hlast, ih (by omega)]

/-! ### A changed element is found where it was -/

theorem find?_updFirst {α : Type} {p : α → Bool} {f : α → α} (hf : ∀ x, p (f x) = p x) (xs : List α) :
    (updFirst p f xs).find? p = (xs.find? p).map f := by
  induction xs with
  | nil => rfl
  | cons x xs ih => cases hx : p x <;> simp [updFirst, hx, hf, ih]

theorem find?_map_of_keeps {α : Type} {p : α → Bool} {f : α → α} (hf : ∀ x, p (f x) = p x) (xs : List α) :
    (xs.map f).find? p = (xs.find? p).map f := by
  rw [List.find?_map, show p ∘ f = p from funext hf]

end Sys2Proof

namespace Sys2Proof.Machine

open Sys2Proof

/-! ### Where a group is found once one has changed -/

theorem State.find?_eq_findSome (s : State) (gid : Nat) :
    s.find? gid = (List.range 64).findSome? fun c => ((s.core c).active.groups.find? fun g => g.gid == gid).map fun g => (c, g) := by
  simp only [State.find?, State.residents, List.find?_flatMap, List.find?_map]
  rfl

/-- A group is found on the core it was on, where the groups of each core have changed in place. -/
theorem State.find?_of_cores {s t : State} {gid : Nat} {k : Nat → Group → Group}
    (h : ∀ c, ((t.core c).active.groups.find? fun g => g.gid == gid) = ((s.core c).active.groups.find? fun g => g.gid == gid).map (k c)) :
    t.find? gid = (s.find? gid).map fun e => (e.1, k e.1 e.2) := by
  rw [State.find?_eq_findSome, State.find?_eq_findSome, List.map_findSome?]
  congr 1
  funext c
  simp [h c, Function.comp_def]

theorem State.core_modCore (s : State) (c d : Nat) (f : Core → Core) :
    (s.modCore c f).core d = if d = c ∧ d < s.cores.length then f (s.core d) else s.core d := updAt_getD f Core.init s.cores c d

/-- A change of every core, which leaves a core after reset as it is. -/
theorem State.core_map {s t : State} {f : Core → Core} (ht : t.cores = s.cores.map f) (hf : f Core.init = Core.init) (c : Nat) :
    t.core c = f (s.core c) := by
  rw [State.core, State.core, ht, ← congrArg (List.getD _ c) hf, List.getD_map]

theorem State.core_absent {s : State} {c : Nat} (h : s.cores.length ≤ c) : s.core c = Core.init := by
  rw [State.core, List.getD_eq_default _ _ h]

/-- Resident groups that have changed, on every core, are found where they were. -/
theorem State.find?_mapGroups (s : State) (gid : Nat) {k : Group → Group} (hk : ∀ g, (k g).gid = g.gid) :
    ({ s with cores := s.cores.map fun c => { c with active := { c.active with groups := c.active.groups.map k } } } : State).find? gid =
      (s.find? gid).map fun e => (e.1, k e.2) :=
  State.find?_of_cores (k := fun _ => k) fun c => by
    rw [State.core_map (s := s) rfl rfl]
    exact find?_map_of_keeps (fun g => by simp [hk]) _

theorem State.find?_modGroupOn (s : State) (c gid : Nat) {f : Group → Group} (hf : ∀ g, (f g).gid = g.gid) :
    (s.modGroupOn c gid f).find? gid = (s.find? gid).map fun e => (e.1, if e.1 = c then f e.2 else e.2) := by
  refine State.find?_of_cores (k := fun d g => if d = c then f g else g) fun d => ?_
  rw [State.modGroupOn, State.core_modCore]
  by_cases hd : d = c
  · subst hd
    by_cases hlen : d < s.cores.length
    · simpa [hlen] using find?_updFirst (fun g => by simp [hf]) _
    · simp [hlen, State.core_absent (Nat.le_of_not_lt hlen), Core.init]
  · simp [hd]

/-- A resident group that has changed is found where it was. -/
theorem State.find?_modGroup (s : State) (gid : Nat) {f : Group → Group} (hf : ∀ g, (f g).gid = g.gid) :
    (s.modGroup gid f).find? gid = (s.find? gid).map fun e => (e.1, f e.2) := by
  cases h : s.find? gid with
  | none => simp [State.modGroup, h]
  | some e => simp [State.modGroup, h, State.find?_modGroupOn s e.1 gid hf]

/-- A resident group comes before one that is swapped out. -/
theorem State.anyGroup_eq (s : State) (gid : Nat) :
    s.anyGroup gid = ((s.find? gid).map (·.2)).or (s.parked.find? fun g => g.gid == gid) := by
  rw [State.anyGroup, List.find?_append, List.find?_map]
  rfl

/-- The groups that are swapped out are those of the saved contexts and of the shadow banks. -/
theorem State.parked_eq (s : State) :
    s.parked = (s.sessions.flatMap fun x => x.saved.flatMap fun c => c.groups) ++ s.cores.flatMap fun c => c.shadow.groups := rfl

theorem Context.find?_modGroup (x : Context) (gid : Nat) {f : Group → Group} (hf : ∀ g, (f g).gid = g.gid) :
    ((x.modGroup gid f).groups.find? fun g => g.gid == gid) = (x.groups.find? fun g => g.gid == gid).map f :=
  find?_updFirst (fun g => by simp [hf]) x.groups

theorem Shadow.find?_modGroup (x : Shadow) (gid : Nat) {f : Group → Group} (hf : ∀ g, (f g).gid = g.gid) :
    ((x.map fun y => y.modGroup gid f).groups.find? fun g => g.gid == gid) = (x.groups.find? fun g => g.gid == gid).map f := by
  cases x with
  | empty => rfl
  | outgoing c => exact Context.find?_modGroup c gid hf
  | loaded c => exact Context.find?_modGroup c gid hf

/-- A group that has changed, resident or swapped out, is found under its name. -/
theorem State.anyGroup_modAny (s : State) (gid : Nat) {f : Group → Group} (hf : ∀ g, (f g).gid = g.gid) :
    (s.modAny gid f).anyGroup gid = (s.anyGroup gid).map f := by
  unfold State.modAny
  split
  · next h =>
    obtain ⟨e, he⟩ := Option.isSome_iff_exists.mp h
    simp [State.anyGroup_eq, State.find?_modGroup s gid hf, he]
  · next h =>
    have hnone : s.find? gid = none := by simpa using h
    rw [State.anyGroup_eq, State.anyGroup_eq, hnone]
    rw [State.find?_of_cores (s := s) (k := fun _ g => g), hnone]
    · simp only [Option.map_none, Option.none_or, State.parked_eq, List.find?_append, List.find?_flatMap, List.findSome?_map,
        Function.comp_def, Context.find?_modGroup _ gid hf, Shadow.find?_modGroup _ gid hf, List.map_findSome?, Option.map_or]
    · intro c
      rw [State.core_map (s := s) rfl rfl]
      simp

/-! ### The version that stores go into, and a party about to write -/

/-- The version that the session stores of a group go into, where they go into one (20 R355, R356). -/
def State.version? (s : State) (gid : Nat) : Option Version := (s.anyGroup gid).bind fun g => if g.buffering then g.ver else none

theorem State.isSome_version? (s : State) (gid : Nat) : (s.version? gid).isSome = (s.anyGroup gid).any (·.buffering) := by
  cases h : s.anyGroup gid with
  | none => simp [State.version?, h]
  | some g =>
    cases hver : g.ver with
    | none => simp [State.version?, h, Group.buffering, hver]
    | some v => cases hserial : v.serial <;> simp [State.version?, h, Group.buffering, hver, hserial]

theorem State.version?_modAny (s : State) (gid : Nat) {f : Version → Version} (hf : ∀ v, (f v).serial = v.serial) :
    (s.modAny gid fun g => { g with ver := g.ver.map f }).version? gid = (s.version? gid).map f := by
  rw [State.version?, State.version?, State.anyGroup_modAny]
  · cases s.anyGroup gid with
    | none => rfl
    | some g =>
      cases hver : g.ver with
      | none => simp [Group.buffering, hver]
      | some v => cases hserial : v.serial <;> simp [Group.buffering, hver, hf, hserial]
  · exact fun _ => rfl

/-- Which transactions are doomed is no matter of a version. -/
theorem State.version?_doomBy (s : State) (p : Group → Bool) (self : Option LaneRef) (h : Lane → Bool) (gid : Nat) :
    (s.doomBy p self h).version? gid = s.version? gid := by
  unfold State.doomBy
  split
  · have hfind := State.find?_mapGroups s gid (k := fun g => if p g then g.doom self h else g) fun g => by split <;> rfl
    simp only [State.version?, State.anyGroup_eq, hfind, State.parked_eq, List.flatMap_map]
    cases s.find? gid with
    | none => rfl
    | some e => simp only [Option.map_some, Option.some_or, Option.bind_some]; split <;> rfl
  · rfl

@[simp] theorem State.version?_contend (s : State) (self : Option LaneRef) (ls : List Nat) (gid : Nat) :
    (s.contend self ls).version? gid = s.version? gid := by
  have hdoom := State.version?_doomBy s (fun g => !g.buffering) self (fun x => x.holdsLine ls) gid
  unfold State.contend
  dsimp only
  split <;> exact hdoom

@[simp] theorem State.version?_contendIn (s : State) (on : Nat) (self : Option LaneRef) (ls : List Nat) (gid : Nat) :
    (s.contendIn on self ls).version? gid = s.version? gid := by
  have hdoom := State.version?_doomBy s (fun g => g.gid == on) self (fun x => x.holdsLine ls) gid
  unfold State.contendIn
  dsimp only
  split <;> exact hdoom

theorem State.contend_cores (s : State) (self : Option LaneRef) (ls : List Nat) :
    s.contend self ls = { s with cores := (s.contend self ls).cores, clash := (s.contend self ls).clash } := by
  unfold State.contend
  rw [State.doom_cores]
  dsimp only
  split <;> rfl

theorem State.OnlyPhys.version? {s t : State} (h : s.OnlyPhys t) (gid : Nat) : t.version? gid = s.version? gid := by rw [h]; rfl

/-! ### A run outside versions: memory holds the bytes stored (05 R97, R110, entry 3) -/

/-- Memory has these bytes, and no dirty bitmap is kept that a cache's work could write to. -/
def State.Holds (m : Mem) (t : State) : Prop := t.phys.bytes = m ∧ t.unmarked

theorem State.Holds.markUnits {m : Mem} {t : State} (us : List Nat) (h : t.Holds m) : (t.markUnits us).Holds m := by
  obtain ⟨hbytes, hun⟩ := h
  have hsame : t.markUnits us = t := by unfold State.markUnits; rw [hun]; rfl
  rw [hsame]
  exact ⟨hbytes, hun⟩

/-- What is known of memory's lines may change. -/
theorem State.Holds.phys {m : Mem} {t : State} {p : Phys} (h : t.Holds m) (hp : p.bytes = t.phys.bytes) : ({ t with phys := p } : State).Holds m := by
  obtain ⟨hbytes, hun⟩ := h
  exact ⟨hp.trans hbytes, hun⟩

theorem State.Holds.reach {m : Mem} {t : State} (a n : Nat) (h : t.Holds m) : (t.reach a n).Holds m := by
  obtain ⟨hbytes, hun⟩ := h
  exact ⟨by rw [State.reach_phys, hbytes], State.unmarked_keeps _ _ hun (State.reach_only ..)⟩

theorem State.Holds.room {m : Mem} {t : State} {out : State → CacheBlock → State} (c : CacheAt) (n : Nat) (u : CacheUse)
    (h : t.Holds m) (ho : ∀ b, (out t b).Holds m) : (t.room out c n u).Holds m := by
  unfold State.room
  dsimp only
  split
  · exact h
  split
  · exact h
  · exact ho _

theorem State.Holds.drop {m : Mem} {t : State} (b : CacheBlock) (h : t.Holds m) : (t.drop b).Holds m := h.phys rfl

/-- A write-back moves no byte: there is one copy of memory (entry 3). -/
theorem State.Holds.writeBack {m : Mem} {t : State} (b : CacheBlock) (h : t.Holds m) : (t.writeBack b).Holds m := by
  unfold State.writeBack
  split
  · exact h
  · refine State.Holds.markUnits _ (State.Holds.phys ?_ (Phys.writeBackL2_bytes ..))
    split
    · exact h
    · exact h.room _ _ _ fun b => h.drop b
  · split
    · exact h
    · exact (h.reach _ _).phys (by rw [State.reach_phys, Phys.cleaned_bytes])

theorem State.Holds.cacheRoom {m : Mem} {t : State} (c : CacheAt) (n : Nat) (u : CacheUse) (h : t.Holds m) : (t.cacheRoom c n u).Holds m :=
  h.room c n u fun b => (h.writeBack b).drop b

/-- The caches take note of a write, and no byte changes. -/
theorem State.Holds.cacheWrite {m : Mem} {t : State} (u : CacheUse) (a n : Nat) (h : t.Holds m) : (t.cacheWrite u a n).Holds m := by
  unfold State.cacheWrite
  refine foldl_keeps (State.Holds m) _ (fun t e ht => ?_) _ _ h
  refine State.Holds.markUnits _ (State.Holds.phys ?_ (by simp))
  split
  · exact ht.reach _ _
  · exact ht.cacheRoom _ _ _

theorem State.store_bytes {s : State} (u : CacheUse) (own : Nat → Option Owner) (a : Nat) (bs : List Byte) (h : s.unmarked) :
    (s.store u own a bs).phys.bytes = spSetList s.phys.bytes a bs := by
  obtain ⟨hbytes, _⟩ := State.Holds.cacheWrite u a bs.length ⟨rfl, h⟩
  rw [State.store, Phys.put_bytes, hbytes]

/-- A link that is up loses no request that is not outstanding for too long. -/
theorem State.linkLost_of_up {s : State} (hup : s.ctrl.linkUp = true) (hlate : s.linkLate ≠ 1) (pa : Nat) : s.linkLost pa = false := by
  simp [State.linkLost, hup, hlate]

/-- A store to memory that the link does not lose: memory takes the bytes, and no version changes. -/
theorem State.putByte_memory {s : State} (x : Session) (gid : Nat) (self : Option LaneRef) (u : CacheUse) {pa : Nat} {bs : List Byte}
    (hmem : ∀ j < bs.length, onChip (pa + j) = false) (hup : s.ctrl.linkUp = true) (hlate : s.linkLate ≠ 1) (h : s.unmarked) (own : Nat) :
    (s.putByte x gid self u pa bs).phys.bytes = spSetList s.phys.bytes pa bs ∧
    (s.putByte x gid self u pa bs).version? own = s.version? own := by
  cases hchip : onChip pa with
  | true =>
    have hnil : bs = [] := by
      by_contra hne
      simpa [hchip] using hmem 0 (List.length_pos_iff.mpr hne)
    subst hnil
    simp [State.putByte, hchip, spSetList]
  | false =>
    have hun : (s.contend self (linesOf pa bs.length)).unmarked := by rw [State.contend_cores]; exact h
    have hkept : (s.contend self (linesOf pa bs.length)).linkLost pa = false := by
      rw [State.contend_cores]; exact State.linkLost_of_up hup hlate pa
    simp only [State.putByte, hchip, State.putPhys, hkept, Bool.false_and, Bool.false_eq_true, if_false]
    exact ⟨by rw [State.store_bytes _ _ _ _ hun, State.contend_phys],
      by rw [(State.store_only _ _ _ _ hun).version?, State.version?_contend]⟩

/-! ### One run of session memory -/

/-- Each byte of a run is read in the version of the task, where that holds it, and else in memory (06 R128). -/
theorem State.bytesAt_run (s : State) (x : Session) (gid : Nat) (q : Piece) (n : Nat) :
    s.bytesAt x gid (.virt [q]) n = (List.range q.len).map fun j =>
      ((s.version? gid).bind fun v => v.byte? (q.va.toNat + j)).getD (s.physByte x gid (q.pa + j)) := by
  simp only [State.bytesAt, List.flatMap_singleton]
  congr 1
  funext j
  change (match (s.version? gid).bind fun v => v.byte? (q.va.toNat + j) with
    | some b => b
    | none => s.physByte x gid (q.pa + j)) = _
  cases (s.version? gid).bind fun v => v.byte? (q.va.toNat + j) <;> rfl

/-- A version that has taken the bytes of a store to the virtual bytes from `va` (06 R128, 20 R355). -/
def Version.buffered (v : Version) (va : Nat) (bs : List Byte) : Version :=
  { v with
    bytes := (List.range bs.length).foldl (fun m j => alSet m (va + j) (bs.getD j 0)) v.bytes
    hints := (linesOf va bs.length).foldl (noteHint 0) v.hints }

theorem Version.byte?_buffered (v : Version) (va : Nat) (bs : List Byte) {j : Nat} (hj : j < bs.length) :
    (v.buffered va bs).byte? (va + j) = some (bs.getD j 0) := alGet?_foldl_alSet (fun k => bs.getD k 0) va bs.length v.bytes hj

/-- A store to a run of a task in a version goes into the version. -/
theorem State.putAt_buffered {s : State} (x : Session) {gid : Nat} (self : Option LaneRef) {q : Piece} {bs : List Byte}
    (hlen : bs.length = q.len) (hbuf : (s.version? gid).isSome) :
    s.putAt x gid self (.virt [q]) bs = (s.contendIn gid self (linesOf q.va.toNat q.len)).modAny gid fun g =>
      { g with ver := g.ver.map fun v => v.buffered q.va.toNat bs } := by
  have hany : (s.anyGroup gid).any (·.buffering) = true := by rw [← State.isSome_version?, hbuf]
  simp [State.putAt, State.putHint, hany, Version.buffered, ← hlen]

/-- A store to a run outside versions goes to physical memory. -/
theorem State.putAt_unbuffered {s : State} (x : Session) {gid : Nat} (self : Option LaneRef) {q : Piece} {bs : List Byte}
    (hlen : bs.length = q.len) (hplain : s.version? gid = none) :
    s.putAt x gid self (.virt [q]) bs = s.putByte x gid self (s.useFor x gid 0 q.leaf q.va.toNat) q.pa bs := by
  have hany : (s.anyGroup gid).any (·.buffering) = false := by rw [← State.isSome_version?, hplain]; rfl
  simp [State.putAt, State.putHint, hany, ← hlen]

/-- Bytes stored to a run of a task in a version read back from the version, and memory stands (06 R128). -/
theorem State.readBack_buffered {s : State} (x : Session) {gid : Nat} (self : Option LaneRef) {q : Piece} {bs : List Byte}
    (hlen : bs.length = q.len) (hbuf : (s.version? gid).isSome) :
    (s.putAt x gid self (.virt [q]) bs).bytesAt x gid (.virt [q]) bs.length = bs ∧
    (s.putAt x gid self (.virt [q]) bs).phys = s.phys := by
  obtain ⟨v, hv⟩ := Option.isSome_iff_exists.mp hbuf
  have hver : (s.putAt x gid self (.virt [q]) bs).version? gid = some (v.buffered q.va.toNat bs) := by
    rw [State.putAt_buffered x self hlen hbuf, State.version?_modAny, State.version?_contendIn, hv, Option.map_some]
    exact fun _ => rfl
  constructor
  · rw [State.bytesAt_run, hver]
    apply List.ext_getElem
    · simp [hlen]
    · intro j _ hj
      simp [Version.byte?_buffered v _ bs hj, hj]
  · rw [State.putAt_buffered x self hlen hbuf, State.modAny_phys, State.contendIn_phys]

/-- Bytes stored to a run of memory outside versions read back from memory, where no other byte changes (05 R97, R110). -/
theorem State.readBack_unbuffered {s : State} (x : Session) {gid : Nat} (self : Option LaneRef) {q : Piece} {bs : List Byte}
    (hlen : bs.length = q.len) (hmem : ∀ j < q.len, onChip (q.pa + j) = false) (hwf : s.MemOk) (hup : s.ctrl.linkUp = true)
    (hlate : s.linkLate ≠ 1) (hdbm : s.unmarked) (hplain : s.version? gid = none) :
    (s.putAt x gid self (.virt [q]) bs).bytesAt x gid (.virt [q]) bs.length = bs ∧
    ∀ a, a < q.pa ∨ q.pa + q.len ≤ a → spGet (s.putAt x gid self (.virt [q]) bs).phys.bytes a = spGet s.phys.bytes a := by
  rw [State.putAt_unbuffered x self hlen hplain]
  obtain ⟨hbytes, hver⟩ := State.putByte_memory x gid self (s.useFor x gid 0 q.leaf q.va.toNat) (hlen ▸ hmem) hup hlate hdbm gid
  constructor
  · rw [State.bytesAt_run, hver, hplain]
    calc (List.range q.len).map (fun j => State.physByte _ x gid (q.pa + j))
      _ = (List.range bs.length).map fun j => spGet (spSetList s.phys.bytes q.pa bs) (q.pa + j) := by
        rw [hlen]
        refine List.map_congr_left fun j hj => ?_
        simp [State.physByte, hmem j (List.mem_range.mp hj), hbytes]
      _ = bs := map_spGet_spSetList q.pa bs hwf
  · intro a ha
    rw [hbytes, spGet_spSetList bs q.pa a hwf, if_neg (by omega)]

/-! ### A scratchpad -/

/-- Bytes stored to the scratchpad of a resident group read back there, and memory stands. -/
theorem State.readBack_scratch {s : State} (x : Session) {gid c : Nat} (own off : Nat) {g : Group} (self : Option LaneRef) (bs : List Byte)
    (hgroup : s.find? gid = some (c, g)) (hwf : spWf g.scratch = true) :
    (s.putAt x own self (.scratch gid off) bs).bytesAt x own (.scratch gid off) bs.length = bs ∧
    (s.putAt x own self (.scratch gid off) bs).phys = s.phys := by
  simp only [State.putAt, State.putHint, State.bytesAt]
  refine ⟨?_, State.modGroup_phys ..⟩
  have hfind : (s.modGroup gid fun y => { y with scratch := spSetList y.scratch off bs }).find? gid =
      some (c, { g with scratch := spSetList g.scratch off bs }) := by
    rw [State.find?_modGroup, hgroup, Option.map_some]
    exact fun _ => rfl
  rw [hfind]
  exact (spGetList_eq_map _ _ _).trans (map_spGet_spSetList off bs hwf)

/-- Settles O23: a run goes to a version or to memory and is read from where it went, also where the task is swapped out; a scratchpad
goes with its group. -/
theorem readAfterWrite : Obligations.ReadAfterWrite := by
  refine ⟨?run, ?version, ?scratch⟩
  case run =>
    intro s x gid self q bs hlen hmem hwf hup hlate hdbm _
    cases hver : s.version? gid with
    | none => exact State.readBack_unbuffered x self hlen hmem hwf hup hlate hdbm hver
    | some v =>
      obtain ⟨hread, hphys⟩ := State.readBack_buffered x self hlen (by rw [hver]; rfl)
      exact ⟨hread, fun a _ => by rw [hphys]⟩
  case version =>
    intro s x gid c g self q bs hlen hgroup hbuf
    refine State.readBack_buffered x self hlen ?_
    simp [State.isSome_version?, State.anyGroup_eq, hgroup, hbuf]
  case scratch =>
    intro s x gid own c off g self bs hgroup hwf
    exact State.readBack_scratch x own off self bs hgroup hwf

end Sys2Proof.Machine
end

section
/-! PROOFS. The encoding of instructions (07_encoding.md): a word and its instruction determine each other, and what the checks of an
instruction and its guard decide. -/

namespace Sys2Proof

open Sys2Proof.Laws

/-! ### Fields of a word (07 R137 to R145) -/

@[simp] theorem tyOf_tyCode (t : Ty) : tyOf (tyCode t) = t := by cases t <;> rfl

@[simp] theorem tyCode_tyOf : ∀ c : BitVec 4, tyCode (tyOf c) = c := by decide

theorem getLsbD_append_low {m n k : Nat} (x : BitVec m) (y : BitVec n) (h : k < n) : (x ++ y).getLsbD k = y.getLsbD k := by
  simp only [BitVec.getLsbD_append, h, if_true]

theorem getLsbD_append_high {m n k : Nat} (x : BitVec m) (y : BitVec n) (h : n ≤ k) : (x ++ y).getLsbD k = x.getLsbD (k - n) := by
  simp only [BitVec.getLsbD_append, Nat.not_lt.mpr h, if_false]

/-- A bit is a field of width one. -/
theorem ofBool_getLsbD {n : Nat} (w : BitVec n) (k : Nat) : BitVec.ofBool (w.getLsbD k) = w.extractLsb' k 1 := by
  apply BitVec.eq_of_getLsbD_eq
  simp

@[simp] theorem specOf_encSpec (s : Spec) : specOf (encSpec s) = s := by
  simp (disch := decide) only [specOf, encSpec, getLsbD_append_low, getLsbD_append_high, BitVec.extractLsb'_append_eq_of_add_le]
  simp

@[simp] theorem encSpec_specOf (x : BitVec 12) : encSpec (specOf x) = x := by
  simp (disch := decide) only [specOf, encSpec, ofBool_getLsbD, BitVec.extractLsb'_append_extractLsb'_eq_extractLsb']
  simp

/-! ### The head of a word, bits [95:64] (07 R137) -/

section Head

variable (op : BitVec 8) (fn : BitVec 4) (ty : Ty) (g : Guard) (d : Spec) (x : BitVec 64)

theorem opOf_encHead : opOf (encHead op fn ty g d ++ x) = op.toNat := by
  obtain ⟨h, hhead⟩ := encHead_eq op fn ty g d
  rw [hhead]
  exact opOf_word op h x

@[simp] theorem fnOf_encHead : fnOf (encHead op fn ty g d ++ x) = fn.toNat := by
  simp (disch := decide) only [fnOf, encHead, BitVec.extractLsb'_append_eq_of_le, BitVec.extractLsb'_append_eq_of_add_le]
  simp

@[simp] theorem wTy_encHead : wTy (encHead op fn ty g d ++ x) = ty := by
  simp (disch := decide) only [wTy, encHead, BitVec.extractLsb'_append_eq_of_le, BitVec.extractLsb'_append_eq_of_add_le]
  simp

@[simp] theorem wGuard_encHead : wGuard (encHead op fn ty g d ++ x) = g := by
  simp (disch := decide) only [wGuard, encHead, getLsbD_append_low, getLsbD_append_high, BitVec.extractLsb'_append_eq_of_le,
    BitVec.extractLsb'_append_eq_of_add_le]
  simp

@[simp] theorem wD_encHead : wD (encHead op fn ty g d ++ x) = d := by
  simp (disch := decide) only [wD, encHead, BitVec.extractLsb'_append_eq_of_le, BitVec.extractLsb'_append_eq_of_add_le]
  simp

end Head

/-- The head fields of a word, put together again under its OP and FN. -/
theorem encHead_fields {op : BitVec 8} {fn : BitVec 4} {w : BitVec 96} (hop : opOf w = op.toNat) (hfn : fnOf w = fn.toNat) :
    encHead op fn (wTy w) (wGuard w) (wD w) = w.extractLsb' 64 32 := by
  obtain rfl : w.extractLsb' 88 8 = op := BitVec.eq_of_toNat_eq hop
  obtain rfl : w.extractLsb' 84 4 = fn := BitVec.eq_of_toNat_eq hfn
  simp (disch := decide) only [encHead, wTy, wGuard, wD, encSpec_specOf, tyCode_tyOf, ofBool_getLsbD,
    BitVec.extractLsb'_append_extractLsb'_eq_extractLsb']

/-! ### The forms (07 R141 to R145): the fields of a form stand where the decoder reads them -/

theorem rForm_encR (op : BitVec 8) (fn : BitVec 4) (f : RForm) : rForm (encR op fn f) = f := by
  simp (disch := decide) only [rForm, encR, wA, wB, wC, getLsbD_append_low, getLsbD_append_high,
    BitVec.extractLsb'_append_eq_of_add_le, BitVec.extractLsb'_append_eq_of_le]
  simp

theorem iForm_encI (op : BitVec 8) (fn : BitVec 4) (f : IForm) : iForm (encI op fn f) = f := by
  simp (disch := decide) only [iForm, encI, wA, getLsbD_append_low, getLsbD_append_high,
    BitVec.extractLsb'_append_eq_of_add_le, BitVec.extractLsb'_append_eq_of_le]
  simp

theorem mForm_encM (op : BitVec 8) (fn : BitVec 4) (f : MForm) : mForm (encM op fn f) = f := by
  simp (disch := decide) only [mForm, encM, wA, wB, wC, getLsbD_append_low,
    BitVec.extractLsb'_append_eq_of_add_le, BitVec.extractLsb'_append_eq_of_le]
  simp

theorem bForm_encB (op : BitVec 8) (fn : BitVec 4) (f : BForm) : bForm (encB op fn f) = f := by
  simp (disch := decide) only [bForm, encB, wA, BitVec.extractLsb'_append_eq_of_add_le,
    BitVec.extractLsb'_append_eq_of_le]
  simp

theorem eForm_encE (op : BitVec 8) (efn : BitVec 7) (f : EForm) : eForm (encE op efn f) = f := by
  simp (disch := decide) only [eForm, encE, wA, wB, getLsbD_append_low, getLsbD_append_high,
    BitVec.extractLsb'_append_eq_of_add_le, BitVec.extractLsb'_append_eq_of_le]
  simp

theorem efnOf_encE (op : BitVec 8) (efn : BitVec 7) (f : EForm) : efnOf (encE op efn f) = efn.toNat := by
  simp (disch := decide) only [efnOf, encE, BitVec.extractLsb'_append_eq_of_add_le, BitVec.extractLsb'_append_eq_of_le]
  simp

theorem tForm_encT (op : BitVec 8) (fn : BitVec 4) (f : TForm) : tForm (encT op fn f) = f := by
  simp (disch := decide) only [tForm, encT, getLsbD_append_low, getLsbD_append_high,
    BitVec.extractLsb'_append_eq_of_add_le, BitVec.extractLsb'_append_eq_of_le]
  simp

/-! The other way round: a word's form, encoded again under the word's OP and FN, is the word. -/

section Fields

variable {op : BitVec 8} {fn : BitVec 4} {w : BitVec 96} (hop : opOf w = op.toNat) (hfn : fnOf w = fn.toNat)

include hop hfn

theorem encR_rForm : encR op fn (rForm w) = w := by
  simp (disch := decide) only [encR, rForm, encHead_fields hop hfn, wA, wB, wC, encSpec_specOf, ofBool_getLsbD,
    BitVec.extractLsb'_append_extractLsb'_eq_extractLsb']
  simp

theorem encI_iForm : encI op fn (iForm w) = w := by
  simp (disch := decide) only [encI, iForm, encHead_fields hop hfn, wA, encSpec_specOf, ofBool_getLsbD,
    BitVec.extractLsb'_append_extractLsb'_eq_extractLsb']
  simp

theorem encM_mForm : encM op fn (mForm w) = w := by
  simp (disch := decide) only [encM, mForm, encHead_fields hop hfn, wA, wB, wC, encSpec_specOf, ofBool_getLsbD,
    BitVec.extractLsb'_append_extractLsb'_eq_extractLsb']
  simp

theorem encB_bForm : encB op fn (bForm w) = w := by
  simp (disch := decide) only [encB, bForm, encHead_fields hop hfn, wA, encSpec_specOf,
    BitVec.extractLsb'_append_extractLsb'_eq_extractLsb']
  simp

theorem encT_tForm : encT op fn (tForm w) = w := by
  simp (disch := decide) only [encT, tForm, encHead_fields hop hfn, encSpec_specOf, ofBool_getLsbD,
    BitVec.extractLsb'_append_extractLsb'_eq_extractLsb']
  simp

end Fields

theorem encE_eForm {op : BitVec 8} {efn : BitVec 7} {w : BitVec 96} (hop : opOf w = op.toNat) (hfn : fnOf w = 0)
    (hefn : efnOf w = efn.toNat) : encE op efn (eForm w) = w := by
  obtain rfl : w.extractLsb' 21 7 = efn := BitVec.eq_of_toNat_eq hefn
  simp (disch := decide) only [encE, eForm, encHead_fields (fn := 0) hop hfn, wA, wB, encSpec_specOf, ofBool_getLsbD,
    BitVec.extractLsb'_append_extractLsb'_eq_extractLsb']
  simp

/-! ### The opcode map (07 R144, R146 to R151) -/

/-- The instruction of a word with OP `16 * row + col` and FN `fn`: a cell of the opcode map. -/
def decodeAt (row col fn : Nat) (w : BitVec 96) : Option Instr :=
  match row with
  | 0x0 => decRow0 col fn w
  | 0x1 => decRow1 col fn w
  | 0x2 => decRow2 col fn w
  | 0x3 => decRow3 col fn w
  | 0x4 => decRow4 col fn w
  | 0x5 => decRow5 col fn w
  | 0x6 => decRow6 col fn w
  | 0x7 => decRow7 col fn w
  | 0x9 => decRow9 col fn w
  | 0xA => decRowA col fn w
  | 0xB => decRowB col fn w
  | 0xC => decRowC col fn w
  | 0xD => decRowD col fn w
  | 0xE => decRowE col fn w
  | 0xF => decRowF col fn w
  | _ => none

theorem decode?_eq_decodeAt (w : BitVec 96) : decode? w = decodeAt (opOf w / 16) (opOf w % 16) (fnOf w) w := rfl

theorem decode_of_some {w : BitVec 96} {i : Instr} (h : decode? w = some i) : decode w = i := by simp [decode, h]

theorem decode_of_none {w : BitVec 96} (h : decode? w = none) : decode w = .unassignedOpcode w := by simp [decode, h]

/-! ### From an instruction to its word and back -/

section Cells

variable {i : Instr} {w : BitVec 96} {op twin : BitVec 8} {fn : BitVec 4} {efn : BitVec 7}

/-- A word decodes by the cell of the OP and FN it was made with. -/
theorem decode?_encHead (ty : Ty) (g : Guard) (d : Spec) (x : BitVec 64) :
    decode? (encHead op fn ty g d ++ x) = decodeAt (op.toNat / 16) (op.toNat % 16) fn.toNat (encHead op fn ty g d ++ x) := by
  rw [decode?_eq_decodeAt, fnOf_encHead, opOf_encHead]

/-- An instruction has one word, so that it is enough that this one decodes to it. -/
theorem decode?_of_word {v : BitVec 96} (henc : encode i = some v) (hv : decode? v = some i) (hw : encode i = some w) :
    decode? w = some i := by
  obtain rfl : v = w := Option.some.inj (henc.symm.trans hw)
  exact hv

/-! An instruction whose form its cell gives back is given back: one statement for each form. -/

theorem decode?_of_encR {f : RForm} (henc : encode i = some (encR op fn f))
    (hcell : ∀ w, rForm w = f → decodeAt (op.toNat / 16) (op.toNat % 16) fn.toNat w = some i) (hw : encode i = some w) :
    decode? w = some i := decode?_of_word henc ((decode?_encHead ..).trans (hcell _ (rForm_encR op fn f))) hw

theorem decode?_of_encI {f : IForm} (henc : encode i = some (encI op fn f))
    (hcell : ∀ w, iForm w = f → decodeAt (op.toNat / 16) (op.toNat % 16) fn.toNat w = some i) (hw : encode i = some w) :
    decode? w = some i := decode?_of_word henc ((decode?_encHead ..).trans (hcell _ (iForm_encI op fn f))) hw

/-- An instruction with an I-form twin has a cell for each of its two forms. -/
theorem decode?_of_encA {f : AForm} (henc : encode i = some (encA op twin fn f))
    (hr : ∀ w, .r (rForm w) = f → decodeAt (op.toNat / 16) (op.toNat % 16) fn.toNat w = some i)
    (hi : ∀ w, .i (iForm w) = f → decodeAt (twin.toNat / 16) (twin.toNat % 16) fn.toNat w = some i) (hw : encode i = some w) :
    decode? w = some i := by
  cases f with
  | r x => exact decode?_of_encR henc (fun v hv => hr v (congrArg AForm.r hv)) hw
  | i x => exact decode?_of_encI henc (fun v hv => hi v (congrArg AForm.i hv)) hw

theorem decode?_of_encM {f : MForm} (henc : encode i = some (encM op fn f))
    (hcell : ∀ w, mForm w = f → decodeAt (op.toNat / 16) (op.toNat % 16) fn.toNat w = some i) (hw : encode i = some w) :
    decode? w = some i := decode?_of_word henc ((decode?_encHead ..).trans (hcell _ (mForm_encM op fn f))) hw

theorem decode?_of_encB {f : BForm} (henc : encode i = some (encB op fn f))
    (hcell : ∀ w, bForm w = f → decodeAt (op.toNat / 16) (op.toNat % 16) fn.toNat w = some i) (hw : encode i = some w) :
    decode? w = some i := decode?_of_word henc ((decode?_encHead ..).trans (hcell _ (bForm_encB op fn f))) hw

theorem decode?_of_encT {f : TForm} (henc : encode i = some (encT op fn f))
    (hcell : ∀ w, tForm w = f → decodeAt (op.toNat / 16) (op.toNat % 16) fn.toNat w = some i) (hw : encode i = some w) :
    decode? w = some i := decode?_of_word henc ((decode?_encHead ..).trans (hcell _ (tForm_encT op fn f))) hw

/-- In the E form EFN tells the instructions of a cell apart (07 R144). -/
theorem decode?_of_encE {f : EForm} (henc : encode i = some (encE op efn f))
    (hcell : ∀ w, eForm w = f → efnOf w = efn.toNat → decodeAt (op.toNat / 16) (op.toNat % 16) 0 w = some i)
    (hw : encode i = some w) : decode? w = some i :=
  decode?_of_word henc ((decode?_encHead ..).trans (hcell _ (eForm_encE op efn f) (efnOf_encE op efn f))) hw

theorem decode?_of_none (henc : encode i = none) (hw : encode i = some w) : decode? w = some i := by simp [henc] at hw

end Cells

/-- The word of a well-formed instruction stands for it: by its form, the cell of its OP and FN gives it back. -/
theorem decode?_encode {i : Instr} {w : BitVec 96} (hwf : i.wf = true) : encode i = some w → decode? w = some i := by
  cases i
  case nop | ret | exit | split | rejoin | imad | iadd3 | addmin | addmax | min3 | max3 | iabs | ineg | isad | lnot | fshl | fshr |
      bfi | popc | clz | ctz | brev | sel | ffma | fabs | fdiv | fsqrt | frcp | frsq | fexp2 | flog2 | fsin | fcos | ftanh | fclass |
      dot2 | dot4 | pack | bsel | lshup | lshdn | kpollAll | kpollAny | kpollWord | lpeerEq | lpeerUni | barGrp | barClu | xend |
      xabort | xtest | pushf | pushfRow | pushfAll | pushfAllRow | popf | pushb | popb | streamCfg | streamGo | ttld | ttst | ttinv |
      rsvinit | rsvupd | rsvmrg | rsvfin | rsvseed | cainit | caadd | caflush | caresolve | careplay | castat | pqpush | pqpop |
      wlpush | wlpop | quiesce | tex | texWait | tld | rayq | rayres | atlasreq | emit | brkpt | tret | tlbinv | fork | cflush =>
    exact decode?_of_encR rfl (by rintro w rfl; rfl)
  case cvt x _ | cvtq x _ | cvtw x _ | lfold x _ | lpfx x _ | rsvget x _ | rsvput x _ =>
    exact decode?_of_encR rfl (by rintro w rfl; cases x <;> rfl)
  case iadd | isub | imul | imulhi | imin | imax | idiv | irem | land | lor | lxor | landn | lorn | shl | shr | sar | rol | ror | bfx |
      mov | kand | kor | kxor | kandn | knot | kget | kset | lea | fadd | fsub | fmul | fmin | fmax | lgetAt | lgetFlip =>
    exact decode?_of_encA rfl (by rintro w rfl; rfl) (by rintro w rfl; rfl)
  case icmp x _ | fcmp x _ =>
    exact decode?_of_encA rfl (by rintro w rfl; cases x <;> rfl) (by rintro w rfl; cases x <;> rfl)
  case alloc | repeatImm | repeatReg | trap | rdsr | wrsr =>
    exact decode?_of_encI rfl (by rintro w rfl; rfl)
  case ld | ldN8 | ldS8 | ldN16 | ldS16 | st | stB8 | stB16 | pref | fence | fenceUn | fetchwk =>
    exact decode?_of_encM rfl (by rintro w rfl; rfl)
  case atom x _ | waitf x _ =>
    exact decode?_of_encM rfl (by rintro w rfl; cases x <;> rfl)
  case red x f =>
    -- `RED` has no exchange and no compare and swap (09 R199)
    refine decode?_of_encM rfl ?_
    rintro w rfl
    cases x
    case exch | cas => cases hwf
    all_goals rfl
  case bra | jmp | brx | call | calli | xbegin =>
    exact decode?_of_encB rfl (by rintro w rfl; rfl)
  case mloadb | mma | mcommit | mdiscard | mzero | mdrain =>
    exact decode?_of_encT rfl (by rintro w rfl; rfl)
  case engCopy | engFill | engGsubmit | engGsignal | engGwatch | engDappend | engDdrain | engAllreduce | engAllgather | engBcast =>
    exact decode?_of_encE rfl (by rintro w rfl hefn; simp [decodeAt, decRowB, hefn])
  case unassignedOpcode => cases hwf
  -- the steps of other agents have no word
  all_goals exact decode?_of_none rfl

/-- Settles O1: the form's fields stand where the decoder reads them, in the cell of the opcode map that OP and FN name. -/
theorem decodeEncode : Obligations.DecodeEncode := fun _ _ hwf hw => decode_of_some (decode?_encode hwf hw)

/-! ### From a word to its instruction and back -/

/-- The instruction of a cell, with the fields of a word of that OP and FN, has that word. -/
theorem encode_of_decodeAt {row col fn : Nat} {w : BitVec 96} {i : Instr} (hop : opOf w = 16 * row + col) (hfn : fnOf w = fn)
    (h : decodeAt row col fn w = some i) : encode i = some w := by
  unfold decodeAt decRow0 decRow1 decRow2 decRow3 decRow4 decRow5 decRow6 decRow7 decRow9 decRowA decRowB decRowC decRowD decRowE
    decRowF at h
  -- one case for each row, column and FN, and for each EFN of the E form
  repeat' split at h
  -- an unassigned cell has no instruction; an assigned one takes the word's form, which encodes to the word
  all_goals cases h
  all_goals refine congrArg some ?_
  all_goals simp_all [encA, encR_rForm, encI_iForm, encM_mForm, encB_bForm, encT_tForm, encE_eForm, icondCode, fcondCode, tyCode,
    nfCode, foldCode, pfxCode, atomCode, wcondCode, rsvCode]

/-- Settles O2: in each assigned cell of the opcode map, the forms' fields put together again are the word. -/
theorem encodeDecode : Obligations.EncodeDecode := fun w _ h =>
  encode_of_decodeAt (Nat.div_add_mod (opOf w) 16).symm rfl ((decode?_eq_decodeAt w).symm.trans h)

/-! ### Words of the encoding tables -/

/-- Settles O3: each word is evaluated, and a word that is no instruction stands for itself. -/
theorem specWordsDecode : Obligations.SpecWordsDecode :=
  ⟨⟨rfl, rfl, rfl, rfl, rfl⟩, rfl, rfl, rfl, fun _ => decode_of_none⟩

end Sys2Proof

namespace Sys2Proof.Machine

open Sys2Proof

/-! ### The issue of an instruction (07 R138, R153) -/

/-- A unit with an active lane and no broken transaction stands at an instruction. -/
structure Issuing (s : State) (i : Iss) : Prop where
  unit : s.iss? = some i
  undoomed : i.doomed = 0
  active : i.active ≠ 0

/-- An instruction of this view comes out of `issueCore` with a body of its own, which runs without an enabled lane only where `always`. -/
def Issues (s : State) (i : Iss) (v : View) (always : Bool) (o : Result) : Prop :=
  ∃ post body, o = .next (issueCore v post always body i s)

theorem Issuing.issue_eq {s : State} {i : Iss} (h : Issuing s i) (vf : Iss → View) (ctl always : Bool) (body : Body) :
    issue s vf ctl always body = .next (issueWith (vf i) ctl always body i s) := by
  obtain ⟨hunit, hundoomed, hactive⟩ := h
  cases i
  simp_all [issue]

theorem Issuing.issueHold_eq {s : State} {i : Iss} (h : Issuing s i) (vf : Iss → View) (body : Body) :
    issueHold s vf body = .next (issueCore (vf i) (fun _ _ t => t) false body i s) := by
  obtain ⟨hunit, hundoomed, hactive⟩ := h
  cases i
  simp_all [issueHold]

section Cases

variable {s : State} {i : Iss} {v w vf : Iss → View}

theorem Issues.of_issue {ctl always : Bool} {body : Body} (h : Issuing s i) (hview : some w = some v) (hi : vf i = w i) :
    Issues s i (v i) always (issue s vf ctl always body) := by
  cases hview
  exact ⟨_, body, hi ▸ h.issue_eq vf ctl always body⟩

theorem Issues.of_issueHold {body : Body} (h : Issuing s i) (hview : some w = some v) (hi : vf i = w i) :
    Issues s i (v i) false (issueHold s vf body) := by
  cases hview
  exact ⟨_, body, hi ▸ h.issueHold_eq vf body⟩

end Cases

@[simp] theorem strideA_none (f : AForm) : strideA f none = f := by cases f <;> rfl

/-- Outside a `REPEAT` every instruction of the opcode map issues with the view that `viewOf` gives. -/
theorem exec_issues {ins : Instr} {v : Iss → View} {s : State} {i : Iss} (hview : viewOf ins = some v) (hpopf : ∀ f, ins ≠ .popf f)
    (h : Issuing s i) (hrep : i.rep = none) : Issues s i (v i) false (exec ins s) := by
  cases ins
  case popf f => exact absurd rfl (hpopf f)
  case alloc f =>
    unfold exec execAlloc
    exact .of_issue (vf := fun _ => viewAlloc f) h hview rfl
  case nop | bra | jmp | brx | call | calli | ret | exit | split | rejoin | repeatImm | repeatReg | pref | atom |
      red | fence | fenceUn | xbegin | xend | xabort | xtest | pushf | pushfRow | pushfAll | pushfAllRow | pushb | popb |
      streamCfg | streamGo | engCopy | engFill | engGsubmit | engGsignal | engGwatch | engDappend | engDdrain | engAllreduce |
      engAllgather | engBcast | mloadb | mma | mcommit | mdiscard | mzero | mdrain | ttld | ttst | ttinv | rsvinit | rsvupd | rsvmrg |
      rsvfin | rsvget | rsvput | rsvseed | cainit | caadd | caflush | caresolve | careplay | castat | fetchwk | pqpush | pqpop |
      wlpush | wlpop | rayq | emit | trap | brkpt | rdsr | wrsr | tlbinv | fork | cflush =>
    unfold exec
    exact .of_issue h hview (by rfl)
  case waitf | barGrp | barClu | quiesce | tex | texWait | tld | rayres | atlasreq | tret =>
    unfold exec
    exact .of_issueHold h hview (by rfl)
  -- a `REPEAT` moves the registers of these on (10 R222)
  case imad | iadd3 | addmin | addmax | min3 | max3 | iabs | ineg | isad | lnot | fshl | fshr | bfi | popc | clz | ctz | brev | sel |
      ffma | fabs | fdiv | fsqrt | frcp | frsq | fexp2 | flog2 | fsin | fcos | ftanh | fclass | cvt | cvtq | cvtw | dot2 | dot4 |
      pack | bsel | lshup | lshdn | kpollAll | kpollAny | kpollWord | lpeerEq | lpeerUni | lfold | lpfx | ld | ldN8 | ldS8 | ldN16 |
      ldS16 | st | stB8 | stB16 =>
    unfold exec
    exact .of_issue h hview (by rw [hrep]; rfl)
  case iadd | isub | imul | imulhi | imin | imax | idiv | irem | land | lor | lxor | landn | lorn | shl | shr | sar | rol | ror | bfx |
      icmp | mov | kand | kor | kxor | kandn | knot | kget | kset | lea | fadd | fsub | fmul | fmin | fmax | fcmp | lgetAt | lgetFlip =>
    unfold exec
    exact .of_issue h hview (by rw [hrep, strideA_none])
  -- the steps of other agents, and words that are no instruction, have no view
  all_goals cases hview

/-- `POPF` issues with its view, and runs without an enabled lane too (entry 34). -/
theorem exec_popf_issues {f : RForm} {v : Iss → View} {s : State} {i : Iss} (hview : viewOf (.popf f) = some v) (h : Issuing s i) :
    Issues s i (v i) true (exec (.popf f) s) := by
  unfold exec
  exact .of_issue h hview (by rfl)

/-! ### Checks that trap (07 R151 to R153) -/

/-- A failing check is the trap of the instruction, and nothing else comes of it. -/
theorem Issues.trap {s : State} {i : Iss} {v : View} {always : Bool} {o : Result} {t : Trap} (h : Issues s i v always o)
    (hcheck : v.check i = some t) : o = .next (s.takeTrap i (i.en v) t) := by
  obtain ⟨post, body, rfl⟩ := h
  simp only [issueCore, hcheck, Iss.en]

/-- A failing check traps whatever the instruction. -/
theorem exec_check_trap {ins : Instr} {v : Iss → View} {s : State} {i : Iss} {t : Trap} (hview : viewOf ins = some v) (h : Issuing s i)
    (hrep : i.rep = none) (hcheck : (v i).check i = some t) : exec ins s = .next (s.takeTrap i (i.en (v i)) t) := by
  by_cases hpopf : ∃ f, ins = .popf f
  · obtain ⟨f, rfl⟩ := hpopf
    exact (exec_popf_issues hview h).trap hcheck
  · exact (exec_issues hview (not_exists.mp hpopf) h hrep).trap hcheck

/-- A privileged instruction fails step 6 in user state, where steps 4 and 5 pass. -/
theorem View.check_privileged {v : View} {i : Iss} (hty : v.types.contains v.ty = true)
    (hstream : (if i.lead then v.lead else v.lane) = true) (hpriv : v.priv = true) (huser : i.priv = false) :
    v.check i = some { mkTrap protection 4 with field := 6 } := by
  simp only [View.check, hty, hstream, hpriv, huser, Bool.not_true, Bool.not_false, Bool.and_self, Bool.false_eq_true, if_false, if_true]

/-- The privileged instructions (07 R152) issue with their view in a `REPEAT` too: none of them moves its registers on. -/
theorem exec_privileged_issues {ins : Instr} {f : RForm} {v : Iss → View} {s : State} {i : Iss}
    (hins : ins ∈ [.tret f, .tlbinv f, .fork f, .cflush f]) (hview : viewOf ins = some v) (h : Issuing s i) :
    Issues s i (v i) false (exec ins s) ∧ (v i).ty = f.ty ∧ (v i).g = f.g ∧ (v i).priv = true := by
  simp only [List.mem_cons, List.not_mem_nil, or_false] at hins
  obtain rfl | rfl | rfl | rfl := hins <;> unfold exec
  · exact ⟨.of_issueHold h hview (by rfl), by cases hview; exact ⟨rfl, rfl, rfl⟩⟩
  all_goals exact ⟨.of_issue h hview (by rfl), by cases hview; exact ⟨rfl, rfl, rfl⟩⟩

/-- In user state a privileged instruction traps with `PROTECTION` subcode 4 (07 R152). -/
theorem exec_privileged_trap {ins : Instr} {f : RForm} {v : Iss → View} {s : State} {i : Iss}
    (hins : ins ∈ [.tret f, .tlbinv f, .fork f, .cflush f]) (hview : viewOf ins = some v) (h : Issuing s i) (huser : i.priv = false)
    (hty : (v i).types.contains f.ty = true) (hstream : (if i.lead then (v i).lead else (v i).lane) = true) :
    exec ins s = .next (s.takeTrap i (i.enabled f.g) { mkTrap protection 4 with field := 6 }) := by
  obtain ⟨hissues, hfty, hfg, hpriv⟩ := exec_privileged_issues hins hview h
  rw [← hfty] at hty
  rw [← hfg]
  exact hissues.trap (View.check_privileged hty hstream hpriv huser)

/-- A word that is no instruction traps in any stream, whatever its guard (07 R151). -/
theorem exec_unassignedOpcode {s : State} {i : Iss} (w : BitVec 96) (h : Issuing s i) :
    exec (.unassignedOpcode w) s = .next (s.takeTrap i (i.enabled (wGuard w)) (unassigned w)) := by
  obtain ⟨hunit, hundoomed, hactive⟩ := h
  change execUnassignedOpcode w s = _
  cases i
  simp_all [execUnassignedOpcode]

/-- Settles O12: every instruction of the opcode map issues by way of its check. -/
theorem checksThatTrap : Obligations.ChecksThatTrap :=
  ⟨fun _ _ _ _ _ hview hunit hundoomed hactive hrep => exec_check_trap hview ⟨hunit, hundoomed, hactive⟩ hrep,
    fun _ _ _ _ _ hins hview hunit hundoomed hactive => exec_privileged_trap hins hview ⟨hunit, hundoomed, hactive⟩,
    fun w _ _ hunit hundoomed hactive => exec_unassignedOpcode w ⟨hunit, hundoomed, hactive⟩⟩

/-! ### A guard that enables no lane (07 R138) -/

@[simp] theorem Iss.txnBarred_zero (i : Iss) (op : Nat) : i.txnBarred 0#32 op = 0#32 := by simp [Iss.txnBarred]

/-- Without an enabled lane nothing runs, and the unit moves on. -/
theorem Issues.no_lane {s : State} {i : Iss} {v : View} {o : Result} (h : Issues s i v false o) (hactive : i.active ≠ 0)
    (hcheck : v.check i = none) (hnone : i.en v = 0) (hready : v.guardUse.busy i i.active = false) : o = .next (s.advance i i.active) := by
  obtain ⟨post, body, rfl⟩ := h
  rw [Iss.en] at hnone
  cases i
  simp_all [issueCore]

/-- Settles O13: past its checks an instruction other than `POPF` runs only where a lane is enabled. -/
theorem noLaneEnabled : Obligations.NoLaneEnabled := by
  intro ins v s i hview hpopf hunit hundoomed hactive hrep hcheck hnone hready
  exact (exec_issues hview hpopf ⟨hunit, hundoomed, hactive⟩ hrep).no_lane hactive hcheck hnone hready

end Sys2Proof.Machine
end

section
/-! PROOFS. The reference arithmetic (08_ref_arithmetic.md): what the instructions that compute in registers, set mask bits or move
values between lanes deliver, and what they leave alone. -/

namespace Sys2Proof.Machine

open Sys2Proof

/-! ### Integer results (04 R69, 08 R162 to R165) -/

theorem clampInt_eq {lo hi : Int} (h : lo ≤ hi) (x : Int) : clampInt lo hi x = max lo (min hi x) := by
  unfold clampInt
  split
  · omega
  · split <;> omega

theorem intLo_le_intHi (sg : Bool) (w : Nat) : intLo sg w ≤ intHi sg w := by
  have h1 : 0 < 2 ^ (w - 1) := Nat.two_pow_pos _
  have h2 : 0 < 2 ^ w := Nat.two_pow_pos _
  cases sg <;> simp only [intLo, intHi, if_true, Bool.false_eq_true, if_false] <;> omega

theorem narrow_eq_heldAs (sat sg : Bool) (w : Nat) (x : Int) : narrow sat sg w x = heldAs sat sg w x := by
  rw [narrow, clampInt_eq (intLo_le_intHi sg w)]
  rfl

theorem wrapInt_eq_heldAs (sg : Bool) (w : Nat) (x : Int) : wrapInt w x = heldAs false sg w x := rfl

/-- A clamped value, held and read again, is the value that it was clamped to. -/
theorem elemInt_heldAs_sat (sg : Bool) {w : Nat} (hw : 0 < w) (x : Int) :
    elemInt sg w (heldAs true sg w x) = clampInt (intLo sg w) (intHi sg w) x := by
  rw [clampInt_eq (intLo_le_intHi sg w)]
  have hpow : 2 ^ w = 2 * 2 ^ (w - 1) := by rw [Nat.mul_comm, Nat.two_pow_pred_mul_two hw]
  have hpos : 0 < 2 ^ (w - 1) := Nat.two_pow_pos _
  simp only [elemInt, heldAs, sextNat, intLo, intHi, if_true, hpow]
  generalize 2 ^ (w - 1) = m at hpos
  cases sg
  · simp only [Bool.false_eq_true, if_false]
    generalize hv : max (0 : Int) (min (((2 * m : Nat) : Int) - 1) x) = v
    rw [Int.emod_eq_of_lt (by omega) (by omega), Nat.mod_eq_of_lt (by omega)]
    omega
  · simp only [if_true]
    generalize hv : max (-((m : Nat) : Int)) (min ((m : Int) - 1) x) = v
    by_cases hneg : v < 0
    · rw [show v % ((2 * m : Nat) : Int) = v + (2 * m : Nat) by
        rw [← Int.add_emod_right, Int.emod_eq_of_lt (by omega) (by omega)], Nat.mod_eq_of_lt (by omega), if_neg (by omega)]
      omega
    · rw [Int.emod_eq_of_lt (by omega) (by omega), Nat.mod_eq_of_lt (by omega), if_pos (by omega)]
      omega

/-- All ones, the quotient of a division by zero, is held under SAT too (08 R165). -/
theorem heldAs_allOnes (sat : Bool) (t : Ty) : heldAs sat (tySigned t) (tyElem t).1 (intOp.allOnes t) = 2 ^ (tyElem t).1 - 1 := by
  have hw : 0 < (tyElem t).1 := by cases t <;> decide
  have hpow := Nat.two_pow_pred_mul_two hw
  have hpos : 0 < 2 ^ ((tyElem t).1 - 1) := Nat.two_pow_pos _
  have hhi : 0 < 2 ^ (tyElem t).1 := Nat.two_pow_pos _
  unfold heldAs intOp.allOnes
  generalize (tyElem t).1 = w at *
  have hclamp : ∀ lo hi x : Int, lo ≤ x → x ≤ hi → (if sat then max lo (min hi x) else x) = x := fun lo hi x h1 h2 => by
    split <;> omega
  cases tySigned t <;> dsimp only
  · rw [if_neg Bool.false_ne_true, if_neg Bool.false_ne_true, if_neg Bool.false_ne_true, hclamp _ _ _ (by omega) (by omega),
      Int.emod_eq_of_lt (by omega) (by omega)]
    omega
  · rw [if_pos rfl, if_pos rfl, if_pos rfl, hclamp _ _ _ (by omega) (by omega), ← Int.add_emod_right, Int.emod_eq_of_lt (by omega) (by omega)]
    omega

/-! ### Bit strings (08 R166 to R168) -/

section BitStrings

variable {w : Nat}

theorem sextNat_toNat (x : BitVec w) : sextNat w x.toNat = x.toInt := by
  unfold sextNat
  rw [Nat.mod_eq_of_lt x.isLt, BitVec.toInt_eq_toNat_cond]
  rcases Nat.eq_zero_or_pos w with rfl | hw
  · simp [BitVec.eq_nil x]
  · have hpow : 2 ^ w = 2 * 2 ^ (w - 1) := by rw [Nat.mul_comm, Nat.two_pow_pred_mul_two hw]
    simp only [hpow]
    congr 1
    simp

theorem wrapInt_eq_toNat_ofInt (x : Int) : wrapInt w x = (BitVec.ofInt w x).toNat := by
  rw [BitVec.toNat_ofInt]
  rfl

theorem notW_eq_toNat_not (x : BitVec w) : notW w x.toNat = (~~~ x).toNat := by
  rw [BitVec.toNat_not, notW, Nat.mod_eq_of_lt x.isLt]

theorem shl_eq_toNat (x : BitVec w) (n : Nat) : x.toNat * 2 ^ n % 2 ^ w = (x <<< n).toNat := by
  rw [BitVec.toNat_shiftLeft, Nat.shiftLeft_eq]

theorem shr_eq_toNat (x : BitVec w) (n : Nat) : x.toNat / 2 ^ n = (x >>> n).toNat := by
  rw [BitVec.toNat_ushiftRight, Nat.shiftRight_eq_div_pow]

theorem sar_eq_toNat (x : BitVec w) (n : Nat) : wrapInt w (sextNat w x.toNat / (2 ^ n : Nat)) = (x.sshiftRight n).toNat := by
  rw [wrapInt_eq_toNat_ofInt, sextNat_toNat, BitVec.sshiftRight, Int.shiftRight_eq_div_pow]

theorem rotl_eq_toNat (x : BitVec w) (n : Nat) : rotl w x.toNat (n % w) = (x.rotateLeft n).toNat := by
  rw [rotl, BitVec.toNat_rotateLeft, Nat.or_mod_two_pow, Nat.shiftLeft_eq, Nat.shiftRight_eq_div_pow,
    Nat.mod_eq_of_lt (a := x.toNat / _) (Nat.lt_of_le_of_lt (Nat.div_le_self _ _) x.isLt)]

theorem rotr_eq_toNat (x : BitVec w) (n : Nat) : rotl w x.toNat ((w - n % w) % w) = (x.rotateRight n).toNat := by
  rcases Nat.eq_zero_or_pos w with rfl | hw
  · simp [BitVec.eq_nil x, rotl]
  have hn : n % w < w := Nat.mod_lt _ hw
  rw [rotl_eq_toNat, BitVec.toNat_rotateRight, BitVec.toNat_rotateLeft]
  rcases Nat.eq_zero_or_pos (n % w) with h0 | h0
  · simp [h0, Nat.shiftLeft_eq, Nat.shiftRight_eq_div_pow, Nat.div_eq_of_lt x.isLt]
  · rw [Nat.mod_eq_of_lt (a := w - n % w) (by omega), Nat.sub_sub_self (Nat.le_of_lt hn), Nat.or_comm]

/-- Two words side by side. -/
theorem toNat_append_eq (x z : BitVec w) : (x ++ z).toNat = x.toNat * 2 ^ w + z.toNat := by
  rw [BitVec.toNat_append, ← Nat.shiftLeft_add_eq_or_of_lt z.isLt, Nat.shiftLeft_eq]

theorem fshl_eq_toNat (x z : BitVec w) (n : Nat) :
    (x.toNat * 2 ^ w + z.toNat) * 2 ^ n / 2 ^ w % 2 ^ w = (((x ++ z) <<< n).extractLsb' w w).toNat := by
  rw [BitVec.extractLsb'_toNat, BitVec.toNat_shiftLeft, toNat_append_eq, Nat.shiftLeft_eq, Nat.shiftRight_eq_div_pow, Nat.pow_add,
    Nat.mod_mul_right_div_self, Nat.mod_mod]

theorem fshr_eq_toNat (x z : BitVec w) (n : Nat) :
    (x.toNat * 2 ^ w + z.toNat) / 2 ^ n % 2 ^ w = (((x ++ z) >>> n).extractLsb' 0 w).toNat := by
  rw [BitVec.extractLsb'_toNat, BitVec.toNat_ushiftRight, toNat_append_eq, Nat.shiftRight_zero, Nat.shiftRight_eq_div_pow]

theorem fieldPos_eq (w b : Nat) : fieldPos w b = (fieldAt w b).1 := by simp [fieldPos, fieldAt, bitsOf]

theorem fieldLen_eq (w b : Nat) : fieldLen w b = (fieldAt w b).2 := by
  simp [fieldLen, fieldPos, fieldAt, bitsOf, Nat.shiftRight_eq_div_pow]

theorem fieldAt_le (w b : Nat) : (fieldAt w b).1 + (fieldAt w b).2 ≤ w := by
  simp only [fieldAt]
  omega

/-- A field of `n` bits with its highest bit set, read in two's complement and held in `w` bits. -/
theorem wrapInt_sextNat {n v : Nat} (hn : 0 < n) (hnw : n ≤ w) (hv : v < 2 ^ n) :
    wrapInt w (sextNat n v) = if 2 ^ n ≤ 2 * v then 2 ^ w - 2 ^ n + v else v := by
  have hpow : 2 ^ n = 2 * 2 ^ (n - 1) := by rw [Nat.mul_comm, Nat.two_pow_pred_mul_two hn]
  have hle : 2 ^ n ≤ 2 ^ w := Nat.pow_le_pow_right (by omega) hnw
  rw [sextNat, wrapInt, Nat.mod_eq_of_lt hv]
  split
  · rw [if_neg (by omega), Int.emod_eq_of_lt (by omega) (by omega), Int.toNat_natCast]
  · rw [if_pos (by omega), ← Int.add_emod_right, Int.emod_eq_of_lt (by omega) (by omega)]
    omega

theorem bfi_eq_toNat (x z : BitVec w) {p n : Nat} (h : p + n ≤ w) :
    (z.toNat &&& notW w ((2 ^ n - 1) * 2 ^ p)) ||| (x.toNat * 2 ^ p &&& (2 ^ n - 1) * 2 ^ p) =
      ((z &&& ~~~ (BitVec.ofNat w (2 ^ n - 1) <<< p)) ||| (x <<< p &&& BitVec.ofNat w (2 ^ n - 1) <<< p)).toNat := by
  have hlt : (2 ^ n - 1) * 2 ^ p < 2 ^ w := by
    refine Nat.lt_of_lt_of_le (Nat.mul_lt_mul_of_pos_right (Nat.sub_lt (Nat.two_pow_pos n) Nat.one_pos) (Nat.two_pow_pos p)) ?_
    rw [← Nat.pow_add, Nat.add_comm n p]
    exact Nat.pow_le_pow_right (by omega) h
  have hm : (BitVec.ofNat w (2 ^ n - 1) <<< p).toNat = (2 ^ n - 1) * 2 ^ p := by
    rw [← shl_eq_toNat, BitVec.toNat_ofNat, Nat.mod_mul_mod, Nat.mod_eq_of_lt hlt]
  rw [BitVec.toNat_or, BitVec.toNat_and, BitVec.toNat_and, ← notW_eq_toNat_not, hm, ← shl_eq_toNat]
  congr 1
  rw [← Nat.mod_eq_of_lt (Nat.and_lt_two_pow (x.toNat * 2 ^ p) hlt), Nat.and_mod_two_pow, Nat.mod_eq_of_lt hlt]

theorem popc_eq_toNat (x : BitVec w) : ((List.range w).filter (bitOf x.toNat)).length =
    (BitVec.ofNat w ((List.range w).countP fun j => x.getLsbD j)).toNat := by
  rw [List.countP_eq_length_filter, BitVec.toNat_ofNat, Nat.mod_eq_of_lt]
  · rfl
  · exact Nat.lt_of_le_of_lt (List.length_filter_le _ _) (by rw [List.length_range]; exact Nat.lt_two_pow_self)

/-- The first item that passes a test stands behind those that fail it. -/
theorem find?_getD_eq_length_takeWhile {p q : Nat → Bool} (a n : Nat) (h : ∀ j < a + n, q j = !p j) :
    ((List.range' a n).find? p).getD (a + n) = a + ((List.range' a n).takeWhile q).length := by
  induction n generalizing a with
  | zero => simp
  | succ n ih =>
    rw [List.range'_succ, List.find?_cons, List.takeWhile_cons, h a (by omega)]
    cases p a with
    | true => simp
    | false =>
      rw [show a + (n + 1) = (a + 1) + n by omega] at h ⊢
      simpa [Nat.add_assoc, Nat.add_comm, Nat.add_left_comm] using ih (a + 1) h

theorem firstBit_eq_toNat {p q : Nat → Bool} (h : ∀ j < w, q j = !p j) :
    ((List.range w).find? p).getD w = (BitVec.ofNat w ((List.range w).takeWhile q).length).toNat := by
  have hlen : ((List.range w).takeWhile q).length ≤ w := by simpa using (List.takeWhile_prefix q).length_le (l₂ := List.range w)
  rw [BitVec.toNat_ofNat, Nat.mod_eq_of_lt (Nat.lt_of_le_of_lt hlen Nat.lt_two_pow_self), List.range_eq_range']
  simpa using find?_getD_eq_length_takeWhile 0 w (by simpa using h)

/-- Bits taken from the lowest up, each below the ones before. -/
theorem testBit_foldl_bits (b : Nat → Bool) (n i : Nat) :
    ((List.range n).foldl (fun a j => 2 * a + b2n (b j)) 0).testBit i = (decide (i < n) && b (n - 1 - i)) := by
  induction n generalizing i with
  | zero => simp
  | succ n ih =>
    rw [List.range_succ, List.foldl_append, List.foldl_cons, List.foldl_nil]
    cases i with
    | zero => cases hb : b n <;> simp [b2n, hb, Nat.testBit_zero]
    | succ i =>
      rw [Nat.testBit_succ, show (2 * (List.range n).foldl (fun a j => 2 * a + b2n (b j)) 0 + b2n (b n)) / 2 =
        (List.range n).foldl (fun a j => 2 * a + b2n (b j)) 0 by unfold b2n; split <;> omega, ih]
      simp [Nat.sub_sub, Nat.add_comm]

theorem brev_eq_toNat (x : BitVec w) :
    (List.range w).foldl (fun a j => 2 * a + b2n (bitOf x.toNat j)) 0 = x.reverse.toNat := by
  apply Nat.eq_of_testBit_eq
  intro i
  rw [testBit_foldl_bits, BitVec.testBit_toNat, BitVec.getLsbD_reverse, BitVec.getMsbD]
  rfl

end BitStrings

/-! ### Instructions that compute one result per lane (08 R161) -/

@[simp] theorem State.settle_zero (s : State) (i : Iss) (l : Nat) : s.settle i l 0 0 = s := by simp [State.settle]

/-- The width of the registers that hold a type (03 R54). -/
def regW (t : Ty) : Nat := if tyWide t then 64 else 32

/-- What a source can hold: a number of its registers' width, or its immediate. -/
def Opnd.Holds (x : Nat) : Opnd → Prop
  | .reg t _ => x < 2 ^ regW t
  | .imm v => x = v

theorem Except.map_toNat_lt {ε : Type} {n : Nat} {e : Except ε (BitVec n)} {x : Nat} (h : e.map (·.toNat) = .ok x) : x < 2 ^ n := by
  cases e with
  | error _ => cases h
  | ok v => cases h; exact v.isLt

theorem rdOp_holds {s : State} {i : Iss} {l x : Nat} : ∀ {o : Opnd}, rdOp s i l o = .ok x → o.Holds x
  | .reg t sp, h => by
    rw [rdOp, rdT] at h
    rw [Opnd.Holds, regW]
    split at h <;> simpa [*] using Except.map_toNat_lt h
  | .imm v, h => by
    cases h
    rfl

theorem mapE_forall₂ {α β ε : Type} {f : α → Except ε β} : ∀ {xs : List α} {ys : List β}, mapE f xs = .ok ys →
    List.Forall₂ (fun x y => f x = .ok y) xs ys
  | [], ys, h => by
    cases h
    exact .nil
  | x :: xs, ys, h => by
    rw [mapE] at h
    split at h
    · next y hy =>
      split at h
      · next hys =>
        cases h
        exact .cons hy (mapE_forall₂ hys)
      · cases h
    · cases h

/-- The values that the sources of an instruction are read with. -/
theorem holds_of_reads {s : State} {i : Iss} {l : Nat} {srcs : List Opnd} {xs : List Nat} (h : mapE (rdOp s i l) srcs = .ok xs) :
    List.Forall₂ (fun o x => Opnd.Holds x o) srcs xs := (mapE_forall₂ h).imp fun _ _ => rdOp_holds

/-- The result, flags and draws of each enabled lane are delivered, in lane order. -/
def RegOp.body (o : RegOp) (vals : Nat → List Nat) : Body := fun i en s => foldLanes (o.give i vals) s (i.lanes en)

/-- An instruction of this shape delivers its results, where its operands are readable. -/
def RegOp.Means (o : RegOp) (i : Iss) (run : State → Result) : Prop :=
  ∀ s vals, Ready s i o.view → o.reads s i vals → run s = .next (runBody (moveOn false) o.view (o.body vals) i s)

theorem runBody_ok {post : Iss → LaneMask → State → State} {v : View} {body : Body} {i : Iss} {s t : State}
    (h : body i (i.en v) (s.begun i v) = .ok t) : runBody post v body i s = post i (i.en v) t := by rw [runBody, h]

theorem moveOn_all (i : Iss) (en : LaneMask) (s : State) : moveOn false i en s = s.advance i i.active := rfl

theorem RegOp.body_ok {o : RegOp} {i : Iss} {s t : State} {vals : Nat → List Nat}
    (hgive : foldE (o.give i vals) (s.begun i o.view) (i.lanes (i.en o.view)) = .ok t) :
    o.body vals i (i.en o.view) (s.begun i o.view) = .ok t := by
  unfold RegOp.body
  exact foldLanes_ok hgive

/-- Where every write goes through, the results stand and the unit has moved on. -/
theorem RegOp.Means.completes {o : RegOp} {i : Iss} {run : State → Result} (h : o.Means i run) {s t : State} {vals : Nat → List Nat}
    (hready : Ready s i o.view) (hreads : o.reads s i vals)
    (hgive : foldE (o.give i vals) (s.begun i o.view) (i.lanes (i.en o.view)) = .ok t) : run s = .next (t.advance i i.active) :=
  (h s vals hready hreads).trans (congrArg _ ((runBody_ok (RegOp.body_ok hgive)).trans (moveOn_all _ _ _)))

theorem runBody_congr {post : Iss → LaneMask → State → State} {v : View} {body body' : Body} {i : Iss} {s : State}
    (h : body i (i.en v) (s.begun i v) = body' i (i.en v) (s.begun i v)) : runBody post v body i s = runBody post v body' i s := by
  rw [runBody, runBody, h]

/-- Where every lane's sources are readable, `compute` delivers the results of its function. -/
theorem RegOp.compute_eq_body {o : RegOp} {i : Iss} {en : LaneMask} {s : State} {fn : (Nat → Nat) → List Nat → LaneOut} {vals : Nat → List Nat}
    (hreads : ∀ l ∈ i.lanes en, mapE (rdOp s i l) o.srcs = .ok (vals l))
    (hfn : ∀ l ∈ i.lanes en, fn (i.draw24 l) (vals l) = o.fn l (i.draw24 l) (vals l)) :
    compute o.dt o.d o.srcs fn i en s = o.body vals i en s := by
  unfold compute RegOp.body
  rw [perLane_ok (vals := fun l => o.fn l (i.draw24 l) (vals l))]
  · rfl
  · intro l hl
    rw [hreads l hl, ← hfn l hl]
    rfl

/-- `compute` with the result function of the shape, on the values that sources can have, is the instruction of the shape. -/
theorem RegOp.Means.of_compute {o : RegOp} {i : Iss} {run : State → Result} {vf : Iss → View} {body : Body} {fn : (Nat → Nat) → List Nat → LaneOut}
    (hexec : run = fun s => issue s vf false false body) (hview : vf i = o.view)
    (hbody : body i = compute o.dt o.d o.srcs fn i)
    (hfn : ∀ l u xs, List.Forall₂ (fun o x => Opnd.Holds x o) o.srcs xs → fn u xs = o.fn l u xs) : o.Means i run := by
  refine fun s vals hready hreads => ?_
  refine ((congrFun hexec s).trans (issue_ready false false body (hview ▸ hready))).trans ?_
  rw [hview]
  refine congrArg _ (runBody_congr ((congrFun (congrFun hbody _) _).trans (RegOp.compute_eq_body hreads fun l hl => ?_)))
  exact hfn l _ _ (holds_of_reads (hreads l hl))

/-! ### Results of elements (08 R162 to R165) -/

theorem mapElems_eq_exactInts {t : Ty} {sat : Bool} {f : Nat → Bool → List Int → Nat} {g : List Int → Int} {xs : List Nat}
    (h : ∀ ys : List Int, ys.length = xs.length → f (tyElem t).1 (tySigned t) ys = heldAs sat (tySigned t) (tyElem t).1 (g ys)) :
    ({ val := mapElems t f xs } : LaneOut) = exactInts t sat g xs := by
  simp only [mapElems, exactInts, h _ (List.length_map _)]

section Elements

variable {i : Iss} {run : State → Result} {v : View} {vf : Iss → View} {body : Body} {g : Nat → Bool → List Int → Nat} {sat : Bool} {r : List Int → Int}

/-- An integer instruction with two sources, of which the second may be an immediate. -/
theorem RegOp.Means.int2 {f : AForm} (hexec : run = fun s => issue s vf false false body) (hview : vf i = v)
    (hbody : body i = intBody2 f g i)
    (hg : ∀ x y, g (tyElem (aTy f)).1 (tySigned (aTy f)) [x, y] = heldAs sat (tySigned (aTy f)) (tyElem (aTy f)).1 (r [x, y])) :
    RegOp.Means { view := v, dt := aTy f, d := aD f, srcs := [.reg (aTy f) (aA f), aB (aTy f) f], fn := fun _ _ => exactInts (aTy f) sat r }
      i run := by
  refine .of_compute hexec hview hbody fun l u xs hxs => mapElems_eq_exactInts fun ys hys => ?_
  rw [← hxs.length_eq] at hys
  obtain ⟨x, y, rfl⟩ := List.length_eq_two.mp hys
  exact hg x y

/-- An integer instruction with three sources. -/
theorem RegOp.Means.int3 {f : RForm} (hexec : run = fun s => issue s vf false false body) (hview : vf i = v)
    (hbody : body i = intBody3 f g i)
    (hg : ∀ x y z, g (tyElem f.ty).1 (tySigned f.ty) [x, y, z] = heldAs sat (tySigned f.ty) (tyElem f.ty).1 (r [x, y, z])) :
    RegOp.Means { view := v, dt := f.ty, d := f.d, srcs := [.reg f.ty f.a, .reg f.ty f.b, .reg f.ty f.c], fn := fun _ _ => exactInts f.ty sat r }
      i run := by
  refine .of_compute hexec hview hbody fun l u xs hxs => mapElems_eq_exactInts fun ys hys => ?_
  rw [← hxs.length_eq] at hys
  obtain ⟨x, y, z, rfl⟩ := List.length_eq_three.mp hys
  exact hg x y z

/-- An integer instruction with one source. -/
theorem RegOp.Means.int1 {f : RForm} (hexec : run = fun s => issue s vf false false body) (hview : vf i = v)
    (hbody : body i = intBody1 f g i)
    (hg : ∀ x, g (tyElem f.ty).1 (tySigned f.ty) [x] = heldAs sat (tySigned f.ty) (tyElem f.ty).1 (r [x])) :
    RegOp.Means { view := v, dt := f.ty, d := f.d, srcs := [.reg f.ty f.a], fn := fun _ _ => exactInts f.ty sat r } i run := by
  refine .of_compute hexec hview hbody fun l u xs hxs => mapElems_eq_exactInts fun ys hys => ?_
  rw [← hxs.length_eq] at hys
  obtain ⟨x, rfl⟩ := List.length_eq_one_iff.mp hys
  exact hg x

end Elements

/-! ### Results of bit strings (08 R166 to R168) -/

theorem regW_of_word {t : Ty} (ht : t ∈ wordTypes) : regW t = (tyElem t).1 := by
  simp only [wordTypes, i32, i64, List.cons_append, List.nil_append, List.mem_cons, List.not_mem_nil, or_false] at ht
  obtain rfl | rfl | rfl | rfl | rfl | rfl := ht <;> rfl

/-- The second source of a word instruction fits its type, whether a register or an immediate. -/
theorem aB_holds_lt {t : Ty} {f : AForm} {x : Nat} (ht : t ∈ wordTypes) (h : (aB t f).Holds x) : x < 2 ^ (tyElem t).1 := by
  cases f with
  | r f => rw [← regW_of_word ht]; exact h
  | i f =>
    obtain rfl : x = immOf t f.imm := h
    simp only [wordTypes, i32, i64, List.cons_append, List.nil_append, List.mem_cons, List.not_mem_nil, or_false] at ht
    have h32 := f.imm.isLt
    have h64 := (f.imm.signExtend 64).isLt
    obtain rfl | rfl | rfl | rfl | rfl | rfl := ht <;> simp only [immOf, tyElem] <;> omega

section Words

variable {i : Iss} {run : State → Result} {v : View} {vf : Iss → View} {body : Body}

/-- A word instruction with two sources, of which the second may be an immediate. -/
theorem RegOp.Means.word2 {f : AForm} {g : Nat → Nat → Nat → Nat} {r : List (BitVec (tyElem (aTy f)).1) → BitVec (tyElem (aTy f)).1}
    (hexec : run = fun s => issue s vf false false body) (hview : vf i = v)
    (hbody : body i = wordBody2 f g i) (hty : aTy f ∈ wordTypes)
    (hg : ∀ x y, g (tyElem (aTy f)).1 x.toNat y.toNat = (r [x, y]).toNat) :
    RegOp.Means { view := v, dt := aTy f, d := aD f, srcs := [.reg (aTy f) (aA f), aB (aTy f) f], fn := fun _ _ => fromBits (aTy f) r }
      i run := by
  refine .of_compute hexec hview hbody fun l u xs hxs => ?_
  obtain ⟨x, y, rfl⟩ := List.length_eq_two.mp hxs.length_eq.symm
  obtain _ | ⟨hx, _ | ⟨hy, _ | _⟩⟩ := hxs
  rw [Opnd.Holds, regW_of_word hty] at hx
  have hval := hg (BitVec.ofNat _ x) (BitVec.ofNat _ y)
  rw [BitVec.toNat_ofNat, BitVec.toNat_ofNat, Nat.mod_eq_of_lt hx, Nat.mod_eq_of_lt (aB_holds_lt hty hy)] at hval
  exact congrArg (fun n => ({ val := n } : LaneOut)) hval

/-- A word instruction with three sources. -/
theorem RegOp.Means.word3 {f : RForm} {g : Nat → Nat → Nat → Nat → Nat} {r : List (BitVec (tyElem f.ty).1) → BitVec (tyElem f.ty).1}
    (hexec : run = fun s => issue s vf false false body) (hview : vf i = v)
    (hbody : body i = wordBody3 f g i) (hty : f.ty ∈ wordTypes)
    (hg : ∀ x y z, g (tyElem f.ty).1 x.toNat y.toNat z.toNat = (r [x, y, z]).toNat) :
    RegOp.Means { view := v, dt := f.ty, d := f.d, srcs := [.reg f.ty f.a, .reg f.ty f.b, .reg f.ty f.c], fn := fun _ _ => fromBits f.ty r }
      i run := by
  refine .of_compute hexec hview hbody fun l u xs hxs => ?_
  obtain ⟨x, y, z, rfl⟩ := List.length_eq_three.mp hxs.length_eq.symm
  obtain _ | ⟨hx, _ | ⟨hy, _ | ⟨hz, _ | _⟩⟩⟩ := hxs
  rw [Opnd.Holds, regW_of_word hty] at hx hy hz
  have hval := hg (BitVec.ofNat _ x) (BitVec.ofNat _ y) (BitVec.ofNat _ z)
  rw [BitVec.toNat_ofNat, BitVec.toNat_ofNat, BitVec.toNat_ofNat, Nat.mod_eq_of_lt hx, Nat.mod_eq_of_lt hy, Nat.mod_eq_of_lt hz] at hval
  exact congrArg (fun n => ({ val := n } : LaneOut)) hval

/-- A word instruction with one source. -/
theorem RegOp.Means.word1 {f : RForm} {g : Nat → Nat → Nat} {r : List (BitVec (tyElem f.ty).1) → BitVec (tyElem f.ty).1}
    (hexec : run = fun s => issue s vf false false body) (hview : vf i = v)
    (hbody : body i = wordBody1 f g i) (hty : f.ty ∈ wordTypes)
    (hg : ∀ x, g (tyElem f.ty).1 x.toNat = (r [x]).toNat) :
    RegOp.Means { view := v, dt := f.ty, d := f.d, srcs := [.reg f.ty f.a], fn := fun _ _ => fromBits f.ty r } i run := by
  refine .of_compute hexec hview hbody fun l u xs hxs => ?_
  obtain ⟨x, rfl⟩ := List.length_eq_one_iff.mp hxs.length_eq.symm
  obtain _ | ⟨hx, _ | _⟩ := hxs
  rw [Opnd.Holds, regW_of_word hty] at hx
  have hval := hg (BitVec.ofNat _ x)
  rw [BitVec.toNat_ofNat, Nat.mod_eq_of_lt hx] at hval
  exact congrArg (fun n => ({ val := n } : LaneOut)) hval

end Words

/-- Past the checks an instruction has one of the types of its entry. -/
theorem View.ty_mem {v : View} {i : Iss} (h : v.check i = none) : v.ty ∈ v.types := by
  unfold View.check at h
  split at h
  · cases h
  · next hty => simpa using hty

theorem viewInt2_ty {op : Nat} {types : List Ty} {sat : Bool} {f : AForm} {i : Iss} (h : (viewInt2 op types sat f).check i = none) :
    aTy f ∈ types := by
  have hmem := View.ty_mem h
  cases f <;> exact hmem

theorem logic_word {t : Ty} (h : t ∈ ([.b32, .b64] : List Ty)) : t ∈ wordTypes :=
  (by decide : ([.b32, .b64] : List Ty) ⊆ wordTypes) h

theorem addThen_eq_heldAs (pick : Int → Int → Int) (t : Ty) (x y z : Int) :
    addThen pick (tyElem t).1 (tySigned t) [x, y, z] = heldAs false (tySigned t) (tyElem t).1
      (pick (intOp.sextOrZext t (heldAs true (tySigned t) (tyElem t).1 (x + y))) z) := by
  have hw : 0 < (tyElem t).1 := by cases t <;> decide
  rw [intOp.sextOrZext, elemInt_heldAs_sat _ hw]
  rfl

theorem divElem_eq_heldAs (sat : Bool) (t : Ty) (x y : Int) : divElem sat (tyElem t).1 (tySigned t) [x, y] =
    heldAs sat (tySigned t) (tyElem t).1 (if y = 0 then intOp.allOnes t else Int.tdiv x y) := by
  rw [divElem]
  split
  · rw [heldAs_allOnes]
  · rw [narrow_eq_heldAs]

theorem natAbs_eq_ite (x : Int) : (x.natAbs : Int) = if x < 0 then -x else x := by split <;> omega

theorem natAbs_sub_eq_ite (x y : Int) : ((x - y).natAbs : Int) = if x < y then y - x else x - y := by split <;> omega

theorem narrow_of_eq {sat sg : Bool} {w : Nat} {x y : Int} (h : x = y) : narrow sat sg w x = heldAs sat sg w y := by
  rw [narrow_eq_heldAs, h]

/-- A field as `BFX` returns it: extended from its highest bit for a signed type. -/
theorem bfx_eq (w x y : Nat) (sg : Bool) :
    (if sg && fieldLen w y != 0 then wrapInt w (sextNat (fieldLen w y) (x / 2 ^ fieldPos w y % 2 ^ fieldLen w y))
      else x / 2 ^ fieldPos w y % 2 ^ fieldLen w y) =
    if sg && decide (2 ^ (fieldAt w y).2 ≤ 2 * (x / 2 ^ (fieldAt w y).1 % 2 ^ (fieldAt w y).2)) then
      2 ^ w - 2 ^ (fieldAt w y).2 + x / 2 ^ (fieldAt w y).1 % 2 ^ (fieldAt w y).2
    else x / 2 ^ (fieldAt w y).1 % 2 ^ (fieldAt w y).2 := by
  have hle := fieldAt_le w y
  have hv : x / 2 ^ (fieldAt w y).1 % 2 ^ (fieldAt w y).2 < 2 ^ (fieldAt w y).2 := Nat.mod_lt _ (Nat.two_pow_pos _)
  simp only [fieldPos_eq, fieldLen_eq]
  generalize x / 2 ^ (fieldAt w y).1 % 2 ^ (fieldAt w y).2 = v at hv
  generalize (fieldAt w y).2 = n at hle hv
  cases sg with
  | false => rfl
  | true =>
    rcases Nat.eq_zero_or_pos n with rfl | hn
    · simp_all
    · simp [Nat.ne_of_gt hn, wrapInt_sextNat (w := w) hn (by omega) hv]

/-- The sum of an address and an offset (08 R172). -/
theorem lea_signed_eq (a b : Nat) :
    wrapInt 64 ((a : Int) + sextNat 32 b) = (BitVec.ofNat 64 a + (BitVec.ofNat 32 b).signExtend 64).toNat := by
  have hb : sextNat 32 b = (BitVec.ofNat 32 b).toInt := by
    rw [← sextNat_toNat, BitVec.toNat_ofNat, sextNat, sextNat, Nat.mod_mod]
  rw [wrapInt_eq_toNat_ofInt, hb, BitVec.ofInt_add, BitVec.ofInt_natCast, BitVec.signExtend]

theorem lea_unsigned_eq (a b : Nat) :
    (a + b % 2 ^ 32) % 2 ^ 64 = (BitVec.ofNat 64 a + (BitVec.ofNat 32 b).setWidth 64).toNat := by
  rw [BitVec.toNat_add, BitVec.toNat_ofNat, BitVec.toNat_setWidth, BitVec.toNat_ofNat]
  omega

/-- Each integer instruction. -/
theorem intOp_means {i : Iss} {ins : Instr} {o : RegOp} (ho : intOp i.rep ins = some o) (hcheck : o.view.check i = none) : o.Means i (exec ins) := by
  cases ins with
  | iadd f | isub f | imul f | imin f | imax f =>
    cases ho
    unfold exec
    exact .int2 rfl rfl rfl fun _ _ => narrow_eq_heldAs ..
  | imulhi f | irem f =>
    cases ho
    unfold exec
    exact .int2 rfl rfl rfl fun _ _ => wrapInt_eq_heldAs ..
  | idiv f =>
    cases ho
    unfold exec
    exact .int2 rfl rfl rfl (divElem_eq_heldAs _ _)
  | imad f | iadd3 f =>
    cases ho
    unfold exec
    exact .int3 rfl rfl rfl fun _ _ _ => narrow_eq_heldAs ..
  | addmin f | addmax f =>
    cases ho
    unfold exec
    exact .int3 rfl rfl rfl (addThen_eq_heldAs _ _)
  | min3 f =>
    cases ho
    unfold exec
    exact .int3 rfl rfl rfl fun x y z => narrow_of_eq (min_assoc x y z).symm
  | max3 f =>
    cases ho
    unfold exec
    exact .int3 rfl rfl rfl fun x y z => narrow_of_eq (max_assoc x y z).symm
  | isad f =>
    cases ho
    unfold exec
    exact .int3 rfl rfl rfl fun x y z => narrow_of_eq (congrArg (· + z) (natAbs_sub_eq_ite x y))
  | iabs f =>
    cases ho
    unfold exec
    exact .int1 rfl rfl rfl fun x => narrow_of_eq (natAbs_eq_ite x)
  | ineg f =>
    cases ho
    unfold exec
    exact .int1 rfl rfl rfl fun _ => narrow_eq_heldAs ..
  | land f =>
    cases ho
    unfold exec
    exact .word2 rfl rfl rfl (logic_word (viewInt2_ty hcheck)) fun _ _ => (BitVec.toNat_and ..).symm
  | lor f =>
    cases ho
    unfold exec
    exact .word2 rfl rfl rfl (logic_word (viewInt2_ty hcheck)) fun _ _ => (BitVec.toNat_or ..).symm
  | lxor f =>
    cases ho
    unfold exec
    exact .word2 rfl rfl rfl (logic_word (viewInt2_ty hcheck)) fun _ _ => (BitVec.toNat_xor ..).symm
  | landn f =>
    cases ho
    unfold exec
    refine .word2 rfl rfl rfl (logic_word (viewInt2_ty hcheck)) fun _ y => ?_
    rw [notW_eq_toNat_not y, ← BitVec.toNat_and]
    rfl
  | lorn f =>
    cases ho
    unfold exec
    refine .word2 rfl rfl rfl (logic_word (viewInt2_ty hcheck)) fun _ y => ?_
    rw [notW_eq_toNat_not y, ← BitVec.toNat_or]
    rfl
  | lnot f =>
    cases ho
    unfold exec
    exact .word1 rfl rfl rfl (logic_word (View.ty_mem hcheck)) notW_eq_toNat_not
  | shl f =>
    cases ho
    unfold exec
    exact .word2 rfl rfl rfl (viewInt2_ty hcheck) fun x _ => shl_eq_toNat x _
  | shr f =>
    cases ho
    unfold exec
    exact .word2 rfl rfl rfl (viewInt2_ty hcheck) fun x _ => shr_eq_toNat x _
  | sar f =>
    cases ho
    unfold exec
    exact .word2 rfl rfl rfl (viewInt2_ty hcheck) fun x _ => sar_eq_toNat x _
  | rol f =>
    cases ho
    unfold exec
    exact .word2 rfl rfl rfl (viewInt2_ty hcheck) fun x _ => rotl_eq_toNat x _
  | ror f =>
    cases ho
    unfold exec
    exact .word2 rfl rfl rfl (viewInt2_ty hcheck) fun x _ => rotr_eq_toNat x _
  | fshl f =>
    cases ho
    unfold exec
    exact .word3 rfl rfl rfl (View.ty_mem hcheck) fun x _ z => fshl_eq_toNat x z _
  | fshr f =>
    cases ho
    unfold exec
    exact .word3 rfl rfl rfl (View.ty_mem hcheck) fun x _ z => fshr_eq_toNat x z _
  | bfi f =>
    cases ho
    unfold exec
    refine .word3 rfl rfl rfl (View.ty_mem hcheck) fun x y z => ?_
    simp only [fieldPos_eq, fieldLen_eq]
    exact bfi_eq_toNat x z (fieldAt_le ..)
  | popc f =>
    cases ho
    unfold exec
    exact .word1 rfl rfl rfl (View.ty_mem hcheck) popc_eq_toNat
  | clz f =>
    cases ho
    unfold exec
    refine .word1 rfl rfl rfl (View.ty_mem hcheck) fun x => firstBit_eq_toNat fun j hj => ?_
    simp only [BitVec.getMsbD, hj, decide_true, Bool.true_and]
    rfl
  | ctz f =>
    cases ho
    unfold exec
    exact .word1 rfl rfl rfl (View.ty_mem hcheck) fun x => firstBit_eq_toNat fun j _ => rfl
  | brev f =>
    cases ho
    unfold exec
    exact .word1 rfl rfl rfl (View.ty_mem hcheck) brev_eq_toNat
  | bfx f =>
    cases ho
    unfold exec
    refine .of_compute rfl rfl rfl fun l u xs hxs => ?_
    obtain ⟨x, y, rfl⟩ := List.length_eq_two.mp hxs.length_eq.symm
    exact congrArg (fun n => ({ val := n } : LaneOut)) (bfx_eq ..)
  | lea f =>
    cases ho
    unfold exec
    refine .of_compute rfl rfl rfl fun l u xs hxs => ?_
    obtain ⟨x, y, rfl⟩ := List.length_eq_two.mp hxs.length_eq.symm
    refine congrArg (fun n => ({ val := n } : LaneOut)) ?_
    dsimp only [arg, List.getD_cons_zero, List.getD_cons_succ]
    split
    · exact lea_signed_eq x y
    · exact lea_unsigned_eq x y
  | mov f =>
    cases ho
    unfold exec
    refine .of_compute rfl rfl rfl fun l u xs hxs => ?_
    obtain ⟨x, rfl⟩ := List.length_eq_one_iff.mp hxs.length_eq.symm
    rfl
  | _ => cases ho

/-- A unit that nothing holds back has passed the checks of 07 R153. -/
theorem check_of_ready {s : State} {i : Iss} {v : View} (h : Ready s i v) : v.check i = none := by
  have hclear := h.2
  simp only [Iss.clear, Bool.and_eq_true, Option.isNone_iff_eq_none] at hclear
  exact hclear.1.1.1.1.1.2

/-- Settles O6: every integer instruction is `compute` with its rule's result. -/
theorem integerResults : Obligations.IntegerResults := fun _ _ _ _ _ _ ho hready hreads hgive =>
  (intOp_means ho (check_of_ready hready)).completes hready hreads hgive

/-! ### Floating-point instructions (08 R173 to R178) -/

/-- Each floating-point instruction. -/
theorem floatOp_means {i : Iss} {ins : Instr} {o : RegOp} (ho : floatOp i.rep ins = some o) : o.Means i (exec ins) := by
  cases ins with
  | fadd f | fsub f | fmul f | fmin f | fmax f =>
    cases ho
    unfold exec
    exact .of_compute rfl rfl rfl fun _ _ _ _ => rfl
  | ffma f | fdiv f | fsqrt f | frcp f | fabs f =>
    cases ho
    unfold exec
    exact .of_compute rfl rfl rfl fun _ _ _ _ => rfl
  | frsq f =>
    cases ho
    unfold exec
    refine .of_compute rfl rfl rfl fun _ _ xs hxs => ?_
    obtain ⟨x, rfl⟩ := List.length_eq_one_iff.mp hxs.length_eq.symm
    rfl
  | fexp2 f | flog2 f | fsin f | fcos f | ftanh f =>
    cases ho
    unfold exec
    refine .of_compute rfl rfl rfl fun _ _ xs hxs => ?_
    obtain ⟨x, rfl⟩ := List.length_eq_one_iff.mp hxs.length_eq.symm
    change _ = floatOp.approxLane _ _ _
    simp only [floatOp.approxLane, ← Nat.mod_eq_sub_div_mul]
    rfl
  | fclass f =>
    cases ho
    unfold exec
    refine .of_compute rfl rfl rfl fun _ _ xs hxs => ?_
    obtain ⟨x, rfl⟩ := List.length_eq_one_iff.mp hxs.length_eq.symm
    rfl
  | _ => cases ho

/-- Settles O7: every floating-point instruction is `compute` with its rule's rounded result. -/
theorem floatResults : Obligations.FloatResults := fun _ _ _ _ _ _ ho hready hreads hgive =>
  (floatOp_means ho).completes hready hreads hgive

/-! ### Conversions, dot products, packings (08 R179 to R184) -/

theorem compute_of_srcs_eq {dt : Ty} {d : Spec} {srcs srcs' : List Opnd} {fn : (Nat → Nat) → List Nat → LaneOut} (h : srcs = srcs') :
    compute dt d srcs fn = compute dt d srcs' fn := by rw [h]

@[simp] theorem strideR_ty (f : RForm) (r : Option RepState) : (strideR f r).ty = f.ty := by cases r <;> rfl

theorem headD_eq_arg (xs : List Nat) : xs.headD 0 = arg xs 0 := by cases xs <;> rfl

theorem elemAt_zero (w x : Nat) : elemAt w x 0 = x % 2 ^ w := by simp [elemAt]

/-- Each conversion, dot product, packing and byte selection. -/
theorem convertOp_means {i : Iss} {ins : Instr} {o : RegOp} (ho : convertOp i.rep ins = some o) : o.Means i (exec ins) := by
  cases ins with
  | cvt x f =>
    cases ho
    unfold exec
    refine .of_compute rfl rfl rfl fun _ _ xs hxs => ?_
    obtain ⟨x, rfl⟩ := List.length_eq_one_iff.mp hxs.length_eq.symm
    rfl
  | cvtw x f =>
    cases ho
    unfold exec
    refine .of_compute rfl rfl rfl fun _ _ xs hxs => ?_
    obtain ⟨x, y, rfl⟩ := List.length_eq_two.mp hxs.length_eq.symm
    dsimp only
    split <;> rfl
  | dot2 f | dot4 f | bsel f =>
    cases ho
    unfold exec
    refine .of_compute rfl rfl rfl fun _ _ xs hxs => ?_
    obtain ⟨x, y, z, rfl⟩ := List.length_eq_three.mp hxs.length_eq.symm
    rfl
  | pack f =>
    cases ho
    unfold exec
    refine .of_compute rfl rfl (congrFun (compute_of_srcs_eq ?srcs) i) fun _ _ xs hxs => ?result
    case srcs =>
      rw [strideR_ty]
      split <;> rfl
    case result =>
      dsimp only
      simp only [headD_eq_arg, narrow_eq_heldAs, packOuts, List.map_cons, List.map_nil, List.foldl_cons, List.foldl_nil, Nat.zero_or]
      rfl
  | cvtq x f =>
    cases ho
    unfold exec
    refine .of_compute rfl rfl (congrFun (compute_of_srcs_eq ?srcs) i) fun _ _ xs hxs => ?result
    case srcs =>
      rw [strideR_ty]
      split <;> rfl
    case result =>
      dsimp only
      simp only [headD_eq_arg, elemAt_zero, packOuts, strideR_ty]
      rfl
  | _ => cases ho

/-! ### Segments of lanes (09 R185) -/

theorem View.not_bad {v : View} {i : Iss} (h : v.check i = none) : v.bad = false := by
  unfold View.check at h
  repeat' split at h
  all_goals simp_all

theorem View.not_lead {v : View} {i : Iss} (h : v.check i = none) (hlane : v.lead = false) : i.lead = false := by
  unfold View.check at h
  repeat' split at h
  all_goals simp_all

theorem segR_lt {f : RForm} (h : badR f segMods = false) : segR f < 6 := by
  simp [badR, segMods] at h
  simpa [segR] using h.2.2

theorem segI_lt {f : IForm} (h : badI f segMods = false) : segI f < 6 := by
  simp [badI, segMods] at h
  simpa [segI] using h.2.2

theorem Iss.lanes_of_lane {i : Iss} (h : i.lead = false) (en : LaneMask) : i.lanes en = lanesOf en := by simp [Iss.lanes, h]

theorem mem_lanesOf {m : LaneMask} {l : Nat} : l ∈ lanesOf m ↔ l < 32 ∧ m.getLsbD l = true := by simp [lanesOf]

/-- A segment is the run of lanes from its first one on. -/
theorem segment_eq : ∀ seg < 6, ∀ l < 32, (List.range (segW seg)).map (segLo seg l + ·) = (List.range 32).filter fun m => segLo seg m == segLo seg l := by
  decide

theorem segLanes_eq (en : LaneMask) {seg l : Nat} (hseg : seg < 6) (hl : l < 32) :
    segLanes en seg l = (List.range 32).filter fun m => en.getLsbD m && segLo seg m == segLo seg l := by
  rw [← List.filter_filter, ← segment_eq seg hseg l hl, segLanes, List.filter_map, ← List.filterMap_eq_map, ← List.filterMap_eq_filter,
    List.filterMap_filterMap]
  congr 1
  funext j
  simp only [Function.comp_apply, Option.guard]
  split <;> simp_all

/-- The participating lanes of a segment, once the checks of the instruction have passed. -/
theorem segLanes_of_check {i : Iss} {v : View} {f : RForm} {l : Nat} (hcheck : v.check i = none) (hlane : v.lead = false)
    (hbad : v.bad = badR f segMods) (hl : l ∈ i.lanes (i.en v)) :
    segLanes (i.en v) (segR f) l = (List.range 32).filter fun m => (i.en v).getLsbD m && segLo (segR f) m == segLo (segR f) l := by
  rw [Iss.lanes_of_lane (View.not_lead hcheck hlane), mem_lanesOf] at hl
  exact segLanes_eq _ (segR_lt (hbad.symm.trans (View.not_bad hcheck))) hl.1

theorem maskOf_congr {p q : Nat → Bool} (h : ∀ l < 32, p l = q l) : maskOf p = maskOf q := by
  apply BitVec.eq_of_getLsbD_eq
  intro l hl
  rw [getLsbD_maskOf, getLsbD_maskOf, h l hl]

/-! ### Words of masks and of the transaction status (08 R171, 09 R188, R211) -/

@[simp] theorem wrT_word (t : State) (i : Iss) (l : Nat) (d : Spec) (v : Word) : wrT t i l .b32 d v.toNat = wr1 t i l .b32 d v := by
  simp [wrT, tyWide]

@[simp] theorem map_settle_zero (e : Except Halt State) (i : Iss) (l : Nat) : (e.map fun u => u.settle i l 0 0) = e := by
  cases e <;> simp [Except.map]

/-- An instruction without sources that delivers a word of its own for each lane. -/
theorem RegOp.Means.of_words {i : Iss} {v : View} {d : Spec} {run : State → Result} {vf : Iss → View} {body : Body} {out out' : Nat → Word}
    (hexec : run = fun s => issue s vf false false body) (hview : vf i = v)
    (hbody : ∀ s, body i (i.en v) s = perLane i (i.en v) s (fun l => .ok (out l)) fun t l x => wr1 t i l .b32 d x)
    (hout : ∀ l ∈ i.lanes (i.en v), out l = out' l) :
    RegOp.Means { view := v, dt := .b32, d := d, srcs := [], fn := fun l _ _ => { val := (out' l).toNat } } i run := by
  refine fun s vals hready _ => ?_
  refine ((congrFun hexec s).trans (issue_ready false false body (hview ▸ hready))).trans ?_
  rw [hview]
  refine congrArg _ (runBody_congr ((hbody _).trans ?_))
  rw [perLane_ok (vals := out') _ fun l hl => congrArg _ (hout l hl)]
  unfold RegOp.body
  congr 1
  funext t l
  rw [RegOp.give, map_settle_zero, wrT_word]

theorem wordOp_means {i : Iss} {ins : Instr} {o : RegOp} (ho : wordOp i ins = some o) (hcheck : o.view.check i = none) : o.Means i (exec ins) := by
  cases ins with
  | kget f =>
    cases ho
    unfold exec
    exact .of_words rfl rfl (fun _ => rfl) fun _ _ => rfl
  | xtest f =>
    cases ho
    unfold exec
    exact .of_words rfl rfl (fun _ => rfl) fun _ _ => rfl
  | kpollWord f =>
    cases ho
    unfold exec
    refine .of_words rfl rfl (fun _ => rfl) fun l hl => maskOf_congr fun m hm => ?_
    rw [segLanes_of_check hcheck rfl rfl hl, Bool.eq_iff_iff]
    simp only [Bool.and_eq_true, List.contains_iff_mem, List.mem_filter, List.mem_range, hm, true_and]
    rfl
  | _ => cases ho

/-- Settles O8: each is `compute` with its rule's result, or a word that every lane is given. -/
theorem conversionResults : Obligations.ConversionResults :=
  ⟨fun _ _ _ _ _ _ ho hready hreads hgive => (convertOp_means ho).completes hready hreads hgive,
    fun _ _ _ _ _ _ ho hready hreads hgive => (wordOp_means ho (check_of_ready hready)).completes hready hreads hgive⟩

/-! ### Instructions that compute one mask bit per lane (08 R169, R171, R177, 09 R188) -/

/-- An instruction of this shape sets the bit of every enabled lane, where its operands are readable. -/
def MaskOp.Means (o : MaskOp) (i : Iss) (run : State → Result) : Prop :=
  ∀ s vals, Ready s i o.view → o.reads s i vals →
    run s = .next (((i.lanes (i.en o.view)).foldl (o.give i vals) (s.begun i o.view)).advance i i.active)

/-- A value read for every lane, from which its bit is then set. -/
theorem MaskOp.Means.of_perLane {α : Type} {o : MaskOp} {i : Iss} {run : State → Result} {vf : Iss → View} {body : Body}
    {read : State → Nat → Except Halt α} {write : State → Nat → α → State} (out : Nat → List Nat → α)
    (hexec : run = fun s => issue s vf false false body) (hview : vf i = o.view)
    (hbody : ∀ s, body i (i.en o.view) s = perLane i (i.en o.view) s (read s) fun t l v => .ok (write t l v))
    (hread : ∀ s l xs, l ∈ i.lanes (i.en o.view) → mapE (rdOp s i l) o.srcs = .ok xs → read s l = .ok (out l xs))
    (hwrite : ∀ t l vals, (vals l).length = o.srcs.length → write t l (out l (vals l)) = o.give i vals t l) : o.Means i run := by
  intro s vals hready hreads
  refine ((congrFun hexec s).trans (issue_ready false false body (hview ▸ hready))).trans (congrArg _ ?_)
  rw [hview]
  refine (runBody_ok ?_).trans (moveOn_all _ _ _)
  rw [hbody, perLane_ok (vals := fun l => out l (vals l)) _ fun l hl => hread _ l _ hl (hreads l hl)]
  refine foldLanes_ok ((foldE_ok ..).trans (congrArg _ (List.foldl_ext _ _ _ fun t l hl => hwrite t l vals ?_)))
  exact (mapE_forall₂ (hreads l hl)).length_eq.symm

/-- `computeK` with the bit and flags of the shape. -/
theorem MaskOp.Means.of_computeK {o : MaskOp} {i : Iss} {run : State → Result} {vf : Iss → View} {body : Body} {fn : List Nat → Bool × Nat}
    (hexec : run = fun s => issue s vf false false body) (hview : vf i = o.view) (hbody : body i = computeK o.d o.srcs fn i)
    (hfn : ∀ l xs, xs.length = o.srcs.length → fn xs = o.fn l xs) : o.Means i run := by
  refine .of_perLane (fun _ => fn) hexec hview (fun s => congrFun (congrFun hbody _) s) (fun s l xs _ hxs => ?read) fun t l vals hlen => ?write
  case read => rw [hxs, Except.map]
  case write => rw [MaskOp.give, ← hfn l _ hlen]

/-- A bit that sets no flags. -/
theorem MaskOp.Means.of_bits {o : MaskOp} {i : Iss} {run : State → Result} {vf : Iss → View} {body : Body}
    {read : State → Nat → Except Halt Bool} (bit : Nat → List Nat → Bool) (hexec : run = fun s => issue s vf false false body) (hview : vf i = o.view)
    (hbody : ∀ s, body i (i.en o.view) s = perLane i (i.en o.view) s (read s) fun t l v => .ok (t.wrK i l o.d.idx.toNat v))
    (hread : ∀ s l xs, l ∈ i.lanes (i.en o.view) → mapE (rdOp s i l) o.srcs = .ok xs → read s l = .ok (bit l xs))
    (hfn : ∀ l xs, o.fn l xs = (bit l xs, 0)) : o.Means i run := by
  refine .of_perLane bit hexec hview hbody hread fun t l vals _ => ?_
  rw [MaskOp.give, hfn, State.settle_zero]

/-- Each comparison and each mask instruction. The bodies of `KPOLL.all` and `KPOLL.any` name their masks by the fields of the
instruction, without the strides of a `REPEAT`. -/
theorem maskOp_means {i : Iss} {ins : Instr} {o : MaskOp} (ho : maskOp i ins = some o) (hcheck : o.view.check i = none)
    (hpoll : ∀ f, ins = .kpollAll f ∨ ins = .kpollAny f → strideR f i.rep = f) : o.Means i (exec ins) := by
  cases ins with
  | icmp x f =>
    cases ho
    unfold exec
    refine .of_computeK rfl rfl rfl fun l xs hlen => ?_
    obtain ⟨a, b, rfl⟩ := List.length_eq_two.mp hlen
    rfl
  | fcmp x f =>
    cases ho
    unfold exec
    refine .of_computeK rfl rfl rfl fun l xs hlen => ?_
    obtain ⟨a, b, rfl⟩ := List.length_eq_two.mp hlen
    dsimp only
    cases tyFmt (aTy (strideA f i.rep)) <;> rfl
  | kand f | kor f | kandn f | knot f | kxor f =>
    cases ho
    unfold exec
    exact .of_bits _ rfl rfl (fun _ => rfl) (fun _ _ _ _ _ => rfl) fun _ _ => rfl
  | kset f =>
    cases ho
    unfold exec
    refine .of_bits (fun l xs => (arg xs 0).testBit l) rfl rfl (fun _ => rfl) (fun s l xs _ hxs => ?_) fun _ _ => rfl
    obtain _ | ⟨hx, _ | _⟩ := mapE_forall₂ hxs
    rw [hx]
    rfl
  | kpollAll f =>
    cases ho
    unfold exec
    have hstride := hpoll f (.inl rfl)
    rw [hstride] at hcheck ⊢
    refine .of_bits _ rfl (congrArg viewKpoll hstride) (fun _ => rfl) (fun s l xs hl _ => ?_) fun _ _ => rfl
    rw [segLanes_of_check hcheck rfl rfl hl, if_pos rfl, List.all_map]
    rfl
  | kpollAny f =>
    cases ho
    unfold exec
    have hstride := hpoll f (.inr rfl)
    rw [hstride] at hcheck ⊢
    refine .of_bits _ rfl (congrArg viewKpoll hstride) (fun _ => rfl) (fun s l xs hl _ => ?_) fun _ _ => rfl
    rw [segLanes_of_check hcheck rfl rfl hl, if_neg Bool.false_ne_true, List.any_map]
    rfl
  | _ => cases ho

/-- What stands of O9: the comparisons and the mask instructions set the bits of the enabled lanes, `KPOLL.all` and `KPOLL.any` where
no stride applies to them. -/
theorem maskResults_of_unstrided {s : State} {i : Iss} {ins : Instr} {o : MaskOp} {vals : Nat → List Nat} (ho : maskOp i ins = some o)
    (hready : Ready s i o.view) (hreads : o.reads s i vals) (hpoll : ∀ f, ins = .kpollAll f ∨ ins = .kpollAny f → strideR f i.rep = f) :
    exec ins s = .next (((i.lanes (i.en o.view)).foldl (o.give i vals) (s.begun i o.view)).advance i i.active) :=
  maskOp_means ho (check_of_ready hready) hpoll s vals hready hreads

/-! ### Moves between lanes (08 R170, 09 R186 to R191) -/

/-- An instruction of this shape completes with the values of the state before any write. -/
def MoveOp.Means (o : MoveOp) (i : Iss) (run : State → Result) : Prop :=
  ∀ s t vals, Ready s i o.view → (∀ l ∈ i.lanes (i.en o.view), o.value (s.begun i o.view) l = .ok (vals l)) →
    foldE (o.give i vals) (s.begun i o.view) (i.lanes (i.en o.view)) = .ok t → run s = .next (t.advance i i.active)

theorem foldE_ext {α σ ε : Type} {f g : σ → α → Except ε σ} : ∀ {xs : List α} (s : σ), (∀ t, ∀ x ∈ xs, f t x = g t x) → foldE f s xs = foldE g s xs
  | [], _, _ => rfl
  | x :: xs, s, h => by
    rw [foldE, foldE, h s x List.mem_cons_self]
    split
    · exact foldE_ext _ fun t y hy => h t y (List.mem_cons_of_mem x hy)
    · rfl

/-- A value read for every lane, and then delivered. -/
theorem MoveOp.Means.of_perLane {α : Type} {o : MoveOp} {i : Iss} {run : State → Result} {vf : Iss → View} {body : Body}
    {read : State → Nat → Except Halt α} {write : State → Nat → α → Except Halt State}
    (hexec : run = fun s => issue s vf false false body) (hview : vf i = o.view)
    (hbody : ∀ s, body i (i.en o.view) s = perLane i (i.en o.view) s (read s) write)
    (hread : ∀ s vals, (∀ l ∈ i.lanes (i.en o.view), o.value s l = .ok (vals l)) → ∃ out : Nat → α, ∀ l ∈ i.lanes (i.en o.view),
      read s l = .ok (out l) ∧ ∀ t, write t l (out l) = o.give i vals t l) : o.Means i run := by
  intro s t vals hready hvals hgive
  obtain ⟨out, hout⟩ := hread _ vals hvals
  refine ((congrFun hexec s).trans (issue_ready false false body (hview ▸ hready))).trans (congrArg _ ?_)
  rw [hview]
  refine (runBody_ok ?_).trans (moveOn_all _ _ _)
  rw [hbody, perLane_ok (vals := out) _ fun l hl => (hout l hl).1]
  exact foldLanes_ok ((foldE_ext _ fun t l hl => (hout l hl).2 t).trans hgive)

theorem Except.eq_ok_of_map {ε α β : Type} {e : Except ε α} {f : α → β} {b : β} (h : e.map f = .ok b) : ∃ a, e = .ok a ∧ f a = b := by
  cases e with
  | error _ => cases h
  | ok a => cases h; exact ⟨a, rfl, rfl⟩

/-- A value that sets no flags, computed for each lane by itself as `α` holds it. -/
theorem MoveOp.Means.of_plain {α : Type} [Inhabited α] {o : MoveOp} {i : Iss} {run : State → Result} {vf : Iss → View} {body : Body}
    {read : State → Nat → Except Halt α} {write : State → Nat → α → Except Halt State} (num : α → Nat)
    (hexec : run = fun s => issue s vf false false body) (hview : vf i = o.view)
    (hbody : ∀ s, body i (i.en o.view) s = perLane i (i.en o.view) s (read s) write)
    (hvalue : ∀ s, ∀ l ∈ i.lanes (i.en o.view), o.value s l = (read s l).map fun v => (num v, 0))
    (hwrite : ∀ t l v, write t l v = wrT t i l o.ty o.d (num v)) : o.Means i run := by
  refine .of_perLane hexec hview hbody fun s vals hvals => ?_
  have hread : ∀ l ∈ i.lanes (i.en o.view), ∃ v, read s l = .ok v ∧ (num v, 0) = vals l := fun l hl =>
    Except.eq_ok_of_map ((hvalue s l hl).symm.trans (hvals l hl))
  choose! out hout using hread
  refine ⟨out, fun l hl => ⟨(hout l hl).1, fun t => ?_⟩⟩
  rw [MoveOp.give, ← (hout l hl).2, map_settle_zero, hwrite]

theorem lgetSrc_eq {seg : Nat} (hseg : seg < 6) (flip : Bool) (l : Nat) (b : Word) : lgetSrc flip seg l b =
    if flip then l ^^^ (b.toNat % segW seg) else segLo seg l + b.toNat % segW seg := by
  have hdvd : segW seg ∣ 32 := by decide +revert
  rw [lgetSrc, Nat.mod_mod_of_dvd _ hdvd]

theorem lshSrc_up (seg l n : Nat) : lshSrc true seg l n = if segLo seg l ≤ l - n ∧ n ≤ l then some (l - n) else none := by
  simp only [lshSrc, if_true]
  congr 1
  rw [eq_iff_iff]
  omega

/-- The values of a lane's segment, where every participating lane is asked. -/
theorem segRead_all {s : State} {i : Iss} {v : View} {f : RForm} {l : Nat} (hcheck : v.check i = none) (hlane : v.lead = false)
    (hbad : v.bad = badR f segMods) (hg : v.g = f.g) (hl : l ∈ i.lanes (i.en v)) :
    segRead s i f l (fun _ => true) = segVals s i (i.en v) f.ty (segR f) f.a l := by
  rw [segVals, segLanes_of_check hcheck hlane hbad hl]
  simp only [segRead, Iss.en, hg, Bool.and_true]

/-- All values are equal where each is equal to the first. -/
theorem all_eq_head (vs : List (Nat × Nat)) :
    (vs.all fun x => some x.2 == vs.head?.map (·.2)) = vs.all fun x => vs.all fun y => x.2 == y.2 := by
  cases vs with
  | nil => rfl
  | cons v vs =>
    rw [Bool.eq_iff_iff]
    simp only [List.all_eq_true, List.head?_cons, Option.map_some, beq_iff_eq, Option.some.injEq]
    exact ⟨fun h x hx y hy => (h x hx).trans (h y hy).symm, fun h x hx => h x hx v List.mem_cons_self⟩

theorem mapE_mem {α β ε : Type} {f : α → Except ε β} {xs : List α} {ys : List β} (h : mapE f xs = .ok ys) {x : α} (hx : x ∈ xs) :
    ∃ y, f x = .ok y := by
  have hall := mapE_forall₂ h
  clear h
  induction hall with
  | nil => cases hx
  | cons hxy _ ih =>
    rcases List.mem_cons.mp hx with rfl | hx
    · exact ⟨_, hxy⟩
    · exact ih hx

/-- A fold over those participating lanes of the segment that `p` picks, the lane itself among them (09 R190, R191). Where each
lane can read those that it folds, all of them can be read. -/
theorem foldBody_means {i : Iss} {run : State → Result} {vf : Iss → View} {body : Body} {v : View} {x : FoldOp} {f : RForm} {p : Nat → Nat → Bool}
    (hexec : run = fun s => issue s vf false false body) (hview : vf i = v) (hbody : body i = foldBody x f p i)
    (hcheck : v.check i = none) (hlane : v.lead = false) (hbad : v.bad = badR f segMods) (hg : v.g = f.g) (hself : ∀ l, p l l = true) :
    MoveOp.Means { view := v, ty := f.ty, d := f.d, value := fun s l => (segRead s i f l (p l)).map fun vs => foldVals x f.ty (vs.map (·.2)) }
      i run := by
  refine .of_perLane hexec hview (fun s => congrFun (congrFun hbody _) s) fun s vals hvals => ⟨vals, fun l hl => ⟨?_, fun t => rfl⟩⟩
  have hlanes := fun l => Iss.lanes_of_lane (View.not_lead hcheck hlane) (i.en v) ▸ mem_lanesOf (m := i.en v) (l := l)
  have hread : ∀ m ∈ i.lanes (i.en v), ∃ a, rdT s i m f.ty f.a = .ok a := by
    intro m hm
    obtain ⟨vs, hvs, _⟩ := Except.eq_ok_of_map (hvals m hm)
    have hmem := (hlanes m).mp hm
    obtain ⟨y, hy⟩ := mapE_mem hvs (x := m) (by simpa [hself, Iss.en, hg] using hmem)
    exact (Except.eq_ok_of_map hy).imp fun _ h => h.1
  choose! a ha using hread
  have hvalue := hvals l hl
  have hseg : segLanes (i.en v) (segR f) l = _ := segLanes_of_check hcheck hlane hbad hl
  have hmem : ∀ m ∈ segLanes (i.en v) (segR f) l, (rdT s i m f.ty f.a).map (fun v => (m, v)) = .ok (m, a m) := by
    intro m hm
    rw [hseg, List.mem_filter, List.mem_range, Bool.and_eq_true] at hm
    rw [ha m ((hlanes m).mpr ⟨hm.1, hm.2.1⟩)]
    rfl
  have hpick : (List.range 32).filter (fun m => (i.enabled f.g).getLsbD m && segLo (segR f) m == segLo (segR f) l && p l m) =
      (segLanes (i.en v) (segR f) l).filter (p l) := by
    rw [hseg, List.filter_filter, Iss.en, hg]
    simp only [Bool.and_comm]
  dsimp only at hvalue
  rw [segRead, hpick, mapE_ok fun m hm => hmem m (List.mem_of_mem_filter hm)] at hvalue
  rw [segVals, mapE_ok hmem, ← hvalue]
  simp only [Except.map, List.filter_map]
  rfl

/-- Each move between lanes, and `SEL`. -/
theorem moveOp_means {i : Iss} {ins : Instr} {o : MoveOp} (ho : moveOp i ins = some o) (hcheck : o.view.check i = none) : o.Means i (exec ins) := by
  cases ins with
  | sel f =>
    cases ho
    unfold exec
    refine .of_plain id rfl rfl (fun _ => rfl) (fun s l _ => ?_) fun _ _ _ => rfl
    dsimp only
    cases rdT s i l (strideR f i.rep).ty (strideR f i.rep).a <;> cases rdT s i l (strideR f i.rep).ty (strideR f i.rep).b <;> rfl
  | lgetAt f | lgetFlip f =>
    unfold exec
    unfold moveOp at ho
    dsimp only at ho
    cases hf : strideA f i.rep with
    | r g =>
      rw [hf] at ho
      cases ho
      refine .of_plain id rfl (congrArg viewLget hf) (fun s => congrFun (congrFun (congrFun (congrArg (lgetA _) hf) _) _) _) (fun s l _ => ?_)
        fun _ _ _ => rfl
      simp only [lgetSrc_eq (segR_lt (View.not_bad hcheck))]
      cases rd1 s i l g.b <;> rfl
    | i g =>
      rw [hf] at ho
      cases ho
      refine .of_plain id rfl (congrArg viewLget hf) (fun s => congrFun (congrFun (congrFun (congrArg (lgetA _) hf) _) _) _) (fun s l _ => ?_)
        fun _ _ _ => rfl
      simp only [lgetSrc_eq (segI_lt (View.not_bad hcheck))]
      rfl
  | lshup f =>
    cases ho
    unfold exec
    refine .of_plain id rfl rfl (fun _ => rfl) (fun s l _ => ?_) fun _ _ _ => rfl
    simp only [lshSrc_up]
    cases rd1 s i l (strideR f i.rep).b <;> rfl
  | lshdn f =>
    cases ho
    unfold exec
    refine .of_plain id rfl rfl (fun _ => rfl) (fun s l _ => ?_) fun _ _ _ => rfl
    dsimp only
    cases rd1 s i l (strideR f i.rep).b <;> rfl
  | lpeerEq f =>
    cases ho
    unfold exec
    refine .of_plain BitVec.toNat rfl rfl (fun _ => rfl) (fun s l hl => ?_) fun _ _ _ => (wrT_word ..).symm
    dsimp only
    rw [segRead_all hcheck rfl rfl rfl hl]
    cases segVals s i _ _ _ _ l <;> cases rdT s i l (strideR f i.rep).ty (strideR f i.rep).a <;> rfl
  | lpeerUni f =>
    cases ho
    unfold exec
    refine .of_plain BitVec.toNat rfl rfl (fun _ => rfl) (fun s l hl => ?_) fun _ _ _ => (wrT_word ..).symm
    dsimp only
    rw [segRead_all hcheck rfl rfl rfl hl]
    simp only [all_eq_head]
    cases segVals s i _ _ _ _ l with
    | error e => rfl
    | ok vs =>
      simp only [Except.map]
      split <;> rfl
  | lfold x f =>
    cases ho
    unfold exec
    exact foldBody_means rfl rfl rfl hcheck rfl rfl rfl fun _ => rfl
  | lpfx x f =>
    cases ho
    unfold exec
    exact foldBody_means rfl rfl rfl hcheck rfl rfl rfl fun _ => decide_eq_true le_rfl
  | _ => cases ho

/-- Settles O10: every lane's value is read before the first write. -/
theorem Lane.laneMoves : Obligations.LaneMoves := fun s t _ _ _ vals ho hready hvals hgive =>
  moveOp_means ho (check_of_ready hready) s t vals hready hvals hgive

/-! ### A group that has changed on its core -/

theorem updAt_updAt {α : Type} (f h : α → α) : ∀ (xs : List α) (n : Nat), updAt h (updAt f xs n) n = updAt (fun x => h (f x)) xs n
  | [], _ => rfl
  | _ :: _, 0 => rfl
  | x :: xs, n + 1 => congrArg (x :: ·) (updAt_updAt f h xs n)

theorem updAt_eq_mapIdx {α : Type} (f : α → α) : ∀ (xs : List α) (n : Nat), updAt f xs n = xs.mapIdx fun m x => if m = n then f x else x
  | [], _ => rfl
  | x :: xs, 0 => by
    refine List.ext_getElem? fun m => ?_
    cases m <;> simp [updAt]
  | x :: xs, n + 1 => by simp [updAt, List.mapIdx_cons, updAt_eq_mapIdx f xs n]

theorem updFirst_updFirst {α : Type} {p : α → Bool} {f : α → α} (h : α → α) (hf : ∀ x, p (f x) = p x) (xs : List α) :
    updFirst p h (updFirst p f xs) = updFirst p (fun x => h (f x)) xs := by
  induction xs with
  | nil => rfl
  | cons x xs ih => cases hx : p x <;> simp [updFirst, hx, hf, ih]

theorem find?_updFirst_other {α : Type} {p q : α → Bool} {f : α → α} (hpq : ∀ x, p x = true → q x = false ∧ q (f x) = false) (xs : List α) :
    (updFirst p f xs).find? q = xs.find? q := by
  induction xs with
  | nil => rfl
  | cons x xs ih =>
    cases hx : p x
    · simp [updFirst, hx, List.find?_cons, ih]
    · simp [updFirst, hx, hpq x hx]

section OneGroup

variable (s : State) (c gid : Nat) {f : Group → Group} (hf : ∀ g, (f g).gid = g.gid)

theorem State.core_modGroupOn_other {d : Nat} (h : d ≠ c) : (s.modGroupOn c gid f).core d = s.core d := by
  rw [State.modGroupOn, State.core_modCore, if_neg fun hd => h hd.1]

/-- Nothing of the core but its active groups has changed. -/
theorem State.core_modGroupOn_same : (s.modGroupOn c gid f).core c =
    { s.core c with active := { (s.core c).active with groups := ((s.modGroupOn c gid f).core c).active.groups } } := by
  rw [State.modGroupOn, State.core_modCore]
  split <;> rfl

include hf

theorem State.modGroupOn_modGroupOn (h : Group → Group) :
    (s.modGroupOn c gid f).modGroupOn c gid h = s.modGroupOn c gid fun g => h (f g) := by
  have hgroups (gs : List Group) := updFirst_updFirst (p := fun g => g.gid == gid) h (fun g => by rw [hf]) gs
  simp only [State.modGroupOn, State.modCore, updAt_updAt, hgroups]

theorem State.group_modGroupOn_same : (((s.modGroupOn c gid f).core c).active.groups.find? fun g => g.gid == gid) =
    if c < s.cores.length then ((s.core c).active.groups.find? fun g => g.gid == gid).map f else none := by
  rw [State.modGroupOn, State.core_modCore]
  by_cases hc : c < s.cores.length
  · simpa [hc] using find?_updFirst (fun g => by simp [hf]) _
  · simp [hc, State.core_absent (Nat.le_of_not_lt hc), Core.init]

theorem State.group_modGroupOn_other {other : Nat} (h : other ≠ gid) :
    (((s.modGroupOn c gid f).core c).active.groups.find? fun g => g.gid == other) = (s.core c).active.groups.find? fun g => g.gid == other := by
  rw [State.modGroupOn, State.core_modCore]
  split
  · refine find?_updFirst_other (fun g hg => ?_) _
    have hgid : g.gid = gid := by simpa using hg
    simp [hf, hgid, h.symm]
  · rfl

end OneGroup

theorem issOf_group {s : State} {core gid : Nat} {who : Who} {i : Iss} (h : s.issOf core gid who = some i) :
    ((s.core i.core).active.groups.find? fun g => g.gid == i.group.gid) = some i.group := by
  unfold State.issOf at h
  split at h
  · cases h
  · next g hg =>
    have hgid : g.gid = gid := by simpa using List.find?_some hg
    split at h
    · split at h <;> cases h <;> exact hgid ▸ hg
    · cases h

/-- The issuing unit's group is the one that its core has under its name. -/
theorem iss_group {s : State} {i : Iss} (h : s.iss? = some i) :
    ((s.core i.core).active.groups.find? fun g => g.gid == i.group.gid) = some i.group := by
  unfold State.iss? at h
  split at h
  · cases h
  · split at h
    · cases h
    · exact issOf_group h

/-- The issuing unit's group, once it has changed. -/
theorem iss_group_modGroupOn {s : State} {i : Iss} {k : Group → Group} {g : Group} (h : s.iss? = some i)
    (hg : (((s.modGroupOn i.core i.group.gid k).core i.core).active.groups.find? fun h => h.gid == i.group.gid) = some g)
    (hk : ∀ g, (k g).gid = g.gid) : k i.group = g := by
  rw [State.group_modGroupOn_same _ _ _ hk, iss_group h] at hg
  split at hg
  · exact Option.some.inj hg
  · cases hg

/-! ### Changes of the issuing band's lanes -/

/-- Every lane of a band changed, each by its number. -/
def Group.mapLanes (g : Group) (b : Nat) (φ : Nat → Lane → Lane) : Group := g.modBand b fun x => { x with lanes := x.lanes.mapIdx φ }

/-- Every lane of the issuing band changed, each by its number. -/
def State.mapLanes (s : State) (i : Iss) (φ : Nat → Lane → Lane) : State :=
  s.modGroupOn i.core i.group.gid fun g => g.mapLanes i.band φ

theorem Group.mapLanes_mapLanes (g : Group) (b : Nat) (φ ψ : Nat → Lane → Lane) :
    (g.mapLanes b φ).mapLanes b ψ = g.mapLanes b fun l x => ψ l (φ l x) := by
  simp only [Group.mapLanes, Group.modBand, updAt_updAt, List.mapIdx_mapIdx]
  rfl

theorem State.mapLanes_mapLanes (s : State) (i : Iss) (φ ψ : Nat → Lane → Lane) :
    (s.mapLanes i φ).mapLanes i ψ = s.mapLanes i fun l x => ψ l (φ l x) := by
  refine (State.modGroupOn_modGroupOn s i.core i.group.gid (f := fun g => g.mapLanes i.band φ) (fun _ => rfl) _).trans ?_
  simp only [Group.mapLanes_mapLanes]
  rfl

theorem Group.modLane_eq_mapLanes (g : Group) (b l : Nat) (f : Lane → Lane) :
    g.modLane b l f = g.mapLanes b fun m x => if m = l then f x else x := by
  simp only [Group.modLane, Band.modLane, updAt_eq_mapIdx]
  rfl

/-- A band whose lanes have changed holds as many as before, and nothing else of it has changed. -/
theorem Group.bands_mapLanes (g : Group) (b : Nat) (φ : Nat → Lane → Lane) (n : Nat) : (g.mapLanes b φ).bands[n]? =
    (g.bands[n]?).map fun x => if n = b then { x with lanes := x.lanes.mapIdx φ } else x := by
  simp only [Group.mapLanes, Group.modBand, updAt_eq_mapIdx, List.getElem?_mapIdx]

/-- A lane that its band holds has changed by its number. -/
theorem Group.lane_mapLanes (g : Group) (b : Nat) (φ : Nat → Lane → Lane) {l : Nat} (hl : l < ((g.bands[b]?).getD Band.absent).lanes.length) :
    (g.mapLanes b φ).lane b l = φ l (g.lane b l) := by
  rw [Group.lane, Group.lane, Group.bands_mapLanes]
  cases hb : g.bands[b]? with
  | none => rw [hb] at hl; exact absurd hl (Nat.not_lt_zero l)
  | some x =>
    rw [hb] at hl
    have hl : l < x.lanes.length := hl
    simp [Band.lane, hl]

theorem State.advance_eq_mapLanes {i : Iss} (hlead : i.lead = false) (s : State) (m : LaneMask) :
    s.advance i m = s.mapLanes i fun l x => if m.getLsbD l then x.advance else x := by
  simp only [State.advance, hlead]
  rfl

/-- The flags and draws of an instruction counted by one lane. -/
def Lane.count (x : Lane) (fl draws : Nat) : Lane :=
  { x with fpflags := x.fpflags ||| BitVec.ofNat 5 fl, dcount := x.dcount + BitVec.ofNat 32 draws }

@[simp] theorem Lane.count_zero (x : Lane) : x.count 0 0 = x := by simp [Lane.count]

theorem updAt_id {α : Type} (xs : List α) (n : Nat) : updAt (fun x => x) xs n = xs := by
  rw [updAt_eq_mapIdx]
  exact List.ext_getElem? fun m => by simp

theorem updFirst_id {α : Type} (p : α → Bool) (xs : List α) : updFirst p (fun x => x) xs = xs := by
  induction xs with
  | nil => rfl
  | cons x xs ih => simp [updFirst, ih]

@[simp] theorem State.modGroupOn_id (s : State) (c gid : Nat) : (s.modGroupOn c gid fun g => g) = s := by
  simp only [State.modGroupOn, State.modCore, updFirst_id, updAt_id]

@[simp] theorem State.mapLanes_id (s : State) (i : Iss) : (s.mapLanes i fun _ x => x) = s := by
  have hband (x : Band) : ({ x with lanes := x.lanes.mapIdx fun _ y => y } : Band) = x := by
    rw [show (x.lanes.mapIdx fun _ y => y) = x.lanes from List.ext_getElem? fun n => by simp]
  simp only [State.mapLanes, Group.mapLanes, Group.modBand, hband, updAt_id, State.modGroupOn_id]

theorem State.settle_eq_mapLanes {i : Iss} (hlead : i.lead = false) {l : Nat} (hl : l < 32) (s : State) (fl draws : Nat) :
    s.settle i l fl draws = s.mapLanes i fun m x => if m = l then x.count fl draws else x := by
  unfold State.settle
  split
  · next h =>
    obtain ⟨rfl, rfl⟩ : fl = 0 ∧ draws = 0 := by simpa [hlead] using h
    simp
  · refine congrArg (s.mapLanes i) (funext fun m => funext fun x => ?_)
    by_cases hm : m = l
    · subst hm
      simp [hl, Lane.count]
    · simp [hm]

/-! ### What an instruction that computes results leaves of its band -/

/-- A result in the registers of a lane from a position on. -/
def Lane.putT (x : Lane) (t : Ty) (pos val : Nat) : Lane :=
  if tyWide t then (x.put pos ((BitVec.ofNat 64 val).setWidth 32)).put (pos + 1) ((BitVec.ofNat 64 val).extractLsb' 32 32)
  else x.put pos (BitVec.ofNat 32 val)

/-- The registers that a result takes are resident. -/
def Iss.Resident (i : Iss) (l : Nat) (t : Ty) (d : Spec) : Prop :=
  ∀ n < (if tyWide t then 2 else 1), (i.group.lane i.band l).lo ≤ (i.group.lane i.band l).base + (d.idx.toNat + n)

theorem writeV_eq_mapLanes {s : State} {i : Iss} {l idx : Nat} (v : Word)
    (hlo : (i.group.lane i.band l).lo ≤ (i.group.lane i.band l).base + idx) :
    writeV s i l idx v = .ok (s.mapLanes i fun m x => if m = l then x.put ((i.group.lane i.band l).base + idx) v else x) := by
  rw [writeV_resident v hlo]
  simp only [Group.modLane_eq_mapLanes]
  rfl

theorem wrT_eq_mapLanes {s : State} {i : Iss} {l : Nat} {t : Ty} {d : Spec} (hlead : i.lead = false) (hlo : i.Resident l t d) (val : Nat) :
    wrT s i l t d val = .ok (s.mapLanes i fun m x => if m = l then x.putT t ((i.group.lane i.band l).base + d.idx.toNat) val else x) := by
  unfold Iss.Resident at hlo
  unfold wrT Lane.putT
  split
  · next hw =>
    rw [if_pos hw] at hlo
    simp only [wr2, hlead, Bool.false_eq_true, if_false]
    have hlow := writeV_eq_mapLanes (s := s) ((BitVec.ofNat 64 val).setWidth 32) (hlo 0 (by omega))
    rw [Nat.add_zero] at hlow
    rw [hlow]
    refine (writeV_eq_mapLanes _ (hlo 1 (by omega))).trans ?_
    rw [State.mapLanes_mapLanes]
    refine congrArg _ (congrArg (s.mapLanes i) (funext fun m => funext fun x => ?_))
    by_cases hm : m = l <;> simp [hm, Nat.add_assoc]
  · next hw =>
    rw [if_neg hw] at hlo
    simp only [wr1, hlead, Bool.false_eq_true, if_false]
    exact writeV_eq_mapLanes _ (hlo 0 (by omega))

/-- A lane with its result, flags and draws. -/
def RegOp.given (o : RegOp) (i : Iss) (vals : Nat → List Nat) (l : Nat) (x : Lane) : Lane :=
  let r := o.fn l (i.draw24 l) (vals l)
  (x.putT o.dt ((i.group.lane i.band l).base + o.d.idx.toNat) r.val).count r.fl r.draws

theorem RegOp.give_eq_mapLanes {o : RegOp} {i : Iss} {l : Nat} (hlead : i.lead = false) (hl : l < 32) (hlo : i.Resident l o.dt o.d)
    (vals : Nat → List Nat) (s : State) : o.give i vals s l = .ok (s.mapLanes i fun m x => if m = l then o.given i vals l x else x) := by
  rw [RegOp.give, wrT_eq_mapLanes hlead hlo, Except.map, State.settle_eq_mapLanes hlead hl, State.mapLanes_mapLanes]
  refine congrArg _ (congrArg (s.mapLanes i) (funext fun m => funext fun x => ?_))
  by_cases hm : m = l <;> simp [hm, RegOp.given]

/-- The results of some lanes, each of its own lane. -/
theorem RegOp.foldE_give_eq_mapLanes {o : RegOp} {i : Iss} (hlead : i.lead = false) (vals : Nat → List Nat) {ls : List Nat} (hnodup : ls.Nodup)
    (hls : ∀ l ∈ ls, l < 32 ∧ i.Resident l o.dt o.d) :
    ∀ s : State, foldE (o.give i vals) s ls = .ok (s.mapLanes i fun m x => if m ∈ ls then o.given i vals m x else x) := by
  induction ls with
  | nil => intro s; simp [foldE]
  | cons l ls ih =>
    intro s
    obtain ⟨⟨hl, hlo⟩, hrest⟩ := List.forall_mem_cons.mp hls
    obtain ⟨hnot, hnodup⟩ := List.nodup_cons.mp hnodup
    rw [foldE, RegOp.give_eq_mapLanes hlead hl hlo]
    refine (ih hnodup hrest _).trans ?_
    rw [State.mapLanes_mapLanes]
    refine congrArg _ (congrArg (s.mapLanes i) (funext fun m => funext fun x => ?_))
    by_cases hm : m = l
    · subst hm
      simp [hnot]
    · simp [hm]

theorem State.kill_eq_mapLanes (s : State) (i : Iss) (en : LaneMask) (us : List Use) :
    ∃ κ : Lane → List Nat, s.kill i en us = s.mapLanes i fun l x => if en.getLsbD l then { x with killed := κ x } else x := by
  unfold State.kill
  split
  · exact ⟨Lane.killed, by simp⟩
  · exact ⟨_, rfl⟩

/-- What the signatures of a task have taken up. -/
def Group.signed (g : Group) (rs ws : BitVec 1024) : Group := { g with ver := g.ver.map fun v => { v with rs := v.rs ||| rs, ws := v.ws ||| ws } }

@[simp] theorem Group.signed_zero (g : Group) : g.signed 0#1024 0#1024 = g := by
  unfold Group.signed
  cases hv : g.ver <;> simp [← hv]

theorem State.signSpills_eq_signed (s : State) (i : Iss) (en : LaneMask) (us : List Use) :
    ∃ rs ws, s.signSpills i en us = s.modGroupOn i.core i.group.gid fun g => g.signed rs ws := by
  unfold State.signSpills
  split
  · exact ⟨0, 0, by simp⟩
  · exact ⟨_, _, rfl⟩

/-- Kill marks and signatures are all that an instruction leaves before its writes. -/
theorem State.begun_eq_mapLanes (s : State) (i : Iss) (v : View) : ∃ (κ : Lane → List Nat) (rs ws : _), s.begun i v = s.modGroupOn i.core i.group.gid fun g =>
    (g.mapLanes i.band fun l x => if (i.en v).getLsbD l then { x with killed := κ x } else x).signed rs ws := by
  obtain ⟨κ, hkill⟩ := s.kill_eq_mapLanes i (i.en v) v.uses
  obtain ⟨rs, ws, hsign⟩ := (s.kill i (i.en v) v.uses).signSpills_eq_signed i (i.en v) v.uses
  refine ⟨κ, rs, ws, hsign.trans ?_⟩
  rw [hkill]
  exact State.modGroupOn_modGroupOn s i.core i.group.gid (f := fun g => g.mapLanes i.band _) (fun _ => rfl) _

theorem State.mapLanes_signed (s : State) (i : Iss) (rs ws : BitVec 1024) (φ ψ : Nat → Lane → Lane) :
    (s.modGroupOn i.core i.group.gid fun g => (g.mapLanes i.band φ).signed rs ws).mapLanes i ψ =
      s.modGroupOn i.core i.group.gid fun g => (g.mapLanes i.band fun l x => ψ l (φ l x)).signed rs ws := by
  refine (State.modGroupOn_modGroupOn s i.core i.group.gid (f := fun g => (g.mapLanes i.band φ).signed rs ws) (fun _ => rfl) _).trans ?_
  exact congrArg _ (funext fun g => congrArg (·.signed rs ws) (g.mapLanes_mapLanes i.band φ ψ))

/-- A lane of the issuing band after the instruction, with the kill marks that its operands leave. -/
def RegOp.laneAfter (o : RegOp) (i : Iss) (vals : Nat → List Nat) (κ : Lane → List Nat) (l : Nat) (x : Lane) : Lane :=
  let y := if (i.en o.view).getLsbD l then o.given i vals l { x with killed := κ x } else x
  if i.active.getLsbD l then y.advance else y

theorem mem_lanesOf_iff {m : LaneMask} {l : Nat} : l ∈ lanesOf m ↔ m.getLsbD l = true :=
  mem_lanesOf.trans (and_iff_right_of_imp BitVec.lt_of_getLsbD)

/-- In the lane stream an instruction whose destinations are resident changes its band's lanes and the signatures of its task. -/
theorem RegOp.Means.changes_lanes {o : RegOp} {i : Iss} {run : State → Result} (h : o.Means i run) {s : State} {vals : Nat → List Nat}
    (hready : Ready s i o.view) (hreads : o.reads s i vals) (hlead : i.lead = false)
    (hlo : ∀ l ∈ i.lanes (i.en o.view), i.Resident l o.dt o.d) : ∃ κ rs ws, run s = .next (s.modGroupOn i.core i.group.gid fun g =>
      (g.mapLanes i.band (o.laneAfter i vals κ)).signed rs ws) := by
  have hlanes : i.lanes (i.en o.view) = lanesOf (i.en o.view) := by simp [Iss.lanes, hlead]
  have hnodup : (i.lanes (i.en o.view)).Nodup := (i.lanes_ascending _).imp Nat.ne_of_lt
  have hgive := RegOp.foldE_give_eq_mapLanes hlead vals hnodup (fun l hl => ⟨(mem_lanesOf.mp (hlanes ▸ hl)).1, hlo l hl⟩) (s.begun i o.view)
  obtain ⟨κ, rs, ws, hbegun⟩ := s.begun_eq_mapLanes i o.view
  refine ⟨κ, rs, ws, (h.completes hready hreads hgive).trans (congrArg _ ?_)⟩
  rw [State.advance_eq_mapLanes hlead, State.mapLanes_mapLanes, hbegun, State.mapLanes_signed]
  refine congrArg _ (funext fun g => congrArg (fun φ => (g.mapLanes i.band φ).signed rs ws) (funext fun l => funext fun x => ?_))
  by_cases hen : (i.en o.view).getLsbD l <;> simp [RegOp.laneAfter, hlanes, mem_lanesOf_iff, hen]

/-- In the lead stream it changes one g register, the PC and the repeat state. -/
theorem RegOp.Means.changes_lead {o : RegOp} {i : Iss} {run : State → Result} (h : o.Means i run) {s : State} {vals : Nat → List Nat}
    (hready : Ready s i o.view) (hreads : o.reads s i vals) (hlead : i.lead = true) :
    ∃ v, run s = .next (s.modGroupOn i.core i.group.gid fun g => { g with g := spSet g.g o.d.idx.toNat v, lead := g.lead.advance }) := by
  have hbegun : s.begun i o.view = s := by simp [State.begun, State.operands, State.kill, State.signSpills, hlead]
  obtain ⟨v, hwr⟩ : ∃ v, ∀ t, o.give i vals t 0 = .ok (t.putG i o.d.idx.toNat v) := by
    simp only [RegOp.give, wrT, wr1, wr2, hlead, if_true, State.settle, Bool.true_or]
    split
    · exact ⟨_, fun _ => rfl⟩
    · exact ⟨_, fun _ => rfl⟩
  have hgive : foldE (o.give i vals) (s.begun i o.view) (i.lanes (i.en o.view)) = .ok (s.putG i o.d.idx.toNat v) := by
    simp [Iss.lanes, hlead, foldE, hwr, hbegun]
  refine ⟨v, (h.completes hready hreads hgive).trans (congrArg _ ?_)⟩
  refine (State.modGroupOn_modGroupOn s i.core i.group.gid (f := fun g => { g with g := spSet g.g o.d.idx.toNat v }) (fun _ => rfl) _).trans ?_
  simp only [hlead, if_true]

/-! ### What a lane keeps -/

theorem Lane.advance_eq (x : Lane) : ∃ pc rep, x.advance = { x with pc := pc, rep := rep } := by
  unfold Lane.advance
  split
  · exact ⟨_, _, rfl⟩
  · split <;> exact ⟨_, _, rfl⟩

theorem Lane.putT_eq (x : Lane) (t : Ty) (pos val : Nat) (ks : List Nat) : ∃ win killed, ({ x with killed := ks } : Lane).putT t pos val =
    { x with regs := (x.putT t pos val).regs, win := win, killed := killed } := by
  unfold Lane.putT
  split <;> exact ⟨_, _, rfl⟩

/-- A result leaves the other positions alone. -/
theorem Lane.spGet_putT_other {x : Lane} (hwf : spWf x.regs = true) {t : Ty} {pos p : Nat} (val : Nat)
    (hp : ∀ n < (if tyWide t then 2 else 1), p ≠ pos + n) : spGet (x.putT t pos val).regs p = spGet x.regs p := by
  unfold Lane.putT
  split
  · next hw =>
    rw [if_pos hw] at hp
    have hlow : p ≠ pos := hp 0 (by omega)
    rw [Lane.put_regs, Lane.put_regs, spGet_spSet_other (spWf_spSet pos _ hwf) _ (hp 1 (by omega)), spGet_spSet_other hwf _ hlow]
  · next hw =>
    rw [if_neg hw] at hp
    have hlow : p ≠ pos := hp 0 (by omega)
    rw [Lane.put_regs, spGet_spSet_other hwf _ hlow]

theorem Iss.active_of_en {i : Iss} {v : View} (hlead : i.lead = false) {l : Nat} (hl : l < 32) (h : (i.en v).getLsbD l = true) :
    i.active.getLsbD l = true := ((Iss.getLsbD_enabled v.g hlead hl).mp h).1

section LaneAfter

variable (o : RegOp) (i : Iss) (vals : Nat → List Nat) (κ : Lane → List Nat) {l : Nat} (x : Lane)

/-- A lane that is not enabled. -/
theorem RegOp.laneAfter_idle (hen : (i.en o.view).getLsbD l = false) :
    o.laneAfter i vals κ l x = if i.active.getLsbD l then x.advance else x := by simp [RegOp.laneAfter, hen]

/-- A lane that is enabled. -/
theorem RegOp.laneAfter_enabled (hlead : i.lead = false) (hl : l < 32) (hen : (i.en o.view).getLsbD l = true) :
    ∃ pc rep win killed, o.laneAfter i vals κ l x = { x with
      pc := pc, rep := rep, win := win, killed := killed
      regs := (x.putT o.dt ((i.group.lane i.band l).base + o.d.idx.toNat) (o.fn l (i.draw24 l) (vals l)).val).regs
      fpflags := x.fpflags ||| BitVec.ofNat 5 (o.fn l (i.draw24 l) (vals l)).fl
      dcount := x.dcount + BitVec.ofNat 32 (o.fn l (i.draw24 l) (vals l)).draws } := by
  have hafter : o.laneAfter i vals κ l x = (o.given i vals l { x with killed := κ x }).advance := by
    simp [RegOp.laneAfter, hen, Iss.active_of_en hlead hl hen]
  obtain ⟨pc, rep, hadvance⟩ := (o.given i vals l { x with killed := κ x }).advance_eq
  obtain ⟨win, killed, hput⟩ := x.putT_eq o.dt ((i.group.lane i.band l).base + o.d.idx.toNat) (o.fn l (i.draw24 l) (vals l)).val (κ x)
  refine ⟨pc, rep, win, killed, hafter.trans (hadvance.trans ?_)⟩
  simp only [RegOp.given, Lane.count, hput]

end LaneAfter

/-! ### Each register instruction -/

/-- The instructions that compute results in registers. -/
def computesIn (i : Iss) (ins : Instr) (o : RegOp) : Prop :=
  intOp i.rep ins = some o ∨ floatOp i.rep ins = some o ∨ convertOp i.rep ins = some o ∨ wordOp i ins = some o

theorem regOp_means {i : Iss} {ins : Instr} {o : RegOp} (ho : computesIn i ins o) (hcheck : o.view.check i = none) : o.Means i (exec ins) := by
  rcases ho with ho | ho | ho | ho
  · exact intOp_means ho hcheck
  · exact floatOp_means ho
  · exact convertOp_means ho
  · exact wordOp_means ho hcheck

section Frame

variable {s t : State} {i : Iss} {ins : Instr} {o : RegOp} {vals : Nat → List Nat} (ho : computesIn i ins o) (hready : Ready s i o.view)
  (hreads : o.reads s i vals) (hnext : exec ins s = .next t)

include ho hready hreads hnext

theorem registerOp_changes_lead (hlead : i.lead = true) :
    ∃ v, t = s.modGroupOn i.core i.group.gid fun g => { g with g := spSet g.g o.d.idx.toNat v, lead := g.lead.advance } := by
  obtain ⟨v, hrun⟩ := (regOp_means ho (check_of_ready hready)).changes_lead hready hreads hlead
  exact ⟨v, Host.Outcome.next.inj (hnext.symm.trans hrun)⟩

theorem registerOp_changes_lanes (hlead : i.lead = false) (hlo : ∀ l ∈ i.lanes (i.en o.view), i.Resident l o.dt o.d) :
    ∃ κ rs ws, t = s.modGroupOn i.core i.group.gid fun g => (g.mapLanes i.band (o.laneAfter i vals κ)).signed rs ws := by
  obtain ⟨κ, rs, ws, hrun⟩ := (regOp_means ho (check_of_ready hready)).changes_lanes hready hreads hlead hlo
  exact ⟨κ, rs, ws, Host.Outcome.next.inj (hnext.symm.trans hrun)⟩

/-- Only the issuing unit's group changes. -/
theorem registerOp_changes_group (hlo : i.lead = true ∨ ∀ l ∈ i.lanes (i.en o.view), i.Resident l o.dt o.d) :
    ∃ k, (∀ g : Group, (k g).gid = g.gid) ∧ t = s.modGroupOn i.core i.group.gid k := by
  cases hlead : i.lead with
  | true =>
    obtain ⟨v, hrun⟩ := registerOp_changes_lead ho hready hreads hnext hlead
    refine ⟨_, ?_, hrun⟩
    exact fun _ => rfl
  | false =>
    rw [hlead] at hlo
    obtain ⟨κ, rs, ws, hrun⟩ := registerOp_changes_lanes ho hready hreads hnext hlead (hlo.resolve_left Bool.false_ne_true)
    refine ⟨_, ?_, hrun⟩
    exact fun _ => rfl

/-- The rest of the machine, the other cores, the rest of the core and its other groups. -/
theorem registerOp_leaves_machine (hlo : i.lead = true ∨ ∀ l ∈ i.lanes (i.en o.view), i.Resident l o.dt o.d) :
    t = { s with cores := t.cores } ∧ t.cores.length = s.cores.length ∧ (∀ c, c ≠ i.core → t.core c = s.core c) ∧
    (∀ g, g ≠ i.group.gid →
      ((t.core i.core).active.groups.find? fun h => h.gid == g) = ((s.core i.core).active.groups.find? fun h => h.gid == g)) ∧
    t.core i.core = { s.core i.core with active := { (s.core i.core).active with groups := (t.core i.core).active.groups } } := by
  obtain ⟨k, hk, rfl⟩ := registerOp_changes_group ho hready hreads hnext hlo
  exact ⟨State.modGroupOn_cores .., updAt_length .., fun _ => State.core_modGroupOn_other _ _ _, fun _ => State.group_modGroupOn_other _ _ _ hk,
    State.core_modGroupOn_same ..⟩

/-- In the lead stream the group keeps its lanes and all g registers but the destination, the lead stream all but its PC and repeat state. -/
theorem registerOp_leaves_group_lead (hlead : i.lead = true) {g : Group}
    (hg : ((t.core i.core).active.groups.find? fun h => h.gid == i.group.gid) = some g) :
    g = { i.group with g := g.g, lead := { i.group.lead with pc := g.lead.pc, rep := g.lead.rep } } ∧
    ∀ n, n ≠ o.d.idx.toNat → spWf i.group.g = true → spGet g.g n = spGet i.group.g n := by
  obtain ⟨v, rfl⟩ := registerOp_changes_lead ho hready hreads hnext hlead
  obtain rfl := iss_group_modGroupOn hready.1 hg fun _ => rfl
  refine ⟨?group, fun n hn hwf => spGet_spSet_other hwf v hn⟩
  case group =>
    have hadvance : i.group.lead.advance = { i.group.lead with pc := i.group.lead.advance.pc, rep := i.group.lead.advance.rep } := by
      unfold Lead.advance
      split
      · rfl
      · split <;> rfl
    rw [← hadvance]

/-- In the lane stream the group keeps all but the lanes of the issuing band, and the signatures of its task only grow. -/
theorem registerOp_leaves_group_lanes (hlead : i.lead = false) (hlo : ∀ l ∈ i.lanes (i.en o.view), i.Resident l o.dt o.d) {g : Group}
    (hg : ((t.core i.core).active.groups.find? fun h => h.gid == i.group.gid) = some g) :
    (∃ rs ws, g = ({ i.group with bands := g.bands } : Group).signed rs ws) ∧ (∀ b, b ≠ i.band → g.bands[b]? = i.group.bands[b]?) ∧
    ∀ b, g.bands[i.band]? = some b → b = { i.bandOf with lanes := b.lanes } ∧ b.lanes.length = i.bandOf.lanes.length := by
  obtain ⟨κ, rs, ws, rfl⟩ := registerOp_changes_lanes ho hready hreads hnext hlead hlo
  obtain rfl := iss_group_modGroupOn hready.1 hg fun _ => rfl
  have hbands (n : Nat) := i.group.bands_mapLanes i.band (o.laneAfter i vals κ) n
  refine ⟨⟨rs, ws, rfl⟩, fun b hb => ?others, fun b hb => ?own⟩
  case others =>
    refine (hbands b).trans ?_
    simp [hb]
  case own =>
    obtain ⟨x, hx, rfl⟩ := Option.map_eq_some_iff.mp ((hbands i.band).symm.trans hb)
    simp [Iss.bandOf, hx]

/-- A lane that the issuing band holds changes in its PC and repeat state, where it is active, and where it is enabled by its result. -/
theorem registerOp_changes_lane (hlead : i.lead = false) (hlo : ∀ l ∈ i.lanes (i.en o.view), i.Resident l o.dt o.d) {g : Group}
    (hg : ((t.core i.core).active.groups.find? fun h => h.gid == i.group.gid) = some g) : ∃ κ, ∀ l < i.bandOf.lanes.length,
      g.lane i.band l = o.laneAfter i vals κ l (i.group.lane i.band l) := by
  obtain ⟨κ, rs, ws, rfl⟩ := registerOp_changes_lanes ho hready hreads hnext hlead hlo
  obtain rfl := iss_group_modGroupOn hready.1 hg fun _ => rfl
  exact ⟨κ, fun l hl => i.group.lane_mapLanes i.band (o.laneAfter i vals κ) hl⟩

/-- What a lane of the issuing band keeps, and the flags and draws of one that is enabled, where the band holds the lane. -/
theorem registerOp_leaves_lane (hlead : i.lead = false) (hlo : ∀ l ∈ i.lanes (i.en o.view), i.Resident l o.dt o.d) {g : Group}
    (hg : ((t.core i.core).active.groups.find? fun h => h.gid == i.group.gid) = some g) {l : Nat} (hl : l < 32)
    (hheld : l < i.bandOf.lanes.length) :
    (let x := i.group.lane i.band l
     let y := g.lane i.band l
     y = { x with pc := y.pc, rep := y.rep, regs := y.regs, win := y.win, killed := y.killed, fpflags := y.fpflags, dcount := y.dcount } ∧
     (i.active.getLsbD l = false → y = x) ∧
     ((i.en o.view).getLsbD l = false → y = { x with pc := y.pc, rep := y.rep }) ∧
     ((i.en o.view).getLsbD l = true →
       y.fpflags = x.fpflags ||| BitVec.ofNat 5 (o.fn l (i.draw24 l) (vals l)).fl ∧
       y.dcount = x.dcount + BitVec.ofNat 32 (o.fn l (i.draw24 l) (vals l)).draws) ∧
     ∀ pos, (∀ n < (if tyWide o.dt then 2 else 1), pos ≠ x.base + (o.d.idx.toNat + n)) → spWf x.regs = true →
       spGet y.regs pos = spGet x.regs pos) := by
  obtain ⟨κ, hlane⟩ := registerOp_changes_lane ho hready hreads hnext hlead hlo hg
  rw [hlane l hheld]
  cases hen : (i.en o.view).getLsbD l with
  | false =>
    rw [o.laneAfter_idle i vals κ _ hen]
    obtain ⟨pc, rep, hadvance⟩ := (i.group.lane i.band l).advance_eq
    cases i.active.getLsbD l with
    | false => simp
    | true => simp [hadvance]
  | true =>
    obtain ⟨pc, rep, win, killed, hafter⟩ := o.laneAfter_enabled i vals κ (i.group.lane i.band l) hlead hl hen
    rw [hafter]
    refine ⟨rfl, fun hidle => ?idle, fun hno => absurd hno (by decide), fun _ => ⟨rfl, rfl⟩, fun pos hpos hwf => ?other⟩
    case idle => exact absurd hidle (by simp [Iss.active_of_en hlead hl hen])
    case other => exact Lane.spGet_putT_other hwf _ fun n hn => by rw [Nat.add_assoc]; exact hpos n hn

end Frame

/-! ### `KPOLL` in a `REPEAT` -/

/-- A machine of one running launch at whose band lane 0 issues. -/
def lane0Issues : State := { State.reset.withFetchWord 96 0 with issuer := some { core := 0, rgs := 0, who := .lanes 0 1 } }

/-- The group of `lane0Issues` changed. -/
def lane0IssuesIn (f : Group → Group) : State := lane0Issues.modGroupOn 0 1 f

/-- The next state of an instruction that has one. -/
def next? : Result → Option State
  | .next t => some t
  | _ => none

/-- `KPOLL.all k1, k0`. -/
def kpollAllK1 : RForm :=
  { ty := .b32, g := ⟨false, 0⟩, d := ⟨false, false, 1⟩, a := ⟨false, false, 0⟩, b := ⟨false, false, 0⟩, c := ⟨false, false, 0⟩, low := 0,
    rnd := 0, sat := false, ftz := false, negA := false, negB := false, negC := false, hi := 0 }

/-- Lane 0 in the second iteration of a `REPEAT` whose stride of D is 1. -/
def repeatingPoll : State := lane0IssuesIn fun g =>
  g.modLane 0 0 fun x => { x with rep := some { remain := 1, iter := 1, sd := 1, sa := 0, sb := 0, sc := 0 } }

/-- The mask registers of lane 0 of the running group. -/
def State.lane0K (s : State) : Option (BitVec 8) := (s.find? 1).map fun e => (e.2.lane 0 0).k

/-- The instruction sets k1, where the statement, by the strides, sets k2. -/
theorem repeatingPoll_sets_k1 : ∃ i ∈ repeatingPoll.iss?, ∃ o ∈ maskOp i (.kpollAll kpollAllK1), i.clear repeatingPoll o.view = true ∧ o.srcs = [] ∧
    (next? (exec (.kpollAll kpollAllK1) repeatingPoll)).map State.lane0K = some (some 2) ∧
    (((i.lanes (i.en o.view)).foldl (o.give i fun _ => []) (repeatingPoll.begun i o.view)).advance i i.active).lane0K = some 4 := by
  decide +kernel

/-- Refutes O9: the bodies of `KPOLL.all` and `KPOLL.any` leave the strides of a `REPEAT` out, which the statement applies. Lane 0 in a
`REPEAT` with sd = 1 and ITER = 1 executes `KPOLL.all k1, k0`: the instruction sets k1, the statement k2. -/
theorem not_maskResults : ¬ Obligations.MaskResults := by
  unfold Obligations.MaskResults
  intro h
  obtain ⟨i, hi, o, ho, hclear, hsrcs, hexec, hstated⟩ := repeatingPoll_sets_k1
  have hrun := h repeatingPoll i _ o (fun _ => []) ho ⟨hi, hclear⟩ fun l _ => by rw [hsrcs]; rfl
  rw [hrun] at hexec
  rw [next?, Option.map_some, hstated] at hexec
  exact absurd hexec (by decide)

/-! ### A lane that its band does not hold -/

/-- `FDIV.f32 v4, v5, v6`. -/
def fdivV4 : RForm :=
  { ty := .f32, g := ⟨false, 0⟩, d := ⟨false, false, 4⟩, a := ⟨false, false, 5⟩, b := ⟨false, false, 6⟩, c := ⟨false, false, 0⟩, low := 0,
    rnd := 0, sat := false, ftz := false, negA := false, negB := false, negC := false, hi := 0 }

/-- A band that holds no lanes: lane 0 reads as one never started. -/
def bandWithoutLanes : State := lane0IssuesIn fun g => { g with bands := g.bands.map fun b => { b with lanes := [] } }

/-- Zero by zero raises the invalid flag, which finds no lane to stand in. -/
theorem bandWithoutLanes_keeps_no_flag : ∃ i ∈ bandWithoutLanes.iss?, ∃ o ∈ floatOp i.rep (.fdiv fdivV4), i.clear bandWithoutLanes o.view = true ∧
    i.lead = false ∧ (i.en o.view).getLsbD 0 = true ∧ tyWide o.dt = false ∧ (i.group.lane i.band 0).fpflags = 0 ∧
    BitVec.ofNat 5 (o.fn 0 (i.draw24 0) [0, 0]).fl ≠ 0 ∧
    (∀ l ∈ i.lanes (i.en o.view), mapE (rdOp (bandWithoutLanes.begun i o.view) i l) o.srcs = .ok [0, 0] ∧
      (i.group.lane i.band l).lo = 0) ∧
    ∃ t ∈ next? (exec (.fdiv fdivV4) bandWithoutLanes), ∃ g ∈ (t.core i.core).active.groups.find? fun h => h.gid == i.group.gid,
      (g.lane i.band 0).fpflags = 0 := by
  decide +kernel

theorem next?_eq_some {o : Result} {t : State} (h : t ∈ next? o) : o = .next t := by
  cases o with
  | next u => exact congrArg _ (Option.some.inj h)
  | fault _ => cases h
  | refused _ => cases h

/-- Refutes O57: the statement asks the flags of an enabled lane to change, whether or not the band holds that lane. In a band of no
lanes `FDIV.f32 v4, v5, v6` on zeros raises the invalid flag for lane 0, and no lane holds it afterwards. Where the band holds the lane, the
statement stands (`registerOp_leaves_machine`, `registerOp_leaves_group_lead`, `registerOp_leaves_group_lanes`, `registerOp_leaves_lane`). -/
theorem not_registerFrame : ¬ Obligations.RegisterFrame := by
  unfold Obligations.RegisterFrame
  rintro ⟨_, h⟩
  obtain ⟨i, hi, o, ho, hclear, hlead, hen, hty, hold, hraised, hlanes, t, ht, g, hg, hnew⟩ := bandWithoutLanes_keeps_no_flag
  have hframe := h bandWithoutLanes t i _ o (fun _ => [0, 0]) 0 0 g (.inr (.inl ho)) ⟨hi, hclear⟩ (fun l hl => (hlanes l hl).1) hlead
    (by decide) (fun l hl _ _ => by rw [(hlanes l hl).2]; exact Nat.zero_le _) (next?_eq_some ht) hg
  obtain ⟨_, _, _, hflags, _⟩ := hframe
  obtain ⟨hflags, _⟩ := hflags hen
  rw [hold, hnew] at hflags
  exact hraised (by simpa using hflags.symm)

end Sys2Proof.Machine
end

section
/-! PROOFS. Lanes, memory and synchronisation (09_ref_lanes_memory_sync.md): loads and stores, atomics, waits and barriers, and lane
transactions. -/

namespace Sys2Proof.Machine

open Sys2Proof

/-! ### The unit after a memory instruction -/

theorem moveOn_lanes (i : Iss) (en : LaneMask) (s : State) : moveOn true i en s = s.others i en := by
  simp only [moveOn, State.others, if_true]

/-- An instruction whose body moves its lanes, the body going through. -/
theorem issue_moves {s t : State} {i : Iss} {vf : Iss → View} {body : Body} (h : Ready s i (vf i))
    (hbody : body i (i.en (vf i)) (s.begun i (vf i)) = .ok t) : issue s vf true false body = .next (t.others i (i.en (vf i))) := by
  rw [issue_ready true false body h, runBody_ok hbody, moveOn_lanes]

@[simp] theorem State.holdLanes_zero (s : State) (i : Iss) (lines : Nat → List Nat) : s.holdLanes i 0#32 lines = s := by
  simp [State.holdLanes]

/-! ### Checks gathered over lanes (09 R192) -/

theorem gather_cons_ok {α : Type} (lead : Bool) (l : Nat) (a : α) (xs : List (Nat × Except Trap α)) :
    gather lead ((l, .ok a) :: xs) = (gather lead xs).map (a :: ·) := by
  simp only [gather, List.filterMap_cons]
  split
  · rfl
  · split <;> rfl

theorem gather_cons_error {α : Type} (lead : Bool) (l : Nat) (t : Trap) (xs : List (Nat × Except Trap α)) :
    ∃ e, gather lead ((l, .error t) :: xs) = .error e := by
  simp only [gather, List.filterMap_cons]
  split <;> exact ⟨_, rfl⟩

/-- Gathering goes through exactly where every lane's check has passed. -/
theorem gather_eq_ok_iff {α : Type} {lead : Bool} {xs : List (Nat × Except Trap α)} {as : List α} :
    gather lead xs = .ok as ↔ xs.map (·.2) = as.map .ok := by
  induction xs generalizing as with
  | nil =>
    change Except.ok [] = Except.ok as ↔ _
    cases as <;> simp
  | cons x xs ih =>
    obtain ⟨l, e | a⟩ := x
    · obtain ⟨h, hfail⟩ := gather_cons_error lead l e xs
      cases as <;> simp [hfail]
    · rw [gather_cons_ok]
      cases hrest : gather lead xs with
      | error e =>
        have hno (bs : List α) : xs.map (·.2) ≠ bs.map Except.ok := fun hbs => by
          rw [← ih, hrest] at hbs
          cases hbs
        cases as <;> simp [Except.map, hno]
      | ok bs =>
        have hbs := ih.mp hrest
        cases as with
        | nil => simp [Except.map]
        | cons b as => simp [Except.map, hbs, List.map_inj_right (f := Except.ok (ε := Trap)) fun _ _ h => Except.ok.inj h]

theorem gather_map_ok {α β : Type} {lead : Bool} {lane : β → Nat} {f : β → Except Trap α} {g : β → α} {xs : List β}
    (h : ∀ x ∈ xs, f x = .ok (g x)) : gather lead (xs.map fun x => (lane x, f x)) = .ok (xs.map g) := by
  rw [gather_eq_ok_iff, List.map_map, List.map_map]
  exact List.map_congr_left h

/-- An access falls where it is said to, and meets no poison. -/
structure Acc.Passes (s : State) (i : Iss) (nd : Need) (n : Nat) (a : Acc) : Prop where
  place : checkAccess s i nd a.ea n = .ok a.place
  clean : (if nd.acc = .write then s.placePoisonW i.sess a.place n else s.placePoison i.sess a.place n) = false

section Passes

variable {s : State} {i : Iss} {nd : Need} {n : Nat} {as : List Acc}

theorem poisonFirst_eq_none {acc : Access}
    (h : ∀ a ∈ as, (if acc = .write then s.placePoisonW i.sess a.place n else s.placePoison i.sess a.place n) = false) :
    s.poisonFirst i acc n as = none := by
  rw [State.poisonFirst, Option.map_eq_none_iff, List.find?_eq_none]
  intro a ha
  simp [h a ha]

/-- The checks of the lanes of an instruction that takes no part in transactions. -/
theorem checkAll_of_passes (h : ∀ a ∈ as, a.Passes s i nd n) : checkAll s i nd n (as.map fun a => (a.lane, a.ea)) = .ok as := by
  have hgather := gather_map_ok (lead := i.lead) (lane := Acc.lane) (xs := as) (g := id)
    (f := fun a : Acc => (checkAccess s i nd a.ea n).map fun p => ({ lane := a.lane, ea := a.ea, place := p } : Acc))
    fun a ha => by rw [(h a ha).place]; rfl
  simp only [checkAll, List.map_map, Function.comp_def, hgather, List.map_id, poisonFirst_eq_none fun a ha => (h a ha).clean]

/-- The check of a lane outside transactions. -/
theorem laneCheck_outside {op : Nat} {ins : LaneMask} {x : Nat × Dword} (hout : ins.getLsbD x.1 = false) :
    laneCheck s i nd op n ins x = (checkAccess s i nd x.2 n).map fun p => some ⟨x.1, x.2, p⟩ := by
  simp only [laneCheck, hout, Bool.not_false, if_true]

/-- The checks of lanes outside transactions. -/
theorem checkLanes_of_passes {op : Nat} {ins : LaneMask} (hout : ∀ l, ins.getLsbD l = false) (h : ∀ a ∈ as, a.Passes s i nd n) :
    checkLanes s i nd op n ins (as.map fun a => (a.lane, a.ea)) = .ok as := by
  have hgather := gather_map_ok (lead := i.lead) (lane := Acc.lane) (xs := as) (g := some) (f := fun a : Acc => laneCheck s i nd op n ins (a.lane, a.ea))
    fun a ha => by rw [laneCheck_outside (hout _), (h a ha).place]; rfl
  have hsome : (as.map some).filterMap id = as := by simp [List.filterMap_map]
  simp only [checkLanes, List.map_map, Function.comp_def, hgather, hsome,
    poisonFirst_eq_none (fun a ha => (h a ha).clean), hout, Bool.not_false, List.filter_true]

end Passes

/-! ### The accesses of the lanes, by lane -/

/-- The access of each of some lanes. -/
def accesses (ea : Nat → Dword) (p : Nat → Place) (ls : List Nat) : List Acc := ls.map fun l => ⟨l, ea l, p l⟩

theorem forall_mem_accesses {P : Acc → Prop} {ea : Nat → Dword} {p : Nat → Place} {ls : List Nat} :
    (∀ a ∈ accesses ea p ls, P a) ↔ ∀ l ∈ ls, P ⟨l, ea l, p l⟩ := List.forall_mem_map

theorem map_accesses (ea : Nat → Dword) (p : Nat → Place) (ls : List Nat) :
    (accesses ea p ls).map (fun a => (a.lane, a.ea)) = ls.map fun l => (l, ea l) := List.map_map

/-- A lane's access is found under the lane. -/
theorem find?_accesses {ea : Nat → Dword} {p : Nat → Place} {l : Nat} : ∀ {ls : List Nat}, l ∈ ls →
    (accesses ea p ls).find? (fun a => a.lane == l) = some ⟨l, ea l, p l⟩
  | m :: ls, h => by
    by_cases hm : m = l
    · simp [accesses, hm]
    · have ih := find?_accesses (ea := ea) (p := p) ((List.mem_cons.mp h).resolve_left (Ne.symm hm))
      simpa [accesses, hm] using ih

/-- The tiles that an access reaches are the issuing group's own (05 R98). -/
theorem spaceOf_tile {s : State} {i : Iss} {ea : Dword} {g off : Nat} (h : spaceOf s i ea = .ok (some (.tile g off))) : g = i.group.gid := by
  unfold spaceOf at h
  grind

theorem checkAccess_tile {s : State} {i : Iss} {nd : Need} {ea : Dword} {n g off : Nat} (h : checkAccess s i nd ea n = .ok (.tile g off)) :
    g = i.group.gid := by
  apply spaceOf_tile (s := s) (ea := ea) (off := off)
  unfold checkAccess at h
  grind

/-- No matrix instruction at the engine names a tile that the accesses reach (11 R235). -/
theorem tilesBusy_of_idle {s : State} {i : Iss} {nd : Need} {n : Nat} {as : List Acc}
    (h : ∀ a ∈ as, checkAccess s i nd a.ea n = .ok a.place ∧ s.tileIdle i a.place = true) : tilesBusy s i as = false := by
  simp only [tilesBusy, List.any_eq_false]
  intro a ha
  obtain ⟨hplace, hidle⟩ := h a ha
  cases hp : a.place with
  | tile g off =>
    rw [hp] at hplace hidle
    rw [checkAccess_tile hplace] at hidle
    simpa [Place.tiles, State.tileIdle] using hidle
  | virt | scratch | phys => simp [Place.tiles]

/-! ### Loads and stores lane by lane (09 R193, R194, R207) -/

/-- One lane's access by a load or store: that of its transaction, or, outside one, the access that its checks have given it. A lane whose
access has been made moves on. -/
def laneAccess (op n hint : Nat) (give : Iss → State → Nat → List Byte → Except Halt State) (i : Iss) (ins : LaneMask) (as : List Acc)
    (store : Nat → Option (List Byte)) (ea : Nat → Dword) (t : State) (l : Nat) : Except Halt State :=
  if ins.getLsbD l then
    if !(txnOf t i l).active then .ok t
    else match txAccess t i op n l hint (ea l) (store l) with
      | .error e => .error e
      | .ok (t1, none) => .ok t1
      | .ok (t1, some bs) =>
        let r : Except Halt State := if (store l).isSome then .ok t1 else give i t1 l bs
        r.map fun t2 => t2.advance i (maskOf (· == l))
  else match as.find? fun a => a.lane == l with
    | none => .ok t
    | some a =>
      let r : Except Halt State := match store l with
        | some bs => .ok (t.stored i hint l a.place bs)
        | none => give i (t.loaded i hint a.place) l (t.bytesAt i.sess i.group.gid a.place n)
      r.map fun t2 => t2.advance i (maskOf (· == l))

/-- A load, where its addresses, its checks and its lanes' accesses go through. -/
theorem accessBody_load {f : MForm} {op n lg : Nat} {give : Iss → State → Nat → List Byte → Except Halt State} {i : Iss} {en : LaneMask}
    {s t : State} {ea : Nat → Dword} {as : List Acc} (haddr : ∀ l ∈ i.lanes en, mAddr s i f lg l = .ok (ea l))
    (hcheck : checkLanes s i { acc := .read, aligned := false, types := anyType } op n (i.inTxn en) ((i.lanes en).map fun l => (l, ea l)) = .ok as)
    (hidle : tilesBusy s i as = false)
    (hlanes : foldE (laneAccess op n f.hint.toNat give i (i.inTxn en) as (fun _ => none) ea) s (i.lanes en) = .ok t) :
    accessBody f op n lg none give i en s = .ok (t.acquireFor i f .read as) := by
  simp only [accessBody, Option.isSome_none, Bool.false_eq_true, if_false]
  rw [mapLanes_ok (g := fun l => (l, ea l, none)) fun l hl => by rw [haddr l hl]; rfl]
  simp only [List.map_map, Function.comp_def, hcheck, hidle, Bool.false_eq_true, bne_self_eq_false, Bool.false_and, if_false, foldLanes_map]
  refine (congrArg (Except.map _) (foldLanes_ok hlanes)).trans ?_
  simp [Except.map]

/-- A store, where its addresses, its data, its checks, its preparation and its lanes' accesses go through, and no serial transaction holds
the whole unit back. -/
theorem accessBody_store {f : MForm} {op n lg : Nat} {data : Iss → State → Nat → Except Halt (List Byte)} {i : Iss} {en : LaneMask}
    {s s1 t : State} {ea : Nat → Dword} {bytes : Nat → List Byte} {as0 as : List Acc} {held : LaneMask}
    (haddr : ∀ l ∈ i.lanes en, mAddr s i f lg l = .ok (ea l)) (hdata : ∀ l ∈ i.lanes en, data i s l = .ok (bytes l))
    (hcheck : checkLanes s i { acc := .write, aligned := false, types := anyType } op n (i.inTxn en) ((i.lanes en).map fun l => (l, ea l)) = .ok as0)
    (hidle : tilesBusy s i as0 = false) (hheld : held = heldLanes s i n as0) (hgo : held = 0 ∨ i.tokenHere = true)
    (hprep : prepareStore s i { acc := .write, aligned := false, types := anyType } n (as0.filter fun a => !held.getLsbD a.lane) = .ok (s1, as))
    (hlanes : foldE (laneAccess op n f.hint.toNat noLoad i (i.inTxn en) as (fun l => some (bytes l)) ea) (s1.releaseFor i f .write as) (i.lanes en) =
      .ok t) :
    accessBody f op n lg (some data) noLoad i en s = .ok ((t.acquireFor i f .write as).holdLanes i held (laneLines i n as0)) := by
  have hfree : ¬ (held != 0 && !i.tokenHere) = true := by
    rcases hgo with hgo | hgo <;> simp [hgo]
  simp only [accessBody, Option.isSome_some, if_true]
  rw [mapLanes_ok (g := fun l => (l, ea l, some (bytes l))) fun l hl => by rw [haddr l hl, hdata l hl]; rfl]
  simp only [List.map_map, Function.comp_def, hcheck, hidle, ← hheld, Bool.false_eq_true, hfree, if_false, hprep, foldLanes_map]
  exact congrArg (Except.map _) (foldLanes_ok hlanes)

/-! ### Their lanes outside transactions -/

/-- The access of a lane outside transactions that loads. -/
theorem laneAccess_load {op n hint l : Nat} {give : Iss → State → Nat → List Byte → Except Halt State} {i : Iss} {ins : LaneMask}
    {as : List Acc} {a : Acc} {ea : Nat → Dword} (t : State) (hout : ins.getLsbD l = false)
    (ha : as.find? (fun a => a.lane == l) = some a) : laneAccess op n hint give i ins as (fun _ => none) ea t l =
      (give i (t.loaded i hint a.place) l (t.bytesAt i.sess i.group.gid a.place n)).map fun w => w.advance i (maskOf (· == l)) := by
  simp only [laneAccess, hout, Bool.false_eq_true, if_false, ha]

/-- The lane has stored, if it has an access, and has moved on. -/
def State.laneStored (i : Iss) (hint : Nat) (as : List Acc) (bytes : Nat → List Byte) (t : State) (l : Nat) : State :=
  match as.find? fun a => a.lane == l with
  | none => t
  | some a => (t.stored i hint l a.place (bytes l)).advance i (maskOf (· == l))

/-- The access of a lane outside transactions that stores; a lane that is held back has none. -/
theorem laneAccess_store {op n hint l : Nat} {give : Iss → State → Nat → List Byte → Except Halt State} {i : Iss} {ins : LaneMask}
    {as : List Acc} {bytes : Nat → List Byte} {ea : Nat → Dword} (t : State) (hout : ins.getLsbD l = false) :
    laneAccess op n hint give i ins as (fun l => some (bytes l)) ea t l = .ok (State.laneStored i hint as bytes t l) := by
  simp only [laneAccess, State.laneStored, hout, Bool.false_eq_true, if_false]
  cases as.find? fun a => a.lane == l <;> rfl

/-! ### `LD` and `ST` -/

@[simp] theorem strideM_ty (f : MForm) (r : Option RepState) : (strideM f r).ty = f.ty := by cases r <;> rfl

/-- A load is carried out by `accessBody`. -/
theorem exec_load {s t : State} {i : Iss} {ins : Instr} {o : MemOp} (hop : loadOp i.rep ins = some o) (h : Ready s i o.view)
    (hbody : accessBody o.f 0x70 (2 ^ o.lg) o.lg none (giveLoad o.f o.ty o.signed) i (i.en o.view) (s.begun i o.view) = .ok t) :
    exec ins s = .next (t.others i (i.en o.view)) := by
  unfold loadOp at hop
  split at hop <;> cases hop
  case h_1 f =>
    refine issue_moves (vf := fun j => viewLd (strideM f j.rep)) h ?_
    simpa only [strideM_ty] using hbody
  all_goals exact issue_moves (vf := fun j => viewLdNarrow (strideM _ j.rep)) h hbody

/-- A store is carried out by `accessBody` with the low bytes of c. -/
theorem exec_store {s t : State} {i : Iss} {ins : Instr} {o : MemOp} (hop : storeOp i.rep ins = some o) (h : Ready s i o.view)
    (hbody : accessBody o.f 0x71 (2 ^ o.lg) o.lg (some fun j u l => (rdT u j l o.ty o.f.c).map (toLE (2 ^ o.lg))) noLoad i (i.en o.view)
      (s.begun i o.view) = .ok t) :
    exec ins s = .next (t.others i (i.en o.view)) := by
  unfold storeOp at hop
  split at hop <;> cases hop
  case h_1 f =>
    refine issue_moves (vf := fun j => viewSt (strideM f j.rep)) h ?_
    simpa only [strideM_ty, storeData] using hbody
  all_goals exact issue_moves (vf := fun j => viewStNarrow (strideM _ j.rep)) h hbody

theorem Iss.out_of_txn {i : Iss} {en : LaneMask} (h : i.inTxn en = 0) (l : Nat) : (i.inTxn en).getLsbD l = false := by simp [h]

section Allowed

variable {o : MemOp} {s : State} {i : Iss} {acc : Access} {l : Nat} {ea : Dword} {p : Place}

theorem MemOp.allowed.addr (h : o.allowed s i acc l ea p) : mAddr s i o.f o.lg l = .ok ea :=
  let ⟨haddr, _⟩ := h
  haddr

theorem MemOp.allowed.place (h : o.allowed s i acc l ea p) :
    checkAccess s i { acc := acc, aligned := false, types := anyType } ea (2 ^ o.lg) = .ok p :=
  let ⟨_, hplace, _⟩ := h
  hplace

theorem MemOp.allowed.clean (h : o.allowed s i acc l ea p) :
    (if acc = .write then s.placePoisonW i.sess p (2 ^ o.lg) else s.placePoison i.sess p (2 ^ o.lg)) = false :=
  let ⟨_, _, hclean, _⟩ := h
  hclean

theorem MemOp.allowed.idle (h : o.allowed s i acc l ea p) : s.tileIdle i p = true :=
  let ⟨_, _, _, hidle⟩ := h
  hidle

theorem MemOp.allowed.passes (h : o.allowed s i acc l ea p) :
    Acc.Passes s i { acc := acc, aligned := false, types := anyType } (2 ^ o.lg) ⟨l, ea, p⟩ := ⟨h.place, h.clean⟩

end Allowed

/-- Settles O20: every lane's access has passed its checks, so that the lanes load one after another. -/
theorem loads : Obligations.Loads := by
  intro s t i ins o ea p hop hready hin hallowed hlanes
  have hout := Iss.out_of_txn hin
  have hcheck := checkLanes_of_passes (op := 0x70) hout (forall_mem_accesses.mpr fun l hl => (hallowed l hl).passes)
  have hidle := tilesBusy_of_idle (forall_mem_accesses.mpr fun l hl => ⟨(hallowed l hl).place, (hallowed l hl).idle⟩)
  rw [map_accesses] at hcheck
  refine exec_load hop hready (accessBody_load (fun l hl => (hallowed l hl).addr) hcheck hidle ?_)
  exact (foldE_ext _ fun u l hl => laneAccess_load u (hout l) (find?_accesses hl)).trans hlanes

/-- What a store of `x` leaves, the accesses `as` of its lanes having been prepared and the lanes `held` of its accesses `as0` held back. -/
def State.afterStore (s1 : State) (i : Iss) (o : MemOp) (x : Nat → Nat) (as0 as : List Acc) (held : LaneMask) : State :=
  (((i.lanes (i.en o.view)).foldl (State.laneStored i o.f.hint.toNat as fun l => toLE (2 ^ o.lg) (x l)) (s1.releaseFor i o.f .write as)).acquireFor
    i o.f .write as).holdLanes i held (laneLines i (2 ^ o.lg) as0)

/-- A store whose lanes are outside transactions. -/
theorem exec_store_outside {s s1 : State} {i : Iss} {ins : Instr} {o : MemOp} {ea : Nat → Dword} {p : Nat → Place} {x : Nat → Nat}
    {as : List Acc} {held : LaneMask} (hop : storeOp i.rep ins = some o) (hready : Ready s i o.view) (hin : i.inTxn (i.en o.view) = 0)
    (hallowed : ∀ l ∈ i.lanes (i.en o.view), o.allowed (s.begun i o.view) i .write l (ea l) (p l) ∧
      rdT (s.begun i o.view) i l o.ty o.f.c = .ok (x l))
    (hheld : held = heldLanes (s.begun i o.view) i (2 ^ o.lg) (accesses ea p (i.lanes (i.en o.view)))) (hgo : held = 0 ∨ i.tokenHere = true)
    (hprep : prepareStore (s.begun i o.view) i { acc := .write, aligned := false, types := anyType } (2 ^ o.lg)
      ((accesses ea p (i.lanes (i.en o.view))).filter fun a => !held.getLsbD a.lane) = .ok (s1, as)) :
    exec ins s = .next ((s1.afterStore i o x (accesses ea p (i.lanes (i.en o.view))) as held).others i (i.en o.view)) := by
  have hallow := fun l hl => (hallowed l hl).1
  have hout := Iss.out_of_txn hin
  have hcheck := checkLanes_of_passes (op := 0x71) hout (forall_mem_accesses.mpr fun l hl => (hallow l hl).passes)
  have hidle := tilesBusy_of_idle (forall_mem_accesses.mpr fun l hl => ⟨(hallow l hl).place, (hallow l hl).idle⟩)
  rw [map_accesses] at hcheck
  refine exec_store hop hready (accessBody_store (bytes := fun l => toLE (2 ^ o.lg) (x l)) (fun l hl => (hallow l hl).addr) (fun l hl => ?data) hcheck
    hidle hheld hgo hprep ?lanes)
  case data =>
    obtain ⟨_, hread⟩ := hallowed l hl
    rw [hread]
    rfl
  case lanes => exact (foldE_ext _ fun u l _ => laneAccess_store u (hout l)).trans (foldE_ok _ _ _)

/-- Settles O21: every lane's access has passed its checks, and the stores have been prepared, so that the lanes store one after another. -/
theorem stores : Obligations.Stores := by
  intro s s1 i ins o ea p x as0 as held hop hready hin hallowed has hheld hgo hprep
  subst has
  exact exec_store_outside hop hready hin hallowed hheld hgo hprep

/-! ### What a store leaves alone (09 R194, 05 R97) -/

/-- Memory is in its canonical form and has this byte there, and no dirty bitmap is kept. -/
structure State.HasByte (a : Nat) (v : Byte) (t : State) : Prop where
  wf : t.MemOk
  unmarked : t.unmarked
  byte : spGet t.phys.bytes a = v

section HasByte

variable {a : Nat} {v : Byte} {s t : State}

/-- A change that leaves the bytes of memory and the dirty bitmap alone. -/
theorem State.HasByte.of_bytes (h : s.HasByte a v) (hbytes : t.phys.bytes = s.phys.bytes) (hdbm : t.ctrl.dbmEnable = s.ctrl.dbmEnable) :
    t.HasByte a v := by
  obtain ⟨hwf, hun, hbyte⟩ := h
  exact ⟨by rw [State.MemOk, hbytes]; exact hwf, hdbm.trans hun, by rw [hbytes]; exact hbyte⟩

theorem State.HasByte.putPhys (x : Session) (u : CacheUse) {pa : Nat} {bs : List Byte} (h : s.HasByte a v)
    (ha : ¬ (pa ≤ a ∧ a < pa + bs.length)) : (s.putPhys x u pa bs).HasByte a v := by
  obtain ⟨hwf, hun, hbyte⟩ := h
  refine ⟨State.putPhys_wf x u pa bs hwf, ?_, ?_⟩ <;> unfold State.putPhys <;> split
  · exact hun
  · exact State.unmarked_keeps _ _ hun (State.store_only _ _ _ _ hun)
  · exact hbyte
  · rw [State.store_bytes _ _ _ _ hun, spGet_spSetList bs pa a hwf, if_neg ha, hbyte]

@[simp] theorem State.modBank_ctrl (s : State) (core : Nat) (b : Bool) (gid : Nat) (f : Group → Group) : (s.modBank core b gid f).ctrl = s.ctrl := by
  unfold State.modBank
  split <;> rfl

theorem State.chipPut_ctrl (s : State) (x : Session) (by_ pa : Nat) (v : Byte) : (s.chipPut x by_ pa v).ctrl = s.ctrl := by
  unfold State.chipPut
  dsimp only
  repeat' split
  all_goals simp

/-- A store to the on-chip arrays writes no memory, and one to memory its own bytes. -/
theorem State.HasByte.putByte (x : Session) (gid : Nat) (self : Option LaneRef) (u : CacheUse) {pa : Nat} {bs : List Byte} (h : s.HasByte a v)
    (ha : onChip pa = false → ¬ (pa ≤ a ∧ a < pa + bs.length)) : (s.putByte x gid self u pa bs).HasByte a v := by
  unfold State.putByte
  split
  · exact foldl_keeps (State.HasByte a v) _ (fun t j ht => ht.of_bytes (by rw [State.chipPut_phys]) (by rw [State.chipPut_ctrl])) _ _ h
  · next hchip =>
    have hcontend : (s.contend self (linesOf pa bs.length)).HasByte a v := h.of_bytes (by simp) (by rw [State.contend_cores])
    exact hcontend.putPhys x u (ha (by simpa using hchip))

theorem mem_map_range_add {a pa n : Nat} : a ∈ (List.range n).map (pa + ·) ↔ pa ≤ a ∧ a < pa + n := by
  simp only [List.mem_map, List.mem_range]
  constructor
  · rintro ⟨j, hj, rfl⟩
    omega
  · rintro ⟨hle, hlt⟩
    exact ⟨a - pa, by omega, by omega⟩

@[simp] theorem State.modAny_ctrl (s : State) (gid : Nat) (f : Group → Group) : (s.modAny gid f).ctrl = s.ctrl := by
  unfold State.modAny
  split
  · rw [State.modGroup_cores]
  · rfl

@[simp] theorem State.contendIn_ctrl (s : State) (gid : Nat) (self : Option LaneRef) (ls : List Nat) : (s.contendIn gid self ls).ctrl = s.ctrl := by
  unfold State.contendIn
  rw [State.doom_cores]
  dsimp only
  split <;> rfl

theorem State.HasByte.modGroup (gid : Nat) (f : Group → Group) (h : s.HasByte a v) : (s.modGroup gid f).HasByte a v :=
  h.of_bytes (by rw [State.modGroup_phys]) (by rw [State.modGroup_cores])

theorem State.HasByte.modAny (gid : Nat) (f : Group → Group) (h : s.HasByte a v) : (s.modAny gid f).HasByte a v :=
  h.of_bytes (by rw [State.modAny_phys]) (by rw [State.modAny_ctrl])

/-- Stores at a place write the memory that it names, and a task in a version writes none. -/
theorem State.HasByte.putHint (x : Session) (gid : Nat) (self : Option LaneRef) (hint : Nat) {p : Place} {bs : List Byte} (h : s.HasByte a v)
    (ha : a ∉ p.stored bs.length) : (s.putHint x gid self hint p bs).HasByte a v := by
  cases p with
  | virt ps =>
    refine List.foldlRecOn ps _ (motive := fun (acc : State × List Byte) => acc.1.HasByte a v) h fun acc hacc q hq => ?_
    dsimp only
    split
    · exact (hacc.of_bytes (t := acc.1.contendIn gid self _) (by simp) (by simp)).modAny gid _
    · refine hacc.putByte x gid self _ fun _ hin => ha ?_
      have hlen := List.length_take_le q.len acc.2
      exact List.mem_flatMap.mpr ⟨q, hq, mem_map_range_add.mpr (by omega)⟩
  | scratch g off => exact h.modGroup g _
  | tile g off => exact h.modGroup g _
  | phys pa n =>
    refine h.putByte x gid self .past fun hchip hin => ha ?_
    simpa only [Place.stored, hchip, Bool.false_eq_true, if_false, mem_map_range_add] using hin

theorem State.HasByte.worldWatch (x : Session) (gid : Nat) (p : Place) (wr : Bool) (h : s.HasByte a v) : (s.worldWatch x gid p wr).HasByte a v := by
  unfold State.worldWatch
  split
  · exact h.of_bytes rfl rfl
  · exact h

theorem State.HasByte.invalidate (lines : List Nat) (h : s.HasByte a v) : (s.invalidate lines).HasByte a v := by
  unfold State.invalidate
  split
  · exact h
  · exact h.of_bytes rfl rfl

/-- What an access leaves behind is no byte of memory. -/
theorem State.HasByte.note (gid : Nat) (p : Place) (rd wr : Bool) (h : s.HasByte a v) : (s.note gid p rd wr).HasByte a v := by
  cases hx : (s.anyGroup gid).bind fun g => s.session? g.session with
  | none =>
    simp only [State.note, hx]
    split
    · exact (h.invalidate _).modAny gid _
    · exact h.invalidate _
  | some x =>
    simp only [State.note, hx]
    split
    · exact ((h.worldWatch x gid _ wr).invalidate _).modAny gid _
    · exact (h.worldWatch x gid _ wr).invalidate _

theorem State.HasByte.stored (i : Iss) (hint l : Nat) {p : Place} {bs : List Byte} (h : s.HasByte a v) (ha : a ∉ p.stored bs.length) :
    (s.stored i hint l p bs).HasByte a v := (h.putHint _ _ _ _ ha).note ..

/-- A lane has stored elsewhere. -/
theorem State.HasByte.laneStored (i : Iss) (hint : Nat) {as : List Acc} {bytes : Nat → List Byte} {l : Nat} (h : s.HasByte a v)
    (ha : ∀ y ∈ as, a ∉ y.place.stored (bytes l).length) : (State.laneStored i hint as bytes s l).HasByte a v := by
  unfold State.laneStored
  split
  · exact h
  · next y hy => exact (h.stored i hint l (ha y (List.mem_of_find?_eq_some hy))).of_bytes rfl rfl

/-- The release action writes caches back, which moves no byte. -/
theorem State.Holds.releaseAt {m : Mem} {t : State} (core scope : Nat) (h : t.Holds m) : (t.releaseAt core scope).Holds m := by
  unfold State.releaseAt
  split
  · exact h
  · exact foldl_keeps (State.Holds m) _ (fun _ b hu => hu.writeBack b) _ _ h

theorem State.HasByte.releaseAt (core scope : Nat) (h : s.HasByte a v) : (s.releaseAt core scope).HasByte a v := by
  obtain ⟨hwf, hun, hbyte⟩ := h
  obtain ⟨hbytes, hun'⟩ := State.Holds.releaseAt core scope ⟨rfl, hun⟩
  exact ⟨by rw [State.MemOk, hbytes]; exact hwf, hun', by rw [hbytes]; exact hbyte⟩

theorem State.HasByte.holdLanes (i : Iss) (m : LaneMask) (lines : Nat → List Nat) (h : s.HasByte a v) : (s.holdLanes i m lines).HasByte a v := by
  unfold State.holdLanes
  split
  · exact h
  · exact h.of_bytes rfl rfl

theorem State.HasByte.others (i : Iss) (en : LaneMask) (h : s.HasByte a v) : (s.others i en).HasByte a v := by
  unfold State.others
  split
  · exact h
  · exact h.of_bytes rfl rfl

@[simp] theorem length_toLE (n x : Nat) : (toLE n x).length = n := by
  induction n generalizing x with
  | zero => rfl
  | succ n ih => simp [toLE, ih]

/-- A store leaves the bytes outside its prepared accesses. -/
theorem State.HasByte.afterStore (i : Iss) {o : MemOp} (x : Nat → Nat) (as0 : List Acc) {as : List Acc} (held : LaneMask) (h : s.HasByte a v)
    (ha : ∀ y ∈ as, a ∉ y.place.stored (2 ^ o.lg)) : (s.afterStore i o x as0 as held).HasByte a v := by
  refine State.HasByte.holdLanes _ _ _ (foldl_keeps (State.HasByte a v) _ (fun t l ht => ?_) _ _ (h.releaseAt _ _))
  exact ht.laneStored i _ (by simpa using ha)

end HasByte

/-! ### Stores that need no preparation (05 R110, 20 R355) -/

theorem State.cowPlace_plain {s : State} {x : Session} {self : Option LaneRef} {p : Place} (h : p.hasContent = false) :
    s.cowPlace x self p = .ok s := by
  unfold State.cowPlace
  split
  · next ps =>
    have hplain : ∀ q ∈ ps, ¬ q.leaf.content = true := by simpa [Place.hasContent] using h
    have hsame := foldE_ext (f := fun (t : State) (q : Piece) => if q.leaf.content then t.cowPage x self q.va (subsOf q.va.toNat q.len) else .ok t)
      (g := fun t _ => .ok t) s fun t q hq => if_neg (hplain q hq)
    rw [hsame, foldE_ok (fun t _ => t)]
    simp
  · rfl

/-- A store outside versions whose places are no content pages changes nothing before it is performed. -/
theorem prepareStore_plain {s : State} {i : Iss} {nd : Need} {n : Nat} {as : List Acc} (hbuf : i.group.buffering = false)
    (hplain : ∀ a ∈ as, a.place.hasContent = false) (hpasses : ∀ a ∈ as, a.Passes s i nd n) : prepareStore s i nd n as = .ok (s, as) := by
  simp only [prepareStore, hbuf, Bool.false_eq_true, if_false]
  generalize hcopied : List.foldl _ (s, []) as = r
  have hsame : r.1 = s ∧ ∀ x ∈ r.2, x.2 = .ok () := by
    rw [← hcopied]
    refine List.foldlRecOn as _ (motive := fun r : State × List (Nat × Except Trap Unit) => r.1 = s ∧ ∀ x ∈ r.2, x.2 = .ok ()) (by simp) ?_
    rintro acc ⟨hstate, hok⟩ a ha
    simp only [hstate, State.cowPlace_plain (hplain a ha), List.mem_append, List.mem_singleton, true_and]
    rintro x (hx | rfl)
    · exact hok x hx
    · rfl
  obtain ⟨hstate, hok⟩ := hsame
  have hgather : gather i.lead r.2 = .ok (r.2.map fun _ => ()) := by
    rw [gather_eq_ok_iff, List.map_map]
    exact List.map_congr_left hok
  simp only [hgather, hstate, checkAll_of_passes hpasses, Except.map]

/-- Settles O22: stores, and what they leave behind, write the memory of their places only; a place on no content page needs no copy. -/
theorem storeFrame : Obligations.StoreFrame := by
  refine ⟨?frame, ?plain⟩
  case frame =>
    intro s s1 t i ins o ea p x as0 as a hop hready hin hallowed has hgo hprep hdbm hwf hexec ha
    subst has
    rw [exec_store_outside hop hready hin hallowed rfl hgo hprep] at hexec
    cases hexec
    exact ((State.HasByte.afterStore i x _ _ ⟨hwf, hdbm, rfl⟩ ha).others i _).byte
  case plain =>
    intro s i nd n as hbuf has
    refine prepareStore_plain hbuf (fun a ha => ?_) fun a ha => ?_
    · obtain ⟨hplain, _⟩ := has a ha
      exact hplain
    · obtain ⟨_, hplace, hclean⟩ := has a ha
      exact ⟨hplace, hclean⟩

end Sys2Proof.Machine
end

section
/-! PROOFS. Lanes, memory and synchronisation (09_ref_lanes_memory_sync.md): atomics and reductions, waits and barriers. -/

namespace Sys2Proof.Machine

open Sys2Proof

/-! ### `ATOM` and `RED` (09 R197 to R200) -/

/-- What the access of an atomic needs (09 R200). -/
def atomNeed : Need := { acc := .atomic, aligned := true, types := atomTypes }

/-- One lane's atomic operation, if the lane has an access: the new value is stored, `ATOM` delivers the old one, and the lane moves on. -/
def atomLane (x : AtomOp) (f : MForm) (ret : Bool) (i : Iss) (as : List Acc) (c : Nat → Nat × Nat) (t : State) (l : Nat) : Except Halt State :=
  match as.find? fun a => a.lane == l with
  | none => .ok t
  | some a =>
    let o := leNat (t.bytesAt i.sess i.group.gid a.place (2 ^ tyLg f.ty))
    let t1 := (t.putAt i.sess i.group.gid (i.self a.lane) a.place (toLE (2 ^ tyLg f.ty) (atomNew x f.ty o (c l).1 (c l).2))).sign
      i.group.gid a.place true true
    (if ret then wrT t1 i a.lane f.ty f.d o else .ok t1).map fun t2 => t2.advance i (maskOf (· == a.lane))

/-- An atomic, where its addresses, its operands, its checks, its preparation and its lanes' operations go through, the host link carries it
where it has to, and no serial transaction holds the whole unit back. -/
theorem atomBody_ok {x : AtomOp} {f : MForm} {ret : Bool} {i : Iss} {en : LaneMask} {s s1 t : State} {ea : Nat → Dword} {c : Nat → Nat × Nat}
    {as0 as : List Acc} {held : LaneMask} (haddr : ∀ l ∈ i.lanes en, mAddr s i f (tyLg f.ty) l = .ok (ea l))
    (hoperand : ∀ l ∈ i.lanes en, rdAtomC x f i s l = .ok (c l))
    (hcheck : checkAll s i atomNeed (2 ^ tyLg f.ty) ((i.lanes en).map fun l => (l, ea l)) = .ok as0)
    (hidle : tilesBusy s i as0 = false) (hheld : held = heldLanes s i (2 ^ tyLg f.ty) as0) (hgo : held = 0 ∨ i.tokenHere = true)
    (hlink : ∀ a ∈ as0, a.place.hostLink = true → linkCarries x f.ty = true ∧ Config.linkAtomicOk s.freeCtr = true)
    (hprep : prepareStore s i atomNeed (2 ^ tyLg f.ty) (as0.filter fun a => !held.getLsbD a.lane) = .ok (s1, as))
    (hlanes : foldE (atomLane x f ret i as c) (s1.releaseFor i f .atomic as) (i.lanes en) = .ok t) :
    atomBody x f ret i en s = .ok ((t.acquireFor i f .atomic as).holdLanes i held (laneLines i (2 ^ tyLg f.ty) as0)) := by
  have hfree : ¬ (held != 0 && !i.tokenHere) = true := by
    rcases hgo with hgo | hgo <;> simp [hgo]
  have hcarried : (as0.find? fun a => a.place.hostLink && !(linkCarries x f.ty && Config.linkAtomicOk s.freeCtr)) = none := by
    rw [List.find?_eq_none]
    intro a ha hbad
    simp only [Bool.and_eq_true, Bool.not_eq_true'] at hbad
    obtain ⟨hhost, hrefused⟩ := hbad
    obtain ⟨hcarries, haccepts⟩ := hlink a ha hhost
    simp [hcarries, haccepts] at hrefused
  simp only [atomNeed] at hcheck hprep
  simp only [atomBody]
  rw [mapLanes_ok (g := fun l => (l, ea l, c l)) fun l hl => by rw [haddr l hl, hoperand l hl]]
  simp only [List.map_map, Function.comp_def, hcheck, hidle, ← hheld, Bool.false_eq_true, hfree, if_false, hcarried, hprep, foldLanes_map]
  exact congrArg (Except.map _) (foldLanes_ok hlanes)

/-- `ATOM` and `RED` are carried out by `atomBody`. -/
theorem exec_atomic {s t : State} {i : Iss} {x : AtomOp} {f : MForm} {ret : Bool} {v : View} (hv : v = if ret then viewAtom x f else viewRed x f)
    (h : Ready s i v) (hbody : atomBody x f ret i (i.en v) (s.begun i v) = .ok t) :
    exec (if ret then .atom x f else .red x f) s = .next (t.others i (i.en v)) := by
  cases ret with
  | true =>
    obtain rfl : v = viewAtom x f := hv
    exact issue_moves (vf := fun _ => viewAtom x f) h hbody
  | false =>
    obtain rfl : v = viewRed x f := hv
    exact issue_moves (vf := fun _ => viewRed x f) h hbody

/-! ### New values (09 R197, R198) -/

theorem elemInt_signed (o : BitVec 32) : elemInt true 32 o.toNat = o.toInt := by
  simp only [elemInt, sextNat, if_true, BitVec.toInt_eq_toNat_cond, Nat.mod_eq_of_lt o.isLt]
  split <;> split <;> omega

theorem elemInt_unsigned (o : BitVec 32) : elemInt false 32 o.toNat = o.toNat := by
  simp [elemInt, Nat.mod_eq_of_lt o.isLt]

section Values

variable (o v w : BitVec 32)

theorem atomNew_add : atomNew .add .n32 o.toNat v.toNat w.toNat = (o + v).toNat := (BitVec.toNat_add o v).symm

theorem atomNew_and : atomNew .and .b32 o.toNat v.toNat w.toNat = (o &&& v).toNat := (BitVec.toNat_and o v).symm

theorem atomNew_cas : atomNew .cas .b32 o.toNat v.toNat w.toNat = (if o = v then w else o).toNat := by
  simp only [atomNew, ← BitVec.toNat_eq]
  split <;> rfl

/-- Below its bound an increment does not wrap. -/
theorem atomNew_inc : atomNew .inc .n32 o.toNat v.toNat w.toNat = (if v ≤ o then 0 else o + 1).toNat := by
  simp only [atomNew, ← BitVec.le_def]
  split
  · rfl
  · bv_omega

/-- Above zero a decrement does not wrap. -/
theorem atomNew_dec : atomNew .dec .n32 o.toNat v.toNat w.toNat = (if o = 0 ∨ v < o then v else o - 1).toNat := by
  have hzero : o.toNat = 0 ↔ o = 0 := BitVec.toNat_inj (y := 0)
  simp only [atomNew, ← BitVec.lt_def, hzero]
  split
  · rfl
  · bv_omega

theorem atomNew_min : atomNew .min .s32 o.toNat v.toNat w.toNat = (if o.slt v then o else v).toNat := by
  have hless : (decide (elemInt true 32 o.toNat < elemInt true 32 v.toNat) != false) = o.slt v := by
    simp [elemInt_signed, BitVec.slt_eq_decide]
  refine (congrArg (if · then o.toNat else v.toNat) hless).trans ?_
  split <;> rfl

theorem atomNew_max : atomNew .max .n32 o.toNat v.toNat w.toNat = (if o < v then v else o).toNat := by
  have hless : (decide (elemInt false 32 o.toNat < elemInt false 32 v.toNat) != true) = !decide (o < v) := by
    simp [elemInt_unsigned, BitVec.lt_def]
  refine (congrArg (if · then o.toNat else v.toNat) hless).trans ?_
  by_cases h : o < v <;> simp [h]

end Values

/-- Settles O24: every lane's access has passed its checks and been prepared, so that the lanes' operations come one after another; the values
are those of the rules for each operation. -/
theorem atomics : Obligations.Atomics := by
  refine ⟨?lanes, fun o v w => ⟨atomNew_add o v w, atomNew_and o v w, rfl, atomNew_cas o v w, atomNew_inc o v w, atomNew_dec o v w,
    atomNew_min o v w, atomNew_max o v w⟩⟩
  intro s s1 t i x f ret v ea p c as0 as held hv hready hpass has hheld hgo hprep hlanes
  subst has
  have hpasses : ∀ a ∈ accesses ea p (i.lanes (i.en v)), a.Passes (s.begun i v) i atomNeed (2 ^ tyLg f.ty) :=
    forall_mem_accesses.mpr fun l hl =>
      let ⟨_, _, hplace, hclean, _⟩ := hpass l hl
      ⟨hplace, hclean⟩
  have hcheck := checkAll_of_passes hpasses
  rw [map_accesses] at hcheck
  have hidle := tilesBusy_of_idle (forall_mem_accesses.mpr fun l hl =>
    let ⟨_, _, hplace, _, hidle, _⟩ := hpass l hl
    ⟨hplace, hidle⟩)
  have hlink : ∀ a ∈ accesses ea p (i.lanes (i.en v)), a.place.hostLink = true →
      linkCarries x f.ty = true ∧ Config.linkAtomicOk (s.begun i v).freeCtr = true := forall_mem_accesses.mpr fun l hl =>
    let ⟨_, _, _, _, _, hlink⟩ := hpass l hl
    hlink
  refine exec_atomic hv hready (atomBody_ok (c := c) (fun l hl => ?addr) (fun l hl => ?operand) hcheck hidle hheld hgo hlink hprep hlanes)
  case addr =>
    obtain ⟨haddr, _⟩ := hpass l hl
    exact haddr
  case operand =>
    obtain ⟨_, hoperand, _⟩ := hpass l hl
    exact hoperand

/-! ### `WAITF` and `BAR` (09 R203, R204) -/

/-- An instruction that holds its unit, its body going through. -/
theorem issueHold_holds {s t : State} {i : Iss} {vf : Iss → View} {body : Body} (h : Ready s i (vf i))
    (hbody : body i (i.en (vf i)) (s.begun i (vf i)) = .ok t) : issueHold s vf body = .next t := by
  rw [issueHold_ready body h, runBody_ok hbody]

/-- `WAITF` starts the waits of its lanes, where each can read its operands and its location. -/
theorem exec_waitf {s : State} {i : Iss} {x : WCond} {f : MForm} {ea : Nat → Dword} {c : Nat → Nat} {p : Nat → Place}
    (hready : Ready s i (viewWaitf f))
    (hpass : ∀ l ∈ i.lanes (i.en (viewWaitf f)), mAddr (s.begun i (viewWaitf f)) i f (tyLg f.ty) l = .ok (ea l) ∧
      rdT (s.begun i (viewWaitf f)) i l f.ty f.c = .ok (c l) ∧
      waitCheck (s.begun i (viewWaitf f)) i (ea l) (2 ^ tyLg f.ty) = .ok (p l) ∧
      (s.begun i (viewWaitf f)).placePoison i.sess (p l) (2 ^ tyLg f.ty) = false) :
    exec (.waitf x f) s = .next (startWaits (s.begun i (viewWaitf f)) i x f (i.en (viewWaitf f))
      ((i.lanes (i.en (viewWaitf f))).map fun l => (l, ea l, c l))) := by
  refine issueHold_holds (vf := fun _ => viewWaitf f) hready ?_
  simp only
  rw [mapLanes_ok (g := fun l => (l, ea l, c l)) fun l hl => by
    obtain ⟨haddr, hoperand, _⟩ := hpass l hl
    rw [haddr, hoperand]]
  simp only [List.map_map, Function.comp_def]
  rw [gather_map_ok (g := fun l => (⟨l, ea l, p l⟩ : Acc)) (lane := fun l => l) fun l hl => by
    obtain ⟨_, _, hplace, _⟩ := hpass l hl
    rw [hplace]
    rfl]
  have hclean := poisonFirst_eq_none (acc := .read) (as := accesses ea p (i.lanes (i.en (viewWaitf f)))) (forall_mem_accesses.mpr fun l hl =>
    let ⟨_, _, _, hclean⟩ := hpass l hl
    hclean)
  rw [accesses] at hclean
  simp only [hclean]

/-- Settles O25: a unit whose operands can be read is held at `WAITF` with its waits started; at `BAR` its participants have each arrived once
more. -/
theorem waitsAndBarriers : Obligations.WaitsAndBarriers := by
  refine ⟨fun _ _ _ _ _ _ _ => exec_waitf, ?bar⟩
  intro s i f clu hready
  cases clu
  all_goals
    refine issueHold_holds (vf := fun _ => viewBar f) hready ?_
    unfold barBody
    split
    · simp [*]
    · simp [*]

end Sys2Proof.Machine
end

section
/-! PROOFS. Lanes, memory and synchronisation (09_ref_lanes_memory_sync.md): lane transactions. -/

namespace Sys2Proof.Machine

open Sys2Proof

/-! ### `XBEGIN` (09 R206, R213) -/

section Begin

variable {s : State} {i : Iss} {l : Nat} {y : Session} (target : Pc)

theorem beginLane_nested (hactive : (i.group.lane i.band l).txn.active = true) : beginLane s i l target = s.abortLane i l 9 0 := by
  simp only [beginLane, hactive, if_true]

theorem beginLane_plain (hidle : (i.group.lane i.band l).txn.active = false) (haborts : (i.group.lane i.band l).txn.aborts ≠ 8) :
    beginLane s i l target = ((s.acquire i.core 3).modLanes i (maskOf (· == l)) fun _ x => x.openTxn false target).advance i (maskOf (· == l)) := by
  simp only [beginLane, hidle, beq_eq_false_iff_ne.mpr haborts, Bool.false_eq_true, if_false]

theorem beginLane_serial (hidle : (i.group.lane i.band l).txn.active = false) (haborts : (i.group.lane i.band l).txn.aborts = 8)
    (hsession : s.session? i.sess.slot = some y) (hfree : y.tokenHolder = none) (hfirst : y.tokenQueue = []) :
    beginLane s i l target = (((s.acquire i.core 3).modSession i.sess.slot fun z =>
      { z with tokenHolder := some ⟨i.group.gid, i.band, l⟩ }).modLanes i (maskOf (· == l)) fun _ z => z.openTxn true target).advance i
        (maskOf (· == l)) := by
  simp only [beginLane, hidle, haborts, hsession, hfree, hfirst, beq_self_eq_true, Option.isNone_none, List.isEmpty_nil, Bool.and_self,
    Bool.false_eq_true, if_false, if_true]

theorem beginLane_waits (hidle : (i.group.lane i.band l).txn.active = false) (haborts : (i.group.lane i.band l).txn.aborts = 8)
    (hsession : s.session? i.sess.slot = some y) (htaken : y.tokenHolder ≠ none) :
    beginLane s i l target = (s.modSession i.sess.slot fun z => { z with tokenQueue := z.tokenQueue ++ [⟨i.group.gid, i.band, l⟩] }).modLanes i
      (maskOf (· == l)) fun _ z => { z with wait := .token, txn := { z.txn with target := target } } := by
  simp only [beginLane, hidle, haborts, hsession, beq_self_eq_true, Option.isNone_eq_false_iff.mpr (Option.isSome_iff_ne_none.mpr htaken),
    Bool.false_and, Bool.false_eq_true, if_false, if_true]

end Begin

/-- `XBEGIN` begins its lanes' transactions one after another, where the abort target may be entered. -/
theorem exec_xbegin {s : State} {i : Iss} {f : BForm} (h : Ready s i (viewXbegin f))
    (henters : ∀ l ∈ i.lanes (i.en (viewXbegin f)),
      checkTarget (s.begun i (viewXbegin f)) i l false (directTarget i.pc f.loff f.slot 0) = .ok ()) :
    exec (.xbegin f) s = .next (((i.lanes (i.en (viewXbegin f))).foldl (fun t l => beginLane t i l (directTarget i.pc f.loff f.slot 0))
      (s.begun i (viewXbegin f))).others i (i.en (viewXbegin f))) := by
  refine issue_moves (vf := fun _ => viewXbegin f) h ?_
  simp only [mapLanes_ok (g := fun _ => ()) henters]

/-! ### `XEND` and `XABORT` (09 R209, R210) -/

theorem needTxn_ok {i : Iss} {en : LaneMask} (h : ∀ l ∈ i.lanes en, (i.group.lane i.band l).txn.active = true) : needTxn i en = .ok () :=
  eachE_ok fun l hl => if_pos (h l hl)

theorem State.overCapacity_unversioned {s : State} {g : Group} (h : g.ver = none) (vas : List Nat) : s.overCapacity g vas = none := by
  simp only [State.overCapacity, h]

/-- No serial transaction of another lane holds a line that an enabled lane is to write. -/
theorem mask_none_held {i : Iss} {en : LaneMask} {held : Nat → Bool} (hlead : i.lead = false) (h : ∀ l ∈ i.lanes en, held l = false) :
    (maskOf fun l => en.getLsbD l && held l) = 0#32 := by
  refine (maskOf_congr fun l hl => ?_).trans maskOf_false
  cases hen : en.getLsbD l
  · rfl
  · rw [Iss.lanes_of_lane hlead] at h
    exact h l (mem_lanesOf.mpr ⟨hl, hen⟩)

/-- `XEND` ends its lanes' transactions one after another, outside a version, where no lane is held back and no serial one meets a trap. -/
theorem exec_xend {s : State} {i : Iss} {f : RForm} (h : Ready s i (viewXend f)) (hver : i.group.ver = none)
    (hopen : ∀ l ∈ i.lanes (i.en (viewXend f)), (i.group.lane i.band l).txn.active = true)
    (hfree : ∀ l ∈ i.lanes (i.en (viewXend f)),
      (s.begun i (viewXend f)).heldFrom i.group (i.self l) (txnOf (s.begun i (viewXend f)) i l).wset = false)
    (hready : ∀ l ∈ i.lanes (i.en (viewXend f)), (txnOf (s.begun i (viewXend f)) i l).serial = true →
      ∃ w, commitReady (s.begun i (viewXend f)) i l = .ok w) :
    exec (.xend f) s = .next (((i.lanes (i.en (viewXend f))).foldl (fun t l => endLane t i l)
      ((s.begun i (viewXend f)).releaseAt i.core 3)).others i (i.en (viewXend f))) := by
  refine issue_moves (vf := fun _ => viewXend f) h ?_
  have hheld := mask_none_held (View.not_lead (check_of_ready h) rfl) hfree
  simp only [needTxn_ok hopen, hheld, BitVec.ofNat_eq_ofNat, BitVec.getLsbD_zero, Bool.not_false, List.filter_true, State.holdLanes_zero,
    bne_self_eq_false, Bool.false_and, Bool.false_eq_true, if_false, State.overCapacity_unversioned hver]
  rw [eachE_ok fun l hl => ?_]
  split
  · next hserial =>
    obtain ⟨w, hw⟩ := hready l hl hserial
    rw [hw]
  · rfl

/-- `XABORT` aborts its lanes' transactions with its code. -/
theorem exec_xabort {s : State} {i : Iss} {f : RForm} {b : Nat → Word} (h : Ready s i (viewXabort f))
    (hopen : ∀ l ∈ i.lanes (i.en (viewXabort f)), (i.group.lane i.band l).txn.active = true)
    (hcode : ∀ l ∈ i.lanes (i.en (viewXabort f)), rd1 (s.begun i (viewXabort f)) i l f.b = .ok (b l)) :
    exec (.xabort f) s = .next (((i.lanes (i.en (viewXabort f))).foldl (fun t l => t.abortLane i l 4 ((b l).toNat % 256))
      (s.begun i (viewXabort f))).others i (i.en (viewXabort f))) := by
  refine issue_moves (vf := fun _ => viewXabort f) h ?_
  simp only [needTxn_ok hopen]
  rw [perLane_ok (vals := b) _ hcode]
  exact foldLanes_ok (foldE_ok _ _ _)

/-! ### Aborts (09 R211, R212) -/

theorem Txn.status_toNat {x : Txn} (hidle : x.active = false) : x.status.toNat = x.aborts % 16 * 65536 + x.detail.toNat * 256 + x.cause.toNat := by
  have hdetail := x.detail.isLt
  have hcause := x.cause.isLt
  simp only [Txn.status, hidle, b2n, Bool.false_and, Bool.false_eq_true, if_false, BitVec.toNat_ofNat]
  omega

/-- An aborted lane stands at its abort target outside transactions, and its registers stand. -/
theorem Lane.abort_result (x : Lane) {cause detail : Nat} (hcause : cause < 256) (hdetail : detail < 256) :
    (x.abort cause detail).pc = x.txn.target ∧ (x.abort cause detail).txn.active = false ∧ (x.abort cause detail).txn.buf = [] ∧
    (x.abort cause detail).regs = x.regs ∧ (x.abort cause detail).k = x.k ∧
    (x.abort cause detail).txn.aborts = (if cause = 1 ∨ cause = 2 ∨ cause = 5 ∨ cause = 8 then min 8 (x.txn.aborts + 1) else x.txn.aborts) ∧
    ((x.abort cause detail).txn.status.toNat % 256 = cause ∧ (x.abort cause detail).txn.status.toNat / 256 % 256 = detail) := by
  have hstatus := Txn.status_toNat (x := (x.abort cause detail).txn) rfl
  have hc : (x.abort cause detail).txn.cause.toNat = cause := Nat.mod_eq_of_lt hcause
  have hd : (x.abort cause detail).txn.detail.toNat = detail := Nat.mod_eq_of_lt hdetail
  rw [hc, hd] at hstatus
  refine ⟨rfl, rfl, rfl, rfl, rfl, ?aborts, by omega, by omega⟩
  simp [Lane.abort, Txn.closed, or_assoc]

/-! ### Loads and stores of lanes inside transactions (09 R207) -/

theorem ite_bnot {α : Type} (b : Bool) (x y : α) : (if (!b) = true then x else y) = if b = true then y else x := by
  cases b <;> rfl

/-- Checks that leave no access outside transactions are those of lanes inside. -/
theorem inside_of_checkLanes {s : State} {i : Iss} {nd : Need} {op n : Nat} {ins : LaneMask} {ea : Nat → Dword} {ls : List Nat}
    (h : checkLanes s i nd op n ins (ls.map fun l => (l, ea l)) = .ok []) {l : Nat} (hl : l ∈ ls) : ins.getLsbD l = true := by
  by_contra hin
  have hout : ins.getLsbD l = false := by simpa using hin
  simp only [checkLanes, List.map_map, Function.comp_def] at h
  split at h
  · cases h
  · next as hgather =>
    split at h
    · cases h
    · have hnone : (as.filterMap id).filter (fun a => !ins.getLsbD a.lane) = [] := Except.ok.inj h
      have hresults := gather_eq_ok_iff.mp hgather
      rw [List.map_map] at hresults
      have hmem : laneCheck s i nd op n ins (l, ea l) ∈ as.map Except.ok := hresults ▸ List.mem_map_of_mem hl
      obtain ⟨a, ha, hcheck⟩ := List.mem_map.mp hmem
      rw [laneCheck_outside hout] at hcheck
      obtain ⟨p, _, rfl⟩ := Except.eq_ok_of_map hcheck.symm
      have hkept : (⟨l, ea l, p⟩ : Acc) ∈ (as.filterMap id).filter fun a => !ins.getLsbD a.lane := by
        simp only [List.mem_filter, List.mem_filterMap, id_eq, exists_eq_right]
        exact ⟨ha, by simp [hout]⟩
      rw [hnone] at hkept
      cases hkept

@[simp] theorem State.acquireFor_nil (s : State) (i : Iss) (f : MForm) (acc : Access) : s.acquireFor i f acc [] = s := by
  unfold State.acquireFor
  split
  · rfl
  · rfl

@[simp] theorem State.releaseFor_nil (s : State) (i : Iss) (f : MForm) (acc : Access) : s.releaseFor i f acc [] = s := by
  unfold State.releaseFor
  split
  · rfl
  · rfl

@[simp] theorem heldLanes_nil (s : State) (i : Iss) (n : Nat) : heldLanes s i n [] = 0#32 := maskOf_false

/-- A load whose lanes are all inside transactions, which give their bytes one after another. -/
theorem exec_load_inside {s t : State} {i : Iss} {ins : Instr} {o : MemOp} {ea : Nat → Dword} (hop : loadOp i.rep ins = some o)
    (h : Ready s i o.view) (haddr : ∀ l ∈ i.lanes (i.en o.view), mAddr (s.begun i o.view) i o.f o.lg l = .ok (ea l))
    (hcheck : checkLanes (s.begun i o.view) i { acc := .read, aligned := false, types := anyType } 0x70 (2 ^ o.lg) (i.inTxn (i.en o.view))
      ((i.lanes (i.en o.view)).map fun l => (l, ea l)) = .ok [])
    (hlanes : foldE (laneAccess 0x70 (2 ^ o.lg) o.f.hint.toNat (giveLoad o.f o.ty o.signed) i (i.inTxn (i.en o.view)) [] (fun _ => none) ea)
      (s.begun i o.view) (i.lanes (i.en o.view)) = .ok t) : exec ins s = .next (t.others i (i.en o.view)) := by
  refine exec_load hop h ((accessBody_load haddr hcheck rfl hlanes).trans ?_)
  rw [State.acquireFor_nil]

/-- A store whose lanes are all inside transactions, which buffer their bytes one after another. -/
theorem exec_store_inside {s t : State} {i : Iss} {ins : Instr} {o : MemOp} {ea : Nat → Dword} {x : Nat → Nat}
    (hop : storeOp i.rep ins = some o) (h : Ready s i o.view)
    (haddr : ∀ l ∈ i.lanes (i.en o.view), mAddr (s.begun i o.view) i o.f o.lg l = .ok (ea l) ∧ rdT (s.begun i o.view) i l o.ty o.f.c = .ok (x l))
    (hcheck : checkLanes (s.begun i o.view) i { acc := .write, aligned := false, types := anyType } 0x71 (2 ^ o.lg) (i.inTxn (i.en o.view))
      ((i.lanes (i.en o.view)).map fun l => (l, ea l)) = .ok [])
    (hprep : prepareStore (s.begun i o.view) i { acc := .write, aligned := false, types := anyType } (2 ^ o.lg) [] = .ok (s.begun i o.view, []))
    (hlanes : foldE (laneAccess 0x71 (2 ^ o.lg) o.f.hint.toNat noLoad i (i.inTxn (i.en o.view)) [] (fun l => some (toLE (2 ^ o.lg) (x l))) ea)
      (s.begun i o.view) (i.lanes (i.en o.view)) = .ok t) : exec ins s = .next (t.others i (i.en o.view)) := by
  have hdata : ∀ l ∈ i.lanes (i.en o.view), (rdT (s.begun i o.view) i l o.ty o.f.c).map (toLE (2 ^ o.lg)) = .ok (toLE (2 ^ o.lg) (x l)) := by
    intro l hl
    obtain ⟨_, hread⟩ := haddr l hl
    rw [hread]
    rfl
  refine exec_store hop h ((accessBody_store (fun l hl => (haddr l hl).1) hdata hcheck rfl (heldLanes_nil _ _ _).symm (.inl rfl) hprep
    (by rw [State.releaseFor_nil]; exact hlanes)).trans ?_)
  rw [State.acquireFor_nil, State.holdLanes_zero]

/-! ### One access of a transaction (09 R207, R208) -/

/-- An access outside session memory. -/
theorem txAccess_outside {ea : Dword} (s : State) (i : Iss) (op n l hint : Nat) (store : Option (List Byte))
    (hspace : sessionSpace ea.toNat = false) : txAccess s i op n l hint ea store = .ok (s.abortLane i l 7 op, none) := by
  simp only [txAccess, hspace, Bool.not_false, if_true]

section Access

variable {s : State} {i : Iss} {op n l : Nat} {ea : Dword} {store : Option (List Byte)} {p : Place} (hint : Nat)
  (hspace : sessionSpace ea.toNat = true) (hmeets : intra s i l store.isSome (linesMet s i ea n) = [])
  (hclass : txClass s i (if store.isSome then .write else .read) op n ea = .ok p)

include hspace hmeets hclass

/-- An access that takes the band's transactions past 32 lines. -/
theorem txAccess_capacity (hlines : 32 < bandLines s i (linesMet s i ea n)) :
    txAccess s i op n l hint ea store = .ok (s.abortLane i l 3 0, none) := by
  simp only [txAccess, hspace, hmeets, settleIntra, List.foldl_nil, hclass, hlines, Bool.not_true, Bool.false_eq_true, if_false, if_true]

/-- An access that is performed. -/
theorem txAccess_performed (hlines : bandLines s i (linesMet s i ea n) ≤ 32)
    (hstore : store.isSome = true → s.heldFrom i.group (i.self l) (p.holdLines i n) = false ∧ p.hasContent = false) :
    txAccess s i op n l hint ea store = .ok (txTouch s i l p n hint store, some (txBytes s i l p n)) := by
  have hfree : (store.isSome && s.heldFrom i.group (i.self l) (p.holdLines i n)) = false := by
    cases hsome : store.isSome
    · rfl
    · exact (hstore hsome).1
  have hcow : (if store.isSome && !i.group.buffering then s.cowPlace i.sess (i.self l) p else .ok s) = .ok s := by
    split
    · next h => exact State.cowPlace_plain (hstore (Bool.and_eq_true_iff.mp h).1).2
    · rfl
  simp only [txAccess, hspace, hmeets, settleIntra, List.foldl_nil, hclass, Nat.not_lt.mpr hlines, Bool.not_true, Bool.false_eq_true, if_false,
    hfree, hcow]

end Access

/-! ### Instructions that a transaction may not execute (09 R207) -/

/-- Where every active lane is inside a transaction that may not execute the instruction, all abort. -/
theorem Issues.barred {s : State} {i : Iss} {v : View} {always : Bool} {o : Result} (h : Issues s i v always o)
    (hcheck : v.check i = none) (hbarred : i.txnBarred (i.en v) v.op = i.active) : o = .next (s.abortLanes i i.active 7 v.op) := by
  obtain ⟨post, body, rfl⟩ := h
  rw [Iss.en] at hbarred
  have hrest : i.active &&& ~~~ i.active = 0#32 := by simp
  simp only [issueCore, hcheck, hbarred, hrest]
  simp

theorem exec_barred {s : State} {i : Iss} {ins : Instr} {v : Iss → View} (hview : viewOf ins = some v) (h : Issuing s i) (hrep : i.rep = none)
    (hcheck : (v i).check i = none) (hbarred : i.txnBarred (i.en (v i)) (v i).op = i.active) :
    exec ins s = .next (s.abortLanes i i.active 7 (v i).op) := by
  by_cases hpopf : ∃ f, ins = .popf f
  · obtain ⟨f, rfl⟩ := hpopf
    exact (exec_popf_issues hview h).barred hcheck hbarred
  · exact (exec_issues hview (not_exists.mp hpopf) h hrep).barred hcheck hbarred

/-- An OP that no transaction allows is barred to the enabled lanes inside one. -/
theorem getLsbD_txnBarred {i : Iss} {en : LaneMask} {op l : Nat} (hop : txnAllows op = false) (hlead : i.lead = false) (hl : l < 32) :
    (i.txnBarred en op).getLsbD l = (en.getLsbD l && (i.group.lane i.band l).txn.active) := by
  simp only [Iss.txnBarred, hlead, hop, Bool.or_self, Bool.false_eq_true, if_false, getLsbD_maskOf, hl, decide_true, Bool.true_and]

/-! ### A transaction's own bytes (09 R207) -/

/-- Where a transaction has found a virtual line to lie. -/
def Txn.line? (x : Txn) (v : Nat) : Option Nat := (x.touched.find? fun e => e.vline == v).map (·.pline)

theorem Txn.pa_of_line {x : Txn} {va n : Nat} (h : x.line? (va / 64) = some n) : x.pa va = 64 * n + va % 64 := by
  obtain ⟨e, he, rfl⟩ := Option.map_eq_some_iff.mp h
  simp only [Txn.pa, he]

/-- A touched line lies where its last access found it. -/
theorem Txn.line?_touch (x : Txn) (e : TxLine) (v : Nat) : (x.touch e).line? v = if v = e.vline then some e.pline else x.line? v := by
  unfold Txn.touch Txn.line?
  by_cases hany : (x.touched.any fun o => o.vline == e.vline) = true
  · rw [if_pos hany]
    dsimp only
    rw [find?_map_of_keeps (p := fun o : TxLine => o.vline == v) fun o => by split <;> rfl]
    by_cases hv : v = e.vline
    · subst hv
      obtain ⟨o, ho⟩ := Option.isSome_iff_exists.mp (List.find?_isSome.mpr (List.any_eq_true.mp hany))
      have hsame : o.vline = e.vline := by simpa using List.find?_some ho
      simp [ho, hsame]
    · rw [if_neg hv]
      cases ho : x.touched.find? fun o => o.vline == v with
      | none => rfl
      | some o =>
        have hline : o.vline = v := by simpa using List.find?_some ho
        simp [hline, hv]
  · rw [if_neg hany]
    dsimp only
    rw [List.find?_append]
    by_cases hv : v = e.vline
    · subst hv
      have habsent : (x.touched.find? fun o => o.vline == e.vline) = none := by simpa using hany
      simp [habsent]
    · simp [hv, Ne.symm hv]

/-- Lines touched one after another, each found where `at_` says. -/
theorem Txn.line?_foldl_touch {at_ : Nat → Nat} {v : Nat} : ∀ {es : List TxLine} (x : Txn), (∀ e ∈ es, e.pline = at_ e.vline) →
    (es.foldl Txn.touch x).line? v = if v ∈ es.map (·.vline) then some (at_ v) else x.line? v
  | [], x, _ => by simp
  | e :: es, x, h => by
    rw [List.foldl_cons, Txn.line?_foldl_touch _ fun o ho => h o (List.mem_cons_of_mem e ho), Txn.line?_touch]
    by_cases hrest : v ∈ es.map (·.vline)
    · simp [hrest]
    · by_cases hv : v = e.vline
      · subst hv
        simp [hrest, h e List.mem_cons_self]
      · simp [hrest, hv]

theorem Txn.touched_buffer (x : Txn) (bs : List ((Nat × Nat) × Byte)) : (x.buffer bs).touched = x.touched := by
  refine foldl_keeps (fun y : Txn => y.touched = x.touched) _ ?_ bs x rfl
  exact fun _ _ h => h

theorem Txn.pa_buffer (x : Txn) (bs : List ((Nat × Nat) × Byte)) (va : Nat) : (x.buffer bs).pa va = x.pa va := by
  simp only [Txn.pa, Txn.touched_buffer]

/-- A byte buffered in place of what was buffered there. -/
theorem Txn.own?_put {x : Txn} {va key : Nat} (b : Byte) (hpa : x.pa va = key) (k : Nat) :
    ({ x with buf := (x.buf.filter fun o => x.pa o.1 != key) ++ [(va, b)] } : Txn).own? k = if k = key then some b else x.own? k := by
  change (((x.buf.filter fun o => x.pa o.1 != key) ++ [(va, b)]).find? fun e => x.pa e.1 == k).map (·.2) = _
  rw [List.find?_append, List.find?_filter]
  by_cases hk : k = key
  · subst hk
    have hgone : (x.buf.find? fun o => decide ((x.pa o.1 != k) = true ∧ (x.pa o.1 == k) = true)) = none := by simp
    rw [hgone]
    simp [hpa]
  · have hkept : (fun o : Nat × Byte => decide ((x.pa o.1 != key) = true ∧ (x.pa o.1 == k) = true)) = fun o => x.pa o.1 == k := by
      funext o
      by_cases ho : x.pa o.1 = k <;> simp [ho, hk]
    rw [hkept]
    simp [hpa, Ne.symm hk, hk, Txn.own?]

theorem Txn.buffer_append (x : Txn) (bs : List ((Nat × Nat) × Byte)) (e : (Nat × Nat) × Byte) : x.buffer (bs ++ [e]) =
    { x.buffer bs with buf := ((x.buffer bs).buf.filter fun o => (x.buffer bs).pa o.1 != e.1.2) ++ [(e.1.1, e.2)] } := by
  simp only [Txn.buffer, List.foldl_append, List.foldl_cons, List.foldl_nil]

/-- Bytes buffered at distinct places are the transaction's own there. -/
theorem Txn.own?_buffer {x : Txn} {bs : List ((Nat × Nat) × Byte)} (hpa : ∀ e ∈ bs, x.pa e.1.1 = e.1.2) (hdistinct : (bs.map (·.1.2)).Nodup) :
    ∀ e ∈ bs, (x.buffer bs).own? e.1.2 = some e.2 := by
  induction bs using List.reverseRecOn with
  | nil => simp
  | append_singleton bs last ih =>
    rw [List.map_append, List.nodup_append] at hdistinct
    obtain ⟨hbefore, _, hapart⟩ := hdistinct
    intro e he
    rw [Txn.buffer_append, Txn.own?_put _ ((x.pa_buffer bs _).trans (hpa last (by simp)))]
    rcases List.mem_append.mp he with he | he
    · rw [if_neg (hapart _ (List.mem_map_of_mem he) _ (by simp))]
      exact ih (fun o ho => hpa o (List.mem_append_left _ ho)) hbefore e he
    · obtain rfl := List.mem_singleton.mp he
      rw [if_pos rfl]

/-! ### A run that a transaction stores and loads -/

theorem mem_linesOf_of_lt {a n j : Nat} (hj : j < n) : (a + j) / 64 ∈ linesOf a n := by
  rw [linesOf, if_neg (Nat.ne_of_gt (Nat.zero_lt_of_lt hj)), mem_map_range_add]
  omega

/-- Where byte `j` of a run lies in a transaction: inside a version at its virtual address. -/
def Piece.key (versioned : Bool) (q : Piece) (j : Nat) : Nat := if versioned then q.va.toNat + j else q.pa + j

/-- Where a line of a run lies in a transaction. -/
def Piece.lineAt (versioned : Bool) (q : Piece) (l : Nat) : Nat := if versioned then l else q.pa / 64 + (l - q.va.toNat / 64)

theorem txKeys_run (versioned : Bool) (q : Piece) :
    txKeys versioned (.virt [q]) = (List.range q.len).map fun j => (q.va.toNat + j, q.key versioned j) := by
  simp [txKeys, Piece.key]

/-- A store to a run: its lines are touched and its bytes buffered. -/
def Txn.stored (x : Txn) (versioned : Bool) (q : Piece) (hint : Nat) (bs : List Byte) : Txn :=
  ((txLines versioned (.virt [q]) true hint).foldl Txn.touch x).buffer ((txKeys versioned (.virt [q])).zip bs)

/-- A transaction that has touched a run's lines finds its bytes where they lie, the run lying alike in its virtual and physical lines. -/
theorem Txn.pa_touched (x : Txn) (versioned : Bool) {q : Piece} (hint : Nat) (halike : q.pa % 64 = q.va.toNat % 64) {j : Nat} (hj : j < q.len) :
    ((txLines versioned (.virt [q]) true hint).foldl Txn.touch x).pa (q.va.toNat + j) = q.key versioned j := by
  have hline := Txn.line?_foldl_touch (at_ := q.lineAt versioned) (v := (q.va.toNat + j) / 64) (es := txLines versioned (.virt [q]) true hint) x
    (by simp [txLines, Piece.lineAt])
  rw [if_pos (by simpa [txLines] using mem_linesOf_of_lt hj)] at hline
  rw [Txn.pa_of_line hline]
  unfold Piece.lineAt Piece.key
  split <;> omega

/-- What a transaction has stored to a run is its own there. -/
theorem Txn.own?_stored (x : Txn) (versioned : Bool) {q : Piece} (hint : Nat) {bs : List Byte} (hlen : bs.length = q.len)
    (halike : q.pa % 64 = q.va.toNat % 64) {j : Nat} (hj : j < q.len) :
    (x.stored versioned q hint bs).own? (q.key versioned j) = some (bs.getD j 0) := by
  have hbytes : (txKeys versioned (.virt [q])).zip bs = (List.range q.len).map fun j => ((q.va.toNat + j, q.key versioned j), bs.getD j 0) := by
    rw [txKeys_run]
    apply List.ext_getElem
    · simp [hlen]
    · intro n hn _
      have hn : n < bs.length := by simpa [hlen] using hn
      simp [hn]
  have hinj : Function.Injective (q.key versioned) := by
    intro a b hab
    unfold Piece.key at hab
    split at hab <;> omega
  rw [Txn.stored, hbytes]
  refine Txn.own?_buffer (e := ((q.va.toNat + j, q.key versioned j), bs.getD j 0)) ?_ ?_ (List.mem_map_of_mem (List.mem_range.mpr hj))
  · simp only [List.forall_mem_map, List.mem_range]
    exact fun n hn => x.pa_touched versioned hint halike hn
  · rw [List.map_map]
    exact List.nodup_range.map hinj

/-! ### The transaction of a lane of the issuing unit -/

/-- A lane's transaction that has changed. -/
theorem txnOf_modTxn {s : State} {i : Iss} {l : Nat} (hfind : s.find? i.group.gid = some (i.core, i.group)) (hl : l < 32)
    (hlane : l < i.bandOf.lanes.length) (f : Txn → Txn) : txnOf (modTxn s i l f) i l = f (i.group.lane i.band l).txn := by
  have hchanged : modTxn s i l f = s.mapLanes i fun m x => if (maskOf (· == l)).getLsbD m then { x with txn := f x.txn } else x := rfl
  rw [hchanged]
  unfold txnOf State.mapLanes
  rw [State.find?_modGroupOn (hf := ?keeps), hfind]
  case keeps => exact fun _ => rfl
  simp only [Option.map_some, if_true]
  rw [Group.lane_mapLanes _ _ _ hlane]
  simp [hl]

@[simp] theorem State.worldWatch_phys (s : State) (x : Session) (gid : Nat) (p : Place) (wr : Bool) : (s.worldWatch x gid p wr).phys = s.phys := by
  unfold State.worldWatch
  split <;> rfl

@[simp] theorem txnOf_worldWatch (s : State) (x : Session) (gid : Nat) (p : Place) (wr : Bool) (i : Iss) (l : Nat) :
    txnOf (s.worldWatch x gid p wr) i l = txnOf s i l := by
  unfold State.worldWatch
  split <;> rfl

/-- A transactional store to a run writes no memory, and the lane's own load reads it back (09 R207, 06 R113). -/
theorem txBytes_txTouch {s : State} {i : Iss} {l : Nat} (hint : Nat) {q : Piece} {bs : List Byte}
    (hfind : s.find? i.group.gid = some (i.core, i.group)) (hl : l < 32) (hlane : l < i.bandOf.lanes.length) (hlen : bs.length = q.len)
    (halike : q.pa % 64 = q.va.toNat % 64) : (txTouch s i l (.virt [q]) q.len hint (some bs)).phys = s.phys ∧
    txBytes (txTouch s i l (.virt [q]) q.len hint (some bs)) i l (.virt [q]) q.len = bs := by
  have htouch : txTouch s i l (.virt [q]) q.len hint (some bs) =
      (modTxn s i l fun x => x.stored i.group.buffering q hint bs).worldWatch i.sess i.group.gid (.virt [q]) true := rfl
  refine ⟨by rw [htouch, State.worldWatch_phys]; rfl, ?_⟩
  rw [htouch, txBytes, txnOf_worldWatch, txnOf_modTxn hfind hl hlane, txKeys_run, State.bytesAt_run]
  apply List.ext_getElem
  · simp [hlen]
  · intro j hj _
    have hj : j < q.len := by simpa using hj
    simp [Txn.own?_stored _ i.group.buffering hint hlen halike hj, hlen, hj]

/-! ### The obligation -/

/-- Settles O26: where the checks pass, each instruction is its lanes' operations one after another; an access of a lane inside a
transaction is decided by its first obstacle, and a run that a transaction stores is kept under the keys of its bytes, where a load finds it. -/
theorem transactions : Obligations.Transactions := by
  refine ⟨?xbegin, ?begin, ?xend, ?xabort, fun x cause detail => x.abort_result, ?loads, ?stores, ?access, ?buffer, ?barred, ?atomics⟩
  case xbegin =>
    intro s i f hready hlanes
    rw [exec_xbegin hready fun l hl => (hlanes l hl).1]
    congr 2
    refine List.foldl_ext _ _ _ fun t l hl => ?_
    obtain ⟨_, hidle, haborts⟩ := hlanes l hl
    exact beginLane_plain _ hidle haborts
  case begin =>
    intro s i l target
    refine ⟨beginLane_nested target, fun hidle haborts y hsession => ⟨?_, beginLane_waits target hidle haborts hsession⟩⟩
    rintro ⟨hfree, hfirst⟩
    exact beginLane_serial target hidle haborts hsession hfree hfirst
  case xend =>
    intro s i f hready hver hlanes
    rw [forall₂_and, forall₂_and] at hlanes
    obtain ⟨hopen, hfree, hserial⟩ := hlanes
    exact exec_xend hready hver hopen hfree hserial
  case xabort =>
    intro s i f b hready hlanes
    rw [forall₂_and] at hlanes
    obtain ⟨hopen, hcode⟩ := hlanes
    exact exec_xabort hready hopen hcode
  case loads =>
    intro s t i ins o ea hop hready haddr hcheck hlanes
    refine exec_load_inside hop hready haddr hcheck ((foldE_ext _ fun u l hl => ?_).trans hlanes)
    exact (if_pos (inside_of_checkLanes hcheck hl)).trans (ite_bnot _ _ _)
  case stores =>
    intro s t i ins o ea x hop hready haddr hcheck hprep hlanes
    refine exec_store_inside hop hready haddr hcheck hprep ((foldE_ext _ fun u l hl => ?_).trans hlanes)
    exact (if_pos (inside_of_checkLanes hcheck hl)).trans (ite_bnot _ _ _)
  case access =>
    rintro s i op n l hint ea store p acc rfl
    exact ⟨txAccess_outside s i op n l hint store, fun hspace hmeets hclass =>
      ⟨txAccess_capacity hint hspace hmeets hclass, txAccess_performed hint hspace hmeets hclass⟩⟩
  case buffer =>
    intro s i l hint q bs hfind _ hl hlane hlen halike
    exact txBytes_txTouch hint hfind hl hlane hlen halike
  case barred =>
    intro s i ins v hview hunit hundoomed hactive hrep hcheck hbarred
    exact exec_barred hview ⟨hunit, hundoomed, hactive⟩ hrep hcheck hbarred
  case atomics =>
    intro i en l hlead hl
    exact ⟨getLsbD_txnBarred rfl hlead hl, getLsbD_txnBarred rfl hlead hl⟩

end Sys2Proof.Machine
end

section
/-! PROOFS. Control, streams and engines (10_ref_control_streams_engines.md): transfers, calls and returns, windows, `REPEAT`, fences. -/

namespace Sys2Proof.Machine

open Sys2Proof

/-! ### The unit after an instruction -/

/-- An instruction after which its unit moves on, the body going through. -/
theorem issue_advances {s t : State} {i : Iss} {vf : Iss → View} {always : Bool} {body : Body} (h : Ready s i (vf i))
    (hbody : body i (i.en (vf i)) (s.begun i (vf i)) = .ok t) : issue s vf false always body = .next (t.advance i i.active) := by
  rw [issue_ready false always body h, runBody_ok hbody, moveOn_all]

/-- Lanes whose writes cannot fail are written one after another. -/
theorem perLane_total {α : Type} {i : Iss} {en : LaneMask} {s : State} {read : Nat → Except Halt α} {vals : Nat → α}
    (write : State → Nat → α → State) (h : ∀ l ∈ i.lanes en, read l = .ok (vals l)) :
    perLane i en s read (fun t l a => .ok (write t l a)) = .ok ((i.lanes en).foldl (fun t l => write t l (vals l)) s) := by
  rw [perLane_ok _ h, foldLanes_ok (foldE_ok _ _ _)]

/-! ### `BRA`, `JMP` and `BRX` (10 R215) -/

/-- A branch whose targets are known and may be entered sends every lane to its own. -/
theorem branch_goes {indirect : Bool} {target : Iss → State → Nat → Except Halt Pc} {pc : Nat → Pc} {i : Iss} {en : LaneMask} {s : State}
    (htarget : ∀ l ∈ i.lanes en, target i s l = .ok (pc l))
    (henters : ∀ l ∈ i.lanes en, checkTarget s i l indirect (pc l) = .ok ()) :
    branch indirect target i en s = .ok ((i.lanes en).foldl (fun t l => goTo t i l (pc l)) s) := by
  refine perLane_total (fun t l a => goTo t i l a) fun l hl => ?_
  simp only [htarget l hl, henters l hl, Except.map]

/-- Settles O14: the three transfers are one branch, each with targets of its own. -/
theorem transfers : Obligations.Transfers := by
  rintro s i f ins v indirect target (⟨rfl, rfl, rfl, htarget⟩ | ⟨rfl, rfl, rfl, htarget⟩ | ⟨rfl, rfl, rfl, htarget⟩) h henters
  · exact issue_moves (vf := fun _ => viewBra f) h (branch_goes (fun l _ => congrArg Except.ok (htarget l).symm) henters)
  · exact issue_moves (vf := fun _ => viewJmp f) h (branch_goes htarget henters)
  · exact issue_moves (vf := fun _ => viewBrx f) h (branch_goes htarget henters)

/-! ### `CALL` and `CALLI` (10 R216) -/

/-- The call family: lanes that reach their calls and have room for them push their links one after another. -/
theorem callBody_calls {f : BForm} {indirect : Bool} {target : Iss → State → Nat → Except Halt Pc} {pc : Nat → Pc} {i : Iss}
    {en : LaneMask} {s t : State} (htarget : ∀ l ∈ i.lanes en, target i s l = .ok (pc l))
    (hreach : ∀ l ∈ i.lanes en, CallReaches f indirect s i l (pc l)) (hfits : ∀ l ∈ i.lanes en, CallFits i l)
    (hpush : foldE (fun t l => pushCall t i l (8 * f.wsh.toNat) (pc l)) s (i.lanes en) = .ok t) :
    callBody f indirect target i en s = .ok t := by
  rw [callBody, perLane_ok (vals := pc) _ fun l hl => ?read]
  case read =>
    obtain ⟨hshift, henters⟩ := hreach l hl
    obtain ⟨hlinks, hdepth⟩ := hfits l hl
    simp only [Nat.not_lt.mpr hshift, htarget l hl, henters, Nat.not_lt.mpr hdepth, Nat.not_le.mpr hlinks, if_false]
  exact foldLanes_ok hpush

theorem exec_call {s t : State} {i : Iss} {f : BForm} {ins : Instr} {v : View} {indirect : Bool} {target : Nat → Pc}
    (hins : CallsTo s i f ins v indirect target) (h : Ready s i v)
    (hreach : ∀ l ∈ i.lanes (i.en v), CallReaches f indirect (s.begun i v) i l (target l)) (hfits : ∀ l ∈ i.lanes (i.en v), CallFits i l)
    (hpush : foldE (fun t l => pushCall t i l (8 * f.wsh.toNat) (target l)) (s.begun i v) (i.lanes (i.en v)) = .ok t) :
    exec ins s = .next (t.others i (i.en v)) := by
  rcases hins with ⟨rfl, rfl, rfl, htarget⟩ | ⟨rfl, rfl, rfl, htarget⟩
  · exact issue_moves (vf := fun _ => viewCall f) h
      (callBody_calls (fun l _ => congrArg Except.ok (htarget l).symm) hreach hfits hpush)
  · exact issue_moves (vf := fun _ => viewCalli f) h (callBody_calls htarget hreach hfits hpush)

/-- A lane with room for a link on chip stores none in memory. -/
theorem pushCall_onChip {s : State} {i : Iss} {l : Nat} (k : Nat) (target : Pc) (hroom : (i.group.lane i.band l).links.length < 8) :
    pushCall s i l k target = .ok (s.modLanes i (maskOf (· == l)) fun _ y =>
      { y with
        links := (if y.links.length < 8 then y.links else []) ++ [linkWord (nextPc i.pc) k y.size]
        nlinks := y.nlinks + 1, base := y.base + k, size := y.size - k, pc := target }) := by
  simp only [pushCall, hroom, if_true]

/-! ### Links (03 R59) -/

theorem bitsOf_eq (x hi lo : Nat) : bitsOf x hi lo = x / 2 ^ lo % 2 ^ (hi + 1 - lo) := by rw [bitsOf, Nat.shiftRight_eq_div_pow]

theorem bitsOf_lt (x hi lo : Nat) : bitsOf x hi lo < 2 ^ (hi + 1 - lo) := Nat.mod_lt _ (Nat.two_pow_pos _)

section Link

variable {pc : Pc} {k size : Nat}

/-- The fields of a link do not overlap. -/
theorem toNat_linkWord (hk : k < 1024) (hsize : size < 1024) : (linkWord pc k size).toNat =
    size / 8 * 2 ^ 52 + k / 8 * 2 ^ 45 + bitsOf pc.toNat 47 6 * 2 ^ 3 + pc.toNat % 8 := by
  have hline := bitsOf_lt pc.toNat 47 6
  rw [linkWord, BitVec.toNat_ofNat, Nat.mod_eq_of_lt]
  omega

theorem linkSize_linkWord (hk : k < 1024) (hsize : size < 1024) (heights : size % 8 = 0) : linkSize (linkWord pc k size) = size := by
  have hline := bitsOf_lt pc.toNat 47 6
  rw [linkSize, toNat_linkWord hk hsize, bitsOf_eq]
  omega

theorem linkShift_linkWord (hk : k < 1024) (hsize : size < 1024) (heights : k % 8 = 0) : linkShift (linkWord pc k size) = k := by
  have hline := bitsOf_lt pc.toNat 47 6
  rw [linkShift, toNat_linkWord hk hsize, bitsOf_eq]
  omega

/-- A PC of the session space is the sign extension of its low 48 bits, of which a link leaves out bits 5 to 3: a slot has none of
them. -/
theorem linkPc_linkWord (hk : k < 1024) (hsize : size < 1024) (hspace : sessionSpace pc.toNat = true) (hslot : pc.toNat % 64 < 5) :
    linkPc (linkWord pc k size) = pc := by
  have hline : bitsOf (linkWord pc k size).toNat 44 3 = bitsOf pc.toNat 47 6 := by
    rw [toNat_linkWord hk hsize, bitsOf_eq, bitsOf_eq]
    omega
  have hlow : bitsOf (linkWord pc k size).toNat 2 0 = pc.toNat % 64 := by
    rw [toNat_linkWord hk hsize, bitsOf_eq, bitsOf_eq]
    omega
  have hpc := pc.isLt
  simp only [sessionSpace, bitsOf_eq, Bool.or_eq_true, beq_iff_eq] at hspace
  rw [linkPc, hline, hlow]
  apply BitVec.eq_of_toNat_eq
  simp only [BitVec.toNat_add, BitVec.toNat_signExtend, BitVec.toNat_setWidth, BitVec.toNat_ofNat, BitVec.msb_eq_decide, decide_eq_true_eq,
    bitsOf_eq]
  split <;> omega

end Link

/-- Settles O15: the lanes of a call reach it and have room for it, and the fields of a link are told apart by their places. -/
theorem calls : Obligations.Calls := by
  refine ⟨?complete, fun _ _ _ => pushCall_onChip, ?link⟩
  case complete =>
    intro s t i f ins v indirect target hins h hpass hpush
    exact exec_call hins h (fun l hl => let ⟨hshift, _, _, henters⟩ := hpass l hl; ⟨hshift, henters⟩)
      (fun l hl => let ⟨_, hlinks, hdepth, _⟩ := hpass l hl; ⟨hlinks, hdepth⟩) hpush
  case link =>
    intro pc k size hspace hslot hk8 hk hsize8 hsize
    exact ⟨linkPc_linkWord hk hsize hspace hslot, linkShift_linkWord hk hsize hk8, linkSize_linkWord hk hsize hsize8⟩

/-! ### `RET` (10 R217) -/

/-- Settles O16: a lane that can return reads what `Returns` says of it, and every lane's window is put back after all have read. -/
theorem returnPopsLink : Obligations.ReturnPopsLink := by
  intro s i f r h hreturns
  refine issue_moves (vf := fun _ => viewRet f) h (perLane_total _ fun l hl => ?_)
  have hlo := (hreturns l hl).lo_eq
  have hlinks := (hreturns l hl).links_eq
  obtain ⟨hsome, hlink, henters, _, hfill, _⟩ := hreturns l hl
  have hpushed : ((i.group.lane i.band l).nlinks == 0) = false := by simpa using Nat.ne_of_gt hsome
  simp only [hpushed, ← hlink, hlo, hfill, hlinks, henters, Bool.false_eq_true, if_false]

/-! ### `EXIT`, `SPLIT` and `REJOIN` (10 R218, R221) -/

theorem exec_exit {s : State} {i : Iss} {f : RForm} (h : Ready s i (viewExit f)) :
    exec (.exit f) s = .next (((if i.lead then (s.begun i (viewExit f)).modLead i fun x => { x with status := .exited, rep := none }
      else (s.begun i (viewExit f)).modLanes i (i.en (viewExit f)) fun _ x => x.exit)).others i (i.en (viewExit f))) :=
  issue_moves (vf := fun _ => viewExit f) h rfl

theorem exec_split {s t : State} {i : Iss} {f : RForm} (h : Ready s i (viewSplit f))
    (hwrite : foldE (fun t l => writeV t i l f.d.idx.toNat i.active) (s.begun i (viewSplit f)) (i.lanes (i.en (viewSplit f))) = .ok t) :
    exec (.split f) s = .next (t.advance i i.active) := by
  refine issue_advances (vf := fun _ => viewSplit f) h ?_
  rw [perLane_ok (vals := fun _ => i.active) _ fun _ _ => rfl]
  exact foldLanes_ok hwrite

theorem exec_rejoin {s : State} {i : Iss} {f : RForm} {m : Nat → Word} (h : Ready s i (viewRejoin f))
    (hread : ∀ l ∈ i.lanes (i.en (viewRejoin f)), readV (s.begun i (viewRejoin f)) i l f.a.idx.toNat = .ok (m l)) :
    exec (.rejoin f) s = .next (((i.lanes (i.en (viewRejoin f))).foldl (fun t l =>
      t.modLanes i (maskOf (· == l)) fun _ x => { x with status := .parked (m l ||| BitVec.ofNat 32 (2 ^ l)) })
      (s.begun i (viewRejoin f))).others i (i.en (viewRejoin f))) :=
  issue_moves (vf := fun _ => viewRejoin f) h (perLane_total _ hread)

/-! ### `NOP`, `PREF` and fences (10 R219, 09 R195, R201, R202) -/

theorem exec_nop {s : State} {i : Iss} {f : RForm} (h : Ready s i (viewNop f)) :
    exec (.nop f) s = .next ((s.begun i (viewNop f)).advance i i.active) := issue_advances (vf := fun _ => viewNop f) h rfl

theorem exec_pref {s : State} {i : Iss} {f : MForm} (h : Ready s i (viewPref f)) :
    exec (.pref f) s = .next (((i.lanes (i.en (viewPref f))).foldl (fun t l => t.prefetch i f l) (s.begun i (viewPref f))).advance i i.active) :=
  issue_advances (vf := fun _ => viewPref f) h rfl

theorem exec_fence {s : State} {i : Iss} {f : MForm} (h : Ready s i (viewFence f true)) :
    exec (.fence f) s =
      .next ((((s.begun i (viewFence f true)).releaseAt i.core (mScope f)).acquire i.core (mScope f)).advance i i.active) :=
  issue_advances (vf := fun _ => viewFence f true) h rfl

theorem exec_fenceUn {s : State} {i : Iss} {f : MForm} (h : Ready s i (viewFenceUn f)) :
    exec (.fenceUn f) s = .next ((((s.begun i (viewFenceUn f)).performAll i.core).dropType 2 i.core true true).advance i i.active) :=
  issue_advances (vf := fun _ => viewFenceUn f) h rfl

/-! ### Cache actions move no byte of memory (05 R105 to R108, entry 3) -/

section Holds

variable {m : Mem} {t : State}

theorem State.Holds.byte (h : t.Holds m) (a : Nat) : spGet t.phys.bytes a = spGet m a := by
  obtain ⟨hbytes, _⟩ := h
  rw [hbytes]

theorem State.Holds.dropType (type core : Nat) (l2 llc : Bool) (h : t.Holds m) : (t.dropType type core l2 llc).Holds m := h.phys rfl

theorem State.Holds.acquire (core scope : Nat) (h : t.Holds m) : (t.acquire core scope).Holds m := by
  unfold State.acquire
  split
  · exact h
  · exact h.dropType ..

theorem State.Holds.writeType (type core : Nat) (h : t.Holds m) : (t.writeType type core).Holds m :=
  foldl_keeps (State.Holds m) _ (fun _ b hu => hu.writeBack b) _ _ h

theorem State.Holds.performAll (core : Nat) (h : t.Holds m) : (t.performAll core).Holds m :=
  foldl_keeps (State.Holds m) _ (fun _ type hu => hu.writeType type core) _ _ h

/-- A read reaches the channels of its blocks, then finds room for them in each cache and fills it. -/
theorem State.Holds.cacheRead (u : CacheUse) (a n : Nat) (h : t.Holds m) : (t.cacheRead u a n).Holds m := by
  unfold State.cacheRead
  refine foldl_keeps (State.Holds m) _ (fun v c hv => ?fill) _ _ (foldl_keeps (State.Holds m) _ (fun v e hv => ?reach) _ _ h)
  case fill => exact foldl_keeps (State.Holds m) _ (fun w e hw => (hw.cacheRoom c _ u).phys (Phys.fill_bytes ..)) _ _ hv
  case reach =>
    split
    · exact hv
    · exact hv.reach _ _

theorem State.Holds.fillPlace (gid hint : Nat) (p : Place) (h : t.Holds m) : (t.fillPlace gid hint p).Holds m := by
  unfold State.fillPlace
  split
  · refine foldl_keeps (State.Holds m) _ (fun u q hu => ?_) _ _ h
    split
    · exact hu
    · exact hu.cacheRead ..
  · exact h

theorem State.Holds.invalidate (lines : List Nat) (h : t.Holds m) : (t.invalidate lines).Holds m := by
  unfold State.invalidate
  split
  · exact h
  · exact h.phys rfl

/-- A prefetch is dropped, or fills caches. -/
theorem State.Holds.prefetch (i : Iss) (f : MForm) (l : Nat) (h : t.Holds m) : (t.prefetch i f l).Holds m := by
  unfold State.prefetch
  repeat' split
  · exact h
  · exact h
  · exact (h.invalidate _).fillPlace ..

end Holds

/-- Settles O17: each body is what the statement writes out, and a cache action keeps the bytes that memory holds. -/
theorem exitSplitRejoinNop : Obligations.ExitSplitRejoinNop := by
  refine ⟨fun _ _ _ => exec_exit, ⟨fun _ _ _ _ => exec_split, fun _ _ _ _ => exec_rejoin⟩, fun _ _ _ => exec_nop, fun _ _ _ => exec_pref,
    fun _ _ _ => exec_fence, fun _ _ _ => exec_fenceUn, ?bytes⟩
  case bytes =>
    intro s i f core scope type l l2 llc a hun
    have hholds : s.Holds s.phys.bytes := ⟨rfl, hun⟩
    exact ⟨((hholds.releaseAt core scope).acquire core scope).byte a, ((hholds.performAll core).dropType type core l2 llc).byte a,
      (hholds.prefetch i f l).byte a⟩

/-! ### `ALLOC` (10 R220) -/

/-- A fold goes through where another does whose every step it takes. -/
theorem foldE_of_steps {α σ ε ε' : Type} {f : σ → α → Except ε σ} {g : σ → α → Except ε' σ} (hstep : ∀ t x u, f t x = .ok u → g t x = .ok u) :
    ∀ {xs : List α} {s t : σ}, foldE f s xs = .ok t → foldE g s xs = .ok t
  | [], _, _, h => by
    cases h
    rfl
  | x :: xs, s, t, h => by
    simp only [foldE] at h ⊢
    split at h
    · next u hu =>
      rw [hstep s x u hu]
      exact foldE_of_steps hstep h
    · cases h

/-- Settles O18: every lane's spill can be made, and the lanes take their windows one after another. -/
theorem allocSetsWindow : Obligations.AllocSetsWindow := by
  intro s t i f h heights hmin hmax hroom hraise
  change execAlloc f s = _
  rw [execAlloc]
  refine issue_advances (vf := fun _ => viewAlloc f) h ?_
  rw [perLane_ok (vals := fun l => newLo i.launch.desc.blockRegs (i.group.lane i.band l).lo (i.group.lane i.band l).base f.imm.toNat) _
    fun l hl => ?read]
  case read =>
    obtain ⟨hdepth, w, hw⟩ := hroom l hl
    have hsize : (f.imm.toNat % 8 != 0 || decide (f.imm.toNat < 8) || decide (f.imm.toNat > 640)) = false := by
      simp [heights, Nat.not_lt.mpr hmin, Nat.not_lt.mpr hmax]
    simp only [hsize, Nat.not_lt.mpr hdepth, hw, gt_iff_lt, Bool.false_eq_true, if_false]
  refine foldLanes_ok (foldE_of_steps (fun u l v hstep => ?_) hraise)
  obtain ⟨r, hr, rfl⟩ := Except.eq_ok_of_map hstep
  simp only [hr]

/-! ### `REPEAT` (10 R222) -/

theorem View.guard_unused {v : View} {i : Iss} (h : v.check i = none) (hno : v.noGuard = true) : unguarded v.g = true := by
  unfold View.check at h
  repeat' split at h
  all_goals simp_all

/-- Where a guard is not allowed, every active lane is enabled (07 R138). -/
theorem Iss.en_of_noGuard {i : Iss} {v : View} (hcheck : v.check i = none) (hno : v.noGuard = true) (hlead : i.lead = false) : i.en v = i.active := by
  have hplain := View.guard_unused hcheck hno
  simp only [unguarded, Bool.and_eq_true, Bool.not_eq_true', beq_iff_eq] at hplain
  obtain ⟨hneg, hmask⟩ := hplain
  refine BitVec.eq_of_getLsbD_eq fun l hl => ?_
  rw [Bool.eq_iff_iff, Iss.en, Iss.getLsbD_enabled _ hlead hl, hneg, hmask]
  simp

/-- Where every active lane is enabled, no other moves on. -/
theorem State.others_all (s : State) (i : Iss) : s.others i i.active = s := by
  unfold State.others
  split
  · rfl
  · next hlead =>
    rw [State.advance_eq_mapLanes (by simpa using hlead), BitVec.and_not_self]
    simp

theorem State.others_of_noGuard {v : View} {i : Iss} (s : State) (hcheck : v.check i = none) (hno : v.noGuard = true) : s.others i (i.en v) = s := by
  cases hlead : i.lead with
  | true => simp [State.others, hlead]
  | false => rw [Iss.en_of_noGuard hcheck hno hlead, State.others_all]

/-- An instruction without a guard whose body moves its unit. -/
theorem issue_moves_all {s t : State} {i : Iss} {v : View} {body : Body} (h : Ready s i v) (hno : v.noGuard = true)
    (hbody : body i (i.en v) (s.begun i v) = .ok t) : issue s (fun _ => v) true false body = .next t := by
  rw [issue_moves (vf := fun _ => v) h hbody, State.others_of_noGuard t (check_of_ready h) hno]

/-- The D field of an instruction as a number (07 R139). -/
theorem Spec.toNat_field (d : Spec) : (BitVec.ofBool d.kill ++ BitVec.ofBool d.bank ++ d.idx).toNat =
    (if d.kill then 2 ^ 11 else 0) + (if d.bank then 2 ^ 10 else 0) + d.idx.toNat := by
  rw [BitVec.toNat_append, ← Nat.shiftLeft_add_eq_or_of_lt d.idx.isLt]
  cases d.kill <;> cases d.bank <;> rfl

/-- The strides of a `REPEAT` are the octal digits of its D field. -/
theorem strides_eq (d : Spec) : strides d = [3, 2, 1, 0].map fun j =>
    ((if d.kill then 2 ^ 11 else 0) + (if d.bank then 2 ^ 10 else 0) + d.idx.toNat) / 8 ^ j % 8 := by
  have hlt := (BitVec.ofBool d.kill ++ BitVec.ofBool d.bank ++ d.idx).isLt
  rw [Spec.toNat_field] at hlt
  simp only [strides, Spec.toNat_field, List.map_cons, List.map_nil]
  congr 1
  · omega
  · simp

theorem repeatBody_skips {f : IForm} {count : Iss → Nat} {i : Iss} (en : LaneMask) (s : State) (hcount : count i = 0) :
    repeatBody f count i en s = .ok (s.repeating i (nextPc (nextPc i.pc)) none) := by
  simp only [repeatBody, hcount, beq_self_eq_true, if_true]
  rfl

theorem repeatBody_repeats {f : IForm} {count : Iss → Nat} {i : Iss} (en : LaneMask) {s : State} (hcount : count i ≠ 0)
    (hcheck : repeatCheck s i (strides f.d) (count i) = .ok ()) :
    repeatBody f count i en s = .ok (s.repeating i (nextPc i.pc) (some
        { remain := BitVec.ofNat 16 (count i), iter := 0, sd := BitVec.ofNat 3 ((strides f.d).getD 0 0),
          sa := BitVec.ofNat 3 ((strides f.d).getD 1 0), sb := BitVec.ofNat 3 ((strides f.d).getD 2 0),
          sc := BitVec.ofNat 3 ((strides f.d).getD 3 0) })) := by
  rw [strides_eq] at hcheck ⊢
  rw [List.map_cons, List.map_cons, List.map_cons, List.map_cons, List.map_nil] at hcheck
  simp only [repeatBody, beq_eq_false_iff_ne.mpr hcount, Bool.false_eq_true, if_false, hcheck, Except.map]
  rfl

theorem Lane.advance_last {x : Lane} {r : RepState} (hrep : x.rep = some r) (hlast : r.remain = 1) :
    x.advance = { x with pc := nextPc x.pc, rep := none } := by
  have hnext : r.next = none := if_pos (BitVec.le_of_eq hlast)
  rw [Lane.advance]
  simp only [hrep, hnext]

theorem Lane.advance_earlier {x : Lane} {r : RepState} (hrep : x.rep = some r) (hmore : 1 < r.remain.toNat) :
    x.advance = { x with rep := some { r with remain := r.remain - 1, iter := r.iter + 1 } } := by
  have hnext : r.next = some { r with remain := r.remain - 1, iter := r.iter + 1 } := if_neg (Nat.not_le.mpr hmore)
  rw [Lane.advance]
  simp only [hrep, hnext]

/-- Settles O19: both forms are one body with a count of its own, and a lane moves on by the state of its `REPEAT`. -/
theorem Lane.repeat : Obligations.Repeat := by
  refine ⟨?issue, ?advance⟩
  case issue =>
    rintro s i f ins v n (⟨rfl, rfl, rfl⟩ | ⟨rfl, rfl, rfl⟩) h
    · exact ⟨fun hn => issue_moves_all h rfl (repeatBody_skips _ _ hn), fun hn hcheck => issue_moves_all h rfl (repeatBody_repeats _ hn hcheck)⟩
    · exact ⟨fun hn => issue_moves_all h rfl (repeatBody_skips _ _ hn), fun hn hcheck => issue_moves_all h rfl (repeatBody_repeats _ hn hcheck)⟩
  case advance =>
    refine fun x r hrep _ => ⟨fun hlast => ?last, fun hmore => ?earlier⟩
    case last =>
      rw [Lane.advance_last hrep hlast]
      exact ⟨rfl, rfl⟩
    case earlier =>
      rw [Lane.advance_earlier hrep hmore]
      exact ⟨rfl, _, rfl, rfl, rfl, rfl, rfl, rfl, rfl⟩

end Sys2Proof.Machine
end

section
/-! PROOFS. Control, streams and engines (10_ref_control_streams_engines.md): the forward and back queues, `STREAM` commands and engine
commands. -/

namespace Sys2Proof.Machine

open Sys2Proof

/-! ### Pushes of the lead stream (10 R223) -/

/-- The push of the lead stream of one value or of a row, to one band or to all. -/
def pushfOf (f : RForm) (row all : Bool) : Instr := match row, all with
  | false, false => .pushf f
  | true, false => .pushfRow f
  | false, true => .pushfAll f
  | true, true => .pushfAllRow f

theorem exec_pushfOf (f : RForm) (row all : Bool) (s : State) :
    exec (pushfOf f row all) s = issue s (fun _ => viewPushf f row all) false false (pushfBody f row all) := by
  cases row <;> cases all <;> rfl

theorem pushfBody_pushes {f : RForm} {row all : Bool} {i : Iss} {m : LaneMask} (en : LaneMask) (s : State)
    (hm : m = if all then i.group.allBands else maskOf (· == (i.gReg f.b.idx.toNat).toNat % 32))
    (hband : all = false → (i.gReg f.b.idx.toNat).toNat % 32 < i.group.bands.length) (hroom : i.group.anyFull m = false) :
    pushfBody f row all i en s = .ok (s.modGroupOn i.core i.group.gid fun g =>
      g.pushRow m (if row then spGetList i.group.g f.a.idx.toNat 32 else List.replicate 32 (i.gReg f.a.idx.toNat))) := by
  have hbands : (!all && decide (i.group.bands.length ≤ (i.gReg f.b.idx.toNat).toNat % 32)) = false := by
    cases all with
    | true => rfl
    | false => simpa using hband
  simp only [pushfBody, ← hm, hbands, hroom, Bool.false_eq_true, if_false]

theorem exec_pushf {s : State} {i : Iss} {f : RForm} {row all : Bool} {m : LaneMask} (h : Ready s i (viewPushf f row all))
    (hm : m = if all then i.group.allBands else maskOf (· == (i.gReg f.b.idx.toNat).toNat % 32))
    (hband : all = false → (i.gReg f.b.idx.toNat).toNat % 32 < i.group.bands.length) (hroom : i.group.anyFull m = false) :
    exec (pushfOf f row all) s = .next (((s.begun i (viewPushf f row all)).modGroupOn i.core i.group.gid fun g =>
        g.pushRow m (if row then spGetList i.group.g f.a.idx.toNat 32 else List.replicate 32 (i.gReg f.a.idx.toNat))).advance i i.active) := by
  rw [exec_pushfOf]
  exact issue_advances (vf := fun _ => viewPushf f row all) h (pushfBody_pushes _ _ hm hband hroom)

/-! ### `POPF` (10 R223, 07 R138) -/

theorem exec_popf {s t : State} {i : Iss} {f : RForm} {row : List Dword} {rest : List (List Dword)} (h : Ready s i (viewPopf f))
    (hfq : i.bandOf.fq = row :: rest)
    (hwrite : foldE (fun u l => wrT u i l f.ty f.d (row.getD l 0).toNat)
      ((s.begun i (viewPopf f)).modGroupOn i.core i.group.gid fun g => g.modBand i.band fun b => { b with fq := rest })
      (i.lanes (i.en (viewPopf f))) = .ok t) :
    exec (.popf f) s = .next (t.advance i i.active) := by
  refine issue_advances (vf := fun _ => viewPopf f) h ?_
  simp only [hfq]
  rw [perLane_ok (vals := fun l => (row.getD l 0).toNat) _ fun _ _ => rfl]
  exact foldLanes_ok hwrite

/-- Where the checks pass, no field fails them. -/
theorem View.usesFail_of_check {v : View} {i : Iss} (h : v.check i = none) :
    usesFail i (if 0x60 ≤ v.op && v.op ≤ 0x64 then i.enabled v.g else i.active) v.uses = none := by
  cases hfail : usesFail i (if 0x60 ≤ v.op && v.op ≤ 0x64 then i.enabled v.g else i.active) v.uses with
  | none => rfl
  | some l =>
    simp only [View.check, hfail] at h
    repeat' split at h
    all_goals cases h

/-- A destination of the lane stream is no g register (03 R55, 07 R139). -/
theorem viewPopf_lane {f : RForm} {i : Iss} (h : (viewPopf f).check i = none) : f.d.bank = false := by
  have hlead : i.lead = false := View.not_lead h rfl
  have hpasses := View.usesFail_of_check h
  have hscope : (decide (0x60 ≤ (viewPopf f).op) && decide ((viewPopf f).op ≤ 0x64)) = false := rfl
  rw [hscope] at hpasses
  have hdst : (Use.dstT f.ty f.d).fails i i.active = none := List.findSome?_eq_none_iff.mp hpasses _ List.mem_cons_self
  cases hbank : f.d.bank with
  | false => rfl
  | true =>
    cases hwide : tyWide f.ty <;> simp [Use.dstT, Use.dpair, Use.dst, Use.fails, hwide, hlead, hbank] at hdst

/-- `POPF` with no lane enabled takes its row off, where no drain of the band is at the matrix engine (entry 34, 11 R243). -/
theorem exec_popf_none {s : State} {i : Iss} {f : RForm} {row : List Dword} {rest : List (List Dword)} (h : Issuing s i)
    (hcheck : (viewPopf f).check i = none) (hen : i.en (viewPopf f) = 0) (hguard : (viewPopf f).guardUse.busy i i.active = false)
    (hdrain : (s.core i.core).draining i.group.gid i.band = false) (hfq : i.bandOf.fq = row :: rest) :
    exec (.popf f) s = .next (((s.begun i (viewPopf f)).modGroupOn i.core i.group.gid fun g =>
      g.modBand i.band fun b => { b with fq := rest }).advance i i.active) := by
  have hlead : i.lead = false := View.not_lead hcheck rfl
  have hactive : (i.active == 0) = false := by simpa using h.active
  have hen' : i.enabled (viewPopf f).g = 0#32 := hen
  have hbarred : i.txnBarred 0#32 (viewPopf f).op = 0#32 := by simp [Iss.txnBarred]
  have hidle : ((viewPopf f).uses.any fun u => u.busy i 0#32) = false := by
    cases hwide : tyWide f.ty <;>
      simp [viewPopf, viewR, Use.dstT, Use.dpair, Use.dst, Use.busy, Use.inFlight, hlead, hwide, viewPopf_lane hcheck]
  have hlanes : i.lanes 0#32 = [] := by simp [Iss.lanes, hlead]
  change execPopf f s = _
  rw [execPopf, h.issue_eq, issueWith, issueCore, State.begun, hen]
  simp only [hcheck, hen', hbarred, abortLanes_zero, mask_not_zero, hactive, hguard, hidle, hdrain, hfq, Bool.and_false, Bool.or_self,
    Bool.not_true, Bool.false_eq_true, if_false]
  rw [perLane_ok (vals := fun l => (row.getD l 0).toNat) _ fun _ _ => rfl, hlanes]
  rfl

/-! ### The back queue (10 R223, 01 R18) -/

theorem exec_pushb {s : State} {i : Iss} {f : RForm} {x : Nat → Nat} (h : Ready s i (viewPushb f))
    (hread : ∀ l ∈ lanesOf (i.en (viewPushb f)), rdT (s.begun i (viewPushb f)) i l f.ty f.a = .ok (x l))
    (hroom : i.group.bq.length + (lanesOf (i.en (viewPushb f))).length ≤ 64) :
    exec (.pushb f) s = .next (((s.begun i (viewPushb f)).modGroupOn i.core i.group.gid fun g =>
      { g with bq := g.bq ++ (lanesOf (i.en (viewPushb f))).map fun l => (BitVec.ofNat 64 (x l), i.band, l) }).advance i i.active) := by
  refine issue_advances (vf := fun _ => viewPushb f) h ?_
  rw [mapLanes_ok (g := fun l => (BitVec.ofNat 64 (x l), i.band, l)) fun l hl => by rw [hread l hl]; rfl]
  simp only [List.length_map, bqCap, Nat.not_lt.mpr hroom, if_false]

theorem exec_popb {s : State} {i : Iss} {f : RForm} {v : Dword} {b l : Nat} {rest : List (Dword × Nat × Nat)} (h : Ready s i (viewPopb f))
    (hbq : i.group.bq = (v, b, l) :: rest) :
    exec (.popb f) s = .next (((((s.begun i (viewPopb f)).modGroupOn i.core i.group.gid fun g => { g with bq := rest }).putG i f.d.idx.toNat v).putG
      i (f.d.idx.toNat + 1) (BitVec.ofNat 64 (32 * b + l))).advance i i.active) := by
  refine issue_advances (vf := fun _ => viewPopb f) h ?_
  simp only [hbq]

/-! ### `POPF` behind a drain (11 R243) -/

/-- `POPF.b32 v4` under k1. -/
def popfK1 : RForm :=
  { ty := .b32, g := ⟨false, 1⟩, d := ⟨false, false, 4⟩, a := ⟨false, false, 0⟩, b := ⟨false, false, 0⟩, c := ⟨false, false, 0⟩, low := 0,
    rnd := 0, sat := false, ftz := false, negA := false, negB := false, negC := false, hi := 0 }

/-- A row is in the queue of a band one of whose drains is at the matrix engine, and k1 of its issuing lane is zero. -/
def popBehindDrain : State := (lane0IssuesIn fun g => { g with bands := g.bands.map fun b => { b with fq := [[1]] } }).modCore 0 fun c =>
  { c with mqueue := [.drain 1 0 0 0 0 0 0 0 [] []] }

/-- The rows in the forward queue of band 0 of the running group. -/
def State.band0Rows (s : State) : Option (List (List Dword)) := (s.find? 1).map fun e => (e.2.bands.getD 0 Band.absent).fq

/-- The row stays in the queue, where the statement takes it off. -/
theorem popBehindDrain_waits : ∃ i ∈ popBehindDrain.iss?, i.doomed = 0 ∧ i.active ≠ 0 ∧ (viewPopf popfK1).check i = none ∧
    i.en (viewPopf popfK1) = 0 ∧ (viewPopf popfK1).guardUse.busy i i.active = false ∧ i.bandOf.fq = [[1]] ∧
    (next? (exec (.popf popfK1) popBehindDrain)).map State.band0Rows = some (some [[1]]) ∧
    (((popBehindDrain.begun i (viewPopf popfK1)).modGroupOn i.core i.group.gid fun g =>
      g.modBand i.band fun b => { b with fq := [] }).advance i i.active).band0Rows = some [] := by
  decide +kernel

/-- Refutes O27: the clause of a `POPF` whose guard enables no lane leaves out the drains of its band, behind which the unit waits before
any instruction but those of registers and of the matrix engine (11 R243). With one row queued, a drain of the band at the engine and k1
zero, `POPF.b32 v4` under k1 waits and the row stays. Where no drain is at the engine that clause stands (`exec_popf_none`), and so do
the others (`exec_pushf`, `exec_popf`, `exec_pushb`, `exec_popb`). -/
theorem not_forwardAndBackQueues : ¬ Obligations.ForwardAndBackQueues := by
  unfold Obligations.ForwardAndBackQueues
  rintro ⟨_, ⟨_, hpop⟩, _⟩
  obtain ⟨i, hi, hundoomed, hactive, hcheck, hen, hguard, hfq, hexec, hstated⟩ := popBehindDrain_waits
  rw [hpop popBehindDrain i popfK1 [1] [] hi hundoomed hactive hcheck hen hguard hfq, next?, Option.map_some, hstated] at hexec
  exact absurd hexec (by decide)

/-! ### `STREAM` commands (10 R224) -/

theorem exec_streamCfg {s : State} {i : Iss} {f : RForm} {x : Stream} (h : Ready s i (viewStream f true))
    (hx : x = streamOf (i.gReg f.a.idx.toNat) (i.gReg (f.a.idx.toNat + 1)) (i.gReg (f.a.idx.toNat + 2)) (i.gReg (f.a.idx.toNat + 3))
      (i.gReg (f.a.idx.toNat + 4)))
    (h0 : x.n0 ≠ 0) (h1 : x.n1 ≠ 0) (h2 : x.n2 ≠ 0) (h3 : x.n3 ≠ 0) (hhigh : bitsOf (i.gReg (f.a.idx.toNat + 4)).toNat 63 16 = 0)
    (hlow : bitsOf (i.gReg (f.a.idx.toNat + 4)).toNat 5 0 = 0) (hband : x.all = false → x.band < i.group.bands.length)
    (hidle : (i.group.stream f.c.idx.toNat).running = false) :
    exec (.streamCfg f) s = .next (((s.begun i (viewStream f true)).modGroupOn i.core i.group.gid fun g =>
      g.modStream f.c.idx.toNat fun _ => x).advance i i.active) := by
  refine issue_advances (vf := fun _ => viewStream f true) h ?_
  have hbands : (!x.all && decide (i.group.bands.length ≤ x.band)) = false := by
    cases hall : x.all with
    | true => rfl
    | false => simpa using hband hall
  simp only [Nat.add_zero, ← hx, beq_eq_false_iff_ne.mpr h0, beq_eq_false_iff_ne.mpr h1, beq_eq_false_iff_ne.mpr h2,
    beq_eq_false_iff_ne.mpr h3, hhigh, hlow, hbands, hidle, bne_self_eq_false, Bool.or_self, Bool.false_eq_true, if_false]

theorem exec_streamGo {s : State} {i : Iss} {f : RForm} (h : Ready s i (viewStream f false))
    (hset : (i.group.stream f.c.idx.toNat).configured = true) (hidle : (i.group.stream f.c.idx.toNat).running = false) :
    exec (.streamGo f) s = .next (((s.begun i (viewStream f false)).modGroupOn i.core i.group.gid fun g =>
      g.modStream f.c.idx.toNat fun y => { y with running := true, pos := 0, row := [], goPc := i.pc, status := .running }).advance i i.active) := by
  refine issue_advances (vf := fun _ => viewStream f false) h ?_
  simp only [hset, hidle, Bool.not_true, Bool.false_eq_true, if_false]

/-! ### Engine commands (10 R226 to R232) -/

/-- Lanes that can read their operands issue their commands one after another, where there is room for all. -/
theorem engBody_issues {f : EForm} {hasB : Bool} {kind : Dword → Word → CmdKind} {i : Iss} {en : LaneMask} {s : State} {a : Nat → Dword}
    {b : Nat → Word} (hread : ∀ l ∈ i.lanes en, rd2 s i l f.a = .ok (a l) ∧ (if hasB then rd1 s i l f.b = .ok (b l) else b l = 0))
    (hroom : s.inFlight i.core + (i.lanes en).length ≤ 64) :
    engBody f hasB kind i en s =
      .ok ((i.lanes en).foldl (fun t l => t.issueCmd i l (if f.reply then some f.d else none) 1 (kind (a l) (b l))) s) := by
  rw [engBody, mapLanes_ok (g := fun l => (l, a l, b l)) fun l hl => ?read]
  case read =>
    obtain ⟨ha, hb⟩ := hread l hl
    rw [ha]
    cases hasB with
    | true =>
      simp only [if_true] at hb ⊢
      rw [hb]
      rfl
    | false =>
      simp only [Bool.false_eq_true, if_false] at hb ⊢
      rw [hb]
  simp only [List.length_map, gt_iff_lt, Nat.not_lt.mpr hroom, if_false, List.foldl_map]

/-- Every engine instruction issues with its view and the one body of its shape. -/
theorem exec_engOp {s : State} {ins : Instr} {o : EngOp} (ho : engOp ins = some o) :
    exec ins s = issue s (fun _ => o.view) false false (engBody o.f o.hasB o.kind) := by
  cases ins
  case engCopy | engFill | engGsubmit | engGsignal | engGwatch | engDappend | engDdrain =>
    cases ho
    rfl
  all_goals cases ho

theorem exec_collOp {s : State} {ins : Instr} {efn : Nat} {f : EForm} (ho : collOp ins = some (efn, f)) :
    exec ins s = issue s (fun _ => viewColl f) false false (collBody efn f) := by
  cases ins
  case engAllreduce | engAllgather | engBcast =>
    cases ho
    rfl
  all_goals cases ho

theorem exec_engine {s : State} {i : Iss} {ins : Instr} {o : EngOp} {a : Nat → Dword} {b : Nat → Word} (ho : engOp ins = some o)
    (h : Ready s i o.view)
    (hread : ∀ l ∈ i.lanes (i.en o.view), rd2 (s.begun i o.view) i l o.f.a = .ok (a l) ∧
      (if o.hasB then rd1 (s.begun i o.view) i l o.f.b = .ok (b l) else b l = 0))
    (hroom : (s.begun i o.view).inFlight i.core + (i.lanes (i.en o.view)).length ≤ 64) :
    exec ins s = .next (((i.lanes (i.en o.view)).foldl
      (fun t l => t.issueCmd i l (if o.f.reply then some o.f.d else none) 1 (o.kind (a l) (b l)))
      (s.begun i o.view)).advance i i.active) := by
  rw [exec_engOp ho]
  exact issue_advances (vf := fun _ => o.view) h (engBody_issues hread hroom)

/-- A collective always replies (10 R232). -/
theorem viewColl_replies {f : EForm} {i : Iss} (h : (viewColl f).check i = none) : f.reply = true := by
  have hbad := View.not_bad h
  simp only [viewColl, Bool.or_eq_false_iff] at hbad
  obtain ⟨_, hreply⟩ := hbad
  simpa using hreply

/-- A collective of one lane, or of the lead stream, takes the next number of its group and is one engine command (10 R232). -/
theorem exec_collective {s : State} {i : Iss} {ins : Instr} {efn : Nat} {f : EForm} {l : Nat} {a : Dword} (ho : collOp ins = some (efn, f))
    (h : Ready s i (viewColl f)) (hone : i.lanes (i.en (viewColl f)) = [l]) :
    (let t := (s.begun i (viewColl f)).modGroupOn i.core i.group.gid fun g => { g with collectives := i.group.collectives + 1 }
     rd2 t i l f.a = .ok a → t.inFlight i.core + 1 ≤ 64 →
     exec ins s = .next ((t.issueCmd i l (some f.d) 1 (.start 0xB3 efn a (BitVec.ofNat 32 (i.group.collectives + 1)))).advance i i.active)) := by
  intro t hread hroom
  rw [exec_collOp ho]
  refine issue_advances (vf := fun _ => viewColl f) h ?_
  have honly : (!i.lead && (lanesOf (i.en (viewColl f))).length != 1) = false := by
    cases hlead : i.lead with
    | true => rfl
    | false =>
      rw [Iss.lanes_of_lane hlead] at hone
      simp [hone]
  simp only [collBody, honly, Bool.false_eq_true, if_false]
  rw [engBody_issues (a := fun _ => a) (b := fun _ => 0) (fun m hm => ?read) (by rw [hone]; exact hroom)]
  case read =>
    rw [hone, List.mem_singleton] at hm
    exact ⟨hm ▸ hread, rfl⟩
  rw [hone, viewColl_replies (check_of_ready h)]
  rfl

/-- Settles O28: a stream that passes its checks is set or started, and every engine instruction is one body of its operands. -/
theorem streamAndEngineCommands : Obligations.StreamAndEngineCommands :=
  ⟨⟨fun _ _ _ _ => exec_streamCfg, fun _ _ _ => exec_streamGo⟩, fun _ _ _ _ _ _ => exec_engine, fun _ _ _ _ _ _ _ => exec_collective⟩

end Sys2Proof.Machine
end

section
/-! PROOFS. Control, streams and engines (10_ref_control_streams_engines.md): the steps of streams, barriers, `WAITF`, broken transactions
and the commit token. -/

namespace Sys2Proof.Machine

open Sys2Proof

/-! ### `STREAM_PUSH` (10 R225) -/

section Push

variable {s s1 : State} {core rgs stream : Nat} {g : Group} {i : Iss} {y : Stream} (hgroup : s.groupAt? core rgs = some g)
  (hrun : (g.stream stream).running = true) (hstatus : (g.stream stream).status = .running) (hphase : g.phase = .running)
  (hroom : g.anyFull ((g.stream stream).targets g) = false) (hiss : s.issOf core g.gid (.stream stream) = some i)

include hgroup hrun hstatus hphase hroom hiss

/-- A stream that has formed a row, or the elements left to it, pushes them, filled up with zeros. -/
theorem exec_streamPush_row (hfill : streamFill i 32 s (g.stream stream) = (s1, y, none)) :
    exec (.streamPush core rgs stream) s = .next (s1.modGroupOn core g.gid fun h =>
      (if y.row.isEmpty then h else h.pushRow ((g.stream stream).targets g) (y.row ++ List.replicate (32 - y.row.length) 0)).modStream stream
        fun _ => { y with row := [], running := decide (y.pos < y.total) }) := by
  change execStreamPush core rgs stream s = _
  simp [execStreamPush, hgroup, hrun, hstatus, hphase, hroom, hiss, hfill]

/-- A stream traps at an element that fails. -/
theorem exec_streamPush_trap {t : Trap} (hfill : streamFill i 32 s (g.stream stream) = (s1, y, some t)) :
    exec (.streamPush core rgs stream) s = .next ((s1.modGroupOn core g.gid fun h => h.modStream stream fun _ => y).takeTrap i 0
      { t with addr := y.position, lane := 255, field := 0, detail := BitVec.ofNat 16 stream }) := by
  change execStreamPush core rgs stream s = _
  simp [execStreamPush, hgroup, hrun, hstatus, hphase, hroom, hiss, hfill]

end Push

/-! ### `BARRIER_COMPLETE` (09 R204, R205) -/

theorem exec_barrierComplete {s : State} {core rgs : Nat} {cluster : Bool} {g : Group} {gs : List (Nat × Group)}
    (hgroup : s.groupAt? core rgs = some g) (hgroups : s.barrierGroups core g cluster = some gs) :
    (let k := (if cluster then g.barClu else g.barGrp) + 1
     (∃ e ∈ gs, e.2.waitsAt cluster k = true) → (∀ e ∈ gs, e.2.arrivedAll cluster k = true) →
     exec (.barrierComplete core rgs cluster) s =
       .next (gs.foldl (fun (t : State) e => t.modGroupOn e.1 e.2.gid fun h => h.passBarrier cluster k)
         (if cluster then s.acquireOn ((gs.map (·.1)).dedup) 1 else s))) := by
  intro k hwaits harrived
  change execBarrierComplete core rgs cluster s = _
  have hany : (gs.any fun e => e.2.waitsAt cluster k) = true := List.any_eq_true.mpr hwaits
  have hall : (gs.all fun e => e.2.arrivedAll cluster k) = true := List.all_eq_true.mpr harrived
  simp only [execBarrierComplete, hgroup, hgroups]
  rw [if_pos (by rw [hany, hall]; rfl)]

/-! ### `WAITF_SATISFY` (09 R203, 06 R120) -/

section Waits

variable {s : State} {u : UnitRef} {lane : Nat} {g : Group} {i : Iss} {c : WCond} {wide : Bool} {ea cmp : Dword} {m : LaneMask} {d : Spec}
  {acq : Bool} {scope : Nat} {p : Place} (hunit : s.unit? u = some (g, i)) (hwait : waitOf i lane = .waitf c wide ea cmp m d acq scope none)
  (hplace : waitCheck s i ea (if wide then 8 else 4) = .ok p) (hclean : s.placePoison i.sess p (if wide then 8 else 4) = false)

include hunit hwait hplace hclean

theorem exec_waitfSatisfy_unmet
    (hunmet : condMet c (leNat (s.bytesAt i.sess i.group.gid p (if wide then 8 else 4))) cmp.toNat = false) :
    exec (.waitfSatisfy u lane) s = .next s := by
  change execWaitfSatisfy u lane s = _
  simp only [execWaitfSatisfy, hunit, hwait, hplace, hclean, hunmet, Bool.not_false, Bool.false_eq_true, if_false, if_true]

theorem exec_waitfSatisfy_met {h : Group} {j : Iss}
    (hmet : condMet c (leNat (s.bytesAt i.sess i.group.gid p (if wide then 8 else 4))) cmp.toNat = true) :
    (let s1 := setMet ((if p.fences acq then s.acquire i.core (p.scope scope) else s).sign i.group.gid p true false) i lane
       (BitVec.ofNat 64 (leNat (s.bytesAt i.sess i.group.gid p (if wide then 8 else 4))))
     s1.unit? u = some (h, j) → exec (.waitfSatisfy u lane) s = .next (finishWaitf s1 j (heldWith i lane))) := by
  intro s1 hafter
  change execWaitfSatisfy u lane s = _
  simp only [execWaitfSatisfy, hunit, hwait, hplace, hclean, hmet, Bool.not_true, Bool.false_eq_true, if_false]
  rw [hafter]

end Waits

/-! ### `TRANSACTION_CONFLICT` and `COMMIT_TOKEN_GRANT` (09 R212, R213) -/

theorem exec_transactionConflict {s : State} {core rgs band lane : Nat} {g : Group} {i : Iss} (hgroup : s.groupAt? core rgs = some g)
    (hiss : s.issOf core g.gid (.lanes band (maskOf (· == lane))) = some i) (hopen : (g.lane band lane).txn.active = true)
    (hbroken : (g.lane band lane).txn.doomed = true) :
    exec (.transactionConflict core rgs band lane) s = .next (s.abortLane i lane 1 0) := by
  change execTransactionConflict core rgs band lane s = _
  simp only [execTransactionConflict, hgroup, hiss, hopen, hbroken, Bool.and_self, if_true]

theorem exec_commitTokenGrant {s : State} {session : Nat} {x : Session} {r : LaneRef} {rs : List LaneRef} (hsession : s.session? session = some x)
    (hfree : x.tokenHolder = none) (hqueue : x.tokenQueue = r :: rs) (hwants : s.wantsToken r = true) :
    exec (.commitTokenGrant session) s =
      .next (((s.modSession session fun y => { y with tokenHolder := some r, tokenQueue := rs }).acquireFor? r.gid 3).modLane r.gid r.band r.lane
        fun y => ({ y with wait := .none }.openTxn true y.txn.target).advance) := by
  change execCommitTokenGrant session s = _
  simp only [execCommitTokenGrant, hsession, hfree, hqueue, hwants, Option.isSome_none, Bool.false_eq_true, if_false, if_true]

/-- Settles O41: each step under its condition has the effect that its own rule gives. -/
theorem streamsBarriersWaits : Obligations.StreamsBarriersWaits := by
  refine ⟨?push, fun _ _ _ _ _ _ => exec_barrierComplete, ?waits, fun _ _ _ _ _ _ _ => exec_transactionConflict,
    fun _ _ _ _ _ => exec_commitTokenGrant⟩
  case push =>
    intro s s1 core rgs stream g i y e hgroup x hrun hstatus hphase hroom hiss hfill
    cases e with
    | none => exact exec_streamPush_row hgroup hrun hstatus hphase hroom hiss hfill
    | some t => exact exec_streamPush_trap hgroup hrun hstatus hphase hroom hiss hfill
  case waits =>
    intro s u lane g i c wide ea cmp m d acq scope p hunit hwait n v hplace hclean
    exact ⟨exec_waitfSatisfy_unmet hunit hwait hplace hclean, fun h j => exec_waitfSatisfy_met hunit hwait hplace hclean⟩

end Sys2Proof.Machine
end

section
/-! PROOFS. Matrix, reservoirs and compositing (11_ref_matrix_reservoir_compositing.md): the matrix instructions and the tensor table. -/

namespace Sys2Proof.Machine

open Sys2Proof

/-! ### A whole band at a matrix or tensor-table instruction (11 R233) -/

theorem Iss.whole.wholeBand_ok {i : Iss} (h : i.whole) : wholeBand i = .ok () := by
  obtain ⟨hfrags, hactive⟩ := h
  simp [wholeBand, hfrags, hactive]

theorem matBody_whole {i : Iss} (h : i.whole) (body : Body) (en : LaneMask) (s : State) : matBody body i en s = body i en s := by
  simp only [matBody, h.wholeBand_ok]

/-- A whole band moves on from a matrix or tensor-table instruction, its body going through. -/
theorem matIssue_advances {s t : State} {i : Iss} {v : View} {body : Body} (h : Ready s i v) (hwhole : i.whole)
    (hbody : body i (i.en v) (s.begun i v) = .ok t) :
    issue s (fun _ => v) false false (matBody body) = .next (t.advance i i.active) :=
  issue_advances (vf := fun _ => v) h ((matBody_whole hwhole _ _ _).trans hbody)

/-- The same where the body moves the band's lanes itself. -/
theorem matIssue_moves {s t : State} {i : Iss} {v : View} {body : Body} (h : Ready s i v) (hwhole : i.whole)
    (hbody : body i (i.en v) (s.begun i v) = .ok t) :
    issue s (fun _ => v) true false (matBody body) = .next (t.others i (i.en v)) :=
  issue_moves (vf := fun _ => v) h ((matBody_whole hwhole _ _ _).trans hbody)

/-- With room in the engine's queue an instruction reaches it (13 R287). -/
theorem reach_queued {i : Iss} {s : State} (o : MatOp) (opn : Option (Nat × Bool)) (hroom : (s.core i.core).mqueue.length < 8) :
    reach i o opn s = .ok (s.queued i o opn) := by
  rw [reach, if_neg (Nat.not_le.mpr hroom)]
  rfl

/-! ### `MZERO`, `MCOMMIT` and `MDISCARD` (11 R240 to R242) -/

theorem exec_mzero {s : State} {i : Iss} {f : TForm} {src dst : Nat} {w : Bool} (h : Ready s i (viewMzero f)) (hwhole : i.whole)
    (hsel : selectTile i f.tile.toNat f.shd = .ok (src, dst, w)) (hroom : ((s.begun i (viewMzero f)).core i.core).mqueue.length < 8) :
    exec (.mzero f) s = .next (((s.begun i (viewMzero f)).queued i (.zero i.group.gid dst)
      (if w then some (f.tile.toNat, true) else none)).advance i i.active) := by
  refine matIssue_advances h hwhole ?_
  simp only [hsel]
  exact reach_queued _ _ hroom

section Resolve

variable {f : TForm} {i : Iss} (htile : f.tile.toNat < 16) (hacc : f.tile.toNat + 16 < i.launch.desc.acc)

include htile hacc

/-- A tile whose twin is open: the twin is copied first where it is committed, and closed. -/
theorem resolveBody_open (commit : Bool) (en : LaneMask) (s : State) (hopen : i.group.opens.getLsbD f.tile.toNat = true) :
    resolveBody f commit i en s = reach i (if commit then .copy i.group.gid (f.tile.toNat + 16) f.tile.toNat else .none i.group.gid)
      (some (f.tile.toNat, false)) s := by
  simp only [resolveBody, Nat.not_le.mpr htile, Nat.not_le.mpr hacc, hopen, decide_false, Bool.or_self, Bool.false_eq_true, if_false,
    if_true]

/-- A tile whose twin is not open: nothing to do, in either case. -/
theorem resolveBody_closed (commit : Bool) (en : LaneMask) (s : State) (hclosed : i.group.opens.getLsbD f.tile.toNat = false) :
    resolveBody f commit i en s = reach i (.none i.group.gid) none s := by
  simp only [resolveBody, Nat.not_le.mpr htile, Nat.not_le.mpr hacc, hclosed, decide_false, Bool.or_self, Bool.false_eq_true, if_false]

end Resolve

/-! ### `MMA` (11 R238, R239) -/

/-- What `MMA` asks of its operands: the entry `e` of its A, its slot, its offsets, its tiles `sdw` and the rows it reads. -/
structure MmaPasses (i : Iss) (f : TForm) (e : Nat) (sdw : Nat × Nat × Bool) : Prop where
  entry : tensor i f.tidA.toNat = .ok e
  format : teFmt e ≠ 12
  slot : f.wslot.toNat < i.launch.desc.slots
  kind : (slotAt i f.wslot.toNat).hasRecord = true → tfInt (teFmt e) = tfInt (slotAt i f.wslot.toNat).fmt.toNat
  pair : (slotAt i f.wslot.toNat).hasRecord = true → tfWide (slotAt i f.wslot.toNat).fmt.toNat = true → f.wslot.toNat % 2 = 0
  rowOff : bitsOf (i.gReg f.crd.idx.toNat).toNat 17 0 % 16 = 0
  scaleOff : bitsOf (i.gReg f.crd.idx.toNat).toNat 49 32 % 2 = 0
  unscaled : tfSpan (teFmt e) = 0 → bitsOf (i.gReg f.crd.idx.toNat).toNat 49 32 = 0
  low : bitsOf (i.gReg f.crd.idx.toNat).toNat 31 18 = 0
  high : bitsOf (i.gReg f.crd.idx.toNat).toNat 63 50 = 0
  tiles : selectTile i f.tile.toNat f.shd = .ok sdw

/-- The length of a row's scale records. -/
def mmaScaleLen (e : Nat) : Nat := if tfSpan (teFmt e) != 0 then tfRec (teFmt e) * (128 / tfSpan (teFmt e)) else 0

theorem mmaScaleLen_eq (e : Nat) : mmaScaleLen e = if tfSpan (teFmt e) = 0 then 0 else tfRec (teFmt e) * (128 / tfSpan (teFmt e)) := by
  simp only [mmaScaleLen, bne_iff_ne, ne_eq, ite_not]

/-- The scratchpad offset of row `r` of A, and of its scale records. -/
def mmaRowAt (i : Iss) (f : TForm) (e r : Nat) : Nat := bitsOf (i.gReg f.crd.idx.toNat).toNat 17 0 + teStride e 1 * r
def mmaScaleAt (i : Iss) (f : TForm) (e r : Nat) : Nat := bitsOf (i.gReg f.crd.idx.toNat).toNat 49 32 + teSstride e * r

/-- The rows of A and their scale records lie below the scratchpad allotment. -/
def MmaRowsFit (i : Iss) (f : TForm) (e : Nat) : Prop :=
  ∀ r < 32, mmaRowAt i f e r + 128 * tfWidth (teFmt e) / 8 ≤ i.group.scratchBytes ∧
    (0 < mmaScaleLen e → mmaScaleAt i f e r + mmaScaleLen e ≤ i.group.scratchBytes)

/-- `MMA` as the engine takes it. -/
def mmaOp (i : Iss) (f : TForm) (e src dst : Nat) : MatOp :=
  .mma i.group.gid (BitVec.ofNat 5 (teFmt e))
    ((List.range 32).map fun r => spGetList i.group.scratch (mmaRowAt i f e r) (128 * tfWidth (teFmt e) / 8))
    ((List.range 32).map fun r => spGetList i.group.scratch (mmaScaleAt i f e r) (mmaScaleLen e)) src dst f.wslot.toNat

/-- `MMA` past its checks, its slot not being loaded: a slot to read again is reloaded, and any other's product is queued. -/
def mmaAct (f : TForm) (e : Nat) (sdw : Nat × Nat × Bool) (i : Iss) (en : LaneMask) (s : State) : Except Halt State :=
  if (slotAt i f.wslot.toNat).hasRecord && !(slotAt i f.wslot.toNat).valid then
    .ok ((s.joinPort i f.wslot.toNat true).modLanes i en fun _ y => { y with wait := .reload f.wslot.toNat })
  else (reach i (mmaOp i f e sdw.1 sdw.2.1) (if sdw.2.2 then some (f.tile.toNat, true) else none) s).map fun t => t.advance i en

/-- The rows past the allotment, of which the lowest traps, are none. -/
theorem MmaRowsFit.none_past {i : Iss} {f : TForm} {e : Nat} (h : MmaRowsFit i f e) :
    ((List.range 32).flatMap fun r =>
      (if i.group.scratchBytes < mmaRowAt i f e r + 128 * tfWidth (teFmt e) / 8 then [mmaRowAt i f e r] else []) ++
        (if 0 < mmaScaleLen e && decide (i.group.scratchBytes < mmaScaleAt i f e r + mmaScaleLen e) then [mmaScaleAt i f e r] else [])) =
      [] := by
  rw [List.flatMap_eq_nil_iff]
  intro r hr
  obtain ⟨hrow, hscale⟩ := h r (List.mem_range.mp hr)
  rw [if_neg (Nat.not_lt.mpr hrow), if_neg]
  · rfl
  · simpa using hscale

theorem MmaPasses.not_illegal {i : Iss} {f : TForm} {e : Nat} {sdw : Nat × Nat × Bool} (h : MmaPasses i f e sdw) :
    (let k := f.wslot.toNat
     let x := slotAt i k
     let fm := teFmt e
     let c := (i.gReg f.crd.idx.toNat).toNat
     fm == 12 || (x.hasRecord && tfInt fm != tfInt x.fmt.toNat) || i.launch.desc.slots ≤ k ||
       (x.hasRecord && tfWide x.fmt.toNat && k % 2 == 1) || bitsOf c 17 0 % 16 != 0 || bitsOf c 49 32 % 2 != 0 ||
       (!(tfSpan fm != 0) && bitsOf c 49 32 != 0) || bitsOf c 31 18 != 0 || bitsOf c 63 50 != 0) = false := by
  obtain ⟨_, hformat, hslot, hkind, hpair, hrow, hscale, hunscaled, hlow, hhigh, _⟩ := h
  have hkind' : ((slotAt i f.wslot.toNat).hasRecord && tfInt (teFmt e) != tfInt (slotAt i f.wslot.toNat).fmt.toNat) = false := by
    simpa using hkind
  have hpair' : ((slotAt i f.wslot.toNat).hasRecord && tfWide (slotAt i f.wslot.toNat).fmt.toNat && f.wslot.toNat % 2 == 1) = false := by
    simpa using hpair
  have hunscaled' : (!(tfSpan (teFmt e) != 0) && bitsOf (i.gReg f.crd.idx.toNat).toNat 49 32 != 0) = false := by simpa using hunscaled
  simp only [beq_eq_false_iff_ne.mpr hformat, hkind', hpair', hunscaled', Nat.not_le.mpr hslot, hrow, hscale, hlow, hhigh, decide_false,
    bne_self_eq_false, Bool.or_self]

section Mma

variable {s : State} {i : Iss} {f : TForm} {e : Nat} {sdw : Nat × Nat × Bool} (h : Ready s i (viewMma f)) (hwhole : i.whole)
  (hpass : MmaPasses i f e sdw) (hrows : MmaRowsFit i f e) (hloaded : (slotAt i f.wslot.toNat).loading = false)
  (hport : ((s.begun i (viewMma f)).core i.core).portHolds i.group [f.wslot.toNat] = false)

include h hwhole hpass hrows hloaded hport

/-- `MMA` of a whole band whose operands pass and whose slot no load holds. -/
theorem exec_mma {t : State} (hact : mmaAct f e sdw i (i.en (viewMma f)) (s.begun i (viewMma f)) = .ok t) :
    exec (.mma f) s = .next (t.others i (i.en (viewMma f))) := by
  refine matIssue_moves h hwhole ?_
  have hpast := hrows.none_past
  unfold mmaRowAt mmaScaleAt mmaScaleLen at hpast
  simp only [hpass.entry, hpass.not_illegal, hpass.tiles, hpast, hloaded, hport, Bool.or_self, Bool.false_eq_true, if_false]
  exact hact

theorem exec_mma_queued (hvalid : (slotAt i f.wslot.toNat).hasRecord = true → (slotAt i f.wslot.toNat).valid = true)
    (hroom : ((s.begun i (viewMma f)).core i.core).mqueue.length < 8) :
    exec (.mma f) s = .next ((((s.begun i (viewMma f)).queued i (mmaOp i f e sdw.1 sdw.2.1)
      (if sdw.2.2 then some (f.tile.toNat, true) else none)).advance i (i.en (viewMma f))).others i (i.en (viewMma f))) := by
  refine exec_mma h hwhole hpass hrows hloaded hport ?_
  have hstale : ((slotAt i f.wslot.toNat).hasRecord && !(slotAt i f.wslot.toNat).valid) = false := by simpa using hvalid
  simp only [mmaAct, hstale, Bool.false_eq_true, if_false, reach_queued _ _ hroom]
  rfl

theorem exec_mma_reload (hrecord : (slotAt i f.wslot.toNat).hasRecord = true) (hstale : (slotAt i f.wslot.toNat).valid = false) :
    exec (.mma f) s = .next ((((s.begun i (viewMma f)).joinPort i f.wslot.toNat true).modLanes i (i.en (viewMma f)) fun _ y =>
      { y with wait := .reload f.wslot.toNat }).others i (i.en (viewMma f))) := by
  refine exec_mma h hwhole hpass hrows hloaded hport ?_
  simp only [mmaAct, hrecord, hstale, Bool.not_false, Bool.and_self, if_true]

end Mma

/-- Settles O29: each instruction passes its checks and reaches the engine, and `MMA` of a slot to read again reloads it. -/
theorem matrixQueues : Obligations.MatrixQueues := by
  refine ⟨?queues, ?mma, ?reload⟩
  case queues =>
    rintro s i f ins v o opn (⟨rfl, rfl, src, dst, w, hsel, rfl, rfl⟩ | ⟨rfl, rfl, htile, hacc, ho⟩ |
      ⟨rfl, rfl, htile, hacc, rfl, rfl⟩) h hwhole hroom
    · exact exec_mzero h hwhole hsel hroom
    · refine matIssue_advances h hwhole ?_
      split at ho <;> obtain ⟨rfl, rfl⟩ := ho
      · next hopen => exact (resolveBody_open htile hacc true _ _ hopen).trans (reach_queued _ _ hroom)
      · next hclosed => exact (resolveBody_closed htile hacc true _ _ (by simpa using hclosed)).trans (reach_queued _ _ hroom)
    · refine matIssue_advances h hwhole ?_
      split
      · next hopen => exact (resolveBody_open htile hacc false _ _ hopen).trans (reach_queued _ _ hroom)
      · next hclosed => exact (resolveBody_closed htile hacc false _ _ (by simpa using hclosed)).trans (reach_queued _ _ hroom)
  case mma =>
    rintro s i f o opn ⟨e, src, dst, w, hentry, hformat, hslot, hx, hloaded, hport, hrow, hscale, hunscaled, hlow, hhigh, htiles, hrows,
      rfl, rfl⟩ h hwhole hroom
    simp only [← mmaScaleLen_eq] at hrows ⊢
    simp only [imp_and] at hx
    obtain ⟨hkind, hpair, hvalid⟩ := hx
    exact exec_mma_queued (sdw := (src, dst, w)) h hwhole
      ⟨hentry, hformat, hslot, hkind, hpair, hrow, hscale, hunscaled, hlow, hhigh, htiles⟩ hrows hloaded hport hvalid hroom
  case reload =>
    rintro s i f e sdw ⟨hentry, hformat, hslot, hrecord, hstale, hkind, hpair, hloaded, hport, hrow, hscale, hunscaled, hlow, hhigh,
      htiles, hrows⟩ h hwhole
    simp only [← mmaScaleLen_eq] at hrows
    exact exec_mma_reload h hwhole
      ⟨hentry, hformat, hslot, fun _ => hkind, fun _ => hpair, hrow, hscale, hunscaled, hlow, hhigh, htiles⟩ hrows hloaded hport hrecord
      hstale

end Sys2Proof.Machine
end

section
/-! PROOFS. Matrix, reservoirs and compositing (11_ref_matrix_reservoir_compositing.md): loads, drains and the tensor table. -/

namespace Sys2Proof.Machine

open Sys2Proof

/-! ### `MLOADB` (11 R236) -/

theorem exec_mloadb {s : State} {i : Iss} {f : TForm} {e : Nat} {c : Nat × Nat × Nat × Nat} {d : SlotData} (h : Ready s i (viewMloadb f))
    (hwhole : i.whole) (hentry : tensor i f.tidB.toNat = .ok e) (hc : coords i f.crd.idx.toNat = c) (hformat : teFmt e ≠ 12)
    (hslot : f.wslot.toNat < i.launch.desc.slots)
    (hpair : tfWide (teFmt e) = true → f.wslot.toNat % 2 = 0 ∧ f.wslot.toNat + 1 < i.launch.desc.slots)
    (hspan : tfSpan (teFmt e) ≠ 0 → c.1 % tfSpan (teFmt e) = 0) (h2 : c.2.2.1 < teSize e 2) (h3 : c.2.2.2 < teSize e 3)
    (hfree : ((s.begun i (viewMloadb f)).core i.core).slotsFree i.group (slotsChanged i.group (teFmt e) f.wslot.toNat) = true)
    (hdata : slotData (s.begun i (viewMloadb f)) i e c.1 c.2.1 c.2.2.1 c.2.2.2 = .ok d) :
    exec (.mloadb f) s = .next ((((s.begun i (viewMloadb f)).fillLoad i f.wslot.toNat e c.1 c.2.1 c.2.2.1 c.2.2.2 d).joinPort i
      f.wslot.toNat false).advance i i.active) := by
  refine matIssue_advances h hwhole ?_
  obtain ⟨i0, i1, i2, i3⟩ := c
  have hpair' : (tfWide (teFmt e) && (f.wslot.toNat % 2 == 1 || decide (i.launch.desc.slots ≤ f.wslot.toNat + 1))) = false := by
    simpa using hpair
  have hspan' : (tfSpan (teFmt e) != 0 && i0 % tfSpan (teFmt e) != 0) = false := by simpa using hspan
  simp only [hentry, hc, beq_eq_false_iff_ne.mpr hformat, Nat.not_le.mpr hslot, hpair', hspan', Nat.not_le.mpr h2, Nat.not_le.mpr h3, hfree,
    hdata, decide_false, Bool.or_self, Bool.not_true, Bool.false_eq_true, if_false]

/-! ### `MDRAIN` (11 R243, R244) -/

/-- The entry that gives a drain's scales: A's own where its format has none. -/
def ScaleEntry (i : Iss) (f : TForm) (e es i0 : Nat) : Prop :=
  if tfSpan (teFmt e) = 0 then es = e ∧ f.tidB = 0
  else tensor i f.tidB.toNat = .ok es ∧ teFmt es = teFmt e ∧ teNdim es = teNdim e ∧ (∀ d < 4, teSize es d = teSize e d) ∧
    i0 % tfSpan (teFmt e) = 0

theorem ScaleEntry.read {i : Iss} {f : TForm} {e es i0 : Nat} (h : ScaleEntry i f e es i0) :
    (if tfSpan (teFmt e) != 0 then tensor i f.tidB.toNat else .ok e) = .ok es := by
  unfold ScaleEntry at h
  split at h
  · next hspan => simp [hspan, h.1]
  · next hspan => simp [hspan, h.1]

/-- The scale entry fails none of a drain's checks. -/
theorem ScaleEntry.not_illegal {i : Iss} {f : TForm} {e es i0 : Nat} (h : ScaleEntry i f e es i0) :
    (tfSpan (teFmt e) != 0 && (teFmt es != teFmt e || teNdim es != teNdim e || (List.range 4).any fun d => teSize es d != teSize e d)) = false ∧
    (!(tfSpan (teFmt e) != 0) && f.tidB != 0) = false ∧ (tfSpan (teFmt e) != 0 && i0 % tfSpan (teFmt e) != 0) = false := by
  unfold ScaleEntry at h
  split at h
  · next hspan =>
    obtain ⟨_, hnone⟩ := h
    simp [hspan, hnone]
  · next hspan =>
    obtain ⟨_, hfmt, hndim, hsize, hmul⟩ := h
    have hsizes : ((List.range 4).any fun d => teSize es d != teSize e d) = false := by
      rw [List.any_eq_false]
      intro d hd
      simp [hsize d (List.mem_range.mp hd)]
    simp [hspan, hfmt, hndim, hsizes, hmul]

/-- The rows that a drain stores, from the places of their elements and scales. -/
def drainRows (as : List Acc) : List DrainRow :=
  (List.range 32).filterMap fun r => match as.filter fun a => a.lane == r with
    | [a, b] => some { row := r, elems := a.place.spans, scales := b.place.spans }
    | _ => none

/-- Under stochastic rounding the lanes of a drain's rows draw once for each of `n` elements. -/
def State.drainDraws (s : State) (i : Iss) (f : TForm) (rows : List DrainRow) (n : Nat) : State :=
  if f.rnd == 5 then
    s.modLanes i (maskOf fun l => rows.any fun r => r.row == l) fun _ x => { x with dcount := x.dcount + BitVec.ofNat 32 n }
  else s

/-- Changes of lanes leave the engine's queue as it is. -/
theorem State.mqueue_modLanes (s : State) (i : Iss) (m : LaneMask) (φ : Nat → Lane → Lane) :
    ((s.modLanes i m φ).core i.core).mqueue = (s.core i.core).mqueue := by
  rw [State.modLanes, State.core_modGroupOn_same]

theorem State.mqueue_drainDraws (s : State) (i : Iss) (f : TForm) (rows : List DrainRow) (n : Nat) :
    ((s.drainDraws i f rows n).core i.core).mqueue = (s.core i.core).mqueue := by
  unfold State.drainDraws
  split
  · exact State.mqueue_modLanes _ _ _ _
  · rfl

/-- `MDRAIN` as the engine takes it. -/
def drainOp (i : Iss) (f : TForm) (e i0 n : Nat) (rows : List DrainRow) : MatOp :=
  .drain i.group.gid i.band f.tile.toNat (BitVec.ofNat 512 e) i0 n (BitVec.ofNat 32 (bitsOf (i.gReg (f.crd.idx.toNat + 2)).toNat 31 0))
    f.rnd ((List.range 32).map fun l => ((i.group.lane i.band l).dseed, (i.group.lane i.band l).dcount)) rows

theorem exec_mdrain {s s1 : State} {i : Iss} {f : TForm} {e es : Nat} {c : Nat × Nat × Nat × Nat} {as : List Acc}
    (h : Ready s i (viewMdrain f)) (hwhole : i.whole) (hentry : tensor i f.tidA.toNat = .ok e) (hc : coords i f.crd.idx.toNat = c)
    (hscale : ScaleEntry i f e es c.1) (htile : f.tile.toNat < i.launch.desc.acc) (heven : teFmt e = 0 → c.1 % 2 = 0)
    (h2 : c.2.2.1 < teSize e 2) (h3 : c.2.2.2 < teSize e 3) (hhigh : bitsOf (i.gReg (f.crd.idx.toNat + 2)).toNat 63 32 = 0)
    (hrnd : teFmt e = 12 → f.rnd = 0) (hroom : ((s.begun i (viewMdrain f)).core i.core).mqueue.length < 8)
    (hprep : drainPrepare (s.begun i (viewMdrain f)) i e es c.1 c.2.1 c.2.2.1 c.2.2.2 (min 64 (teSize e 0 - c.1)) = .ok (s1, as))
    (hroom1 : (s1.core i.core).mqueue.length < 8) :
    exec (.mdrain f) s = .next (((s1.drainDraws i f (drainRows as) (min 64 (teSize e 0 - c.1))).queued i
      (drainOp i f e c.1 (min 64 (teSize e 0 - c.1)) (drainRows as)) none).advance i i.active) := by
  refine matIssue_advances h hwhole ?_
  obtain ⟨i0, i1, i2, i3⟩ := c
  obtain ⟨hsame, hnoScale, hmul⟩ := hscale.not_illegal
  have heven' : (teFmt e == 0 && i0 % 2 != 0) = false := by simpa using heven
  have hrnd' : (teFmt e == 12 && f.rnd != 0) = false := by simpa using hrnd
  simp only [hentry, hscale.read, hc, hsame, hnoScale, hmul, heven', hrnd', Nat.not_le.mpr htile, Nat.not_le.mpr h2, Nat.not_le.mpr h3,
    hhigh, Nat.not_le.mpr hroom, hprep, decide_false, bne_self_eq_false, Bool.or_self, Bool.false_eq_true, if_false]
  exact reach_queued (drainOp i f e i0 _ (drainRows as)) none
    ((congrArg List.length (State.mqueue_drainDraws s1 i f (drainRows as) _)).trans_lt hroom1)

/-- Settles O30: past their checks a load takes the port's next place, and a drain whose rows are prepared is queued. -/
theorem matrixLoadsAndDrains : Obligations.MatrixLoadsAndDrains := by
  refine ⟨?load, ?drain⟩
  case load =>
    intro s i f e d h hwhole hentry fm j c b hformat hslot hpair hspan h2 h3 hfree hdata
    exact exec_mloadb h hwhole hentry rfl hformat hslot hpair hspan h2 h3 hfree hdata
  case drain =>
    intro s s1 i f e es as h hwhole hentry fm c c2 b n hscale htile heven h2 h3 hhigh hrnd hroom hprep hroom1
    exact exec_mdrain h hwhole hentry rfl hscale htile heven h2 h3 hhigh hrnd hroom hprep hroom1

/-! ### The tensor table (11 R246) -/

theorem exec_ttld {s : State} {i : Iss} {f : RForm} {p : Place} (h : Ready s i (viewTtld f)) (hwhole : i.whole)
    (hplain : i.launch.desc.versioned = false) (hplace : ttPlace (s.begun i (viewTtld f)) i .read (i.gReg f.a.idx.toNat) = .ok p)
    (hvalid : entryOk (leNat ((s.begun i (viewTtld f)).bytesAt i.sess i.group.gid p 64)) = true) :
    exec (.ttld f) s = .next (((s.begun i (viewTtld f)).modSession i.sess.slot fun x =>
      { x with tensors :=
          spSet x.tensors f.d.idx.toNat (BitVec.ofNat 512 (leNat ((s.begun i (viewTtld f)).bytesAt i.sess i.group.gid p 64))) }).advance i
      i.active) := by
  refine matIssue_advances h hwhole ?_
  simp only [hplain, hplace, hvalid, Bool.false_eq_true, if_false, if_true]

theorem exec_ttst {s s1 : State} {i : Iss} {f : RForm} {p q : Place} (h : Ready s i (viewTtst f)) (hwhole : i.whole)
    (hplace : ttPlace (s.begun i (viewTtst f)) i .write (i.gReg f.a.idx.toNat) = .ok p)
    (hprep : prepareStore (s.begun i (viewTtst f)) i { acc := .write, aligned := true, types := matTypes } 64
      [{ lane := 0, ea := i.gReg f.a.idx.toNat, place := p }] = .ok (s1, [{ lane := 0, ea := i.gReg f.a.idx.toNat, place := q }])) :
    exec (.ttst f) s = .next (((s1.putAt i.sess i.group.gid (i.self 0) q
      (toLE 64 (spGet i.sess.tensors f.b.idx.toNat).toNat)).sign i.group.gid q false true).advance i i.active) := by
  refine matIssue_advances h hwhole ?_
  simp only [hplace, hprep, List.foldl_cons, List.foldl_nil]

theorem exec_ttinv {s : State} {i : Iss} {f : RForm} (h : Ready s i (viewTtinv f)) (hwhole : i.whole)
    (hplain : i.launch.desc.versioned = false) :
    exec (.ttinv f) s = .next (((s.begun i (viewTtinv f)).modSession i.sess.slot fun x =>
      { x with tensors := spSet x.tensors f.d.idx.toNat (spGet x.tensors f.d.idx.toNat &&& ~~~ (1 : BitVec 512)) }).advance i i.active) := by
  refine matIssue_advances h hwhole ?_
  simp only [hplain, Bool.false_eq_true, if_false]

/-- Settles O31: one clause for each instruction. -/
theorem tensorTable : Obligations.TensorTable :=
  ⟨fun _ _ _ _ => exec_ttld, fun _ _ _ _ _ _ => exec_ttst, fun _ _ _ => exec_ttinv⟩

end Sys2Proof.Machine
end

section
/-! PROOFS. Matrix, reservoirs and compositing (11_ref_matrix_reservoir_compositing.md): reservoirs and compositing accumulators. -/

namespace Sys2Proof.Machine

open Sys2Proof

/-! ### Instructions that act lane by lane (08 R161) -/

/-- The instruction completes with these updates of the enabled lanes, made in lane order, where each of them goes through. -/
def Lanewise (ins : Instr) (v : View) (s : State) (i : Iss) (upd : State → Nat → Except Halt State) : Prop :=
  ∀ t, foldE upd (s.begun i v) (i.lanes (i.en v)) = .ok t → exec ins s = .next (t.advance i i.active)

/-- An instruction that reads every lane's operands and then writes every lane, where the operands are readable. -/
theorem Lanewise.of_perLane {α : Type} {ins : Instr} {v : View} {s : State} {i : Iss} {body : Body} {read : Nat → Except Halt α}
    {vals : Nat → α} {write : State → Nat → α → Except Halt State} {upd : State → Nat → Except Halt State} (h : Ready s i v)
    (hexec : exec ins s = issue s (fun _ => v) false false body)
    (hbody : body i (i.en v) (s.begun i v) = perLane i (i.en v) (s.begun i v) read write)
    (hupd : upd = fun u l => write u l (vals l)) (hread : ∀ l ∈ i.lanes (i.en v), read l = .ok (vals l)) : Lanewise ins v s i upd := by
  intro t hwrite
  rw [hupd] at hwrite
  rw [hexec]
  exact issue_advances (vf := fun _ => v) h (hbody.trans ((perLane_ok write hread).trans (foldLanes_ok hwrite)))

/-! ### The reservoir instructions (11 R248 to R253) -/

section Instructions

variable {s : State} {i : Iss} {f : RForm}

theorem lanewise_rsvinit (h : Ready s i (viewRsvinit f)) :
    Lanewise (.rsvinit f) (viewRsvinit f) s i fun u l => .ok (setRsv u i l f.d
      { payload := 0, wsum := 0, phat := 0, w := 0, m := 0, dctr := (rsvOf i l f.d).dctr }) :=
  .of_perLane (vals := fun l => rsvOf i l f.d) h rfl rfl rfl fun _ _ => rfl

theorem lanewise_rsvseed {a : Nat → Dword} {c : Nat → Word} (h : Ready s i (viewRsvseed f))
    (hread : ∀ l ∈ i.lanes (i.en (viewRsvseed f)), rd2 (s.begun i (viewRsvseed f)) i l f.a = .ok (a l) ∧
      rd1 (s.begun i (viewRsvseed f)) i l f.b = .ok (c l)) :
    Lanewise (.rsvseed f) (viewRsvseed f) s i fun u l =>
      .ok ((setRsv u i l f.d { rsvOf i l f.d with dctr := (c l).setWidth 16 }).modLanes i (maskOf (· == l)) fun _ x =>
        { x with dseed := a l }) := by
  refine .of_perLane (vals := fun l => (a l, c l)) h rfl rfl rfl fun l hl => ?_
  obtain ⟨ha, hc⟩ := hread l hl
  rw [ha, hc]
  rfl

theorem lanewise_rsvupd {a : Nat → Dword} {p w : Nat → Word} (h : Ready s i (viewRsvupd f))
    (hread : ∀ l ∈ i.lanes (i.en (viewRsvupd f)), rd2 (s.begun i (viewRsvupd f)) i l f.a = .ok (a l) ∧
      rd1 (s.begun i (viewRsvupd f)) i l f.b = .ok (p l) ∧ rd1 (s.begun i (viewRsvupd f)) i l f.c = .ok (w l)) :
    Lanewise (.rsvupd f) (viewRsvupd f) s i fun u l => .ok (setRsv u i l f.d
      ((rsvOf i l f.d).stream (i.group.lane i.band l).dseed (cleanW (w l)) 1 (a l) (p l))) := by
  refine .of_perLane (vals := fun l => (a l, p l, w l)) h rfl rfl rfl fun l hl => ?_
  obtain ⟨ha, hp, hw⟩ := hread l hl
  rw [ha, hp, hw]

/-- The multiplicity of the candidate that a merge streams: M of the other reservoir up to the cap (11 R251). -/
def Rsv.mergeCount (a : Rsv) (cap : Word) : Nat := min a.m.toNat (cap.toNat % 65536)

/-- The clean weight of that candidate: its target value times W times its multiplicity. -/
def Rsv.mergeWeight (a : Rsv) (p cap : Word) : Word :=
  cleanW (rne (fmulX (fmulX (f32 p) (f32 a.w)).v (.fin false (a.mergeCount cap) 0 false)).v)

theorem lanewise_rsvmrg {p c : Nat → Word} (h : Ready s i (viewRsvmrg f))
    (hread : ∀ l ∈ i.lanes (i.en (viewRsvmrg f)), rd1 (s.begun i (viewRsvmrg f)) i l f.b = .ok (p l) ∧
      rd1 (s.begun i (viewRsvmrg f)) i l f.c = .ok (c l)) :
    Lanewise (.rsvmrg f) (viewRsvmrg f) s i fun u l =>
      .ok (setRsv u i l f.d ((rsvOf i l f.d).stream (i.group.lane i.band l).dseed
        ((rsvOf i l f.a).mergeWeight (p l) (c l)) ((rsvOf i l f.a).mergeCount (c l)) (rsvOf i l f.a).payload (p l))) := by
  refine .of_perLane (vals := fun l => (p l, c l)) h rfl rfl rfl fun l hl => ?_
  obtain ⟨hp, hc⟩ := hread l hl
  rw [hp, hc]

theorem lanewise_rsvfin (h : Ready s i (viewRsvfin f)) :
    Lanewise (.rsvfin f) (viewRsvfin f) s i fun u l => .ok (setRsv u i l f.d { rsvOf i l f.d with w := (rsvOf i l f.d).finish }) :=
  .of_perLane (vals := fun l => rsvOf i l f.d) h rfl rfl rfl fun _ _ => rfl

theorem lanewise_rsvget {x : RsvField} (h : Ready s i (viewRsvget x f)) :
    Lanewise (.rsvget x f) (viewRsvget x f) s i fun u l => wrT u i l f.ty f.d ((rsvOf i l f.a).get x) :=
  .of_perLane (vals := fun l => (rsvOf i l f.a).get x) h rfl rfl rfl fun _ _ => rfl

theorem lanewise_rsvput {x : RsvField} {a : Nat → Nat} (h : Ready s i (viewRsvput x f))
    (hread : ∀ l ∈ i.lanes (i.en (viewRsvput x f)), rdT (s.begun i (viewRsvput x f)) i l f.ty f.a = .ok (a l)) :
    Lanewise (.rsvput x f) (viewRsvput x f) s i fun u l => .ok (setRsv u i l f.d ((rsvOf i l f.d).set x (a l))) :=
  .of_perLane (vals := a) h rfl rfl rfl hread

end Instructions

/-! ### A candidate streamed into a reservoir (11 R250) -/

section Stream

variable (r : Rsv) (seed : Dword) (w phat : Word) (n : Nat) (payload : Dword)

theorem Rsv.stream_wsum : (r.stream seed w n payload phat).wsum = rne (faddX false (f32 r.wsum) (f32 w)).v := rfl

theorem Rsv.stream_m : (r.stream seed w n payload phat).m.toNat = min (r.m.toNat + n) 65535 := by
  have hlt : min (r.m.toNat + n) 65535 < 2 ^ 16 := Nat.lt_of_le_of_lt (Nat.min_le_right _ _) (by decide)
  exact (BitVec.toNat_ofNat _ _).trans (Nat.mod_eq_of_lt hlt)

theorem Rsv.stream_dctr : (r.stream seed w n payload phat).dctr = r.dctr + 1 := rfl

/-- Whether the candidate is selected: the draw is made before it is counted, and the sum is the new one. -/
def Rsv.takes : Bool := selected (r.draw seed) (rne (faddX false (f32 r.wsum) (f32 w)).v) w

theorem Rsv.stream_w : (r.stream seed w n payload phat).w = r.w := (apply_ite Rsv.w _ _ _).trans (ite_self _)

theorem Rsv.stream_payload : (r.stream seed w n payload phat).payload = if r.takes seed w then payload else r.payload :=
  apply_ite Rsv.payload _ _ _

theorem Rsv.stream_phat : (r.stream seed w n payload phat).phat = if r.takes seed w then phat else r.phat :=
  apply_ite Rsv.phat _ _ _

end Stream

/-- A candidate of weight +0 is never selected. -/
theorem selected_zero (u : Nat) (ws : Word) : selected u ws 0 = false := by
  have hzero : (f32 0).isZero = true := by decide
  simp only [selected, hzero, Bool.not_true, Bool.false_and]

/-- The comparison that selects, where neither the draw nor a weight is zero. -/
theorem selected_of_ne_zero {u : Nat} {ws w : Word} (hu : u ≠ 0) (hws : (f32 ws).isZero = false) (hw : (f32 w).isZero = false) :
    selected u ws w = (let p := fmtF32.decode (rneF32 (fmulX (.fin false u (-24) false) (f32 ws)).v)
      !p.isNan && decide (fcmpX p (f32 w) < 0)) := by
  simp only [selected, beq_eq_false_iff_ne.mpr hu, hws, hw, Bool.or_self, Bool.not_false, Bool.true_and, Bool.false_eq_true, if_false]

/-! ### The fields of a reservoir (11 R247, R253) -/

/-- The bits of a reservoir register that hold a field (03 R61). -/
def rsvWidth : RsvField → Nat
  | .payload => 64
  | .wsum | .phat | .w => 32
  | .m | .dctr => 16

/-- What is put is got, to the width of the field. -/
theorem Rsv.get_set (r : Rsv) (x : RsvField) (v : Nat) : (r.set x v).get x = v % 2 ^ rsvWidth x := by
  cases x <;> exact BitVec.toNat_ofNat _ _

theorem Rsv.ofBits_toBits (r : Rsv) : Rsv.ofBits r.toBits = r := by
  obtain ⟨payload, wsum, phat, w, m, dctr⟩ := r
  simp (disch := decide) only [Rsv.ofBits, Rsv.toBits, BitVec.extractLsb'_append_eq_of_le, BitVec.extractLsb'_append_eq_of_add_le]
  simp

/-- Settles O32: every instruction acts lane by lane, and the laws of streaming, cleaning and field moves are facts of the reservoir. -/
theorem reservoirs : Obligations.Reservoirs := by
  refine ⟨?instructions, ?laws⟩
  case instructions =>
    rintro s t i f ins v upd h b ls seed (⟨rfl, rfl, rfl⟩ | ⟨rfl, rfl, a, c, hread, rfl⟩ | ⟨rfl, rfl, a, p, w, hread, rfl⟩ |
      ⟨rfl, rfl, p, c, hread, rfl⟩ | ⟨rfl, rfl, rfl⟩ | ⟨x, rfl, rfl, rfl⟩ | ⟨x, rfl, rfl, a, hread, rfl⟩) hwrite
    · exact lanewise_rsvinit h t hwrite
    · exact lanewise_rsvseed h hread t hwrite
    · exact lanewise_rsvupd h hread t hwrite
    · exact lanewise_rsvmrg h hread t hwrite
    · exact lanewise_rsvfin h t hwrite
    · exact lanewise_rsvget h t hwrite
    · exact lanewise_rsvput h hread t hwrite
  case laws =>
    intro r seed w phat n payload
    refine ⟨r.stream_wsum .., r.stream_m .., r.stream_dctr .., r.stream_w .., ⟨r.stream_payload .., r.stream_phat .., ?zero,
      selected_of_ne_zero⟩, by decide, by decide, by decide, by decide, by decide, by decide, ?wide, ?narrow, r.ofBits_toBits⟩
    case zero =>
      rintro rfl
      exact selected_zero _ _
    case wide => exact fun v hv => (r.get_set .payload v).trans (Nat.mod_eq_of_lt hv)
    case narrow =>
      intro v hv
      have hword : v % 2 ^ 32 = v := Nat.mod_eq_of_lt hv
      exact ⟨(r.get_set .wsum v).trans hword, (r.get_set .phat v).trans hword, (r.get_set .w v).trans hword, r.get_set .m v,
        r.get_set .dctr v⟩

/-! ### The compositing instructions (11 R258 to R262) -/

section Compositing

variable {s : State} {i : Iss} {f : RForm}

theorem lanewise_cainit {a : Nat → Word} (h : Ready s i (viewCainit f))
    (hread : ∀ l ∈ i.lanes (i.en (viewCainit f)), rd1 (s.begun i (viewCainit f)) i l f.a = .ok (a l)) :
    Lanewise (.cainit f) (viewCainit f) s i fun u l =>
      .ok (setComp u i l f.d (Comp.init ((a l).getLsbD 0 && i.launch.desc.compLog.isSome))) :=
  .of_perLane (vals := a) h rfl rfl rfl hread

theorem lanewise_caadd {z : Nat → Word} {c : Nat → List Word} (h : Ready s i (viewCaadd f))
    (hread : ∀ l ∈ i.lanes (i.en (viewCaadd f)), rd1 (s.begun i (viewCaadd f)) i l f.a = .ok (z l) ∧
      rdRun (s.begun i (viewCaadd f)) i l f.b 4 = .ok (c l)) :
    Lanewise (.caadd f) (viewCaadd f) s i fun u l =>
      .ok (logComp i l f.d u ((compOf i l f.d).add i.launch.desc.compThr (hasRecord i l f.d) (z l) (c l))) := by
  refine .of_perLane (vals := fun l => (z l, c l)) h rfl rfl rfl fun l hl => ?_
  obtain ⟨hz, hc⟩ := hread l hl
  rw [hz, hc]
  rfl

theorem lanewise_caflush (h : Ready s i (viewCaflush f)) :
    Lanewise (.caflush f) (viewCaflush f) s i fun u l =>
      .ok (logComp i l f.d u ((compOf i l f.d).flush i.launch.desc.compThr (hasRecord i l f.d))) :=
  .of_perLane (vals := fun l => compOf i l f.d) h rfl rfl rfl fun _ _ => rfl

/-- A lane's accumulator flushed, its colour and T in the destination. -/
def resolveComp (i : Iss) (f : RForm) (u : State) (l : Nat) : Except Halt State :=
  let r := (compOf i l f.a).flush i.launch.desc.compThr (hasRecord i l f.a)
  wrRun (logComp i l f.a u r) i l f.d 0 [r.1.cr, r.1.cg, r.1.cb, r.1.t]

theorem lanewise_caresolve (h : Ready s i (viewCaresolve f)) :
    Lanewise (.caresolve f) (viewCaresolve f) s i (resolveComp i f) :=
  .of_perLane (vals := fun l => compOf i l f.a) h rfl rfl rfl fun _ _ => rfl

/-- A lane's accumulator one step of the replay back, by the record of its last term, and the results in the destination. -/
def replayComp (i : Iss) (f : RForm) (c : Nat → List Word) (u : State) (l : Nat) : Except Halt State :=
  let r := (compOf i l f.a).replay
    (leNat (spGetList i.group.scratch (recordAt i l f.a.idx.toNat ((compOf i l f.a).term - 1)) 8)) ((c l).take 3) ((c l).getD 3 0)
  wrRun (setComp u i l f.a r.1) i l f.d 0 r.2

theorem lanewise_careplay {c : Nat → List Word} (h : Ready s i (viewCareplay f))
    (hread : ∀ l ∈ i.lanes (i.en (viewCareplay f)), rdRun (s.begun i (viewCareplay f)) i l f.b 4 = .ok (c l)) :
    Lanewise (.careplay f) (viewCareplay f) s i (replayComp i f c) :=
  .of_perLane (vals := c) h rfl rfl rfl hread

theorem lanewise_castat (h : Ready s i (viewCastat f)) :
    Lanewise (.castat f) (viewCastat f) s i fun u l => wr1 u i l .f32 f.d (BitVec.ofNat 32 (compOf i l f.a).stat) :=
  .of_perLane (vals := fun l => BitVec.ofNat 32 (compOf i l f.a).stat) h rfl rfl rfl fun _ _ => rfl

end Compositing

/-- Settles O33: every instruction acts lane by lane. -/
theorem compositingResults : Obligations.CompositingResults := by
  rintro s t i f ins v upd h b ls thr (⟨rfl, rfl, a, hread, rfl⟩ | ⟨rfl, rfl, z, c, hread, rfl⟩ | ⟨rfl, rfl, rfl⟩ | ⟨rfl, rfl, rfl⟩ |
    ⟨rfl, rfl, c, hread, rfl⟩ | ⟨rfl, rfl, rfl⟩) hwrite
  · exact lanewise_cainit h hread t hwrite
  · exact lanewise_caadd h hread t hwrite
  · exact lanewise_caflush h t hwrite
  · exact lanewise_caresolve h t hwrite
  · exact lanewise_careplay h hread t hwrite
  · exact lanewise_castat h t hwrite

end Sys2Proof.Machine
end

section
/-! PROOFS. Work, graphics and system instructions (12_ref_work_graphics_system.md): the work instructions, and the units that answer them. -/

namespace Sys2Proof.Machine

open Sys2Proof

/-! ### Launches that may use an instruction (12 R265, 02 R48) -/

theorem notVersioned_plain {i : Iss} (h : i.launch.desc.versioned = false) (body : Except Halt State) : notVersioned i body = body := by
  simp only [notVersioned, h, Bool.false_eq_true, if_false]

theorem queueMode_served {i : Iss} (h : i.launch.desc.workSource = 2) (body : Except Halt State) : queueMode i body = body := by
  simp only [queueMode, h, BEq.rfl, if_true]

/-! ### `FETCHWK` (12 R266) -/

theorem exec_fetchwk {s : State} {i : Iss} {f : MForm} {ea : Nat → Dword} {o : Nat → Nat} (h : Ready s i (viewFetchwk f))
    (hplain : i.launch.desc.versioned = false)
    (hread : ∀ l ∈ i.lanes (i.en (viewFetchwk f)), mAddr (s.begun i (viewFetchwk f)) i f 0 l = .ok (ea l) ∧ mailbox i (ea l) = .ok (o l)) :
    exec (.fetchwk f) s = .next (((i.lanes (i.en (viewFetchwk f))).foldl (fun (t : State) l =>
      { t.modGroupOn i.core i.group.gid (fun g => { g with scratch := spSetList g.scratch (o l) (toLE 4 0) }) with
        fetches := t.fetches ++ [{ session := i.sess.slot, gid := i.group.gid, off := o l }] }) (s.begun i (viewFetchwk f))).advance i
      i.active) := by
  refine issue_advances (vf := fun _ => viewFetchwk f) h ?_
  simp only [notVersioned_plain hplain]
  rw [mapLanes_ok (g := fun l => (l, ea l)) fun l hl => by
    obtain ⟨haddr, _⟩ := hread l hl
    rw [haddr]
    rfl]
  simp only [List.map_map, Function.comp_def]
  rw [gather_map_ok (g := o) (lane := fun l => l) fun l hl =>
    let ⟨_, hbox⟩ := hread l hl
    hbox]
  simp only [List.foldl_map]

/-! ### The die priority queue (12 R267 to R269) -/

section Push

variable {s : State} {die sess launch : Nat} {key value : Word}

theorem State.pqPush_room (h : (s.pq.filter fun e => e.die == die).length < 65536) :
    s.pqPush die sess launch key value = some { s with pq := s.pq ++ [⟨die, sess, launch, key, value⟩] } := if_pos h

theorem State.pqPush_full (h : ¬ (s.pq.filter fun e => e.die == die).length < 65536) : s.pqPush die sess launch key value = none := if_neg h

end Push

/-- A lane's push: kept with a task's version, or made where the die's queue has room (12 R267). -/
def pushLane (i : Iss) (f : RForm) (k v : Nat → Word) (t : State) (l : Nat) : Except Halt State :=
  if i.holds then wr1 (t.hold i (.pq (dieOf i.core) (k l) (v l))) i l .b32 f.d (replyWord 1 0)
  else if (t.pq.filter fun e => e.die == dieOf i.core).length < 65536 then
    wr1 { t with pq := t.pq ++ [⟨dieOf i.core, i.sess.slot, i.launch.number, k l, v l⟩] } i l .b32 f.d (replyWord 1 0)
  else wr1 t i l .b32 f.d (replyWord 0 5)

theorem lanewise_pqpush {s : State} {i : Iss} {f : RForm} {k v : Nat → Word} (h : Ready s i (viewPqpush f))
    (hserved : i.launch.desc.workSource = 2)
    (hread : ∀ l ∈ i.lanes (i.en (viewPqpush f)), rd1 (s.begun i (viewPqpush f)) i l f.a = .ok (k l) ∧
      rd1 (s.begun i (viewPqpush f)) i l f.b = .ok (v l)) :
    Lanewise (.pqpush f) (viewPqpush f) s i (pushLane i f k v) := by
  refine .of_perLane (vals := fun l => (k l, v l)) h rfl (queueMode_served hserved _) ?_ fun l hl => ?_
  · funext t l
    unfold pushLane
    split
    · rfl
    · split
      · next hroom => simp only [State.pqPush_room hroom]
      · next hfull => simp only [State.pqPush_full hfull]
  · obtain ⟨hk, hv⟩ := hread l hl
    rw [hk, hv]
    rfl

theorem exec_pqpop {s : State} {i : Iss} {f : RForm} (h : Ready s i (viewPqpop f)) (hserved : i.launch.desc.workSource = 2)
    (hplain : i.launch.desc.versioned = false) :
    exec (.pqpop f) s = .next (((i.lanes (i.en (viewPqpop f))).foldl (fun (t : State) l =>
      { t.awaits (i.dest l f.d) (if i.lead then 1 else 2) (some f.c.idx.toNat) with
        pops := t.pops ++ [⟨dieOf i.core, i.sess.slot, i.launch.number, i.core, i.dest l f.d, f.c.idx.toNat, false⟩] })
      (s.begun i (viewPqpop f))).advance i i.active) :=
  issue_advances (vf := fun _ => viewPqpop f) h ((queueMode_served hserved _).trans (notVersioned_plain hplain _))

/-- A die's queue serves its first eight pops and carries the others over (12 R269). -/
theorem exec_pqPopServe (s : State) (die : Nat) :
    exec (.pqPopServe die) s = .next { ((s.popsOf die).take 8).foldl servePop s with
      pops := ((((s.popsOf die).take 8).foldl servePop s).pops.filter fun r => r.die != die) ++
        ((s.popsOf die).drop 8).map fun r => { r with carried := true } } := rfl

/-- A pop takes the smallest entry of its launch, if the queue holds one (12 R268, 02 R51). -/
theorem servePop_entry {s : State} {r : PqPop} {e : PqEntry}
    (h : argMin (fun (e : PqEntry) => e.key.toNat) (s.pq.filter fun e => e.die == r.die && e.session == r.session && e.launch == r.launch) =
      some e) :
    servePop s r = (({ s with pops := s.pops.erase r, pq := s.pq.erase e } : State).acquireFor? r.dest.gid 2).giveResult r.dest
      [e.key, e.value] [e.value ++ e.key] (some (r.mask, true)) := by
  simp only [servePop, h]

/-! ### Work lists (12 R270, 13 R294 to R299) -/

theorem lanewise_wlpush {s : State} {i : Iss} {f : RForm} {k : Nat → Word} {x : Nat → List Word} (h : Ready s i (viewWlpush f))
    (hread : ∀ l ∈ i.lanes (i.en (viewWlpush f)), rd1 (s.begun i (viewWlpush f)) i l f.a = .ok (k l) ∧
      itemOf (s.begun i (viewWlpush f)) i l f.b = .ok (x l)) :
    Lanewise (.wlpush f) (viewWlpush f) s i fun t l =>
      if i.holds then wr1 (t.hold i (.wl ((k l).toNat % 65536) (x l))) i l .b32 f.d (replyWord 1 0)
      else .ok (t.issueCmd i l (some f.d) 1 (.wlpush ((k l).toNat % 65536) (x l))) := by
  refine .of_perLane (vals := fun l => ((k l).toNat % 65536, x l)) h rfl rfl rfl fun l hl => ?_
  obtain ⟨hk, hx⟩ := hread l hl
  rw [hk, hx]
  rfl

theorem exec_wlpop {s : State} {i : Iss} {f : RForm} {k : Nat → Word} (h : Ready s i (viewWlpop f))
    (hplain : i.launch.desc.versioned = false)
    (hread : ∀ l ∈ i.lanes (i.en (viewWlpop f)), rd1 (s.begun i (viewWlpop f)) i l f.a = .ok (k l)) :
    exec (.wlpop f) s = .next (((i.lanes (i.en (viewWlpop f))).foldl (fun t l =>
      t.issueCmd i l (some f.d) (if i.lead then 3 else 5) (.wlpop ((k l).toNat % 65536))) (s.begun i (viewWlpop f))).advance i
      i.active) := by
  refine issue_advances (vf := fun _ => viewWlpop f) h ((notVersioned_plain hplain _).trans ?_)
  refine perLane_total (vals := fun l => (k l).toNat % 65536)
    (fun t l v => t.issueCmd i l (some f.d) (if i.lead then 3 else 5) (.wlpop v)) fun l hl => ?_
  rw [hread l hl]
  rfl

/-! ### `QUIESCE` (12 R271) -/

section Quiesce

variable {s : State} {i : Iss} {f : RForm}

theorem exec_quiesce_answered {t : State} (h : Ready s i (viewQuiesce f)) (hplain : i.launch.desc.versioned = false)
    (hnow : i.launch.quiescent = true ∨ ∃ w ∈ i.launch.lists, w.head ≠ w.tail)
    (hwrite : foldE (fun u l => wr1 u i l .b32 f.d (if i.launch.quiescent then 1 else 0)) (s.begun i (viewQuiesce f))
      (i.lanes (i.en (viewQuiesce f))) = .ok t) :
    exec (.quiesce f) s = .next (t.advance i i.active) := by
  refine issueHold_holds (vf := fun _ => viewQuiesce f) h ((notVersioned_plain hplain _).trans ?_)
  have hanswer (v : Word) (hv : v = if i.launch.quiescent then 1 else 0) :
      perLane i (i.en (viewQuiesce f)) (s.begun i (viewQuiesce f)) (fun _ => .ok v) (fun t l w => wr1 t i l .b32 f.d w) = .ok t := by
    rw [perLane_ok (vals := fun _ => v) _ fun _ _ => rfl, hv]
    exact foldLanes_ok hwrite
  cases hq : i.launch.quiescent with
  | true =>
    rw [hq] at hanswer
    simp only [if_true, hanswer 1 rfl]
    rfl
  | false =>
    have hitem : (i.launch.lists.any fun w => w.head != w.tail) = true := by simpa [hq] using hnow
    rw [hq] at hanswer
    simp only [hitem, if_true, hanswer 0 rfl, Bool.false_eq_true, if_false]
    rfl

theorem exec_quiesce_waits (h : Ready s i (viewQuiesce f)) (hplain : i.launch.desc.versioned = false) (hopen : i.launch.quiescent = false)
    (hempty : ∀ w ∈ i.launch.lists, w.head = w.tail) :
    exec (.quiesce f) s = .next ((s.begun i (viewQuiesce f)).block i (.quiesce f.d (i.en (viewQuiesce f)))) := by
  refine issueHold_holds (vf := fun _ => viewQuiesce f) h ((notVersioned_plain hplain _).trans ?_)
  have hitems : (i.launch.lists.any fun w => w.head != w.tail) = false := by simpa using hempty
  simp only [hopen, hitems, Bool.false_eq_true, if_false]

end Quiesce

/-- Settles O34: requests in flight and pushes go lane by lane; `QUIESCE` answers by the verdict and the lists of its launch. -/
theorem workRequests : Obligations.WorkRequests :=
  ⟨⟨fun _ _ _ _ _ => exec_fetchwk, fun _ t _ _ _ _ h hserved hread => lanewise_pqpush h hserved hread t, fun _ _ _ => exec_pqpop,
    fun _ t _ _ _ _ h hread => lanewise_wlpush h hread t, fun _ _ _ _ => exec_wlpop⟩,
    fun _ _ _ _ h hplain => ⟨exec_quiesce_answered h hplain, exec_quiesce_waits h hplain⟩⟩

/-! ### `LIST_REQUEST_SERVE` (10 R231, 13 R296) -/

theorem listCount_legal {n : Nat} (hmin : 1 ≤ n) (hmax : n ≤ 1024) : (n == 0 || decide (1024 < n)) = false := by
  simp [Nat.ne_of_gt hmin, hmax]

section Lists

variable {s : State} {sess launch list : Nat} {c : Cmd} {x : Session} {w : WorkList} (hreq : s.listReq? sess launch list = some c)
  (hsession : s.session? sess = some x) (hfault : c.fault = none) (hfree : c.held = false)
  (hscratch : c.needsScratch s = true → (s.find? c.gid).isSome = true) (hlist : s.list? sess launch list = some w)

include hscratch in
theorem Cmd.not_held_back : (c.needsScratch s && (s.find? c.gid).isNone) = false := by
  cases hneeds : c.needsScratch s with
  | true => simpa using hscratch hneeds
  | false => rfl

include hreq hsession hfault hfree hscratch hlist

theorem exec_listRequestServe_dappend {a : Dword} {l n : Nat} (hkind : c.kind = .dappend a l n) (hmin : 1 ≤ n) (hmax : n ≤ 1024) :
    exec (.listRequestServe sess launch list) s = .next (listOutcome x c true
      (appendAll (s.engSeen c x (a.toNat + 16 * c.done) (16 * (n - c.done))) x c list (fun t j => engRead t c x (a.toNat + 16 * j) 16)
        (n - c.done))) := by
  change execListRequestServe sess launch list s = _
  simp only [execListRequestServe, hreq, hsession, hfault, hfree, Cmd.not_held_back hscratch, hlist, hkind, listCount_legal hmin hmax,
    Option.isSome_none, Option.isSome_some, Bool.or_self, Bool.not_true, Bool.false_eq_true, if_false]

theorem exec_listRequestServe_ddrain {a : Dword} {l n : Nat} (hkind : c.kind = .ddrain a l n) (hmin : 1 ≤ n) (hmax : n ≤ 1024) :
    exec (.listRequestServe sess launch list) s = .next (listOutcome x c false (drainAll s x c list a.toNat (n - c.done))) := by
  change execListRequestServe sess launch list s = _
  simp only [execListRequestServe, hreq, hsession, hfault, hfree, Cmd.not_held_back hscratch, hlist, hkind, listCount_legal hmin hmax,
    Option.isSome_none, Option.isSome_some, Bool.or_self, Bool.not_true, Bool.false_eq_true, if_false]

theorem exec_listRequestServe_wlpush {l : Nat} {item : List Word} (hkind : c.kind = .wlpush l item) :
    exec (.listRequestServe sess launch list) s =
      .next (listOutcome x c true (appendAll s x c list (fun _ _ => .ok (item.flatMap fun w => toLE 4 w.toNat)) 1)) := by
  change execListRequestServe sess launch list s = _
  simp only [execListRequestServe, hreq, hsession, hfault, hfree, Cmd.not_held_back hscratch, hlist, hkind, Option.isSome_none,
    Option.isSome_some, Bool.or_self, Bool.not_true, Bool.false_eq_true, if_false]

theorem exec_listRequestServe_wlpop {l : Nat} {t : State} {bs : List Byte} {d : Dest} (hkind : c.kind = .wlpop l) (hreply : c.reply = some d)
    (htake : s.takeItem x launch list w = .ok (some (t, bs))) :
    (let v (j : Nat) : Word := BitVec.ofNat 32 (leNat ((bs.drop (4 * j)).take 4))
     exec (.listRequestServe sess launch list) s = .next (((t.acquireFor? c.gid 3).giveResult d [0x10000, v 0, v 1, v 2, v 3]
       [0x10000, v 1 ++ v 0, v 3 ++ v 2] none).dropCmd c.id)) := by
  intro v
  change execListRequestServe sess launch list s = _
  simp only [execListRequestServe, hreq, hsession, hfault, hfree, Cmd.not_held_back hscratch, hlist, hkind, hreply, htake,
    Option.isSome_none, Bool.or_self, Bool.false_eq_true, if_false]
  rfl

end Lists

/-! ### `QUIESCENCE_VERDICT` (13 R297) -/

theorem exec_quiescenceVerdict {s : State} {sess launch : Nat} {l : Launch} (hlaunch : s.launch? sess launch = some l)
    (hopen : l.quiescent = false) (hquiet : s.quiescentNow l = true) :
    exec (.quiescenceVerdict sess launch) s =
      .next ((s.modLaunch sess launch fun k => { k with quiescent := true }).endQuiesce sess launch 1) := by
  change execQuiescenceVerdict sess launch s = _
  simp only [execQuiescenceVerdict, hlaunch, hopen, hquiet, Bool.not_false, Bool.and_self, if_true]

/-- Settles O43: each event's meaning where its condition holds; a request to a list is served by its kind. -/
theorem workEvents : Obligations.WorkEvents := by
  refine ⟨exec_pqPopServe, fun _ _ _ => servePop_entry, ?lists, fun _ _ _ _ => exec_quiescenceVerdict⟩
  case lists =>
    intro s sess launch list c x w hreq hsession hfault hfree hscratch hlist
    exact ⟨fun _ _ _ => exec_listRequestServe_dappend hreq hsession hfault hfree hscratch hlist,
      fun _ _ _ => exec_listRequestServe_ddrain hreq hsession hfault hfree hscratch hlist,
      fun _ _ => exec_listRequestServe_wlpush hreq hsession hfault hfree hscratch hlist,
      fun _ _ _ _ => exec_listRequestServe_wlpop hreq hsession hfault hfree hscratch hlist⟩

end Sys2Proof.Machine
end

section
/-! PROOFS. Work, graphics and system instructions (12_ref_work_graphics_system.md): textures and rays. -/

namespace Sys2Proof.Machine

open Sys2Proof

/-! ### `TEX`, `TEX.wait` and `TLD` (12 R272 to R274) -/

/-- A lane's descriptor and operands: those it holds of an instruction that has waited, else those that it reads now. -/
def TexInput (s : State) (i : Iss) (f : RForm) (d0 l d : Nat) (x : List Word) : Prop :=
  match (i.group.lane i.band l).tex with
  | some h => d = h.1.toNat ∧ x = h.2.1
  | none => d = d0 ∧ rdRun s i l f.a 3 = .ok x

/-- A lane is answered: with zeros where its stream has failed, else with what its request finds. -/
def TexAnswer (s : State) (i : Iss) (lane : State → Iss → Tex → List Word → Except Trap TexLane) (l d : Nat) (x c : List Word) (b : Bool)
    (ps as : List Nat) : Prop :=
  if s.texFailed (i.ref l) then c = [0, 0, 0, 0] ∧ b = true ∧ ps = [] ∧ as = [] else lane s i (texOf d) x = .ok (.done c b ps as)

theorem TexAnswer.found {s : State} {i : Iss} {lane : State → Iss → Tex → List Word → Except Trap TexLane} {l d : Nat} {x c : List Word}
    {b : Bool} {ps as : List Nat} (h : TexAnswer s i lane l d x c b ps as) :
    (if s.texFailed (i.ref l) then .ok (.done [0, 0, 0, 0] true [] []) else lane s i (texOf d) x) = .ok (.done c b ps as) := by
  unfold TexAnswer at h
  split at h
  · next hfailed =>
    obtain ⟨rfl, rfl, rfl, rfl⟩ := h
    exact if_pos hfailed
  · next hfine => exact (if_neg hfine).trans h

/-- A lane's answer written: the texels read, its four words and, where the instruction has one, its fallback bit. -/
def texWrite (i : Iss) (f : RForm) (k : Option Nat) (d : Nat → Nat) (c : Nat → List Word) (b : Nat → Bool) (as : Nat → List Nat) (u : State)
    (l : Nat) : Except Halt State :=
  (wrRun ((as l).foldl (fun q a => noteRead q i a (texOf (d l)).size) u) i l f.d 0 (c l)).map fun w => match k with
    | some n => w.wrK i l n (b l)
    | none => w

/-- The state that the answers are written to: pages that fell back are streamed, and a descriptor read now is noted. -/
def texStart (s : State) (i : Iss) (en : LaneMask) (f : RForm) (d : Nat → Nat) (ps : Nat → List Nat) : State :=
  (i.lanes en).foldl (fun u l => startStreams u i.sess (texOf (d l)) (ps l))
    (if (i.lanes en).all fun l => (i.group.lane i.band l).tex.isSome then s else noteDesc s i f.b)

section Texture

variable {s : State} {i : Iss} {en : LaneMask} {f : RForm} {lane : State → Iss → Tex → List Word → Except Trap TexLane} {d0 : Nat}
  {d : Nat → Nat} {x c : Nat → List Word} {b : Nat → Bool} {ps as : Nat → List Nat} {k : Option Nat}
  (hdesc : readDesc s i en f.b = .ok d0 ∧ texOk d0 = true ∨ ∀ l ∈ i.lanes en, (i.group.lane i.band l).tex.isSome = true)
  (hinput : ∀ l ∈ i.lanes en, TexInput s i f d0 l (d l) (x l))
  (hanswer : ∀ l ∈ i.lanes en, TexAnswer s i lane l (d l) (x l) (c l) (b l) (ps l) (as l))

include hdesc

/-- The descriptor that is read now, where some lane needs one. -/
theorem texDesc_ok : ∃ e : Option Nat,
    (if (i.lanes en).all fun l => (i.group.lane i.band l).tex.isSome then .ok none else (readDesc s i en f.b).map some) = .ok e ∧
    (e.any fun v => !texOk v) = false ∧ ∀ l ∈ i.lanes en, (i.group.lane i.band l).tex = none → e.getD 0 = d0 := by
  by_cases hheld : ∀ l ∈ i.lanes en, (i.group.lane i.band l).tex.isSome = true
  · refine ⟨none, if_pos (List.all_eq_true.mpr hheld), rfl, fun l hl hnone => ?_⟩
    have hsome := hheld l hl
    rw [hnone] at hsome
    cases hsome
  · obtain ⟨hread, hok⟩ := hdesc.resolve_right hheld
    refine ⟨some d0, (if_neg (mt List.all_eq_true.mp hheld)).trans ?_, ?_, fun _ _ _ => rfl⟩
    · rw [hread]
      rfl
    · simp only [Option.any_some, hok, Bool.not_true]

include hinput

theorem texOperands_ok : texOperands s i en f = .ok ((i.lanes en).map fun l => (l, d l, x l)) := by
  obtain ⟨e, hread, hok, hnow⟩ := texDesc_ok hdesc
  simp only [texOperands, hread, hok, Bool.false_eq_true, if_false]
  refine mapLanes_ok fun l hl => ?_
  have hin := hinput l hl
  unfold TexInput at hin
  revert hin
  cases hlane : (i.group.lane i.band l).tex with
  | some h =>
    rintro ⟨hd, hx⟩
    rw [hd, hx]
  | none =>
    rintro ⟨hd, hx⟩
    rw [hd, hx, hnow l hl hlane]
    rfl

include hanswer

theorem texRun_ok : texRun s i en f lane = .ok ((i.lanes en).map fun l => (l, d l, x l, .done (c l) (b l) (ps l) (as l))) := by
  simp only [texRun, texOperands_ok hdesc hinput, List.map_map, Function.comp_def]
  refine gather_map_ok (lane := fun l => l) fun l hl => ?_
  rw [(hanswer l hl).found]
  rfl

theorem texBody_ok {t : State} (hwrite : foldE (texWrite i f k d c b as) (texStart s i en f d ps) (i.lanes en) = .ok t) :
    texBody f k lane i en s = .ok (((t.texEnd i).texForget ((i.lanes en).map i.ref)).advance i i.active) := by
  have hnone : ((i.lanes en).all fun _ => true) = true := List.all_eq_true.mpr fun _ _ => rfl
  simp only [texBody, texRun_ok hdesc hinput hanswer, List.foldl_map, List.all_map, Function.comp_def, List.isEmpty_nil, hnone, if_true,
    foldLanes_map]
  have hfold := foldLanes_ok hwrite
  split
  · next hfail => cases hfail.symm.trans hfold
  · next hdone =>
    cases hdone.symm.trans hfold
    rfl

end Texture

/-- An instruction of a texture, every lane of it answered. -/
theorem texIssue_answers {s t : State} {i : Iss} {f : RForm} {v : View} {lane : State → Iss → Tex → List Word → Except Trap TexLane}
    {d0 : Nat} {d : Nat → Nat} {x c : Nat → List Word} {b : Nat → Bool} {ps as : Nat → List Nat} {k : Option Nat} (h : Ready s i v)
    (hdesc : readDesc (s.begun i v) i (i.en v) f.b = .ok d0 ∧ texOk d0 = true ∨
      ∀ l ∈ i.lanes (i.en v), (i.group.lane i.band l).tex.isSome = true)
    (hlanes : ∀ l ∈ i.lanes (i.en v), TexInput (s.begun i v) i f d0 l (d l) (x l) ∧
      TexAnswer (s.begun i v) i lane l (d l) (x l) (c l) (b l) (ps l) (as l))
    (hwrite : foldE (texWrite i f k d c b as) (texStart (s.begun i v) i (i.en v) f d ps) (i.lanes (i.en v)) = .ok t) :
    issueHold s (fun _ => v) (texBody f k lane) =
      .next (((t.texEnd i).texForget ((i.lanes (i.en v)).map i.ref)).advance i i.active) :=
  issueHold_holds (vf := fun _ => v) h
    (texBody_ok hdesc (fun l hl => let ⟨hinput, _⟩ := hlanes l hl; hinput) (fun l hl => let ⟨_, hanswer⟩ := hlanes l hl; hanswer) hwrite)

/-! ### `RAYQ` and `RAYRES` (12 R275, R276) -/

theorem exec_rayq {s t : State} {i : Iss} {f : RForm} {d : Nat} {q : Nat → List Word} {fl : Nat → Word} {a : Nat → Nat}
    (h : Ready s i (viewRayq f)) (hread : readDesc (s.begun i (viewRayq f)) i (i.en (viewRayq f)) f.b = .ok d) (hok : accelOk d = true)
    (hlanes : ∀ l ∈ i.lanes (i.en (viewRayq f)), rdRun (s.begun i (viewRayq f)) i l f.a 8 = .ok (q l) ∧
      rd1 (s.begun i (viewRayq f)) i l f.c = .ok (fl l) ∧ freeHandle (i.group.lane i.band l) = some (a l) ∧ fl l &&& 0xFFFF00FC = 0)
    (hwrite : foldE (fun (u : State) l => wr1 (u.modLanes i (maskOf (· == l)) fun _ x =>
        { x with rays := x.rays ++ [⟨a l, q l, fl l, BitVec.ofNat 64 (fld d 0 64), BitVec.ofNat 64 (fld d 8 64), fld d 16 16, none⟩] })
      i l .b32 f.d (BitVec.ofNat 32 (a l))) (noteDesc (s.begun i (viewRayq f)) i f.b) (i.lanes (i.en (viewRayq f))) = .ok t) :
    exec (.rayq f) s = .next (t.advance i i.active) := by
  refine issue_advances (vf := fun _ => viewRayq f) h ?_
  simp only [hread, hok, Bool.not_true, Bool.false_eq_true, if_false]
  rw [perLane_ok (vals := fun l =>
    ⟨a l, q l, fl l, BitVec.ofNat 64 (fld d 0 64), BitVec.ofNat 64 (fld d 8 64), fld d 16 16, none⟩) _ fun l hl => by
      obtain ⟨hq, hfl, hfree, hzero⟩ := hlanes l hl
      simp only [hq, hfl, hfree, hzero, bne_self_eq_false, Bool.false_eq_true, if_false]]
  exact foldLanes_ok hwrite

theorem exec_rayres {s t : State} {i : Iss} {f : RForm} {a : Nat → Word} {r : Nat → Ray} {res : Nat → RayResult} (h : Ready s i (viewRayres f))
    (hlanes : ∀ l ∈ i.lanes (i.en (viewRayres f)), rd1 (s.begun i (viewRayres f)) i l f.a = .ok (a l) ∧
      (i.group.lane i.band l).rays.find? (fun r => r.handle == (a l).toNat) = some (r l) ∧ (r l).result = some (res l) ∧
      (r l).trap = none)
    (hwrite : foldE (fun (u : State) l => wrRun (u.modLanes i (maskOf (· == l)) fun _ y =>
        { y with rays := y.rays.filter fun x => x.handle != (r l).handle }) i l f.d 0 (res l).words)
      (s.begun i (viewRayres f)) (i.lanes (i.en (viewRayres f))) = .ok t) :
    exec (.rayres f) s = .next (t.advance i i.active) := by
  refine issueHold_holds (vf := fun _ => viewRayres f) h ?_
  simp only
  rw [mapLanes_ok (g := fun l => (l, r l)) fun l hl => by
    obtain ⟨ha, hfind, _⟩ := hlanes l hl
    simp only [ha, hfind]]
  have hnone : ((i.lanes (i.en (viewRayres f))).map fun l => (l, r l)).filter (fun x => x.2.result.isNone) = [] := by
    rw [List.filter_eq_nil_iff]
    rintro _ hx
    obtain ⟨l, hl, rfl⟩ := List.mem_map.mp hx
    obtain ⟨_, _, hres, _⟩ := hlanes l hl
    simp [hres]
  simp only [hnone, List.isEmpty_nil, Bool.not_true, Bool.false_eq_true, if_false, List.map_map, Function.comp_def]
  rw [gather_map_ok (g := fun l => (l, r l)) (lane := fun l => l) fun l hl => by
    obtain ⟨_, _, _, htrap⟩ := hlanes l hl
    simp only [htrap]]
  rw [foldE_ext (g := fun u l => wrRun (u.modLanes i (maskOf (· == l)) fun _ y =>
    { y with rays := y.rays.filter fun x => x.handle != (r l).handle }) i l f.d 0 (((r l).result.map RayResult.words).getD []))
    _ fun u l hl => by
      obtain ⟨_, _, hres, _⟩ := hlanes l hl
      rw [hres]
      rfl] at hwrite
  simp only [foldLanes_map, foldLanes_ok hwrite]
  rfl

/-- Settles O35: the three texture instructions are one body, each with its own request of a lane; rays are cast and collected lane by lane. -/
theorem texturesAndRays : Obligations.TexturesAndRays := by
  refine ⟨?textures, fun _ _ _ _ _ _ _ _ => exec_rayq, fun _ _ _ _ _ _ _ => exec_rayres⟩
  case textures =>
    rintro s t i f ins v k lane d0 d x c b ps as (⟨rfl, rfl, rfl, rfl⟩ | ⟨rfl, rfl, rfl, rfl⟩ | ⟨rfl, rfl, rfl, rfl⟩) h hdesc hlanes
      hwrite
    all_goals exact texIssue_answers h hdesc hlanes hwrite

end Sys2Proof.Machine
end

section
/-! PROOFS. Work, graphics and system instructions (12_ref_work_graphics_system.md): records and the shading atlas. -/

namespace Sys2Proof.Machine

open Sys2Proof

/-! ### `EMIT` (12 R278, 14 R301) -/

/-- A lane's record of `size` bytes for an output: kept with a task's version, or sent. -/
def emitLane (i : Iss) (f : RForm) (out size : Nat) (o : Nat → Nat) (u : State) (l : Nat) : Except Halt State :=
  if i.holds then wr1 (u.hold i (.emit out (spGetList i.group.scratch (o l) size))) i l .b32 f.d (replyWord 1 0)
  else .ok (sendRecord u i f.d l out (spGetList i.group.scratch (o l) size))

theorem exec_emit {s t : State} {i : Iss} {f : RForm} {a : Nat → Word} {o : Nat → Nat} {g size : Nat} (h : Ready s i (viewEmit f))
    (hg : g = (i.gReg f.b.idx.toNat).toNat) (hsize : size = bitsOf g 31 16) (hhigh : bitsOf g 63 32 = 0) (hmin : 16 ≤ size)
    (hmax : size ≤ 1024) (hmul : size % 16 = 0)
    (hlanes : ∀ l ∈ i.lanes (i.en (viewEmit f)), rd1 (s.begun i (viewEmit f)) i l f.a = .ok (a l) ∧ recordPlace i size (a l) = .ok (o l))
    (hwrite : foldE (emitLane i f (bitsOf g 15 0) size o) (s.begun i (viewEmit f)) (i.lanes (i.en (viewEmit f))) = .ok t) :
    exec (.emit f) s = .next (t.advance i i.active) := by
  refine issue_advances (vf := fun _ => viewEmit f) h ?_
  simp only [← hg, ← hsize, hhigh, hmul, Nat.not_lt.mpr hmin, Nat.not_lt.mpr hmax, bne_self_eq_false, decide_false, Bool.or_self,
    Bool.false_eq_true, if_false]
  rw [mapLanes_ok (g := fun l => (l, .ok (o l))) fun l hl => by
    obtain ⟨ha, hplace⟩ := hlanes l hl
    rw [ha, ← hplace]
    rfl]
  simp only
  rw [gather_map_ok (f := fun l => .ok (o l)) (g := o) (lane := fun l => l) fun _ _ => rfl]
  have hpairs : (i.lanes (i.en (viewEmit f))).zip ((i.lanes (i.en (viewEmit f))).map o) = (i.lanes (i.en (viewEmit f))).map fun l => (l, o l) :=
    List.map_prod_left_eq_zip.symm
  simp only [hpairs, foldLanes_map]
  exact foldLanes_ok hwrite

/-! ### `ATLASREQ` (12 R277, 14 R314) -/

/-- The request of a lane that asks for block `a` of the texture that a descriptor names; none outside the texture. -/
def atlasReq (i : Iss) (f : RForm) (v : Nat) (a : Nat → Word) (l : Nat) : Nat × Option AtlasReq :=
  let bx := (a l).toNat % 65536
  let by_ := (a l).toNat / 65536
  (l, if bx < ((texOf v).w + 7) / 8 ∧ by_ < ((texOf v).h + 7) / 8 then
    some ⟨l, BitVec.ofNat 64 (i.launch.desc.outBase.toNat + 64 * fld v 52 16),
      BitVec.ofNat 64 (fld v 40 64 + 4 * (by_ * (((texOf v).w + 7) / 8) + bx)),
      BitVec.ofNat 128 (bx + by_ * 2 ^ 16 + fld v 48 32 % 2 ^ 30 * 2 ^ 32 + (i.gReg f.b.idx.toNat).toNat * 2 ^ 64)⟩ else none)

/-- What the accesses of an `ATLASREQ` to the state words need. -/
def atlasNeed : Need := { acc := .atomic, aligned := true, types := atomTypes }

theorem exec_atlasreq {s s1 t : State} {i : Iss} {f : RForm} {v : Nat} {a : Nat → Word} {as as1 : List Acc} {w : Bool}
    {reqs : List (Nat × Option AtlasReq)} (h : Ready s i (viewAtlasreq f)) (hplain : i.launch.desc.versioned = false)
    (hread : readDesc (s.begun i (viewAtlasreq f)) i (i.en (viewAtlasreq f)) f.b = .ok v) (hok : texOk v = true)
    (hout : fld v 52 16 < i.launch.desc.outputs)
    (hlanes : ∀ l ∈ i.lanes (i.en (viewAtlasreq f)), rd1 (s.begun i (viewAtlasreq f)) i l f.a = .ok (a l))
    (hreqs : reqs = (i.lanes (i.en (viewAtlasreq f))).map (atlasReq i f v a))
    (hcheck : checkAll (s.begun i (viewAtlasreq f)) i atlasNeed 4 (reqs.filterMap fun r => r.2.map fun q => (r.1, q.word)) = .ok as)
    (hprep : prepareStore (s.begun i (viewAtlasreq f)) i atlasNeed 4 as = .ok (s1, as1))
    (hsettle : atlasAll f i reqs (s1.modLanes i (i.active &&& ~~~ (i.en (viewAtlasreq f))) fun _ y => { y with wait := .atlasDone }) false =
      .ok (t, w)) :
    exec (.atlasreq f) s = .next (t.modGroupOn i.core i.group.gid fun g => g.modBand i.band fun b => b.atlasRelease i.pc) := by
  refine issueHold_holds (vf := fun _ => viewAtlasreq f) h ((notVersioned_plain hplain _).trans ?_)
  simp only [hread, hok, Nat.not_le.mpr hout, decide_false, Bool.not_true, Bool.or_self, Bool.false_eq_true, if_false]
  rw [mapLanes_ok (g := fun l => (l, a l)) fun l hl => by rw [hlanes l hl]; rfl]
  simp only [List.map_map, Function.comp_def, Bool.and_eq_true, decide_eq_true_eq]
  unfold atlasReq at hreqs
  unfold atlasNeed at hcheck hprep
  simp only [← hreqs, hcheck, hprep, hsettle]

/-- Settles O36: records of a legal size lie in the scratchpad and go lane by lane; the requests of an `ATLASREQ` are settled together. -/
theorem recordsAndRequests : Obligations.RecordsAndRequests := by
  refine ⟨?emit, ?atlas⟩
  case emit =>
    intro s t i f a o h g size hhigh hmin hmax hmul hlanes hwrite
    exact exec_emit h rfl rfl hhigh hmin hmax hmul hlanes hwrite
  case atlas =>
    intro s s1 t i f v a as as1 w h hplain hread hok hout hlanes reqs nd hcheck hprep hsettle
    exact exec_atlasreq h hplain hread hok hout hlanes rfl hcheck hprep hsettle

end Sys2Proof.Machine
end

section
/-! PROOFS. Work, graphics and system instructions (12_ref_work_graphics_system.md): software traps, special registers, returns from a
handler and the privileged services. -/

namespace Sys2Proof.Machine

open Sys2Proof

/-! ### `TRAP` and `BRKPT` (12 R279) -/

/-- An instruction that names no register leaves nothing before its writes. -/
theorem State.begun_of_off (s : State) (i : Iss) {v : View} (h : ∀ u ∈ v.uses, ∃ sp, u = .off sp) : s.begun i v = s := by
  have hkill : s.kill i (i.en v) v.uses = s := by
    have hnone : (v.uses.all fun u => (u.kills Lane.init).isEmpty) = true := by
      rw [List.all_eq_true]
      intro u hu
      obtain ⟨sp, rfl⟩ := h u hu
      rfl
    simp only [State.kill, hnone, Bool.or_true, if_true]
  have hspill : ((lanesOf (i.en v)).flatMap fun l => v.uses.flatMap fun u => (u.spilled (i.group.lane i.band l)).map fun p =>
      (stackAddr i.sess i.bandOf p.1 l, p.2)) = [] := by
    refine List.flatMap_eq_nil_iff.mpr fun l _ => List.flatMap_eq_nil_iff.mpr fun u hu => ?_
    obtain ⟨sp, rfl⟩ := h u hu
    rfl
  unfold State.begun State.operands State.signSpills
  rw [hkill]
  split
  · rfl
  · simp only [hspill, List.filter_nil, List.foldl_nil]
    exact (congrArg _ (funext Group.signed_zero)).trans (s.modGroupOn_id _ _)

theorem exec_trap {s : State} {i : Iss} {f : IForm} (h : Ready s i (viewTrap f)) :
    exec (.trap f) s =
      .next ((s.begun i (viewTrap f)).takeTrap i (i.en (viewTrap f)) ((mkTrap 0x0F 0).at (f.imm.setWidth 64))) := by
  rw [s.begun_of_off i (v := viewTrap f) (by simp [viewTrap, viewI])]
  exact issue_trap (vf := fun _ => viewTrap f) false false h rfl

theorem exec_brkpt {s : State} {i : Iss} {f : RForm} (h : Ready s i (viewBrkpt f)) :
    exec (.brkpt f) s = .next ((s.begun i (viewBrkpt f)).takeTrap i (i.en (viewBrkpt f)) (mkTrap 0x0F 1)) := by
  rw [s.begun_of_off i (v := viewBrkpt f) (by simp [viewBrkpt, viewR])]
  exact issue_trap (vf := fun _ => viewBrkpt f) false false h rfl

/-! ### `RDSR` and `WRSR` (12 R280 to R282) -/

/-- A lane's view of the special register, written to its destination. -/
def rdsrLane (s : State) (i : Iss) (f : IForm) (u : State) (l : Nat) : Except Halt State :=
  let v := readSr s i l (srIndex f) (i.gReg f.a.idx.toNat).toNat
  if srWide (srIndex f) then wr2 u i l f.d (BitVec.ofNat 64 v) else wr1 u i l .b32 f.d (BitVec.ofNat 32 v)

theorem exec_rdsr {s t : State} {i : Iss} {f : IForm} (h : Ready s i (viewRdsr f i.lead))
    (hwrite : foldE (rdsrLane (s.begun i (viewRdsr f i.lead)) i f) (s.begun i (viewRdsr f i.lead)) (i.lanes (i.en (viewRdsr f i.lead))) =
      .ok t) : exec (.rdsr f) s = .next (t.advance i i.active) := by
  refine issue_advances (vf := fun i => viewRdsr f i.lead) h ?_
  simp only
  rw [perLane_ok _ fun _ _ => rfl]
  exact foldLanes_ok hwrite

theorem lanesOf_ne_nil {m : LaneMask} (h : m ≠ 0) : lanesOf m ≠ [] := by
  contrapose! h
  refine BitVec.eq_of_getLsbD_eq fun l _ => ?_
  have hnot : l ∉ lanesOf m := h ▸ List.not_mem_nil
  simpa [mem_lanesOf_iff] using hnot

theorem lanes_ne_nil {s : State} {i : Iss} {v : View} (h : Ready s i v) : i.lanes (i.en v) ≠ [] := by
  unfold Iss.lanes
  split
  · exact List.cons_ne_nil _ _
  · exact lanesOf_ne_nil (en_ne_zero h.2)

/-- Each place in a list of images is the image of an item. -/
theorem getD_map_of_lt {α β : Type} {xs : List α} {n : Nat} (h : n < xs.length) (g : α → β) (b : β) :
    ∃ x ∈ xs, (xs.map g).getD n b = g x :=
  ⟨xs[n], List.getElem_mem h, by simp [h]⟩

section Wrsr

variable {s : State} {i : Iss} {f : IForm} {x : Nat → Nat} (h : Ready s i (viewWrsr f))
  (hread : ∀ l ∈ i.lanes (i.en (viewWrsr f)), srLimit (srIndex f) (x l) = true ∧
    (if srWide (srIndex f) then (rd2 (s.begun i (viewWrsr f)) i l f.a).map (·.toNat) = .ok (x l)
     else (rd1 (s.begun i (viewWrsr f)) i l f.a).map (·.toNat) = .ok (x l)))

include hread in
/-- The values that the enabled lanes write, each within the limits of the register. -/
theorem wrsrRead_ok : ∀ l ∈ i.lanes (i.en (viewWrsr f)), srLimit (srIndex f) (x l) = true ∧
    (if srWide (srIndex f) then (rd2 (s.begun i (viewWrsr f)) i l f.a).map (·.toNat)
     else (rd1 (s.begun i (viewWrsr f)) i l f.a).map (·.toNat)) = .ok (x l) := by
  intro l hl
  obtain ⟨hlimit, hvalue⟩ := hread l hl
  refine ⟨hlimit, ?_⟩
  split at hvalue
  · next hwide => exact (if_pos hwide).trans hvalue
  · next hnarrow => exact (if_neg hnarrow).trans hvalue

include h hread

theorem exec_wrsr_thread (hthread : srPriv (srIndex f) = false) :
    exec (.wrsr f) s = .next (((i.lanes (i.en (viewWrsr f))).foldl (fun t l => t.modLanes i (maskOf (· == l)) fun _ y =>
      y.writeSr (srIndex f) (x l)) (s.begun i (viewWrsr f))).advance i i.active) := by
  refine issue_advances (vf := fun _ => viewWrsr f) h ?_
  simp only
  rw [mapLanes_ok (g := fun l => (l, x l)) fun l hl => by
    obtain ⟨hlimit, hvalue⟩ := wrsrRead_ok hread l hl
    simp only [hvalue, hlimit, if_true]]
  simp only [hthread, List.foldl_map, Bool.false_eq_true, if_false]

theorem exec_wrsr_session (hpriv : srPriv (srIndex f) = true) : ∃ l ∈ i.lanes (i.en (viewWrsr f)),
    exec (.wrsr f) s =
      .next (((s.begun i (viewWrsr f)).fresh.2.writeSession i.sess.slot (srIndex f) (x l)).advance i i.active) := by
  have hsome : 0 < (i.lanes (i.en (viewWrsr f))).length := List.length_pos_iff.mpr (lanes_ne_nil h)
  have hplace : (if (i.lanes (i.en (viewWrsr f))).length == 1 then 0
      else Config.freeNat (s.begun i (viewWrsr f)).fresh.1 % (i.lanes (i.en (viewWrsr f))).length) < (i.lanes (i.en (viewWrsr f))).length := by
    split
    · exact hsome
    · exact Nat.mod_lt _ hsome
  obtain ⟨l, hl, hvalue⟩ := getD_map_of_lt hplace (fun l => (l, x l)) (0, 0)
  refine ⟨l, hl, issue_advances (vf := fun _ => viewWrsr f) h ?_⟩
  simp only
  rw [mapLanes_ok (g := fun l => (l, x l)) fun l hl => by
    obtain ⟨hlimit, hvalue⟩ := wrsrRead_ok hread l hl
    simp only [hvalue, hlimit, if_true]]
  simp only [hpriv, List.length_map, hvalue, if_true]

end Wrsr

/-- Settles O37: a software trap has no operands, and every lane's view or value is known before the first write. -/
theorem softwareTrapsAndSpecialRegisters : Obligations.SoftwareTrapsAndSpecialRegisters :=
  ⟨⟨fun _ _ _ => exec_trap, fun _ _ _ => exec_brkpt⟩, fun _ _ _ _ => exec_rdsr,
    fun _ _ _ _ h hread => ⟨exec_wrsr_thread h hread, exec_wrsr_session h hread⟩⟩

/-! ### `TRET` (12 R283, 20 R344) -/

/-- A lane of a handled unit as its trap frame has it, and the positions above its window given up. -/
def restoreLane (i : Iss) (fr : Nat → TrapFrame) (fill : Nat → Nat × List Word) (t : State) (l : Nat) : State :=
  deadFill (t.modLanes i (maskOf (· == l)) fun _ x => x.restore (fr l) (fill l).1 (fill l).2) i l
    ((i.group.lane i.band l).base + (i.group.lane i.band l).size) ((fr l).base + (fr l).size)

theorem headD_mem {α : Type} {xs : List α} (h : xs ≠ []) (d : α) : xs.headD d ∈ xs := by
  cases xs with
  | nil => exact absurd rfl h
  | cons x xs => exact List.mem_cons_self

theorem exec_tret {s : State} {i : Iss} {f : RForm} {action l0 : Nat} {fr : Nat → TrapFrame} {fill : Nat → Nat × List Word} {unit : LaneMask}
    (h : Ready s i (viewTret f)) (hlead : i.lead = false) (haction : action ≤ 2)
    (hl0 : l0 = (lanesOf (i.en (viewTret f))).headD 0) (hunit : unit = handled i.bandOf l0)
    (hacts : ∀ l ∈ lanesOf (i.en (viewTret f)), (i.bandOf.lane l).frame = some (fr l) ∧
      (rd1 (s.begun i (viewTret f)) i l f.a).map (·.toNat) = .ok action)
    (hfills : ∀ l ∈ lanesOf unit, (i.bandOf.lane l).frame = some (fr l) ∧ tretFill (s.begun i (viewTret f)) i l (fr l) =
      .ok (l, (i.group.lane i.band l).base + (i.group.lane i.band l).size, fr l, fill l)) :
    exec (.tret f) s = .next (((lanesOf unit).foldl (restoreLane i fr fill) (s.begun i (viewTret f)).fresh.2).resumeUnit i.group
      (.lanes i.band unit) { mkTrap (fr l0).code.toNat 0 with acted := (fr l0).lanes } action) := by
  have hsome : lanesOf (i.en (viewTret f)) ≠ [] := lanesOf_ne_nil (en_ne_zero h.2)
  have hframe0 : (i.bandOf.lane l0).frame = some (fr l0) := by
    obtain ⟨hframe, _⟩ := hacts l0 (hl0 ▸ headD_mem hsome 0)
    exact hframe
  have hframes : ((lanesOf (i.en (viewTret f))).any fun l => (i.bandOf.lane l).frame.isNone) = false := by
    rw [List.any_eq_false]
    intro l hl
    obtain ⟨hframe, _⟩ := hacts l hl
    simp [hframe]
  have hfirst : ((lanesOf (i.en (viewTret f))).map fun _ => action).headD 0 = action := by
    obtain ⟨_, _, hhead⟩ := List.mem_map.mp (headD_mem (mt List.map_eq_nil_iff.mp hsome) 0)
    exact hhead.symm
  have hone : (((lanesOf (i.en (viewTret f))).map fun _ => action).all (· == action)) = true := by simp
  refine issueHold_holds (vf := fun _ => viewTret f) h ?_
  simp only [hlead, hframes, Bool.or_self, Bool.false_eq_true, if_false]
  rw [mapLanes_ok (g := fun _ => action) fun l hl => by
    obtain ⟨_, hvalue⟩ := hacts l hl
    cases hread : rd1 (s.begun i (viewTret f)) i l f.a with
    | error e => rw [hread] at hvalue; cases hvalue
    | ok v =>
      rw [hread] at hvalue
      cases hvalue
      exact if_pos haction]
  simp only [← hl0, ← hunit]
  rw [mapLanes_ok (g := fun l => (l, (i.group.lane i.band l).base + (i.group.lane i.band l).size, fr l, fill l)) fun l hl => by
    obtain ⟨hframe, hfill⟩ := hfills l hl
    simp only [hframe, hfill]]
  simp only [hfirst, hone, if_true, List.foldl_map, hframe0, Option.map_some, Option.getD_some]
  rfl

/-- Settles O38: the acting lanes' one action is the unit's, and every lane of the unit is restored before the unit resumes. -/
theorem handlerReturns : Obligations.HandlerReturns := by
  intro s i f action fr fill h hlead haction b en l0 unit hacts hfills
  exact exec_tret h hlead haction rfl rfl hacts hfills

/-! ### `TLBINV`, `CFLUSH` and `FORK` (12 R284 to R286) -/

theorem exec_tlbinv {s : State} {i : Iss} {f : RForm} {a : Nat → Dword} {b : Nat → Word} (h : Ready s i (viewTlbinv f))
    (hread : ∀ l ∈ i.lanes (i.en (viewTlbinv f)), rd2 (s.begun i (viewTlbinv f)) i l f.a = .ok (a l) ∧
      rd1 (s.begun i (viewTlbinv f)) i l f.b = .ok (b l) ∧ (b l).toNat % 4 ≠ 3 ∧ (b l).toNat / 4 % 2 ^ 14 = 0 ∧ (b l).toNat / 65536 ≤ 127) :
    exec (.tlbinv f) s = .next (((i.lanes (i.en (viewTlbinv f))).foldl (fun (t : State) l =>
      t.tlbInv ((b l).toNat % 4) ((b l).toNat / 65536) ((a l).toNat % 2 ^ 48)) (s.begun i (viewTlbinv f))).advance i i.active) := by
  refine issue_advances (vf := fun _ => viewTlbinv f) h (perLane_total
    (vals := fun l => ((b l).toNat % 4, (b l).toNat / 65536, (a l).toNat % 2 ^ 48)) (fun t _ v => t.tlbInv v.1 v.2.1 v.2.2) fun l hl => ?_)
  obtain ⟨ha, hb, hkind, hzero, hslot⟩ := hread l hl
  simp only [ha, hb, beq_eq_false_iff_ne.mpr hkind, hzero, Nat.not_lt.mpr hslot, bne_self_eq_false, decide_false, Bool.or_self,
    Bool.false_eq_true, if_false]

theorem exec_cflush {s : State} {i : Iss} {f : RForm} {a : Nat → Dword} {b : Nat → Word} (h : Ready s i (viewCflush f))
    (hread : ∀ l ∈ i.lanes (i.en (viewCflush f)), rd2 (s.begun i (viewCflush f)) i l f.a = .ok (a l) ∧
      rd1 (s.begun i (viewCflush f)) i l f.b = .ok (b l) ∧ (b l).toNat % 4 ≠ 3 ∧ (b l).toNat / 4 % 4 ≠ 3 ∧ (b l).toNat < 16) :
    exec (.cflush f) s = .next (((i.lanes (i.en (viewCflush f))).foldl (fun (t : State) l =>
      (if (b l).toNat / 4 % 4 = 2 then (t.writeType 0 i.core).writeType 1 i.core else t).flush i.core ((b l).toNat % 4) ((b l).toNat / 4 % 4)
        ((a l).toNat / 4096)) (s.begun i (viewCflush f))).advance i i.active) := by
  refine issue_advances (vf := fun _ => viewCflush f) h ((perLane_total
    (vals := fun l => ((b l).toNat % 4, (b l).toNat / 4 % 4, (a l).toNat / 4096))
    (fun t _ v => (if v.2.1 == 2 then (t.writeType 0 i.core).writeType 1 i.core else t).flush i.core v.1 v.2.1 v.2.2) fun l hl => ?_).trans ?_)
  · obtain ⟨ha, hb, hkind, hreach, hhigh⟩ := hread l hl
    simp only [ha, hb, beq_eq_false_iff_ne.mpr hkind, beq_eq_false_iff_ne.mpr hreach, Nat.div_eq_of_lt hhigh, bne_self_eq_false, Bool.or_self,
      Bool.false_eq_true, if_false]
  · simp only [beq_iff_eq]

theorem lanewise_fork {s : State} {i : Iss} {f : RForm} {a : Nat → Dword} {b : Nat → Word} (h : Ready s i (viewFork f))
    (hread : ∀ l ∈ i.lanes (i.en (viewFork f)), rd2 (s.begun i (viewFork f)) i l f.a = .ok (a l) ∧
      rd1 (s.begun i (viewFork f)) i l f.b = .ok (b l) ∧ (b l).toNat ≤ 127) :
    Lanewise (.fork f) (viewFork f) s i fun u l =>
      wr1 (u.fork i.sess (a l).toNat (b l).toNat).1 i l .b32 f.d (u.fork i.sess (a l).toNat (b l).toNat).2 := by
  refine .of_perLane (vals := fun l => ((a l).toNat, (b l).toNat)) h rfl rfl rfl fun l hl => ?_
  obtain ⟨ha, hb, hslot⟩ := hread l hl
  simp only [ha, hb, Nat.not_lt.mpr hslot, if_false]

/-- Settles O39: every lane's operands are read and within their limits before the first lane acts. -/
theorem privilegedServices : Obligations.PrivilegedServices :=
  ⟨fun _ _ _ _ _ => exec_tlbinv, fun _ _ _ _ _ => exec_cflush, fun _ t _ _ _ _ h hread => lanewise_fork h hread t⟩

end Sys2Proof.Machine
end

section
/-! PROOFS. Matrix engine and dynamic work (13_matrix_and_dynamic_work.md): the events of the matrix engine, the load port, the copy engine,
graph nodes and collectives. -/

namespace Sys2Proof.Machine

open Sys2Proof

/-! ### `MATRIX_ENGINE_START` and `MATRIX_ENGINE_END` (13 R287, R288) -/

section Engine

variable {s : State} {core : Nat} {o : MatOp} {os : List MatOp}

theorem exec_matrixEngineStart_drain {g : Group} {gid band tile i0 n : Nat} {ent : BitVec 512} {factor : Word} {rnd : BitVec 3}
    {seeds : List (Dword × Word)} {rows : List DrainRow} (hidle : (s.core core).mrun = none)
    (hqueue : (s.core core).mqueue = .drain gid band tile ent i0 n factor rnd seeds rows :: os)
    (hgroup : ((s.core core).active.groups.find? fun g => g.gid == gid) = some g) :
    exec (.matrixEngineStart core) s = .next (drainStores
      (s.modCore core fun c => { c with mrun := some (.drain gid band tile ent i0 n factor rnd seeds rows), mqueue := os })
      g band tile ent.toNat i0 n factor.toNat rnd.toNat seeds rows) := by
  change execMatrixEngineStart core s = _
  simp only [execMatrixEngineStart, hidle, hqueue, MatOp.gid, hgroup]

/-- An instruction other than a drain stores nothing when it starts. -/
theorem exec_matrixEngineStart_plain (hidle : (s.core core).mrun = none) (hqueue : (s.core core).mqueue = o :: os)
    (hplain : ∀ gid band tile ent i0 n factor rnd seeds rows, o ≠ .drain gid band tile ent i0 n factor rnd seeds rows) :
    exec (.matrixEngineStart core) s = .next (s.modCore core fun c => { c with mrun := some o, mqueue := os }) := by
  change execMatrixEngineStart core s = _
  cases o with
  | drain gid band tile ent i0 n factor rnd seeds rows => exact absurd rfl (hplain gid band tile ent i0 n factor rnd seeds rows)
  | mma | copy | none | zero => simp only [execMatrixEngineStart, hidle, hqueue]

theorem exec_matrixEngineEnd (hrun : (s.core core).mrun = some o) :
    exec (.matrixEngineEnd core) s =
      .next ((s.modGroupOn core o.gid fun g => { g with tiles := o.apply g }).modCore core fun c => { c with mrun := none }) := by
  change execMatrixEngineEnd core s = _
  simp only [execMatrixEngineEnd, hrun]

end Engine

/-! ### `SLOT_LOAD_COMPLETE` and `SLOT_RELOAD` (11 R237, R245, 13 R290) -/

/-- A slot that has a record and is not valid is read again from it. -/
theorem reloadData_ok {s : State} {core : Nat} {p : SlotLoad} {i : Iss} {d : SlotData}
    (hiss : s.issOf core p.gid (.lanes p.band (BitVec.allOnes 32)) = some i) (hrecord : (slotAt i p.slot).hasRecord = true)
    (hstale : (slotAt i p.slot).valid = false)
    (hread : slotData s i (slotAt i p.slot).entry.toNat (slotAt i p.slot).i0 (slotAt i p.slot).i1 (slotAt i p.slot).i2
      (slotAt i p.slot).i3 = .ok d) :
    reloadData s core p = some (i, slotAt i p.slot, .ok d) := by
  simp only [reloadData, hiss, hrecord, hstale, hread, Bool.not_true, Bool.or_self, Bool.false_eq_true, if_false]

section Port

variable {s : State} {core : Nat} {p : SlotLoad} {ps : List SlotLoad} {g : Group} (hport : (s.core core).port = p :: ps)
  (hgroup : ((s.core core).active.groups.find? fun g => g.gid == p.gid) = some g)

include hport hgroup

theorem exec_slotLoadComplete_filled (hloading : (g.slots.getD p.slot WSlot.init).loading = true) :
    exec (.slotLoadComplete core) s =
      .next ((s.modGroupOn core p.gid fun h => h.slotArrived p.slot).modCore core fun c => { c with port := ps }) := by
  change execSlotLoadComplete core s = _
  simp only [execSlotLoadComplete, hport, hgroup, hloading, if_true]

/-- A load that a swap found in flight is made again from its record. -/
theorem exec_slotLoadComplete_reissued {i : Iss} {d : SlotData} (hswapped : (g.slots.getD p.slot WSlot.init).loading = false)
    (hload : p.reload = false) (hdata : reloadData s core p = some (i, slotAt i p.slot, .ok d)) :
    exec (.slotLoadComplete core) s =
      .next (((s.fillLoad i p.slot (slotAt i p.slot).entry.toNat (slotAt i p.slot).i0 (slotAt i p.slot).i1 (slotAt i p.slot).i2
        (slotAt i p.slot).i3 d).modGroupOn core p.gid fun h => h.slotArrived p.slot).modCore core fun c => { c with port := ps }) := by
  change execSlotLoadComplete core s = _
  simp only [execSlotLoadComplete, hport, hgroup, hswapped, hload, hdata, Bool.false_eq_true, if_false]

end Port

theorem exec_slotReload {s : State} {core rgs band k : Nat} {g : Group} {i : Iss} {d : SlotData} (hgroup : s.groupAt? core rgs = some g)
    (hwait : waitingReload g band = some k) (hiss : s.issOf core g.gid (.lanes band (BitVec.allOnes 32)) = some i)
    (hdata : reloadData s core { gid := g.gid, band := band, slot := k, reload := true } = some (i, slotAt i k, .ok d)) :
    exec (.slotReload core rgs band) s = .next ((s.fillLoad i k (slotAt i k).entry.toNat (slotAt i k).i0 (slotAt i k).i1
      (slotAt i k).i2 (slotAt i k).i3 d).modLanes i (BitVec.allOnes 32) fun _ y => { y with wait := .slot [k] }) := by
  change execSlotReload core rgs band s = _
  simp only [execSlotReload, hgroup, hwait, hiss, hdata]

/-! ### `COPY_COMPLETE` and `HELD_ENGINE_WRITE` (10 R228, R229) -/

section Copy

variable {s : State} {cmd : Nat} {c : Cmd} {x : Session} {fill : Bool} {src dst desc : Dword} {len : Nat} {ctrl ctr : Word}
  (hcmd : s.cmd? cmd = some c) (hsession : s.session? c.session = some x) (hfault : c.fault = none)
  (hkind : c.kind = .copy fill src dst len ctrl ctr desc)

include hcmd hsession hfault hkind

theorem exec_copyComplete (hfree : c.held = false) :
    exec (.copyComplete cmd) s =
      .next (if s.anyOut (copyGroups s c fill src.toNat dst.toNat ctrl.toNat) then s.modCmd cmd fun d => { d with held := true }
        else s.runCopy x c fill src.toNat dst.toNat len ctrl.toNat ctr.toNat desc) := by
  change execCopyComplete cmd s = _
  simp only [execCopyComplete, hcmd, hsession, hfault, hfree, hkind, Option.isSome_none, Bool.or_self, Bool.false_eq_true, if_false]
  exact (apply_ite Host.Outcome.next ..).symm

/-- A held copy moves once every group that it reaches is resident. -/
theorem exec_heldEngineWrite_copy (hheld : c.held = true)
    (hresident : s.anyOut (copyGroups s c fill src.toNat dst.toNat ctrl.toNat) = false) :
    exec (.heldEngineWrite cmd) s = .next ((s.modCmd cmd fun d => { d with held := false }).runCopy x { c with held := false } fill
      src.toNat dst.toNat len ctrl.toNat ctr.toNat desc) := by
  change execHeldEngineWrite cmd s = _
  simp only [execHeldEngineWrite, hcmd, hsession, hfault, hheld, hkind, hresident, Option.isSome_none, Bool.not_true, Bool.or_self,
    Bool.false_eq_true, if_false]

end Copy

/-! ### `NODE_FINISH` (05 R111) -/

theorem exec_nodeFinish_ended {s : State} {session : Nat} {node : Dword} {n : Node} (hnode : s.node? session node = some n)
    (hended : n.st = .ended) :
    (let s2 := n.succs.foldl (fun t y => t.succDone session (n.status != 0) y)
       (s.modNode session node fun m => { m with st := .finished })
     exec (.nodeFinish session node) s = .next { s2 with
       queues := s2.queues.map fun (q : QueueCtx) =>
         if q.session == session then { q with nodes := q.nodes.filter fun (a : Dword) => a != node } else q }) := by
  intro s2
  change execNodeFinish session node s = _
  simp only [execNodeFinish, hnode, hended]
  rfl

/-! ### `COLLECTIVE_COMPLETE` (10 R232, 06 R129) -/

/-- The number of the collective that the group which names a cluster has joined. -/
def State.collectiveOf (s : State) (session cluster : Nat) : Option Nat :=
  s.cmds.findSome? fun c => match c.kind with
    | .collective _ _ _ _ _ k _ => if c.session == session && c.gid == cluster then some k else none
    | _ => none

/-- The groups of the cluster of `g`, in rank order. -/
def State.clusterOf (s : State) (g : Group) (size : Nat) : List Group := (List.range size).filterMap (s.member g)

/-- The order of a collective is that of the cores where its members stand, at the scope that their descriptors name. -/
theorem State.collOrder_of_cores {s t : State} {m0 : Member} {ms : List Member}
    (hcores : ∀ m ∈ m0 :: ms, (t.find? m.gid).map (·.1) = (s.find? m.gid).map (·.1)) :
    (let cores := ((m0 :: ms).filterMap fun m => (s.find? m.gid).map (·.1)).dedup
     t.collOrder (m0 :: ms) = (t.releaseOn cores (bitsOf m0.ctrl 10 8)).acquireOn cores (bitsOf m0.ctrl 10 8)) := by
  intro cores
  rw [State.collOrder, List.filterMap_congr hcores]
  rfl

/-- A collective that every member has joined, whose buffers are legal and whose accesses go through. -/
theorem exec_collectiveComplete {s t : State} {session cluster k : Nat} {x : Session} {g : Group} {l : Launch} {srcs : List (List Byte)}
    {m0 : Member} {ms : List Member} (hsession : s.session? session = some x) (hgroup : s.anyGroup cluster = some g)
    (hlaunch : s.launchOf? g = some l) (hnumber : s.collectiveOf session cluster = some k)
    (hmembers : (s.clusterOf g l.desc.cluster).filterMap (fun h => s.joined h k) = m0 :: ms)
    (hjoined : ∀ h ∈ s.clusterOf g l.desc.cluster, (s.joined h k).isSome = true)
    (hresident : s.anyOut (s.clusterOf g l.desc.cluster) = false) (hfault : ∀ m ∈ m0 :: ms, m.cmd.fault = none)
    (hlegal : collRefused s (m0 :: ms) l.desc.cluster = none) (hreads : collReads s x (m0 :: ms) = .ok srcs)
    (hwrites : collWrites x (collResult m0 srcs) (m0 :: ms) ((m0 :: ms).foldl (fun u m => u.engSeen m.cmd x m.sbuf m.srcLen) s) =
      (t, none)) :
    exec (.collectiveComplete session cluster) s = .next (collReply (t.collOrder (m0 :: ms)) (m0 :: ms) 0) := by
  change execCollectiveComplete session cluster s = _
  have hcomplete : ((s.clusterOf g l.desc.cluster).any fun h => (s.joined h k).isNone && h.phase == .running) = false := by
    rw [List.any_eq_false]
    intro h hh
    simp [Option.isNone_eq_false_iff.mpr (hjoined h hh)]
  have hserviced : ((m0 :: ms).any fun m => m.cmd.fault.isSome) = false := by
    rw [List.any_eq_false]
    intro m hm
    simp [hfault m hm]
  unfold State.clusterOf at hmembers hcomplete hresident
  simp only [execCollectiveComplete, hsession, hgroup, hlaunch]
  generalize hfound : s.cmds.findSome? _ = found
  obtain rfl : found = some k := hfound.symm.trans hnumber
  simp only [hmembers, hcomplete, hresident, hserviced, hlegal, hreads, hwrites, Bool.or_self, Bool.false_eq_true, if_false]

/-- Settles O44: each event's meaning where its condition holds; a reload reads its record as a reissued load does. -/
theorem engineEvents : Obligations.EngineEvents := by
  refine ⟨?start, fun _ _ _ => exec_matrixEngineEnd, ?port, ?reload, ?copies, fun _ _ _ _ => exec_nodeFinish_ended, ?collective⟩
  case start =>
    intro s core o os hidle hqueue
    refine ⟨?_, exec_matrixEngineStart_plain hidle hqueue⟩
    rintro g gid band tile ent i0 n factor rnd seeds rows rfl hgroup
    exact exec_matrixEngineStart_drain hidle hqueue hgroup
  case port =>
    intro s core p ps g hport hgroup
    refine ⟨exec_slotLoadComplete_filled hport hgroup, ?_⟩
    intro i d hswapped hload hiss hrecord hstale hread
    exact exec_slotLoadComplete_reissued hport hgroup hswapped hload (reloadData_ok hiss hrecord hstale hread)
  case reload =>
    intro s core rgs band k g i d hgroup hwait hiss hrecord hstale hread
    exact exec_slotReload hgroup hwait hiss (reloadData_ok hiss hrecord hstale hread)
  case copies =>
    intro s cmd c x fill src dst desc len ctrl ctr hcmd hsession hfault hkind
    exact ⟨exec_copyComplete hcmd hsession hfault hkind, exec_heldEngineWrite_copy hcmd hsession hfault hkind⟩
  case collective =>
    intro s t session cluster k x g l srcs m0 ms hsession hgroup hlaunch hnumber hmembers hjoined hresident hfault hlegal hreads hwrites
      cores hcores
    rw [exec_collectiveComplete hsession hgroup hlaunch hnumber hmembers hjoined hresident hfault hlegal hreads hwrites,
      State.collOrder_of_cores hcores]

end Sys2Proof.Machine
end

section
/-! PROOFS. Graphics (14_graphics_work_graph.md): streamed pages, rays, the fixed-function nodes and the atlas. -/

namespace Sys2Proof.Machine

open Sys2Proof

/-! ### Units that act for a session (21 R368) -/

section
variable {s : State} {x : Session} {unit : Nat} {act act' : State → Except Trap State} {other : State → State}

/-- A unit's action is judged in the state it begins in. -/
theorem State.unitRun_congr (h : act s = act' s) : s.unitRun x unit act other = s.unitRun x unit act' other := by
  simp only [State.unitRun, h]

theorem State.unitRun_ok {t : State} (hfree : s.unitBlocked x.slot unit = false) (h : act s = .ok t) :
    s.unitRun x unit act other = t.unitClear x.slot unit := by
  simp only [State.unitRun, hfree, Bool.false_eq_true, if_false, h]

end

/-! ### Streamed pages (14 R308, R309) -/

section
variable {s : State} {n : Nat} {t : TexStream} {x : Session} (ht : s.textures[n]? = some t) (hx : s.session? t.session = some x)
include ht hx

theorem exec_textureStreamComplete {d : List Byte} (hpage : streamPage s x t = .ok (some d)) :
    exec (.textureStreamComplete n) s = .next (s.unitRun x 0 (fun u => storePage u x t d) fun u => failStream u t) := by
  change execTextureStreamComplete n s = _
  simp only [execTextureStreamComplete, ht, hx]
  refine congrArg Host.Outcome.next (State.unitRun_congr ?_)
  simp only [hpage]

theorem exec_textureStreamFail (hfree : s.unitBlocked x.slot 0 = false) (hpage : streamPage s x t = .ok none) :
    exec (.textureStreamFail n) s = .next ((failStream s t).unitClear x.slot 0) := by
  change execTextureStreamFail n s = _
  simp only [execTextureStreamFail, ht, hx]
  exact congrArg Host.Outcome.next (State.unitRun_ok hfree (by simp only [hpage]))

end

/-! ### Rays (14 R312, R313) -/

/-- The result that a traversal leaves: the stop that ended it, else the closest hit, else a miss. -/
def Trav.outcome (t : Trav) : RayResult := match t.stop, t.best with
  | some x, _ => x
  | none, some h => .hit h.1 h.2.1 h.2.2.1 h.2.2.2.1 h.2.2.2.2
  | none, none => .miss

theorem exec_rayTraversed {s : State} {core rgs band lane handle : Nat} {g : Group} {r : Ray} {i : Iss} {t : Trav}
    (hg : s.groupAt? core rgs = some g)
    (hr : (g.lane band lane).rays.find? (fun r => r.handle == handle && r.result.isNone) = some r)
    (hi : s.issOf core g.gid (.lanes band (maskOf (· == lane))) = some i)
    (hrun : travRun { i := i, ray := r, area := r.spill.toNat + 8 * (r.stkcap - 16) *
        (((48 * (s.core core).rel + (g.bands[band]?).elim 0 (·.pos)) * 32 + lane) * 4 + handle) } travFuel
      { s := s, stack := [.child 0 r.root.toNat 0], spilled := 0, onchip := 1, ray := r.query, inst := none, best := none, stop := none,
        malformed := false } = some t) :
    exec (.rayTraversed core rgs band lane handle) s =
      .next ((if t.malformed then t.s.modSession g.session fun x => { x with malformed := x.malformed + 1 } else t.s).modGroup g.gid fun h =>
        h.modBand band fun y => (y.modLane lane fun z =>
          { z with rays := z.rays.map fun q => if q.handle == handle then { q with result := some t.outcome } else q }).rayWake) := by
  change execRayTraversed core rgs band lane handle s = _
  simp only [execRayTraversed, hg, hr, hi, hrun]
  rfl

/-! ### Triangles and bins (14 R302 to R304, R315) -/

section
variable {s : State} {ring v : Nat} {r : Ring} {x : Session} {bs : List Byte} (hr : s.rings[ring]? = some r)
  (hx : s.session? r.session = some x) (hnext : s.isNext r (sameNode r) = true) (hdesc : nodeDesc s x r = .ok v)
include hr hx hnext hdesc

section
variable {u1 : State} (hkind : r.kind = 1) (hfree : s.unitBlocked x.slot 1 = false) (hrec : recordOf s x r 64 = .ok bs)
  (hcount : addCounter (s.consume r) x (fld v 16 64) 1 = .ok u1)
include hkind hfree hrec hcount

theorem exec_triangleRecord {t : Tri} (htri : parseTri (fld v 40 8) bs = some t) :
    exec (.triangleRecord ring) s =
      .next (({ u1 with bins := (touchedBins v t).foldl (addToBin r.session r.consumer bs) u1.bins } : State).unitClear x.slot 1) := by
  change execTriangleRecord ring s = _
  simp only [execTriangleRecord, hr, hx, hkind, bne_self_eq_false, hnext, Bool.not_true, Bool.or_self, Bool.false_eq_true, if_false]
  exact congrArg Host.Outcome.next (State.unitRun_ok hfree (by simp only [hdesc, hrec, hcount, htri]))

/-- A record that holds no triangle only counts. -/
theorem exec_triangleRecord_bad {u2 : State} (htri : parseTri (fld v 40 8) bs = none)
    (hbad : addCounter u1 x (fld v 16 64 + 8) 1 = .ok u2) : exec (.triangleRecord ring) s = .next (u2.unitClear x.slot 1) := by
  change execTriangleRecord ring s = _
  simp only [execTriangleRecord, hr, hx, hkind, bne_self_eq_false, hnext, Bool.not_true, Bool.or_self, Bool.false_eq_true, if_false]
  exact congrArg Host.Outcome.next (State.unitRun_ok hfree (by simp only [hdesc, hrec, hcount, htri, hbad]))

end

/-! ### The blender (14 R316) -/

/-- A record of a blender ring of the kind that the step takes. -/
theorem blendRecord_eq {u1 u2 : State} {flush : Bool} (hkind : r.kind = 2) (hfree : s.unitBlocked x.slot 2 = false)
    (hrec : recordOf s x r 32 = .ok bs) (hstart : blendStart s x r v = .ok u1) (hflush : isFlush bs = flush)
    (hact : (if flush then flushAll u1 x v else splat u1 x v bs) = .ok u2) :
    blendRecord s ring flush = (u2.consume r).unitClear x.slot 2 := by
  simp only [blendRecord, hr, hx, hkind, bne_self_eq_false, hnext, Bool.not_true, Bool.or_self, Bool.false_eq_true, if_false]
  exact State.unitRun_ok hfree (by simp only [hdesc, hrec, hflush, bne_self_eq_false, Bool.false_eq_true, if_false, hstart, hact, Except.map])

end

/-- What a fault of the rasteriser adds to a state: a replay of its bin, where it struck the depth tile. -/
def BinFault.struck (t : BinFault) (b : Bin) (v : State) : State := if t.tile then v.replay b b.sent else v

section
variable {s u1 : State} {bin n : Nat} {b : Bin} {x : Session} {r : BinOut} {e : BinEnv} (hb : s.bins[bin]? = some b)
  (hx : s.session? b.session = some x) (hfirst : s.binFirst bin b = true) (hfree : s.unitBlocked x.slot 1 = false)
include hb hx hfirst hfree

theorem exec_binCommit {u2 u3 : State} (hrun : runBin s x b = .ok (u1, n, r, e)) (hall : r.quads.length ≤ n)
    (htile : writeTile u1 x e r.tile = .ok u2) (hcounts : binCounts u2 x b r e = .ok u3) :
    exec (.binCommit bin) s = .next (({ u3 with bins := u3.bins.filter fun y => y != b } : State).unitClear x.slot 1) := by
  change execBinCommit bin s = _
  simp only [execBinCommit, hb, hx, hfirst, Bool.not_true, Bool.false_eq_true, if_false, State.binRun, hfree, hrun, Nat.not_lt.mpr hall,
    htile, hcounts, atTile, besideTile, Except.map, Except.mapError]

/-- A bin whose quads do not all find room is replayed from the first one that was not sent. -/
theorem exec_binReplay (hrun : runBin s x b = .ok (u1, n, r, e)) (hroom : n < r.quads.length) :
    exec (.binReplay bin) s = .next (({ u1 with
      bins := updFirst (fun y => y == b) (fun y => { y with replays := y.replays + 1, sent := n }) u1.bins } : State).unitClear x.slot 1) := by
  change execBinReplay bin s = _
  simp only [execBinReplay, hb, hx, hfirst, Bool.not_true, Bool.false_eq_true, if_false, State.binRun, hfree, hrun, hroom, if_true]
  rfl

/-- A fault of the depth tile counts a replay, also where its unit then waits for the translation service. -/
theorem exec_binCommit_fault {t : BinFault} {u : State} (hrun : runBin s x b = .error t)
    (hu : u = s.unitRun x 1 (fun _ => .error t.trap) (t.struck b)) :
    exec (.binCommit bin) s = .next (if s.unitFaults.length < u.unitFaults.length then t.struck b u else u) := by
  change execBinCommit bin s = _
  simp only [execBinCommit, hb, hx, hfirst, Bool.not_true, Bool.false_eq_true, if_false, State.binRun, hfree, hrun, hu]
  rfl

end

/-! ### The encoders (14 R317) -/

theorem exec_frameRecord {s : State} {ring n : Nat} {r : Ring} {x : Session} {bs : List Byte} (hr : s.rings[ring]? = some r)
    (hx : s.session? r.session = some x) (heng : encEngine s r = .ok (some n)) (hidle : ∀ f ∈ s.encoders, f.engine ≠ n)
    (hnext : s.isNext r (feedsEngine s n) = true) (hfree : s.unitBlocked x.slot 3 = false) (hrec : recordOf s x r 64 = .ok bs) :
    exec (.frameRecord ring) s = .next (({ s.consume r with
      encoders := s.encoders ++ [{ engine := n, session := r.session, record := bs }] } : State).unitClear x.slot 3) := by
  change execFrameRecord ring s = _
  have hany : (s.encoders.any fun f => f.engine == n) = false := by simpa using hidle
  simp only [execFrameRecord, hr, hx, heng, hany, hnext, Bool.not_true, Bool.or_self, Bool.false_eq_true, if_false]
  exact congrArg Host.Outcome.next (State.unitRun_ok hfree (by simp only [hrec, Except.map]))

theorem exec_encodeDone {s u : State} {engine : Nat} {f : EncFrame} {x : Session}
    (hf : s.encoders.find? (fun f => f.engine == engine) = some f) (hx : s.session? f.session = some x)
    (hfree : s.unitBlocked x.slot 3 = false) (henc : encode1 s x engine f.record = .ok u) :
    exec (.encodeDone engine) s = .next (({ u with
      encoders := u.encoders.filter fun g => g.engine != engine, freeCtr := u.freeCtr + 1 } : State).unitClear x.slot 3) := by
  change execEncodeDone engine s = _
  simp only [execEncodeDone, hf, hx]
  exact congrArg Host.Outcome.next (State.unitRun_ok hfree (by simp only [henc, Except.map]))

/-! ### Shading requests (14 R314) -/

theorem exec_atlasRecordAccept {s t : State} {core rgs band lane : Nat} {g : Group} {i : Iss} {out word : Dword} {d : Spec}
    {rc : BitVec 128} {v : Word} (hg : s.groupAt? core rgs = some g) (hwait : (g.lane band lane).wait = .atlas out d word rc)
    (hi : s.issOf core g.gid (.lanes band (maskOf (· == lane))) = some i)
    (hfirst : ∀ l < lane, (g.lane band l).pc = (g.lane band lane).pc → ∀ a b c e, (g.lane band l).wait ≠ .atlas a b c e)
    (hone : atlasOne s i { lane := lane, out := out, word := word, record := rc } = .answer v t) :
    exec (.atlasRecordAccept core rgs band lane) s =
      .next ((t.putPos i.sess g.gid band lane ((g.lane band lane).base + d.idx.toNat) v).modGroupOn core g.gid fun h =>
        (h.modLane band lane fun z => { z with wait := .atlasDone }).modBand band fun b => b.atlasRelease (g.lane band lane).pc) := by
  change execAtlasRecordAccept core rgs band lane s = _
  simp only [execAtlasRecordAccept, hg, hwait, hi, hone]
  rw [if_neg]
  simp only [Bool.not_eq_true', Bool.not_eq_false, List.all_eq_true, List.mem_range]
  intro l hl
  split
  · next a b c e hw => simpa using fun hpc => hfirst l hl hpc a b c e hw
  · rfl

/-- Settles O45: each unit's step runs through the checks that its premises answer. -/
theorem graphicsEvents : Obligations.GraphicsEvents := by
  refine ⟨?stream, ?ray, ?records, ?bins, ?faults, ?frame, ?encode, ?atlas⟩
  case stream =>
    intro s n t x ht hx
    exact ⟨fun d => exec_textureStreamComplete ht hx, exec_textureStreamFail ht hx⟩
  case ray =>
    intro s core rgs band lane handle g r i t hg hr hi
    exact exec_rayTraversed hg hr hi
  case records =>
    intro s u1 ring v r x bs hr hx hnext hdesc
    refine ⟨fun hkind hfree hrec hcount => ⟨fun t => exec_triangleRecord hr hx hnext hdesc hkind hfree hrec hcount,
      fun u2 => exec_triangleRecord_bad hr hx hnext hdesc hkind hfree hrec hcount⟩, fun hkind hfree hrec hstart =>
      ⟨fun u2 hflush hact => congrArg Host.Outcome.next ?_, fun u2 hflush hact => congrArg Host.Outcome.next ?_⟩⟩
    · exact blendRecord_eq hr hx hnext hdesc hkind hfree hrec hstart hflush hact
    · exact blendRecord_eq hr hx hnext hdesc hkind hfree hrec hstart hflush hact
  case bins =>
    intro s u1 bin n b x r e hb hx hfirst hfree hrun
    exact ⟨fun u2 u3 => exec_binCommit hb hx hfirst hfree hrun, exec_binReplay hb hx hfirst hfree hrun⟩
  case faults =>
    intro s bin b x t hb hx hfirst hfree hrun
    exact exec_binCommit_fault hb hx hfirst hfree hrun rfl
  case frame =>
    intro s ring n r x bs hr hx heng hidle hnext hfree hrec
    exact exec_frameRecord hr hx heng hidle hnext hfree hrec
  case encode =>
    intro s u engine f x hf hx hfree henc
    exact exec_encodeDone hf hx hfree henc
  case atlas =>
    intro s t core rgs band lane g i out word d rc v hg hwait hi hfirst hone
    exact exec_atlasRecordAccept hg hwait hi hfirst hone

end Sys2Proof.Machine
end

section
/-! PROOFS. Versioned tasks (20_traps_preemption.md): commits, restarts and the serial token. -/

namespace Sys2Proof.Machine

open Sys2Proof

/-! ### Commits and restarts (20 R351 to R353) -/

section
variable {s : State} {session launch : Nat} {x : Session} {l : Launch} (hx : s.session? session = some x)
  (hl : s.launch? session launch = some l)
include hx hl

theorem exec_versionCommit_restart {gid : Nat} {serial : Bool} (h : s.toRestart l = some (gid, serial)) :
    exec (.versionCommit session launch) s = .next (s.restartNow gid serial) := by
  change execVersionCommit session launch s = _
  simp only [execVersionCommit, hx, hl, h]

theorem exec_versionCommit_judge {gid : Nat} (hnone : s.toRestart l = none) (hnext : s.nextTask l = some gid) :
    exec (.versionCommit session launch) s = .next ((s.taskDone gid).judge x l gid) := by
  change execVersionCommit session launch s = _
  simp only [execVersionCommit, hx, hl, hnone, hnext]

end

section
variable {s : State} {x : Session} {l : Launch} {gid c : Nat} {g : Group} {v : Version} (hg : s.find? gid = some (c, g))
  (hv : g.ver = some v)
include hg hv

/-- A task in conflict with a later commit leaves the queue and restarts. -/
theorem State.judge_conflict (h : conflicts l v = true) : s.judge x l gid =
    (s.modLaunch x.slot l.number fun k => { k with commitQueue := k.commitQueue.filter (· != gid) }).restart gid false := by
  simp only [State.judge, hg, hv, h, if_true]

/-- A task without a conflict performs its bytes and its held operations, and takes the next commit number. -/
theorem State.judge_commit {t : State} (h : conflicts l v = false) (hheld : ∀ o ∈ v.held, heldWaits x.slot l.number s o = false)
    (hfree : s.unitBlocked x.slot 4 = false) (hbytes : performBytes x l.desc.priv v s = .ok t) : s.judge x l gid =
    (((v.held.foldl (performHeld x l.desc.priv l.number) t).modLaunch x.slot l.number fun k => k.commitWs gid v.ws).modGroupOn c gid
      fun h => { h with ver := none, phase := .retiring }).unitClear x.slot 4 := by
  have hany : v.held.any (heldWaits x.slot l.number s) = false := by simpa using hheld
  simp only [State.judge, hg, hv, h, hany, Bool.false_eq_true, if_false]
  exact State.unitRun_ok hfree (by rw [hbytes]; rfl)

end

/-! ### The serial token (20 R356) -/

theorem exec_serialTokenGrant {s : State} {session launch gid c : Nat} {rest : List Nat} {l : Launch} {g : Group}
    (hl : s.launch? session launch = some l)
    (hfree : ∀ h ∈ s.allGroupsOf session launch, (h.ver.map (·.token)).getD false = false) (hqueue : l.serialQueue = gid :: rest)
    (hg : s.find? gid = some (c, g)) :
    exec (.serialTokenGrant session launch) s =
      .next ((s.modLaunch session launch fun k => { k with serialQueue := rest }).modGroupOn c gid fun g =>
        { g with
          ver := g.ver.map fun v => { v with token := true }
          lead := if g.lead.wait == .serial then { g.lead with wait := .none } else g.lead
          bands := g.bands.map fun b =>
            { b with lanes := b.lanes.map fun y => if y.wait == .serial then { y with wait := .none } else y } }) := by
  change execSerialTokenGrant session launch s = _
  have hany : ((s.allGroupsOf session launch).any fun g => (g.ver.map (·.token)).getD false) = false := by simpa using hfree
  simp only [execSerialTokenGrant, hl, hany, Bool.false_eq_true, if_false, hqueue, hg]

/-- Settles O46: the arbiter judges the task that is next, and the token goes to the head of its queue. -/
theorem versionEvents : Obligations.VersionEvents := by
  refine ⟨?commit, ?restart, ?token⟩
  case commit =>
    intro s session launch gid c x l g v hx hl hnone hnext hg hv
    rw [exec_versionCommit_judge hx hl hnone hnext]
    refine ⟨fun h => ?_, fun t h hheld hfree hbytes => ?_⟩
    · rw [State.judge_conflict hg hv h]
    · rw [State.judge_commit hg hv h hheld hfree hbytes]
  case restart =>
    intro s session launch gid serial x l hx hl h
    exact exec_versionCommit_restart hx hl h
  case token =>
    intro s session launch gid c rest l g hl hfree hqueue hg
    exact exec_serialTokenGrant hl hfree hqueue hg

end Sys2Proof.Machine
end

section
/-! PROOFS. Translation and title memory (21_translation_title_memory.md): held records, fault answers, TLB walks, content pages and the
dirty bitmap. -/

namespace Sys2Proof.Machine

open Sys2Proof

/-! ### Held records (20 R341, 21 R368) -/

section
variable {s : State} {u : UnitRef} {g : Group} {i : Iss} {t : Trap} (hg : s.groupAt? u.core u.rgs = some g)
  (hi : s.issOf u.core g.gid (g.widen u.who) = some i)
include hg hi

theorem exec_trapRecordWrite (hst : statusOf g u.who = .held t none) : exec (.trapRecordWrite u) s = .next (s.retake i t) := by
  change execTrapRecordWrite u s = _
  simp only [execTrapRecordWrite, hg, hi, hst]

theorem exec_faultRecordWrite {s1 : State} {k : Nat} (hst : statusOf g u.who = .heldFault t)
    (hbatch : s.faultBatch i.sess t.pages (t.sub.toNat % 4) false = some (s1, k)) :
    exec (.faultRecordWrite u) s = .next (s1.setStatus i (Who.mask i.who) (.faulted k t none)) := by
  change execFaultRecordWrite u s = _
  simp only [execFaultRecordWrite, hg, hi, hst, hbatch]

end

/-! ### Answers of the fault service (21 R369) -/

section
variable (session batch : Nat) (ok : Bool)

def Cmd.answered (c : Cmd) : Cmd :=
  if c.session == session && c.fault == some batch then { c with fault := none, declined := c.declined || !ok } else c

def Node.answered (n : Node) : Node :=
  if n.session == session && n.fault == some batch then { n with fault := none, declined := n.declined || !ok } else n

def QueueCtx.answered (q : QueueCtx) : QueueCtx :=
  if q.session == session && q.fault == some batch then { q with fault := none, declined := !ok } else q

/-- The state in which what waits on a batch outside the groups goes on. -/
def State.answered (s : State) : State :=
  { s with
    cmds := s.cmds.map (Cmd.answered session batch ok)
    nodes := s.nodes.map (Node.answered session batch ok)
    queues := s.queues.map (QueueCtx.answered session batch ok)
    launches := s.launches.map fun (l : Launch) =>
      if l.session == session && l.complFault == some batch then { l with complFault := none, complLost := !ok } else l
    unitFaults := (s.unitFaults.filter fun (f : UnitFault) => !(ok && f.session == session && f.batch == some batch)).map
      fun (f : UnitFault) => if f.session == session && f.batch == some batch then { f with batch := none } else f }

variable {session batch ok}

theorem Cmd.answered_fault {c : Cmd} (h : (c.answered session batch ok).session = session) :
    (c.answered session batch ok).fault ≠ some batch := by
  unfold Cmd.answered at h ⊢
  split
  · simp
  · next hno => simp_all

theorem Node.answered_fault {n : Node} (h : (n.answered session batch ok).session = session) :
    (n.answered session batch ok).fault ≠ some batch := by
  unfold Node.answered at h ⊢
  split
  · simp
  · next hno => simp_all

theorem QueueCtx.answered_fault {q : QueueCtx} (h : (q.answered session batch ok).session = session) :
    (q.answered session batch ok).fault ≠ some batch := by
  unfold QueueCtx.answered at h ⊢
  split
  · simp
  · next hno => simp_all

theorem exec_faultServiceResult {s : State} {x : Session} (hx : s.session? session = some x)
    (hans : s.batchAnswer x batch = some ok) :
    exec (.faultServiceResult session batch) s = .next (((s.residents.filter fun e => e.2.session == session).flatMap fun e =>
        (e.2.unitsWith fun st => st.batch? == some batch).map fun w => (e.1, e.2.gid, w)).foldl
      (fun (t : State) e => t.answerUnit e.1 e.2.1 ok e.2.2) (s.answered session batch ok)) := by
  change execFaultServiceResult session batch s = _
  simp only [execFaultServiceResult, hx, hans]
  rfl

end

/-! ### Walks and the copy-on-write unit (21 R367, R374) -/

theorem exec_tlbWalk {s : State} {core session : Nat} {va : Dword} {x : Session} {l : Leaf} (hx : s.session? session = some x)
    (hcore : core < 64) (hmiss : tlbFind (s.core core).tlb session (va.toNat % 2 ^ 48) = none)
    (hleaf : tlbFind ((s.tlb2.filter fun e => e.1 == dieOf core).map (·.2)) session (va.toNat % 2 ^ 48) = some l ∨
      tlbFind ((s.tlb2.filter fun e => e.1 == dieOf core).map (·.2)) session (va.toNat % 2 ^ 48) = none ∧
        s.walk x (va.toNat % 2 ^ 48) = .leaf l) :
    (let a := va.toNat % 2 ^ 48
     let e : TlbEntry := { session := session, page := if l.big then a / 2 ^ 21 else a / 4096, big := l.big, leaf := BitVec.ofNat 128 l.bits }
     exec (.tlbWalk core session va) s = .next { s.modCore core (fun c => { c with tlb := tlbAdd 1024 c.tlb e }) with
       tlb2 := (s.tlb2.filter fun (f : Nat × TlbEntry) => f.1 != dieOf core) ++
         (tlbAdd 16384 ((s.tlb2.filter fun e => e.1 == dieOf core).map (·.2)) e).map fun (f : TlbEntry) => (dieOf core, f) }) := by
  change execTlbWalk core session va s = _
  simp only [execTlbWalk, hx, hmiss, Option.isSome_none, Nat.not_le.mpr hcore, decide_false, Bool.or_self, Bool.false_eq_true, if_false]
  rcases hleaf with h | ⟨h, hwalk⟩
  · simp only [h]
  · simp only [h, hwalk]

theorem exec_copyOnWrite {s t : State} {session : Nat} {va : Dword} {subs : BitVec 8} {x : Session} (hx : s.session? session = some x)
    (h : s.cowPage x none va subs.toNat = .ok t) : exec (.copyOnWrite session va subs) s = .next t := by
  change execCopyOnWrite session va subs s = _
  simp only [execCopyOnWrite, hx, h]

/-! ### The merge engine (21 R371, R372) -/

section
variable {s : State} {x : Session} (hon : s.ctrl.mergeEn = true) (hroom : s.relPending = [])
include hon hroom

theorem exec_mergePage_visit (h : s.merging = none) : exec .mergePage s = .next s.mergeVisit := by
  change execMergePage s = _
  simp only [execMergePage, hon, hroom, h, List.isEmpty_nil, Bool.not_true, Bool.or_self, Bool.false_eq_true, if_false]

theorem exec_mergePage_swap {m : Merging} (h : s.merging = some m) (hx : s.session? m.session = some x) :
    exec .mergePage s = .next (s.mergeSwap x m) := by
  change execMergePage s = _
  simp only [execMergePage, hon, hroom, h, hx, List.isEmpty_nil, Bool.not_true, Bool.or_self, Bool.false_eq_true, if_false]

end

theorem State.mergeVisit_leaf {s : State} {p : MergePos} {x : Session} {l : Leaf} (hnext : s.mergeNext s.mergePos = some p)
    (hx : s.session? p.session = some x)
    (hwalk : s.walk x ((((p.of x.slot).getD p.region (0, 0, false)).1 + 4096 * p.page) % 2 ^ 48) = .leaf l) (hbig : l.big = false)
    (htype : l.type = 0) (hw : l.w = false) (hcontent : l.content = false) (homask : l.omask = 0) :
    s.mergeVisit = ({ s with mergePos := { p with page := p.page + 1 } } : State).mergeAt x l
      ((((p.of x.slot).getD p.region (0, 0, false)).1 + 4096 * p.page) % 2 ^ 48) ((p.of x.slot).getD p.region (0, 0, false)).2.2 := by
  simp only [State.mergeVisit, hnext, hx, hwalk, hbig, htype, hw, hcontent, homask, Bool.not_false, beq_self_eq_true, Bool.and_self,
    if_true]

/-- The swap is made where the leaf is the one that was read and the directory entry stands. -/
theorem State.mergeSwap_ok {s : State} {x : Session} {m : Merging}
    (hleaf : ({ s with merging := none } : State).dev m.at_ 16 = some m.leaf.toNat)
    (hentry : ∃ y ∈ s.hh, y.domain = ({ s with merging := none } : State).sdom x ∧ y.frame = m.frame) :
    s.mergeSwap x m = (({ s with merging := none } : State).devPutNum m.at_ 16 m.after).merged x m := by
  have hany : (s.hh.any fun y => y.domain == ({ s with merging := none } : State).sdom x && y.frame == m.frame) = true := by
    simpa using hentry
  simp only [State.mergeSwap, hleaf, hany, beq_self_eq_true, Bool.and_self, if_true]

theorem State.mergeSwap_changed {s : State} {x : Session} {m : Merging}
    (hleaf : ({ s with merging := none } : State).dev m.at_ 16 ≠ some m.leaf.toNat) :
    s.mergeSwap x m = ({ s with merging := none } : State).unmerged x m := by
  simp [State.mergeSwap, hleaf]

/-! ### Released frames and dropped references (21 R373, R375) -/

theorem exec_releasedFramePush {s : State} {f : Nat} {fs : List Nat} (hpend : s.relPending = f :: fs) (hroom : s.ringRoom = true) :
    exec .releasedFramePush s = .next { ({ s with relPending := [] } : State).release f with relPending := fs } := by
  change execReleasedFramePush s = _
  simp only [execReleasedFramePush, hpend, hroom, if_true]

/-- With room in the ring a release stores the frame and moves the tail. -/
theorem State.release_room {s : State} {f : Nat} (hpend : s.relPending = []) (hroom : s.ringRoom = true) : s.release f =
    (s.devPutNum (s.ctrl.relBase.toNat + 64 + 8 * (s.dev0 (s.ctrl.relBase.toNat + 8) 8 % 2 ^ s.ctrl.relCap)) 8 (4096 * f)).devPutNum
      (s.ctrl.relBase.toNat + 8) 8 (s.dev0 (s.ctrl.relBase.toNat + 8) 8 + 1) := by
  simp [State.release, hpend, hroom]

/-! ### The dirty bitmap (21 R383) -/

theorem exec_dbmSwap {s : State} (h : s.ctrl.dbmSwap.getLsbD 0 = true) : exec .dbmSwap s = .next { s with
    ctrl := { s.ctrl with
      dbmActive := if s.ctrl.dbmPending = 0 then !s.ctrl.dbmActive else s.ctrl.dbmActive, dbmPending := s.ctrl.dbmPending + 1 } } := by
  change execDbmSwap s = _
  simp only [execDbmSwap, h, Bool.not_true, Bool.false_eq_true, if_false, beq_iff_eq]

theorem exec_dbmSwapComplete {s : State} (h : s.ctrl.dbmPending ≠ 0) : exec .dbmSwapComplete s = .next { s with
    ctrl := { s.ctrl with
      dbmSwaps := s.ctrl.dbmSwaps + 1, dbmActive := if 1 < s.ctrl.dbmPending then !s.ctrl.dbmActive else s.ctrl.dbmActive
      dbmPending := s.ctrl.dbmPending - 1 } } := by
  change execDbmSwapComplete s = _
  simp only [execDbmSwapComplete, beq_iff_eq, h, if_false]

/-- Settles O47: held records, answers and pages, each by what its unit finds. -/
theorem faultAndPageEvents : Obligations.FaultAndPageEvents := by
  refine ⟨?held, ?answer, ?walk, ?cow, ?visit, ?swap, ?push, fun s => rfl, fun s => exec_dbmSwap, fun s => exec_dbmSwapComplete⟩
  case held =>
    intro s u g i t hg hi
    exact ⟨exec_trapRecordWrite hg hi, fun s1 k => exec_faultRecordWrite hg hi⟩
  case answer =>
    intro s session batch x ok hx hans
    refine ⟨s.answered session batch ok, exec_faultServiceResult hx hans, rfl, rfl, rfl, ?_, ?_, ?_⟩
    · exact List.forall_mem_map.mpr fun c _ => Cmd.answered_fault
    · exact List.forall_mem_map.mpr fun n _ => Node.answered_fault
    · exact List.forall_mem_map.mpr fun q _ => QueueCtx.answered_fault
  case walk =>
    intro s core session va x l hx hcore hmiss
    exact exec_tlbWalk hx hcore hmiss
  case cow =>
    intro s t session va subs x hx h
    exact exec_copyOnWrite hx h
  case visit =>
    intro s p x l hon hroom hnext hidle hx r va hwalk hbig htype hw hcontent homask
    rw [exec_mergePage_visit hon hroom hidle]
    exact congrArg Host.Outcome.next (State.mergeVisit_leaf hnext hx hwalk hbig htype hw hcontent homask)
  case swap =>
    intro s m x hon hroom hm hx
    rw [exec_mergePage_swap hon hroom hm hx]
    exact ⟨fun h => congrArg Host.Outcome.next (State.mergeSwap_ok h.1 h.2), fun h => congrArg Host.Outcome.next (State.mergeSwap_changed h)⟩
  case push =>
    intro s f fs hpend base tail hroom
    have hring : s.ringRoom = true := decide_eq_true hroom
    rw [exec_releasedFramePush hpend hring, State.release_room (s := { s with relPending := [] }) rfl hring]
    rfl

end Sys2Proof.Machine
end

section
/-! PROOFS. Virtual time (22_sessions_scheduling.md): what a device's write leaves alone, and the wake of a session. -/

namespace Sys2Proof.Machine

open Sys2Proof

/-! ### What a device's write leaves alone (21 R374, 23 R436) -/

/-- A property that no device's write touches: it speaks of no byte, line or channel pair, no alarm, and nothing that a write to a line
does to the transactions that hold it. -/
structure OffDevices (P : State → Prop) : Prop where
  phys : ∀ (t : State) (p : Phys), P t → P { t with phys := p }
  reach : ∀ (t : State) (a n : Nat), P t → P (t.reach a n)
  raise : ∀ (t : State) (n : Nat) (x : Option Nat), P t → P (t.raise n x)
  contend : ∀ (t : State) (self : Option LaneRef) (ls : List Nat), P t → P (t.contend self ls)

namespace OffDevices

section
variable {P : State → Prop} (hP : OffDevices P) {s : State} (h : P s)
include hP h

theorem tagLine (line : Nat) : P (s.tagLine line) := hP.raise _ _ _ (hP.phys _ _ h)

theorem markUnits (us : List Nat) : P (s.markUnits us) := by
  unfold State.markUnits
  split
  · refine foldl_keeps P _ (fun t u ht => ?_) _ _ h
    dsimp only
    generalize (if s.ctrl.dbmActive then s.ctrl.dbmBase1 else s.ctrl.dbmBase0).toNat + u / 8 = a
    split
    · exact ht
    split
    · exact hP.tagLine ht _
    split
    · exact ht
    · exact hP.phys _ _ (hP.contend _ _ _ ht)
  · exact h

omit hP in
theorem room {out : State → CacheBlock → State} (ho : ∀ b, P (out s b)) (c : CacheAt) (n : Nat) (u : CacheUse) : P (s.room out c n u) := by
  unfold State.room
  dsimp only
  split
  · exact h
  split
  · exact h
  · exact ho _

theorem writeBack (b : CacheBlock) : P (s.writeBack b) := by
  unfold State.writeBack
  split
  · exact h
  · refine hP.markUnits (hP.phys _ _ ?_) _
    split
    · exact h
    · exact room h (fun _ => hP.phys _ _ h) _ _ _
  · split
    · exact h
    · exact hP.phys _ _ (hP.reach _ _ _ h)

theorem cacheRoom (c : CacheAt) (n : Nat) (u : CacheUse) : P (s.cacheRoom c n u) :=
  room h (out := State.evict) (fun b => hP.phys _ _ (hP.writeBack h b)) c n u

theorem cacheWrite (u : CacheUse) (a n : Nat) : P (s.cacheWrite u a n) := by
  unfold State.cacheWrite
  refine foldl_keeps P _ (fun t e ht => hP.markUnits (hP.phys _ _ ?_) _) _ _ h
  split
  · exact hP.reach _ _ _ ht
  · exact hP.cacheRoom ht _ _ _

theorem plainLine (u : CacheUse) (a : Nat) (bs : List Byte) : P (s.plainLine u a bs) := by
  unfold State.plainLine
  dsimp only
  split
  · exact hP.tagLine h _
  split
  · exact h
  · exact hP.phys _ _ (hP.phys _ _ (hP.cacheWrite (hP.contend _ _ _ h) _ _ _))

theorem devPut (a : Nat) (bs : List Byte) : P (s.devPut a bs) := foldl_keeps P _ (fun _ _ ht => hP.plainLine ht _ _ _) _ _ h

theorem postSession (slot : Nat) : P (s.postSession slot) := by
  unfold State.postSession
  dsimp only
  split
  · exact hP.devPut (hP.devPut h _ _) _ _
  · exact hP.devPut (hP.devPut (hP.devPut (hP.devPut h _ _) _ _) _ _) _ _

end

/-- The sessions are not theirs. -/
theorem sessions (xs : List Session) : OffDevices fun t => t.sessions = xs where
  phys _ _ h := h
  reach t a n h := by unfold State.reach; split <;> exact h
  raise _ _ _ h := h
  contend t self ls h := by rw [State.contend_cores]; exact h

end OffDevices

theorem State.postSession_sessions (s : State) (slot : Nat) : (s.postSession slot).sessions = s.sessions :=
  (OffDevices.sessions s.sessions).postSession rfl slot

/-! ### The wake of a session (22 R397) -/

/-- The least of some virtual times, or `d` where there are none, as the model folds it. -/
theorem foldl_min_eq {vs : List Nat} {d m : Nat} (hnil : vs = [] → m = d) (hmem : vs ≠ [] → m ∈ vs ∧ ∀ v ∈ vs, m ≤ v) :
    vs.foldl min (vs.headD d) = m := by
  cases vs with
  | nil => exact (hnil rfl).symm
  | cons a l =>
    have hmin : (a :: l).min? = some m := List.min?_eq_some_iff.mpr (hmem (by simp))
    rw [List.min?_cons', Option.some.injEq] at hmin
    simpa using hmin

/-- Vmin is a 64-bit number, so that the virtual time of the wake does not wrap. -/
theorem State.wakeVt_toNat {s : State} {x : Session} {vmin : Nat}
    (hnil : (s.sessions.filter fun y => y.slot ≠ x.slot ∧ (y.st = .runnable ∨ y.st = .running)) = [] → vmin = x.vt.toNat)
    (hmem : (s.sessions.filter fun y => y.slot ≠ x.slot ∧ (y.st = .runnable ∨ y.st = .running)) ≠ [] →
      (∃ y ∈ s.sessions.filter fun y => y.slot ≠ x.slot ∧ (y.st = .runnable ∨ y.st = .running), y.vt.toNat = vmin) ∧
      ∀ y ∈ s.sessions.filter fun y => y.slot ≠ x.slot ∧ (y.st = .runnable ∨ y.st = .running), vmin ≤ y.vt.toNat) :
    (s.wakeVt x).toNat = max x.vt.toNat (vmin - x.boost) := by
  have hothers : (s.sessions.filter fun y => y.slot != x.slot && (y.st == .runnable || y.st == .running)) =
      s.sessions.filter fun y => y.slot ≠ x.slot ∧ (y.st = .runnable ∨ y.st = .running) :=
    List.filter_congr fun y _ => by rw [Bool.eq_iff_iff]; simp
  have hfold := foldl_min_eq (d := x.vt.toNat) (m := vmin)
    (vs := (s.sessions.filter fun y => y.slot ≠ x.slot ∧ (y.st = .runnable ∨ y.st = .running)).map (·.vt.toNat))
    (fun h => hnil (List.map_eq_nil_iff.mp h))
    (fun h => by
      obtain ⟨⟨y, hy, hvt⟩, hle⟩ := hmem (fun h0 => h (List.map_eq_nil_iff.mpr h0))
      exact ⟨List.mem_map.mpr ⟨y, hy, hvt⟩, List.forall_mem_map.mpr hle⟩)
  have hsmall : vmin < 2 ^ 64 := by
    by_cases h : (s.sessions.filter fun y => y.slot ≠ x.slot ∧ (y.st = .runnable ∨ y.st = .running)) = []
    · exact hnil h ▸ x.vt.isLt
    · obtain ⟨⟨y, -, hvt⟩, -⟩ := hmem h
      exact hvt ▸ y.vt.isLt
  have hx := x.vt.isLt
  rw [State.wakeVt, hothers, hfold, BitVec.toNat_ofNat, Nat.mod_eq_of_lt (by omega)]

/-- A session that wakes is RUNNABLE, with the virtual time of its wake. -/
theorem State.wake_session? {s : State} {slot : Nat} {x : Session} (hx : s.session? slot = some x) (hidle : x.st = .idle)
    (hwork : s.hasWork slot = true) : (s.wake slot).session? slot = some { x with st := .runnable, vt := s.wakeVt x } := by
  have hfind := find?_updFirst (p := fun y : Session => y.slot == slot) (f := fun y => { y with st := .runnable, vt := s.wakeVt y })
    (fun _ => rfl) s.sessions
  unfold State.session? at hx ⊢
  simp only [State.wake, State.session?, hx, hidle, hwork, beq_self_eq_true, Bool.and_self, if_true, State.postSession_sessions,
    State.modSession_sessions, hfind, Option.map_some]

/-- Settles O60: Vmin is the least virtual time of the others, and the fields of a record are written after the passage. -/
theorem wakeVirtualTime : Obligations.WakeVirtualTime := by
  intro s slot vmin x hx hidle hwork hmin
  obtain ⟨hnil, hmem⟩ := hmin
  have hslot : x.slot = slot := by simpa using List.find?_some hx
  refine ⟨_, State.wake_session? hx hidle hwork, rfl, ?_⟩
  subst hslot
  change ((s.wakeVt x).toNat : Int) = _
  rw [State.wakeVt_toNat hnil hmem]
  omega

end Sys2Proof.Machine
end

section
/-! PROOFS. Scheduling (22_sessions_scheduling.md): grants, slices, swaps and waiting budgets. -/

namespace Sys2Proof.Machine

open Sys2Proof

/-! ### Grants and the ends of slices (22 R396, 20 R360) -/

section
variable {s s1 : State} {core : Nat} (hcore : core < 64) (hidle : s.idleCore core = true)
  (hs1 : s1 = ((s.unload core).releaseCore core).modCore core fun c => { c with swap := .none })
include hcore hidle hs1

theorem exec_coreGrant {w : Nat} (h : s1.choose core = some w) : exec (.coreGrant core) s = .next (s1.grantEmpty core w) := by
  change execCoreGrant core s = _
  simp only [execCoreGrant, Nat.not_le.mpr hcore, decide_false, hidle, Bool.not_true, Bool.or_self, Bool.false_eq_true, if_false,
    ← hs1, h]

theorem exec_coreGrant_none (h : s1.choose core = none) : exec (.coreGrant core) s = .next s1 := by
  change execCoreGrant core s = _
  simp only [execCoreGrant, Nat.not_le.mpr hcore, decide_false, hidle, Bool.not_true, Bool.or_self, Bool.false_eq_true, if_false,
    ← hs1, h]

end

section
variable {s : State} {core cur : Nat} (hcur : (s.core core).session = some cur)
include hcur

section
variable (hswap : (s.core core).swap = .none ∨ ∃ n, (s.core core).swap = .named n)
include hswap

theorem exec_sliceEnd_keep (h : s.choose core = none ∨ s.choose core = some cur) :
    exec (.sliceEnd core) s = .next (s.keepSession core) := by
  change execSliceEnd core s = _
  rcases hswap with hswap | ⟨n, hswap⟩ <;> rcases h with h | h <;> simp [execSliceEnd, hcur, hswap, h]

theorem exec_sliceEnd_other {w : Nat} (h : s.choose core = some w) (hw : w ≠ cur) :
    exec (.sliceEnd core) s = .next ((s.postSession cur).startGrace core w) := by
  change execSliceEnd core s = _
  rcases hswap with hswap | ⟨n, hswap⟩ <;> simp [execSliceEnd, hcur, hswap, h, hw]

end

theorem exec_sliceHalfway {w : Nat} (hswap : (s.core core).swap = .none) (h : s.choose core = some w) (hw : w ≠ cur) :
    exec (.sliceHalfway core) s = .next (s.modCore core fun k => { k with swap := .named w }) := by
  change execSliceHalfway core s = _
  simp [execSliceHalfway, hcur, hswap, h, hw]

end

theorem exec_graceExpire {s : State} {core next : Nat} {ds : List (List Nat)} (hswap : (s.core core).swap = .grace next ds) :
    exec (.graceExpire core) s = .next (((((ds.filter fun gids => gids.any s.stillRuns).map fun gids => gids.filterMap s.find?).foldl
      (s.settleCluster false) (s, [])).1).modCore core fun c => { c with swap := .quiesce next }) := by
  change execGraceExpire core s = _
  simp only [execGraceExpire, hswap]

/-! ### Quiesce and exchange (20 R357 to R359) -/

/-- A core's context at its quiesce: no run, every group stopped, the loads in flight kept for their reissue. -/
def Core.quiesced (runCtr next : Nat) (k0 : Core) : Core :=
  let k := k0.endRuns runCtr fun _ => true
  { k with
    swap := .exchange next, port := []
    active := { k.active with groups := k.active.groups.map Group.atSwap, loads := k.port.filter fun p => !p.reload } }

theorem exec_contextQuiesce {s t : State} {core next : Nat} {mine : LaneRef → Bool} (hswap : (s.core core).swap = .quiesce next)
    (hsettled : s.settled core = true)
    (hmine : mine = fun r => ((s.core core).active.groups.map (·.gid) ++ (s.partners core).map fun e => e.2.gid).contains r.gid)
    (ht : t = (s.partners core).foldl State.savePartner ((s.performAll core).modCore core (Core.quiesced s.runCtr next))) :
    exec (.contextQuiesce core) s =
      .next (({ t with runCtr := t.runCtr + 1 } : State).modSession (s.core core).active.session fun x =>
        { x with
          tokenQueue := x.tokenQueue.filter fun r => !mine r
          tokenHolder := if x.tokenHolder.any mine then none else x.tokenHolder }) := by
  change execContextQuiesce core s = _
  simp only [execContextQuiesce, hswap, hsettled, Bool.not_true, Bool.false_eq_true, if_false, ht, hmine]
  rfl

section
variable {s : State} {core next : Nat} (hswap : (s.core core).swap = .exchange next) (hnow : s.nextNow core next = some next)
  (hawait : s.awaitsDiscarded next = false)
include hswap hnow hawait

theorem exec_contextExchange {x : Context}
    (hown : (s.core core).session = some next → (s.core core).shadow = .empty → s.landing core = false →
      (s.core core).active.groups.all (fun g => g.phase == .retiring) = true)
    (hin : s.incoming core next = some x) : exec (.contextExchange core) s = .next (s.exchange core x) := by
  change execContextExchange core s = _
  have hstay : ¬ ((s.core core).session == some next && (s.core core).shadow == .empty && !s.landing core &&
      !s.awaitsDiscarded next && (s.core core).active.groups.any fun g => g.phase != .retiring) = true := by
    simp only [Bool.and_eq_true, beq_iff_eq, Bool.not_eq_true', not_and, Bool.not_eq_true, List.any_eq_false]
    rintro ⟨⟨⟨hs, hsh⟩, hl⟩, -⟩ g hg
    simpa [bne] using List.all_eq_true.mp (hown hs hsh hl) g hg
  simp only [execContextExchange, hswap, hnow, hawait, bne_self_eq_false, Bool.false_and, Bool.or_self, Bool.false_eq_true, if_false]
  rw [hawait] at hstay
  rw [if_neg hstay, hin]

theorem exec_contextExchange_bankOut (hs : (s.core core).session = some next) (hsh : (s.core core).shadow = .empty)
    (hl : s.landing core = false) (hany : (s.core core).active.groups.any (fun g => g.phase != .retiring) = true) :
    exec (.contextExchange core) s = .next (s.bankOut core) := by
  change execContextExchange core s = _
  simp only [execContextExchange, hswap, hnow, hawait, bne_self_eq_false, Bool.false_and, Bool.or_self, Bool.false_eq_true, if_false,
    hs, hsh, hl, hany, beq_self_eq_true, Bool.not_false, Bool.and_self, if_true]

end

theorem exec_contextSpill {s : State} {core : Nat} {x : Context} (h : (s.core core).shadow = .outgoing x) :
    exec (.contextSpill core) s = .next (((s.saveFor x.session x.groups).modCore core fun c => { c with shadow := .empty }).modSession x.session
      fun y => { y with saved := y.saved ++ [x] }) := by
  change execContextSpill core s = _
  simp only [execContextSpill, h]

theorem exec_contextPreload {s : State} {core n : Nat} {x : Session} {y : Context} {rest : List Context}
    (hnext : (s.core core).swap.next? = some n) (hsh : (s.core core).shadow = .empty) (hx : s.session? n = some x)
    (hsaved : x.saved = y :: rest) (hrest : s.restores n = true) : exec (.contextPreload core) s =
      .next ((s.modSession n fun z => { z with saved := rest }).modCore core fun c => { c with shadow := .loaded y }) := by
  change execContextPreload core s = _
  simp only [execContextPreload, hnext, hsh, hx, hsaved, hrest, Bool.not_true, Bool.false_eq_true, if_false]

/-! ### Waiting budgets (22 R399) -/

/-- What the choice of a session asks of a core. -/
def Core.standing (c : Core) : Option Nat × Shadow × Bool := (c.session, c.shadow, c.active.groups.isEmpty)

/-- Two states in which every core chooses alike. -/
structure State.ChoosesAs (s t : State) : Prop where
  enabled : t.ctrl.schedEnable = s.ctrl.schedEnable
  sessions : t.sessions = s.sessions
  launches : t.launches = s.launches
  cores : t.cores.map Core.standing = s.cores.map Core.standing

namespace State.ChoosesAs

variable {s t : State} (h : s.ChoosesAs t)
include h

theorem standing (c : Nat) : (t.core c).standing = (s.core c).standing := by
  have hmap (u : State) : (u.cores.map Core.standing).getD c Core.init.standing = (u.core c).standing := List.getD_map ..
  rw [← hmap, ← hmap, h.cores]

theorem session (c : Nat) : (t.core c).session = (s.core c).session := congrArg Prod.fst (h.standing c)

theorem coresOf (slot : Nat) : t.coresOf slot = s.coresOf slot := List.filter_congr fun c _ => by rw [h.session]

theorem hasWork (slot : Nat) : t.hasWork slot = s.hasWork slot := by
  have hshadow (u : State) : (u.cores.flatMap fun c => c.shadow.groups) = (u.cores.map Core.standing).flatMap fun e => e.2.1.groups := by
    rw [List.flatMap_map]
    rfl
  simp only [State.hasWork, State.parked_eq, hshadow, h.sessions, h.launches, h.cores]

theorem candidates (core : Nat) : t.candidates core = s.candidates core := by
  have hgroups : (t.core core).active.groups.isEmpty = (s.core core).active.groups.isEmpty :=
    congrArg (fun e => e.2.2) (h.standing core)
  simp only [State.candidates, h.sessions, h.hasWork, h.coresOf, h.session, hgroups]

theorem choose (core : Nat) : t.choose core = s.choose core := by
  simp only [State.choose, h.enabled, h.candidates]

end State.ChoosesAs

theorem State.doomBy_standing (s : State) (p : Group → Bool) (self : Option LaneRef) (h : Lane → Bool) :
    (s.doomBy p self h).cores.map Core.standing = s.cores.map Core.standing := by
  unfold State.doomBy
  split
  · rw [List.map_map]
    refine List.map_congr_left fun c _ => ?_
    simp only [Function.comp_apply, Core.standing, List.isEmpty_map]
  · rfl

theorem offDevices_choosesAs (s : State) : OffDevices s.ChoosesAs where
  phys _ _ h := ⟨h.enabled, h.sessions, h.launches, h.cores⟩
  reach t a n h := by unfold State.reach; split <;> exact ⟨h.enabled, h.sessions, h.launches, h.cores⟩
  raise _ _ _ h := ⟨h.enabled, h.sessions, h.launches, h.cores⟩
  contend t self ls h := by
    have hcores : (t.contend self ls).cores.map Core.standing = t.cores.map Core.standing := by
      unfold State.contend
      dsimp only
      split <;> exact State.doomBy_standing ..
    rw [State.contend_cores]
    exact ⟨h.enabled, h.sessions, h.launches, hcores.trans h.cores⟩

/-- A core chooses alike before and after the record of a session is written. -/
theorem State.choose_postSession (s : State) (slot core : Nat) : (s.postSession slot).choose core = s.choose core :=
  ((offDevices_choosesAs s).postSession ⟨rfl, rfl, rfl, rfl⟩ slot).choose core

theorem exec_waitBudgetExpire {s s1 s2 : State} {core : Nat} {x : Session} {recs : List (List Byte)} {first : Option Nat}
    (hx : ((s.core core).session.bind s.session?) = some x) (hbudget : x.waitBudget ≠ 0) (hblocked : (s.core core).canIssue = false)
    (hswap : (s.core core).swap = .none ∨ (∃ n, (s.core core).swap = .named n) ∨ ∃ n d, (s.core core).swap = .grace n d)
    (hrecs : recs = ((List.range 16).filterMap (s.core core).groupAt?).flatMap (snapRecords s)) (hany : recs ≠ [])
    (hfree : s.unitBlocked x.slot 6 = false) (hsnap : s.snapshot x false recs = .ok (s1, first))
    (hrec : s1.tryRecord x false (plainRecord x 0x11 core (BitVec.ofNat 64 (first.getD ((s1.sxNum x x.snap.toNat 8).toOption.getD 0)))
      (s.core core).clock) = .ok s2) :
    exec (.waitBudgetExpire core) s = .next (((s2.postSession x.slot).modCore core fun k =>
      { k with swap := .quiesce (((s2.postSession x.slot).choose core).getD x.slot) }).unitClear x.slot 6) := by
  change execWaitBudgetExpire core s = _
  have hempty : recs.isEmpty = false := by simpa using hany
  have hrun : s.budgetRecords x core false = .ok s2 := by
    simp only [State.budgetRecords, ← hrecs, hsnap]
    exact hrec
  rw [State.choose_postSession]
  rcases hswap with h | ⟨n, h⟩ | ⟨n, d, h⟩ <;>
    · simp only [execWaitBudgetExpire, hx, h, beq_eq_false_iff_ne.mpr hbudget, hblocked, ← hrecs, hempty, Bool.not_true, Bool.or_self,
        Bool.false_eq_true, if_false]
      exact congrArg Host.Outcome.next (State.unitRun_ok hfree (by rw [hrun]; rfl))

/-- Settles O48: each step of the scheduler on the state of its core. -/
theorem schedulerEvents : Obligations.SchedulerEvents := by
  refine ⟨?grant, ?slice, ?halfway, ?grace, ?quiesce, ?exchange, ?bankOut, ?spill, ?preload, ?budget⟩
  case grant =>
    intro s core hcore hidle
    exact ⟨fun w => exec_coreGrant hcore hidle rfl, exec_coreGrant_none hcore hidle rfl⟩
  case slice =>
    intro s core cur hcur hswap
    exact ⟨exec_sliceEnd_keep hcur hswap, fun w => exec_sliceEnd_other hcur hswap⟩
  case halfway =>
    intro s core cur w hcur hswap h hw
    exact exec_sliceHalfway hcur hswap h hw
  case grace =>
    intro s core next ds hswap
    exact exec_graceExpire hswap
  case quiesce =>
    intro s core next hswap hsettled
    exact exec_contextQuiesce hswap hsettled rfl rfl
  case exchange =>
    intro s core next x hswap hnow hawait hown hin
    exact exec_contextExchange hswap hnow hawait hown hin
  case bankOut =>
    intro s core next hswap hnow hawait hs hsh hl hany
    exact exec_contextExchange_bankOut hswap hnow hawait hs hsh hl hany
  case spill =>
    intro s core x h
    exact exec_contextSpill h
  case preload =>
    intro s core n x y rest hnext hsh hx hsaved hrest
    exact exec_contextPreload hnext hsh hx hsaved hrest
  case budget =>
    intro s core x hx hbudget hblocked hswap recs hany hfree s1 s2 first hsnap hrec
    exact exec_waitBudgetExpire hx hbudget hblocked hswap rfl hany hfree hsnap hrec

end Sys2Proof.Machine
end

section
/-! PROOFS. Sessions (22_sessions_scheduling.md): the session commands, watchdogs and resets. -/

namespace Sys2Proof.Machine

open Sys2Proof

/-! ### Session commands (22 R404) -/

/-- A session command on a session in a state that it accepts. -/
theorem State.scmdOn_ok {s : State} {op : Nat} {ok : SessState → Bool} {act : State → Session → State} {x : Session}
    (hop : scmdOp s.ctrl.scmd = op) (hx : s.session? (scmdSlot s.ctrl.scmd) = some x) (hok : ok x.st = true) :
    s.scmdOn op ok act = .next ((act s x).scmdEnd 0) := by
  simp [State.scmdOn, hop, hx, hok]

/-- One that finds its session in another state. -/
theorem State.scmdOn_bad {s : State} {op : Nat} {ok : SessState → Bool} {act : State → Session → State} {x : Session}
    (hop : scmdOp s.ctrl.scmd = op) (hx : s.session? (scmdSlot s.ctrl.scmd) = some x) (hok : ok x.st = false) :
    s.scmdOn op ok act = .next (s.scmdEnd 2) := by
  simp [State.scmdOn, hop, hx, hok]

theorem exec_create {s : State} {v : Nat} (hop : scmdOp s.ctrl.scmd = 1) (hfree : s.session? (scmdSlot s.ctrl.scmd) = none)
    (hdev : s.dev (s.recordAt (scmdSlot s.ctrl.scmd)) 256 = some v) (hrec : recordOk v = true) (htrec : s.goodTrec (fld v 16 64) = true) :
    exec .create s = .next (((s.addSession ((newSession (scmdSlot s.ctrl.scmd) v (s.nextIncarnation (scmdSlot s.ctrl.scmd))).measure 1
      (sha512 (s.phys.bytesAt (fld v 16 64) 256)))).postSession (scmdSlot s.ctrl.scmd)).scmdEnd 0) := by
  change execCreate s = _
  simp [execCreate, hop, hfree, hdev, hrec, htrec]

theorem exec_create_taken {s : State} {x : Session} (hop : scmdOp s.ctrl.scmd = 1) (hx : s.session? (scmdSlot s.ctrl.scmd) = some x) :
    exec .create s = .next (s.scmdEnd 2) := by
  change execCreate s = _
  simp [execCreate, hop, hx]

theorem exec_destroy {s : State} {x : Session} (hop : scmdOp s.ctrl.scmd = 2) (hx : s.session? (scmdSlot s.ctrl.scmd) = some x)
    (hidle : x.st = .idle) (hqueues : s.queuesOwned x.slot = []) : exec .destroy s = .next ((s.removeSession x).scmdEnd 0) := by
  change execDestroy s = _
  simp [execDestroy, hop, hx, hidle, hqueues]

theorem exec_destroy_queues {s : State} {x : Session} (hop : scmdOp s.ctrl.scmd = 2) (hx : s.session? (scmdSlot s.ctrl.scmd) = some x)
    (hidle : x.st = .idle) (hqueues : s.queuesOwned x.slot ≠ []) : exec .destroy s = .next (s.scmdEnd 3) := by
  change execDestroy s = _
  simp [execDestroy, hop, hx, hidle, hqueues]

theorem exec_freeze {s : State} {x : Session} (hop : scmdOp s.ctrl.scmd = 3) (hx : s.session? (scmdSlot s.ctrl.scmd) = some x)
    (hst : x.st = .idle) : exec .freeze s =
      .next ((((s.setFrozen x true).modSession x.slot fun y => { y with st := .frozen }).postSession x.slot).scmdEnd 0) := by
  change execFreeze s = _
  exact State.scmdOn_ok hop hx (by simp [hst])

theorem exec_thaw {s : State} {x : Session} (hop : scmdOp s.ctrl.scmd = 4) (hx : s.session? (scmdSlot s.ctrl.scmd) = some x)
    (hst : x.st = .frozen) : exec .thaw s =
      .next (((((s.setFrozen x false).modSession x.slot fun y => { y with st := .idle }).postSession x.slot).wake x.slot).scmdEnd 0) := by
  change execThaw s = _
  exact State.scmdOn_ok hop hx (by simp [hst])

theorem exec_scmdReset {s : State} {x : Session} (hop : scmdOp s.ctrl.scmd = 5) (hx : s.session? (scmdSlot s.ctrl.scmd) = some x)
    (hst : x.st ≠ .resetting) : exec .scmdReset s = .next ((s.beginReset x.slot).scmdEnd 0) := by
  change execScmdReset s = _
  exact State.scmdOn_ok hop hx (by simpa using hst)

theorem exec_scmdReset_resetting {s : State} {x : Session} (hop : scmdOp s.ctrl.scmd = 5)
    (hx : s.session? (scmdSlot s.ctrl.scmd) = some x) (hst : x.st = .resetting) : exec .scmdReset s = .next (s.scmdEnd 2) := by
  change execScmdReset s = _
  exact State.scmdOn_bad hop hx (by simp [hst])

/-! ### Watchdogs and the ends of resets (22 R402, R403) -/

theorem exec_watchdogFire {s u : State} {queue : Nat} {q : QueueCtx} {x : Session} (hq : s.ctxOf queue = some q)
    (hx : s.session? q.session = some x) (hwatched : s.watched x queue = true) (hfree : s.unitBlocked x.slot 6 = false)
    (hrec : s.tryRecord x false (plainRecord x 0x10 0 (BitVec.ofNat 64 queue) 0) = .ok u) :
    exec (.watchdogFire queue) s = .next (((u.modSession x.slot fun y =>
      { y with watchdogs := y.watchdogs ++ [queue] }).beginReset x.slot).unitClear x.slot 6) := by
  change execWatchdogFire queue s = _
  simp only [execWatchdogFire, hq, Option.bind_some, hx, hwatched, Bool.not_true, Bool.false_eq_true, if_false]
  exact congrArg Host.Outcome.next (State.unitRun_ok hfree (by rw [show watchdogCode = 0x10 from rfl, hrec]; rfl))

theorem exec_resetComplete {s : State} {session : Nat} {x : Session} (hx : s.session? session = some x) (hst : x.st = .resetting)
    (hdone : ∀ l ∈ s.launches, l.session ≠ session) : exec (.resetComplete session) s = .next (s.endReset x) := by
  change execResetComplete session s = _
  have hany : (s.launches.any fun l => l.session == session) = false := by simpa using hdone
  simp [execResetComplete, hx, hst, hany]

/-- Settles O50: each command from the states of its rule, a watchdog that has a record, and a reset without launches. -/
theorem sessionEvents : Obligations.SessionEvents := by
  refine ⟨?create, ?commands, ?watchdog, ?complete⟩
  case create =>
    intro s hop hfree v hdev hrec htrec
    exact exec_create hop hfree hdev hrec htrec
  case commands =>
    intro s x hx
    exact ⟨fun hop => exec_create_taken hop hx, fun hop => exec_destroy hop hx, fun hop => exec_destroy_queues hop hx,
      fun hop => exec_freeze hop hx, fun hop => exec_thaw hop hx, fun hop => exec_scmdReset hop hx,
      fun hop => exec_scmdReset_resetting hop hx⟩
  case watchdog =>
    intro s queue q x hq hx hwatched hfree u hrec
    exact exec_watchdogFire hq hx hwatched hfree hrec
  case complete =>
    intro s session x hx hst hdone
    exact exec_resetComplete hx hst hdone

end Sys2Proof.Machine
end

section
/-! PROOFS. Queues and command streams (22_sessions_scheduling.md). -/

namespace Sys2Proof.Machine

open Sys2Proof

/-! ### Doorbells and hardware slots (22 R388, R389) -/

section
variable {s : State} {x : Session} {q v : Nat} (hq : q = s.ctrl.doorbell.toNat % 2 ^ 14) (hv : v = s.queueEntry q)
  (hx : s.session? (qOwner v) = some x) (hon : qEnabled v = true)
include hq hv hx hon

theorem exec_doorbell_eq : exec .doorbell s =
    if x.st == .resetting then .next (s.keepDoorbell q (qWptr v))
    else if qStatus v == 0 && overrun v (qWptr v) then .next (s.stopQueue q 1)
    else if (s.ctxOf q).isSome then .next (s.modCtx q fun k => { k with wptr := qWptr v })
    else if x.st == .frozen || s.queueReady q (qWptr v) then .next (s.keepDoorbell q (qWptr v))
    else .next s := by
  change execDoorbell s = _
  unfold execDoorbell
  rw [← hq]
  simp only [← hv, hx, hon, Bool.not_true, Bool.false_eq_true, if_false]

theorem exec_doorbell_overrun (hst : x.st ≠ .resetting) (hstatus : qStatus v = 0) (hover : overrun v (qWptr v) = true) :
    exec .doorbell s = .next (s.stopQueue q 1) := by
  simp [exec_doorbell_eq hq hv hx hon, hst, hstatus, hover]

theorem exec_doorbell_mapped (hst : x.st ≠ .resetting) (hover : overrun v (qWptr v) = false) (hmapped : (s.ctxOf q).isSome = true) :
    exec .doorbell s = .next (s.modCtx q fun k => { k with wptr := qWptr v }) := by
  simp [exec_doorbell_eq hq hv hx hon, hst, hover, hmapped]

/-- A doorbell that is kept: of a queue that may be mapped, or of a session that is FROZEN or RESETTING. -/
theorem exec_doorbell_kept (hover : overrun v (qWptr v) = false)
    (hkeep : x.st = .frozen ∨ x.st = .resetting ∨ s.queueReady q (qWptr v) = true) (hfree : x.st = .resetting ∨ s.ctxOf q = none)
    (hnew : ∀ e ∈ s.doorbells, e.1 ≠ q) : exec .doorbell s = .next { s with doorbells := s.doorbells ++ [(q, qWptr v)] } := by
  have hkept : s.keepDoorbell q (qWptr v) = { s with doorbells := s.doorbells ++ [(q, qWptr v)] } := by
    have hany : (s.doorbells.any fun e => e.1 == q) = false := by simpa using hnew
    simp [State.keepDoorbell, hany]
  rw [exec_doorbell_eq hq hv hx hon]
  by_cases hreset : x.st = .resetting
  · simp [hreset, hkept]
  · have hnone : s.ctxOf q = none := hfree.resolve_left hreset
    have hready : x.st = .frozen ∨ s.queueReady q (qWptr v) = true := hkeep.imp_right (Or.resolve_left · hreset)
    simp [hreset, hover, hnone, hready, hkept]

end

theorem exec_queueMap {s : State} {q w n : Nat} (hon : s.ctrl.schedEnable = true) (hnext : s.nextQueue = some (q, w))
    (hslot : s.freeQueueSlot = some n) (hover : overrun (s.queueEntry q) w = false) :
    exec .queueMap s = .next { s.setQSlot q n with
      queues := s.queues ++ [s.newCtx n q (qOwner (s.queueEntry q)) (qRptr (s.queueEntry q)) w]
      doorbells := s.doorbells.filter fun (e : Nat × Nat) => e.1 != q } := by
  change execQueueMap s = _
  simp only [execQueueMap, hon, hnext, hslot, hover, Bool.not_true, Bool.false_eq_true, if_false]

theorem exec_queueUnmapIdle {s : State} {q : QueueCtx} (h : s.unmappable = some q) : exec .queueUnmapIdle s = .next (s.unmap q.queue) := by
  change execQueueUnmapIdle s = _
  simp only [execQueueUnmapIdle, h]

/-! ### A command processor at a command (22 R390) -/

section
variable {s : State} {x : Session} {q : QueueCtx} {v opc : Nat} {body : State → Session → QueueCtx → Nat → CpRes}

/-- The command that the queue stands at runs, and ends by its answer. -/
theorem cpRun_at (h : s.atCommand x q v opc) : cpRun opc body s = .next (s.cpEnd x q (body s x q v)) := by
  obtain ⟨hhead, hop, hzero, hafter⟩ := h
  have hgo : ¬ (cpAfter v && !q.idle) = true := by
    simp only [Bool.and_eq_true, Bool.not_eq_true', not_and, Bool.not_eq_false]
    exact hafter
  simp only [cpRun, hhead, hop, bne_self_eq_false, Bool.false_eq_true, if_false, hzero, if_neg hgo]

/-- One whose bits 63 to 9 are not zero stops the queue. -/
theorem cpRun_reserved (hhead : s.cpHead s.cpTurn = .cmd x q v) (hop : cpOp v = opc) (hbits : bitsOf v 63 9 ≠ 0) :
    cpRun opc body s = .next (s.stopBad q) := by
  simp only [cpRun, hhead, hop, bne_self_eq_false, Bool.false_eq_true, if_false, bne_iff_ne.mpr hbits, if_true]

theorem cpRun_done {t : State} {f : QueueCtx → QueueCtx} (h : s.atCommand x q v opc) (hbody : body s x q v = .done t f) :
    cpRun opc body s = .next (t.goOn q.queue f) := by rw [cpRun_at h, hbody]; rfl

theorem cpRun_bad (h : s.atCommand x q v opc) (hbody : body s x q v = .bad) : cpRun opc body s = .next (s.stopBad q) := by
  rw [cpRun_at h, hbody]; rfl

end

/-- `CP_NOP` runs a command of its OPC as the others do theirs. -/
theorem exec_cpNop_cmd {s : State} {x : Session} {q : QueueCtx} {v : Nat} (hhead : s.cpHead s.cpTurn = .cmd x q v) (hop : cpOp v < 12) :
    exec .cpNop s = cpRun 0 (fun t _ _ w => if zeroFrom w 8 then .done t nextCmdOf else .bad) s := by
  change execCpNop s = _
  simp only [execCpNop, hhead, Nat.not_le.mpr hop, if_false]

theorem exec_cpNop_unassigned {s : State} {x : Session} {q : QueueCtx} {v : Nat} (hhead : s.cpHead s.cpTurn = .cmd x q v)
    (hop : 12 ≤ cpOp v) : exec .cpNop s = .next (s.stopBad q) := by
  change execCpNop s = _
  simp only [execCpNop, hhead, hop, if_true]

section
variable {s : State} {x : Session} {q : QueueCtx} {v : Nat}

theorem exec_cpNop (h : s.atCommand x q v 0) (hzero : zeroFrom v 8 = true) : exec .cpNop s = .next (s.goOn q.queue nextCmdOf) := by
  rw [exec_cpNop_cmd h.1 (by rw [h.2.1]; decide)]
  exact cpRun_done h (if_pos hzero)

theorem exec_cpNop_bad (h : s.atCommand x q v 0) (hzero : zeroFrom v 8 = false) : exec .cpNop s = .next (s.stopBad q) := by
  rw [exec_cpNop_cmd h.1 (by rw [h.2.1]; decide)]
  exact cpRun_bad h (by simp [hzero])

/-! ### Launches and copies -/

theorem cpLaunch_done {t : State} {no va : Nat} {grid : Option (Nat × Nat × Nat)} (haligned : va % 64 = 0)
    (hstart : s.startLaunch x va grid (s.queuePriv x (some q.queue)) q.declined (some q.queue) none = .done t no) :
    cpLaunch s x q va grid = .done t fun k => { nextCmdOf k with launches := k.launches ++ [no] } := by
  simp [cpLaunch, haligned, hstart]

theorem exec_launch {t : State} {no : Nat} (h : s.atCommand x q v 1) (hzero : zeroFrom v 16 = true) (haligned : fld v 8 64 % 64 = 0)
    (hstart : s.startLaunch x (fld v 8 64) none (s.queuePriv x (some q.queue)) q.declined (some q.queue) none = .done t no) :
    exec .launch s = .next (t.goOn q.queue fun k => { nextCmdOf k with launches := k.launches ++ [no] }) := by
  change execLaunch s = _
  exact cpRun_done h (by simp only [hzero, if_true, cpLaunch_done haligned hstart])

theorem exec_launch_bad (h : s.atCommand x q v 1) (hbad : zeroFrom v 16 = false ∨ fld v 8 64 % 64 ≠ 0) :
    exec .launch s = .next (s.stopBad q) := by
  change execLaunch s = _
  refine cpRun_bad h ?_
  rcases hbad with hbad | hbad <;> simp [hbad, cpLaunch]

theorem exec_launchi {t : State} {no g : Nat} (h : s.atCommand x q v 2) (hzero : zeroFrom v 24 = true) (haligned : fld v 8 64 % 64 = 0)
    (hgrid : s.sxNum x (fld v 16 64) 12 = .ok g)
    (hstart : s.startLaunch x (fld v 8 64) (some (fld g 0 32, fld g 4 32, fld g 8 32)) (s.queuePriv x (some q.queue)) q.declined
      (some q.queue) none = .done t no) :
    exec .launchi s = .next (t.goOn q.queue fun k => { nextCmdOf k with launches := k.launches ++ [no] }) := by
  change execLaunchi s = _
  exact cpRun_done h (by simp only [hzero, hgrid, Bool.not_true, Bool.false_eq_true, if_false, cpLaunch_done haligned hstart])

theorem exec_launchi_bad (h : s.atCommand x q v 2)
    (hbad : zeroFrom v 24 = false ∨ fld v 8 64 % 64 ≠ 0 ∧ ∃ g, s.sxNum x (fld v 16 64) 12 = .ok g) :
    exec .launchi s = .next (s.stopBad q) := by
  change execLaunchi s = _
  refine cpRun_bad h ?_
  rcases hbad with hbad | ⟨hbad, g, hgrid⟩
  · simp [hbad]
  · cases hzero : zeroFrom v 24 <;> simp [hgrid, hbad, cpLaunch]

theorem exec_cpCopy (h : s.atCommand x q v 3) (hzero : zeroFrom v 16 = true)
    (hread : fld v 8 64 % 32 = 0 → ∃ d, s.sxNum x (fld v 8 64) 32 = .ok d) :
    (let r := s.addCopy x (some q.queue) none (BitVec.ofNat 64 (fld v 8 64))
     exec .cpCopy s = .next (r.1.goOn q.queue fun k =>
       { nextCmdOf k with cmds := if (r.1.cmd? r.2).isSome then k.cmds ++ [r.2] else k.cmds })) := by
  change execCpCopy s = _
  refine cpRun_done h ?_
  by_cases ha : fld v 8 64 % 32 = 0
  · obtain ⟨d, hd⟩ := hread ha
    simp [hzero, ha, hd]
  · simp [hzero, ha]

theorem exec_cpCopy_bad (h : s.atCommand x q v 3) (hzero : zeroFrom v 16 = false) : exec .cpCopy s = .next (s.stopBad q) := by
  change execCpCopy s = _
  exact cpRun_bad h (by simp [hzero])

/-! ### Waits, signals, loops and conditions -/

theorem cpCond_none (hbad : fld v 8 64 % 8 ≠ 0 ∨ 8 ≤ fld v 24 32) : cpCond s x v = none := by
  rcases hbad with hbad | hbad <;> simp [cpCond, hbad]

theorem exec_cpWait {b : Bool} (h : s.atCommand x q v 4) (hzero : zeroFrom v 28 = true) (hcond : cpCond s x v = some (.ok b)) :
    exec .cpWait s = .next (if b then s.goOn q.queue nextCmdOf else s) := by
  change execCpWait s = _
  rw [execCpWait, cpRun_at h]
  cases b <;> simp [hzero, hcond, State.cpEnd]

theorem exec_cpWait_bad (h : s.atCommand x q v 4) (hbad : zeroFrom v 28 = false ∨ fld v 8 64 % 8 ≠ 0 ∨ 8 ≤ fld v 24 32) :
    exec .cpWait s = .next (s.stopBad q) := by
  change execCpWait s = _
  refine cpRun_bad h ?_
  rcases hbad with hbad | hbad
  · simp [hbad]
  · simp [cpCond_none hbad]

theorem exec_signal {t : State} (h : s.atCommand x q v 5) (hzero : zeroFrom v 28 = true) (haligned : fld v 8 64 % 8 = 0)
    (hkind : fld v 24 32 < 2)
    (hwrite : s.sxWriteNum x (fld v 8 64) (if fld v 24 32 = 1 then 8 else 4) (fld v 16 (8 * if fld v 24 32 = 1 then 8 else 4)) = .ok t) :
    exec .signal s = .next (t.goOn q.queue nextCmdOf) := by
  change execSignal s = _
  exact cpRun_done h (by
    simp only [hzero, haligned, Nat.not_le.mpr hkind, bne_self_eq_false, decide_false, Bool.not_true, Bool.or_self, Bool.false_eq_true,
      if_false, beq_iff_eq, hwrite])

theorem exec_signal_bad (h : s.atCommand x q v 5) (hbad : zeroFrom v 28 = false ∨ fld v 8 64 % 8 ≠ 0 ∨ 2 ≤ fld v 24 32) :
    exec .signal s = .next (s.stopBad q) := by
  change execSignal s = _
  refine cpRun_bad h ?_
  rcases hbad with hbad | hbad | hbad <;> simp [hbad]

theorem exec_loop (h : s.atCommand x q v 6) (hzero : zeroFrom v 16 = true) (hone : 1 ≤ fld v 8 64) (hmax : fld v 8 64 < 2 ^ 32)
    (hdepth : q.loops.length < 4) : exec .loop s =
      .next (s.goOn q.queue fun k => { nextCmdOf k with loops := k.loops ++ [{ start := k.next, left := fld v 8 64 }] }) := by
  change execLoop s = _
  exact cpRun_done h (if_neg (by simp [hzero]; omega))

theorem exec_loop_bad (h : s.atCommand x q v 6)
    (hbad : zeroFrom v 16 = false ∨ fld v 8 64 = 0 ∨ 2 ^ 32 ≤ fld v 8 64 ∨ 4 ≤ q.loops.length) :
    exec .loop s = .next (s.stopBad q) := by
  change execLoop s = _
  refine cpRun_bad h ?_
  refine if_pos ?_
  simp only [Bool.or_eq_true, beq_iff_eq, decide_eq_true_eq, Bool.not_eq_true']
  tauto

theorem exec_endloop {l : CpLoop} (h : s.atCommand x q v 7) (hzero : zeroFrom v 8 = true) (hlast : q.loops.getLast? = some l) :
    exec .endloop s = .next (s.goOn q.queue (if 1 < l.left then
        fun k => { k with next := l.start + 1, loops := k.loops.dropLast ++ [{ l with left := l.left - 1 }] }
      else fun k => { nextCmdOf k with loops := k.loops.dropLast })) := by
  change execEndloop s = _
  refine cpRun_done h ?_
  simp only [hlast, hzero, Bool.not_true, Bool.false_eq_true, if_false]
  split <;> rfl

theorem exec_endloop_bad (h : s.atCommand x q v 7) (hbad : zeroFrom v 8 = false ∨ q.loops = []) :
    exec .endloop s = .next (s.stopBad q) := by
  change execEndloop s = _
  refine cpRun_bad h ?_
  rcases hbad with hbad | hbad
  · cases q.loops.getLast? <;> simp [hbad]
  · simp [hbad]

theorem exec_cond {b : Bool} (h : s.atCommand x q v 8) (hzero : zeroFrom v 32 = true) (hone : 1 ≤ fld v 28 32) (hmax : fld v 28 32 < 256)
    (hcond : cpCond s x v = some (.ok b)) :
    exec .cond s = .next (s.goOn q.queue fun k => { nextCmdOf k with skip := if b then 0 else fld v 28 32 }) := by
  change execCond s = _
  refine cpRun_done h ?_
  simp only [hcond]
  exact if_neg (by simp [hzero]; omega)

theorem exec_cond_bad (h : s.atCommand x q v 8)
    (hbad : zeroFrom v 32 = false ∨ fld v 28 32 = 0 ∨ 256 ≤ fld v 28 32 ∨ fld v 8 64 % 8 ≠ 0 ∨ 8 ≤ fld v 24 32) :
    exec .cond s = .next (s.stopBad q) := by
  change execCond s = _
  refine cpRun_bad h ?_
  rcases hbad with hbad | hbad | hbad | hbad
  · simp [hbad]
  · simp [hbad]
  · simp [hbad]
  · simp [cpCond_none hbad]

/-! ### Graphs and resumes -/

theorem exec_graph {t : State} (h : s.atCommand x q v 9) (hzero : zeroFrom v 16 = true)
    (hsubmit : s.submit x { id := s.nextCmd, session := x.slot, gen := x.gen, gid := 0, queue := some q.queue, node := none, core := 64,
                            launch := 0, reply := none, kind := .start 0xB1 0 (BitVec.ofNat 64 (fld v 8 64)) 0, held := false, done := 0,
                            fault := none, declined := q.declined, priv := true, noCtr := false, first := 0 }
      (BitVec.ofNat 64 (fld v 8 64)) = .status t 0) :
    exec .graph s = .next (t.goOn q.queue fun k => { nextCmdOf k with nodes := k.nodes ++ [BitVec.ofNat 64 (fld v 8 64)] }) := by
  change execGraph s = _
  exact cpRun_done h (by simp only [hzero, Bool.not_true, Bool.false_eq_true, if_false, hsubmit])

theorem exec_graph_bad (h : s.atCommand x q v 9) (hzero : zeroFrom v 16 = false) : exec .graph s = .next (s.stopBad q) := by
  change execGraph s = _
  exact cpRun_bad h (by simp [hzero])

theorem exec_resume {w r : Nat} {g : Group} {who : Who} {tr : Trap} (h : s.atCommand x q v 11) (hzero : zeroFrom v 24 = true)
    (haction : fld v 16 64 < 4) (hring : x.tring ≠ 0) (hw : s.sxNum x x.tring.toNat 8 = .ok w) (hold : fld v 8 64 < w)
    (hcap : w - fld v 8 64 ≤ 2 ^ x.tringcap.toNat)
    (hr : s.sxNum x (x.tring.toNat + 64 * (1 + fld v 8 64 % 2 ^ x.tringcap.toNat)) 64 = .ok r) (hdog : fld r 24 8 ≠ 0x10)
    (hbudget : fld r 24 8 ≠ 0x11) (hunit : s.trappedUnit x.slot (fld v 8 64) = some (g, who, tr)) :
    exec .resume s =
      .next ((if fld v 16 64 = 3 then s.endLaunch x.slot g.launch 3 else s.resumeUnit g who tr (fld v 16 64)).goOn q.queue nextCmdOf) := by
  change execResume s = _
  have hring0 : x.tring.toNat ≠ 0 := fun h0 => hring (BitVec.eq_of_toNat_eq h0)
  refine cpRun_done h ?_
  simp only [hzero, Nat.not_le.mpr haction, hring0, hw, Nat.not_le.mpr hold, Nat.not_lt.mpr hcap, hr, watchdogCode, waitBudgetCode, hdog,
    hbudget, hunit, decide_false, Bool.not_true, Bool.or_self, beq_iff_eq, beq_eq_false_iff_ne.mpr, ne_eq, not_false_eq_true,
    Bool.false_eq_true, if_false]
  split <;> rfl

theorem exec_resume_bad (h : s.atCommand x q v 11) (hbad : zeroFrom v 24 = false ∨ 4 ≤ fld v 16 64 ∨ x.tring = 0) :
    exec .resume s = .next (s.stopBad q) := by
  change execResume s = _
  refine cpRun_bad h ?_
  rcases hbad with hbad | hbad | hbad <;> simp [hbad]

/-- Every assigned OPC but SNAPSHOT's: reserved bits that are not zero stop the queue. -/
theorem exec_command_reserved {c : Nat × Instr} (hc : c ∈ [(0, Instr.cpNop), (1, .launch), (2, .launchi), (3, .cpCopy), (4, .cpWait),
      (5, .signal), (6, .loop), (7, .endloop), (8, .cond), (9, .graph), (11, .resume)]) (hhead : s.cpHead s.cpTurn = .cmd x q v)
    (hop : cpOp v = c.1) (hbits : bitsOf v 63 9 ≠ 0) : exec c.2 s = .next (s.stopBad q) := by
  simp only [List.mem_cons, List.not_mem_nil, or_false] at hc
  rcases hc with rfl | rfl | rfl | rfl | rfl | rfl | rfl | rfl | rfl | rfl | rfl
  · rw [exec_cpNop_cmd hhead (by rw [hop]; decide)]
    exact cpRun_reserved hhead hop hbits
  · change execLaunch s = _
    exact cpRun_reserved hhead hop hbits
  · change execLaunchi s = _
    exact cpRun_reserved hhead hop hbits
  · change execCpCopy s = _
    exact cpRun_reserved hhead hop hbits
  · change execCpWait s = _
    exact cpRun_reserved hhead hop hbits
  · change execSignal s = _
    exact cpRun_reserved hhead hop hbits
  · change execLoop s = _
    exact cpRun_reserved hhead hop hbits
  · change execEndloop s = _
    exact cpRun_reserved hhead hop hbits
  · change execCond s = _
    exact cpRun_reserved hhead hop hbits
  · change execGraph s = _
    exact cpRun_reserved hhead hop hbits
  · change execResume s = _
    exact cpRun_reserved hhead hop hbits

/-! ### `SNAPSHOT` (21 R378, R379) -/

/-- The operations that each step of `SNAPSHOT` takes, by OP of the block. -/
def snapStep (ins : Instr) (op : Nat) : Prop :=
  ins = .snapshotOpen ∧ (op = 0 ∨ 2 < op) ∨ ins = .snapshotPublish ∧ op = 1 ∨ ins = .snapshotClose ∧ op = 2

theorem exec_snapStep {ins : Instr} {op : Nat} (h : snapStep ins op) : ∃ p : Nat → Bool, p op = true ∧ exec ins s = cpSnapshot p s := by
  rcases h with ⟨rfl, h⟩ | ⟨rfl, h⟩ | ⟨rfl, h⟩
  · exact ⟨fun op => op == 0 || 2 < op, by simpa using h, rfl⟩
  · exact ⟨fun op => op == 1, by simpa using h, rfl⟩
  · exact ⟨fun op => op == 2, by simpa using h, rfl⟩

theorem exec_snapshot {u t : State} {b code : Nat} {ins : Instr} (h : s.atCommand x q v 10) (hzero : zeroFrom v 16 = true)
    (hblock : s.sxNum x (fld v 8 64) 64 = .ok b) (hins : snapStep ins (fld b 8 8)) (hrun : snapRun s x (fld v 8 64) b = .status u code)
    (hwrite : u.sxWriteNum x (fld v 8 64 + 33) 1 code = .ok t) : exec ins s = .next (t.goOn q.queue nextCmdOf) := by
  obtain ⟨p, hp, hexec⟩ := exec_snapStep (s := s) hins
  rw [hexec]
  simp only [cpSnapshot, h.1, hblock, hp, Bool.not_true, Bool.false_eq_true, if_false]
  exact cpRun_done h (by simp only [hzero, Bool.not_true, Bool.false_eq_true, if_false, hrun, hwrite])

theorem exec_snapshot_bad {b : Nat} {ins : Instr} (h : s.atCommand x q v 10) (hzero : zeroFrom v 16 = false)
    (hblock : s.sxNum x (fld v 8 64) 64 = .ok b) (hins : snapStep ins (fld b 8 8)) : exec ins s = .next (s.stopBad q) := by
  obtain ⟨p, hp, hexec⟩ := exec_snapStep (s := s) hins
  rw [hexec]
  simp only [cpSnapshot, h.1, hblock, hp, Bool.not_true, Bool.false_eq_true, if_false]
  exact cpRun_bad h (by simp [hzero])

section
variable {t : State} {base new vword : Nat} {h : SnapHead} (hmaps : new < h.maps) (hreaders : snapRead s x (readersAt base new) 8 = .ok 0)
  (hnew : new ≠ h.vword % 256)
include hmaps hreaders hnew

/-- A publish of another VWORD than the block's fails after its release. -/
theorem snapPublish_changed (hword : h.vword ≠ vword) :
    snapPublish s x base vword new h = .status (s.releaseOn (s.coresOf x.slot) 4) 2 := by
  simp [snapPublish, Nat.not_le.mpr hmaps, hreaders, hnew, hword]

theorem snapPublish_same (hword : h.vword = vword)
    (hwrite : snapWrite8 (s.releaseOn (s.coresOf x.slot) 4) x base (((h.vword / 256 + 1) * 256 + new) % 2 ^ 64) = .ok t) :
    snapPublish s x base vword new h = .status t 0 := by
  subst hword
  simp only [snapPublish, Nat.not_le.mpr hmaps, hreaders, beq_eq_false_iff_ne.mpr hnew, bne_self_eq_false, Bool.or_self,
    Bool.false_eq_true, if_false, hwrite]

end

end

/-- Settles O49: doorbells and slots, every command at its processor, and the operations of `SNAPSHOT`. -/
theorem queuesAndCommands : Obligations.QueuesAndCommands := by
  refine ⟨⟨?doorbell, ?map, ?unmap⟩, ?commands, ?snapshot, ?snapshotBad, ?publish⟩
  case doorbell =>
    intro s x q v hx hon
    exact ⟨exec_doorbell_overrun rfl rfl hx hon, exec_doorbell_mapped rfl rfl hx hon, exec_doorbell_kept rfl rfl hx hon⟩
  case map =>
    intro s q w n hon hnext hslot hover
    exact exec_queueMap hon hnext hslot hover
  case unmap =>
    intro s q h
    exact exec_queueUnmapIdle h
  case commands =>
    intro s x q v
    exact ⟨exec_cpNop, exec_cpNop_bad, fun _ _ => exec_launch, fun _ _ _ => exec_launchi, exec_cpCopy, fun _ => exec_cpWait,
      fun _ => exec_signal, exec_loop, fun _ => exec_endloop, fun _ => exec_cond, fun _ => exec_graph,
      fun _ _ _ _ _ h hzero haction hring => exec_resume h hzero haction hring, fun _ => exec_command_reserved, exec_cpNop_unassigned,
      exec_launch_bad, exec_launchi_bad, exec_cpCopy_bad, exec_cpWait_bad, exec_signal_bad, exec_loop_bad, exec_endloop_bad,
      exec_cond_bad, exec_graph_bad, exec_resume_bad⟩
  case snapshot =>
    intro s u t x q v b code ins h hzero hblock hins hrun hwrite
    exact exec_snapshot h hzero hblock hins hrun hwrite
  case snapshotBad =>
    intro s x q v b ins h hzero hblock hins
    exact exec_snapshot_bad h hzero hblock hins
  case publish =>
    intro s t x base new vword h hmaps hreaders hnew
    exact ⟨snapPublish_changed hmaps hreaders hnew, snapPublish_same hmaps hreaders hnew⟩

end Sys2Proof.Machine
end

section
/-! PROOFS. Trust (23_trust.md): what alarms leave behind a step. -/

namespace Sys2Proof.Machine

open Sys2Proof

/-! ### Alarms that act (23 R418) -/

/-- An IDLE session about to be frozen whose translation record lies on a line under the session's own key, with the policy of the TAG
alarm at 2 (reset the session that the line's key names). -/
def keyedTrec : State :=
  { State.reset with
    ctrl := { State.reset.ctrl with scmd := 0x300, alarmPol := 2 }
    phys := { State.reset.phys with owners := [(placedSession.trec / 64, .session 0 0 placedSession.incarnation)] }
    sessions := [{ placedSession with st := .idle }]
    agenda := [.freeze] }

/-- An outcome that is a next state in which a raised alarm has still to act. -/
def leavesAlarm : Host.Outcome State Fault Refusal → Bool
  | .next t => !t.alarmTodo.isEmpty
  | _ => false

/-- The `FREEZE` of `keyedTrec` raises TAG at the write of FROZEN. At the step's end that alarm resets the session, which now is
FROZEN: the reset's own write of FROZEN raises TAG again, after the alarms of the step have been taken. -/
theorem step_keyedTrec_leavesAlarm : leavesAlarm (step keyedTrec) = true := by decide +kernel

theorem not_settled_of_leavesAlarm {t : State} (h : leavesAlarm (.next t) = true) : ¬ t.Settled := by
  intro ht
  obtain ⟨-, -, htodo⟩ := ht
  simp [leavesAlarm, htodo] at h

/-- Refutes O54: an alarm that resets a FROZEN session whose translation record is keyed raises the next one while it acts. -/
theorem not_stepKeepsSettled : ¬ Obligations.StepKeepsSettled := by
  intro h
  have hleaves := step_keyedTrec_leavesAlarm
  cases hstep : step keyedTrec with
  | next t =>
    rw [hstep] at hleaves
    exact not_settled_of_leavesAlarm hleaves (h keyedTrec t ⟨rfl, rfl, rfl⟩ hstep)
  | _ => rw [hstep] at hleaves; cases hleaves

end Sys2Proof.Machine
end

section
/-! PROOFS. The host, boot and power (24_host_boot_power.md). -/

namespace Sys2Proof

/-! ### Entries dropped from a sparse array -/

/-- An array without the entries whose index fails `p`. -/
theorem spGet_filter {w : Nat} (p : Nat → Bool) {m : Sparse w} (i : Nat) :
    ∀ {a : Nat}, spAbove a m = true → spGet (m.filter fun e => p e.1) i = if p i then spGet m i else 0 := by
  induction m with
  | nil => intro a _; simp [spGet]
  | cons e m ih =>
    obtain ⟨j, v⟩ := e
    intro a h
    simp only [spAbove, Bool.and_eq_true, decide_eq_true_eq] at h
    obtain ⟨-, hm⟩ := h
    have hbelow (hi : i < j + 1) : spGet (m.filter fun e => p e.1) i = 0 := spGet_below (spAbove_filter _ hm) hi
    cases hp : p j with
    | true =>
      rw [List.filter_cons_of_pos (by simpa using hp)]
      rcases Nat.lt_trichotomy i j with hij | rfl | hij
      · simp [spGet, hij, Nat.ne_of_lt hij]
      · simp [spGet, hp]
      · simp [spGet, Nat.not_lt_of_gt hij, Nat.ne_of_gt hij, ih hm]
    | false =>
      rw [List.filter_cons_of_neg (by simp [hp])]
      rcases Nat.lt_trichotomy i j with hij | rfl | hij
      · simp [spGet, hij, Nat.ne_of_lt hij, hbelow (by omega)]
      · simp [hp, hbelow (by omega)]
      · simp [spGet, Nat.not_lt_of_gt hij, Nat.ne_of_gt hij, ih hm]

theorem spGet_spClear {w : Nat} {m : Sparse w} (h : spWf m = true) (lo hi i : Nat) :
    spGet (spClear m lo hi) i = if lo ≤ i ∧ i < hi then 0 else spGet m i := by
  rw [spClear, spGet_filter (fun n => decide (n < lo) || decide (hi ≤ n)) i h]
  by_cases hin : lo ≤ i ∧ i < hi
  · rw [if_pos hin, if_neg (by simp; omega)]
  · rw [if_neg hin, if_pos (by simp; omega)]

theorem mem_insNat {xs : List Nat} {i j : Nat} : j ∈ insNat xs i ↔ j = i ∨ j ∈ xs := by
  induction xs with
  | nil => simp [insNat]
  | cons x xs ih =>
    unfold insNat
    split
    · next h => subst h; simp
    split
    · simp
    · simp only [List.mem_cons, ih]; tauto

theorem mem_foldl_insNat {j : Nat} (ls : List Nat) : ∀ xs : List Nat, j ∈ ls.foldl insNat xs ↔ j ∈ ls ∨ j ∈ xs := by
  induction ls with
  | nil => simp
  | cons l ls ih => intro xs; rw [List.foldl_cons, ih, mem_insNat, List.mem_cons]; tauto

end Sys2Proof

namespace Sys2Proof.Machine

open Sys2Proof

/-! ### Host accesses to memory (24 R420, 23 R436) -/

theorem lpddrSize_eq : lpddrSize = 384 * 2 ^ 30 := rfl

theorem State.settleAlarms_none {s : State} (h : s.alarmTodo = []) : s.settleAlarms = s := by
  have hself : ({ s with alarmTodo := [] } : State) = s := by rw [← h]
  rw [State.settleAlarms, h, hself, List.foldl_nil]

section
variable {s : State} (hboot : s.ctrl.bootResult = 1)
include hboot

theorem exec_hostWrite (pa : Nat) (data : List Byte) : exec (.hostWrite pa data) s =
    .next (((lineParts pa data).filter fun p => decide (p.1 < 384 * 2 ^ 30)).foldl (fun (t : State) p => t.hostPut p.1 p.2) s).settleAlarms := by
  change execHostWrite pa data s = _
  rw [execHostWrite, hboot]
  rfl

/-- A read of lines that are plain and not poisoned gives their bytes. -/
theorem exec_hostRead_memory {pa len : Nat} (hmax : pa + len ≤ 384 * 2 ^ 30)
    (hlines : ∀ l ∈ linesOf pa len, s.keyed l = false ∧ s.phys.poison.contains l = false) (htodo : s.alarmTodo = []) :
    ∃ t, exec (.hostRead (.memory pa) len) s = .next t ∧ t.hostData = some ((List.range len).map fun j => spGet s.phys.bytes (pa + j)) ∧
      t.phys.bytes = s.phys.bytes ∧ t.cores = s.cores ∧ t.sessions = s.sessions := by
  have hbad : ((linesOf pa len).filter fun l => decide (64 * l < lpddrSize)).filter s.keyed = [] :=
    List.filter_eq_nil_iff.mpr fun l hl => by simp [(hlines l (List.mem_filter.mp hl).1).1]
  have hpoison : (((linesOf pa len).filter fun l => decide (64 * l < lpddrSize)).any fun l => s.phys.poison.contains l) = false :=
    List.any_eq_false.mpr fun l hl => by simpa using (hlines l (List.mem_filter.mp hl).1).2
  have hbytes : ((List.range len).map fun j => if pa + j < lpddrSize then spGet s.phys.bytes (pa + j) else 0) =
      (List.range len).map fun j => spGet s.phys.bytes (pa + j) :=
    List.map_congr_left fun j hj => if_pos (by have := List.mem_range.mp hj; rw [lpddrSize_eq]; omega)
  refine ⟨s.hostRead pa len, ?_, ?_, ?_, ?_, ?_⟩
  · change execHostRead (.memory pa) len s = _
    simp only [execHostRead, hboot, bne_self_eq_false, Bool.false_eq_true, if_false]
    rw [State.settleAlarms_none]
    simpa [State.hostRead, hbad] using htodo
  all_goals simp only [State.hostRead, hbad, hpoison, hbytes, List.foldl_nil, List.isEmpty_nil, Bool.not_true, Bool.or_self,
    Bool.false_eq_true, if_false]

section
variable {op : HostAtomicOp} {pa : Nat} {wide : Bool} {a b : Dword}

theorem exec_hostAtomic {n : Nat} (hn : n = if wide then 8 else 4) (haligned : pa % n = 0) (hmax : pa < 384 * 2 ^ 30)
    (hplain : s.keyed (pa / 64) = false) (hpoison : s.phys.poison.contains (pa / 64) = false) :
    exec (.hostAtomic op pa wide a b) s =
      .next { s.hostPut pa (toLE n (hostAtomicNew op (8 * n) (s.phys.num pa n) a.toNat b.toNat)) with
        hostData := some (toLE n (s.phys.num pa n)) } := by
  change execHostAtomic op pa wide a b s = _
  have hsize : ¬ lpddrSize ≤ pa := Nat.not_le.mpr hmax
  simp only [execHostAtomic, ← hn, hboot, haligned, hsize, hplain, hpoison, bne_self_eq_false, Bool.false_eq_true, if_false]

/-- Above the memory an AtomicOp reads zero and writes nothing. -/
theorem exec_hostAtomic_above (haligned : pa % (if wide then 8 else 4) = 0) (hmin : 384 * 2 ^ 30 ≤ pa) :
    exec (.hostAtomic op pa wide a b) s = .next { s with hostData := some (toLE (if wide then 8 else 4) 0) } := by
  change execHostAtomic op pa wide a b s = _
  have hsize : lpddrSize ≤ pa := hmin
  simp only [execHostAtomic, hboot, haligned, hsize, bne_self_eq_false, Bool.false_eq_true, if_false, if_true]

end

/-! ### Registers (24 R423 to R425) -/

theorem exec_registerWrite {off width : Nat} (v : Dword) (hwidth : width = 8) (haligned : off % 8 = 0) :
    exec (.registerWrite ⟨off, width⟩ v) s = .next (s.writeRegister off v) := by
  change execRegisterWrite ⟨off, width⟩ v s = _
  simp [execRegisterWrite, registerAccess, hboot, hwidth, haligned]

theorem exec_registerWrite_width {off width : Nat} (v : Dword) (hbad : width ≠ 8 ∨ off % 8 ≠ 0) :
    exec (.registerWrite ⟨off, width⟩ v) s = .next { s with ctrl := { s.ctrl with cfgErr := s.ctrl.cfgErr ||| 2 } } := by
  change execRegisterWrite ⟨off, width⟩ v s = _
  have hno : registerAccess off width = false := by simpa [registerAccess, imp_iff_not_or] using hbad
  exact (if_neg (by simp [hboot])).trans (if_pos (by simp [hno]))

/-- STAB_BASE, a lockable register, takes an aligned value in CONFIG_OPEN. -/
theorem exec_registerWrite_open {v : Dword} (hopen : s.ctrl.cfgState = 0) (haligned : v.toNat % 4096 = 0) :
    ∃ t, exec (.registerWrite ⟨0x1008, 8⟩ v) s = .next t ∧ t.register 0x1008 = some v.toNat ∧ t.ctrl.cfgErr = s.ctrl.cfgErr := by
  refine ⟨s.setCtrl fun c => { c with stabBase := v }, ?_, rfl, rfl⟩
  rw [exec_registerWrite hboot v rfl rfl]
  simp [State.writeRegister, State.lockable, hopen, limit4k, haligned]

theorem exec_registerWrite_locked (v : Dword) (hlocked : s.ctrl.cfgState ≠ 0) :
    exec (.registerWrite ⟨0x1008, 8⟩ v) s = .next { s with ctrl := { s.ctrl with cfgErr := s.ctrl.cfgErr ||| 1 } } := by
  rw [exec_registerWrite hboot v rfl rfl]
  simp only [State.writeRegister, State.lockable, bne_iff_ne.mpr hlocked, if_true]
  rfl

end

/-- Until boot has ended the host's writes outside CFG_ERR have status STATE. -/
theorem exec_write_unbooted {s : State} {pa off width : Nat} {data : List Byte} {v : Dword} (hboot : s.ctrl.bootResult ≠ 1) (hoff : off / 8 ≠ 3) :
    exec (.hostWrite pa data) s = .next { s with ctrl := { s.ctrl with cfgErr := s.ctrl.cfgErr ||| 16 } } ∧
    exec (.registerWrite ⟨off, width⟩ v) s = .next { s with ctrl := { s.ctrl with cfgErr := s.ctrl.cfgErr ||| 16 } } := by
  constructor
  · change execHostWrite pa data s = _
    simp only [execHostWrite, bne_iff_ne.mpr hboot, if_true]
    rfl
  · change execRegisterWrite ⟨off, width⟩ v s = _
    simp only [execRegisterWrite, bne_iff_ne.mpr hboot, bne_iff_ne.mpr hoff, Bool.and_self, if_true]
    rfl

section
variable {s : State} {off width : Nat} (hboot : s.ctrl.bootResult = 1 ∨ off < 0x1000)
include hboot

/-- The register answers. -/
theorem readRegister_open : (decide (0x1000 ≤ off) && s.ctrl.bootResult != 1) = false := by
  simp only [Bool.and_eq_false_iff, decide_eq_false_iff_not, bne_eq_false_iff_eq]
  omega

theorem exec_hostRead_register {n : Nat} (hwidth : width = 8) (haligned : off % 8 = 0) (hreg : s.register off = some n) :
    exec (.hostRead (.control off) width) s = .next { s with hostData := some (toLE 8 n) } := by
  change execHostRead (.control off) width s = _
  have haccess : registerAccess off width = true := by simp [registerAccess, hwidth, haligned]
  simp only [execHostRead, State.readRegister, readRegister_open hboot, haccess, hreg, Bool.not_true, Bool.false_eq_true, if_false]

theorem exec_hostRead_hole (hwidth : width = 8) (haligned : off % 8 = 0) (hreg : s.register off = none) :
    exec (.hostRead (.control off) width) s =
      .next { s with ctrl := { s.ctrl with cfgErr := s.ctrl.cfgErr ||| 4 }, hostData := some (toLE 8 0) } := by
  change execHostRead (.control off) width s = _
  have haccess : registerAccess off width = true := by simp [registerAccess, hwidth, haligned]
  simp only [execHostRead, State.readRegister, readRegister_open hboot, haccess, hreg, Bool.not_true, Bool.false_eq_true, if_false]
  rfl

theorem exec_hostRead_width (hbad : width ≠ 8 ∨ off % 8 ≠ 0) : exec (.hostRead (.control off) width) s =
    .next { s with ctrl := { s.ctrl with cfgErr := s.ctrl.cfgErr ||| 2 }, hostData := some (toLE width 0) } := by
  change execHostRead (.control off) width s = _
  have hno : registerAccess off width = false := by simpa [registerAccess, imp_iff_not_or] using hbad
  simp only [execHostRead, State.readRegister, readRegister_open hboot, hno, Bool.not_false, Bool.false_eq_true, if_false, if_true]
  rfl

end

/-! ### `LOCK` and `RUN` (24 R426) -/

theorem exec_lock {s : State} (hopen : s.ctrl.cfgState = 0) (hstab : s.ctrl.stabBase.toNat % 4096 = 0)
    (hmqt : s.ctrl.mqtBase.toNat % 4096 = 0) (hslice : 10000 ≤ s.ctrl.slice.toNat) (hrel : s.ctrl.relBase.toNat % 4096 = 0)
    (hcap : 6 ≤ s.ctrl.relCap) (hcap2 : s.ctrl.relCap ≤ 20) (hdbm0 : s.ctrl.dbmBase0.toNat % 4096 = 0)
    (hdbm1 : s.ctrl.dbmBase1.toNat % 4096 = 0) (hwindow : 2 ^ 20 ≤ s.ctrl.euWindow.toNat) (hlimit : 2 ≤ s.ctrl.euLimit.toNat)
    (hpwr : 10000 ≤ s.ctrl.pwrIdle.toNat) : exec .lock s = .next { s with ctrl := { s.ctrl with cfgState := 1 } } := by
  change execLock s = _
  have hslice2 := s.ctrl.slice.isLt
  have hgrace2 := s.ctrl.grace.isLt
  have hwindow2 := s.ctrl.euWindow.isLt
  have hlimit2 := s.ctrl.euLimit.isLt
  have hpwr2 := s.ctrl.pwrIdle.isLt
  rw [execLock, hopen]
  refine (if_neg (by decide)).trans (if_pos ?_)
  simp only [limit4k, limit32, limitRelCap, limitEu, within, Bool.and_eq_true, decide_eq_true_eq, beq_iff_eq]
  omega

theorem exec_run {s : State} (h : s.ctrl.cfgState = 1) : exec .run s = .next { s with ctrl := { s.ctrl with cfgState := 2 } } := by
  change execRun s = _
  rw [execRun, h]
  rfl

theorem exec_run_state {s : State} (h : s.ctrl.cfgState ≠ 1) :
    exec .run s = .next { s with ctrl := { s.ctrl with cfgErr := s.ctrl.cfgErr ||| 16 } } := by
  change execRun s = _
  simp only [execRun, beq_iff_eq, h, if_false]
  rfl

/-! ### The link (24 R421, R422) -/

theorem exec_linkRequestTimeout {s : State} {n : Nat} {t : TexStream} (ht : s.textures[n]? = some t) (hage : 100000000 < t.age) :
    exec (.linkRequestTimeout (.texture n)) s = .next (failStream s t) := by
  change execLinkRequestTimeout (.texture n) s = _
  simp only [execLinkRequestTimeout, ht, hage, if_true]

/-- An orderly shutdown: the host has given back its lines. -/
theorem exec_linkDown_orderly {s : State} (h : Config.freeBool (s.freeCtr + 65306) = true) :
    exec .linkDown s = .next (s.textures.foldl failStream { s with
      phys := { s.phys with hostOwned := [] }, ctrl := { s.ctrl with linkUp := false } }) := by
  change execLinkDown s = _
  simp only [execLinkDown, h, if_true]

/-- The host is lost: the lines that it holds are poisoned. -/
theorem exec_linkDown_lost {s : State} (h : Config.freeBool (s.freeCtr + 65306) = false) :
    ∃ t, exec .linkDown s = .next (s.textures.foldl failStream t) ∧ t.ctrl.linkUp = false ∧ t.ctrl.hostLoss = true ∧
      t.phys.hostOwned = [] ∧ (∀ l ∈ s.phys.hostOwned, l ∈ t.phys.poison ∧ l ∈ t.phys.hostPoison) ∧ t.phys.bytes = s.phys.bytes ∧
      t.cores = s.cores := by
  refine ⟨{ s.hostLost with phys := { s.hostLost.phys with hostOwned := [] }, ctrl := { s.hostLost.ctrl with linkUp := false } },
    ?_, rfl, rfl, rfl, fun l hl => ?_, rfl, rfl⟩
  · change execLinkDown s = _
    simp only [execLinkDown, h, Bool.false_eq_true, if_false]
  · exact ⟨(mem_foldl_insNat _ _).mpr (Or.inl hl), (mem_foldl_insNat _ _).mpr (Or.inl hl)⟩

/-! ### `HL_SCRUB` (24 R424) -/

/-- No lane has an open transaction. -/
def State.NoTxn (s : State) : Prop := ∀ c ∈ s.cores, ∀ g ∈ c.active.groups, ∀ b ∈ g.bands, ∀ x ∈ b.lanes, x.txn.active = false

/-- With no open transaction a write to a line dooms none. -/
theorem State.contend_noTxn {s : State} (h : s.NoTxn) (self : Option LaneRef) (ls : List Nat) :
    (s.contend self ls).cores = s.cores := by
  have hnone : s.anyTxn (fun g => !g.buffering) self (fun x => x.holdsLine ls) = false := by
    simp only [State.anyTxn, List.any_eq_false, Bool.and_eq_true, not_and, Bool.not_eq_true]
    intro c hc g hg _ y hy x hx _
    simp [Lane.holdsLine, h c hc g hg y.1 (List.fst_mem_of_mem_zipIdx hy) x.1 (List.fst_mem_of_mem_zipIdx hx)]
  unfold State.contend State.doom State.doomBy
  rw [hnone]
  dsimp only
  split <;> rfl

/-- With no open transaction the cores are not the devices'. -/
theorem OffDevices.cores {s : State} (h : s.NoTxn) : OffDevices fun t => t.cores = s.cores where
  phys _ _ ht := ht
  reach t a n ht := by unfold State.reach; split <;> exact ht
  raise _ _ _ ht := ht
  contend t self ls ht := (State.contend_noTxn (by rw [State.NoTxn, ht]; exact h) self ls).trans ht

theorem OffDevices.scrub {P : State → Prop} (hP : OffDevices P) {s : State} (h : P s) (l : Nat) : P (s.scrub l) :=
  hP.phys _ _ (hP.cacheWrite (hP.contend _ _ _ h) _ _ _)

theorem OffDevices.scrubs {P : State → Prop} (hP : OffDevices P) {s : State} (h : P s) (ls : List Nat) : P (ls.foldl State.scrub s) :=
  foldl_keeps P _ (fun _ l ht => hP.scrub ht l) ls s h

/-- One line scrubbed reads zero, and every other as before. -/
theorem State.scrub_holds {s : State} {m : Mem} (h : s.Holds m) (l : Nat) : (s.scrub l).Holds (spClear m (64 * l) (64 * l + 64)) := by
  obtain ⟨hbytes, hun⟩ := h
  have hcontend : (s.contend none [l]).Holds m :=
    ⟨by rw [State.contend_phys, hbytes], by rw [State.contend_cores]; exact hun⟩
  obtain ⟨hb, hu⟩ := State.Holds.cacheWrite .past (64 * l) 64 hcontend
  exact ⟨by rw [State.scrub, hb], hu⟩

theorem State.scrubs_get (ls : List Nat) : ∀ {s : State}, s.unmarked → spWf s.phys.bytes = true → ∀ a,
    spGet (ls.foldl State.scrub s).phys.bytes a = if a / 64 ∈ ls then 0 else spGet s.phys.bytes a := by
  induction ls with
  | nil => intro s _ _ a; simp
  | cons l ls ih =>
    intro s hun hwf a
    obtain ⟨hbytes, hun1⟩ := State.scrub_holds ⟨rfl, hun⟩ l
    have hwf1 : spWf (s.scrub l).phys.bytes = true := hbytes ▸ spWf_spClear _ _ hwf
    rw [List.foldl_cons, ih hun1 hwf1, hbytes, spGet_spClear hwf]
    have hline : (64 * l ≤ a ∧ a < 64 * l + 64) ↔ a / 64 = l := by omega
    by_cases hl : a / 64 = l
    · simp [hline, hl]
    · simp [hline, hl]

/-- Every host-poisoned line reads zero afterwards, and no other byte changes. -/
theorem exec_hlScrub (s : State) : ∃ t, exec .hlScrub s = .next t ∧ t.phys.hostPoison = [] ∧ t.ctrl.poisoned = 0 ∧
    t.sessions = s.sessions ∧ (s.NoTxn → t.cores = s.cores) ∧
    (∀ a, a / 64 ∈ s.phys.hostPoison → spWf s.phys.bytes = true → s.ctrl.dbmEnable = false → spGet t.phys.bytes a = 0) ∧
    (∀ a, a / 64 ∉ s.phys.hostPoison → spWf s.phys.bytes = true → s.ctrl.dbmEnable = false →
      spGet t.phys.bytes a = spGet s.phys.bytes a) := by
  refine ⟨_, rfl, rfl, rfl, (OffDevices.sessions s.sessions).scrubs rfl _, fun h => (OffDevices.cores h).scrubs rfl _, ?_, ?_⟩
  · intro a ha hwf hdbm
    exact (State.scrubs_get _ hdbm hwf a).trans (if_pos ha)
  · intro a ha hwf hdbm
    exact (State.scrubs_get _ hdbm hwf a).trans (if_neg ha)

/-! ### Power domains (24 R427) -/

section
variable {s : State} {n : Nat}

theorem exec_powerGate_not {d : PowerDomain} (h : s.mayGate d = false) : exec (.powerGate d) s = .next s := by
  change execPowerGate d s = _
  simp only [execPowerGate, h, Bool.not_false, if_true]

theorem exec_powerGate_core (h : s.mayGate (.core n) = true) : exec (.powerGate (.core n)) s =
    .next (((s.gateCache (.l1 n)).modCore n Core.gated).setCtrl fun c => { c with pwrCores := c.pwrCores ||| BitVec.ofNat 64 (2 ^ n) }) := by
  change execPowerGate (.core n) s = _
  simp only [execPowerGate, h, Bool.not_true, Bool.false_eq_true, if_false]

theorem exec_powerGate_die (hn : n < 4) (hcores : ∀ k < 16, s.ctrl.pwrCores.getLsbD (16 * n + k) = true) :
    exec (.powerGate (.die n)) s =
      .next ({ s.gateCache (.l2 n) with tlb2 := s.tlb2.filter fun (e : Nat × TlbEntry) => e.1 != n }.setCtrl fun c =>
        { c with pwrDie := c.pwrDie ||| BitVec.ofNat 4 (2 ^ n) }) := by
  change execPowerGate (.die n) s = _
  have hgate : s.mayGate (.die n) = true := by
    simp only [State.mayGate, hn, decide_true, Bool.true_and, List.all_eq_true, List.mem_range]
    exact hcores
  simp only [execPowerGate, hgate, Bool.not_true, Bool.false_eq_true, if_false]

theorem exec_powerGate_encoder (hn : n < 8) (hempty : ∀ e ∈ s.encoders, e.engine ≠ n) (hidle : s.idleLong (64 + n) = true) :
    exec (.powerGate (.encoder n)) s = .next { s with
      encDone := s.encDone.filter fun (e : Nat × List Byte) => e.1 != n
      ctrl := { s.ctrl with pwrEnc := s.ctrl.pwrEnc ||| BitVec.ofNat 8 (2 ^ n) } } := by
  change execPowerGate (.encoder n) s = _
  have hgate : s.mayGate (.encoder n) = true := by simpa [State.mayGate, State.encoderEmpty, encoderTimer, hn, hidle] using hempty
  simp only [execPowerGate, hgate, Bool.not_true, Bool.false_eq_true, if_false, State.setCtrl]

theorem exec_powerGate_channel (hn : n < 6) (hidle : s.idleLong (72 + n) = true) : exec (.powerGate (.channel n)) s =
    .next { s with ctrl := { s.ctrl with pwrChan := s.ctrl.pwrChan ||| BitVec.ofNat 6 (2 ^ n) } } := by
  change execPowerGate (.channel n) s = _
  have hgate : s.mayGate (.channel n) = true := by simp [State.mayGate, channelTimer, hn, hidle]
  simp only [execPowerGate, hgate, Bool.not_true, Bool.false_eq_true, if_false, State.setCtrl]

end

/-- Settles O52: the host's accesses, registers and link, and each power domain as its gate finds it. -/
theorem hostEvents : Obligations.HostEvents := by
  intro s
  refine ⟨fun pa data hboot => exec_hostWrite hboot pa data, fun pa len hboot => exec_hostRead_memory hboot,
    fun op pa wide a b hboot => exec_hostAtomic hboot rfl, fun op pa wide a b hboot => exec_hostAtomic_above hboot,
    fun pa data off width v => exec_write_unbooted,
    fun off width v hboot => ⟨exec_registerWrite hboot v, exec_registerWrite_width hboot v⟩,
    fun off width hboot => ⟨fun n => exec_hostRead_register hboot, exec_hostRead_hole hboot, exec_hostRead_width hboot⟩,
    fun v hboot => exec_registerWrite_open hboot, fun v hboot => exec_registerWrite_locked hboot v, exec_lock, exec_run, exec_run_state,
    fun n t => exec_linkRequestTimeout, rfl, ?linkDown, rfl, exec_hlScrub s, fun n => exec_powerGate_core, fun n => rfl,
    fun n => exec_powerGate_die, fun n => exec_powerGate_encoder, fun n => exec_powerGate_channel, fun d => exec_powerGate_not,
    fun n => ⟨rfl, rfl, rfl⟩⟩
  case linkDown =>
    split
    · next h => exact exec_linkDown_orderly h
    · next h => exact exec_linkDown_lost (by simpa using h)

/-! ### Module reset and boot (24 R425, R426) -/

/-- Module reset clears LPDDR. -/
theorem State.afterReset_get {s : State} (hwf : spWf s.phys.bytes = true) {a : Nat} (ha : a < 384 * 2 ^ 30) :
    spGet s.afterReset.phys.bytes a = 0 := by
  rw [State.afterReset]
  refine (spGet_filter (fun n => decide (lpddrSize ≤ n)) a hwf).trans (if_neg ?_)
  rw [lpddrSize_eq]
  simpa using ha

/-- What module reset leaves in every case, boot's verdict and measurement aside. -/
structure ClearedBy (s t : State) : Prop where
  cfgState : t.ctrl.cfgState = 0
  schedEnable : t.ctrl.schedEnable = false
  debug : t.ctrl.debug = false
  alarms : t.ctrl.alarms = 0
  sessions : t.sessions = []
  launches : t.launches = []
  queues : t.queues = []
  cmds : t.cmds = []
  nodes : t.nodes = []
  worlds : t.worlds = []
  cores : t.cores = List.replicate 64 Core.init
  keys : t.vault.keys = State.reset.vault.keys
  sealNo : t.vault.sealNo = s.vault.sealNo

/-- Module reset settles boot's verdict: a state cleared, with the step and the measurement it got to. -/
theorem exec_moduleReset (s : State) : ∃ t, exec .moduleReset s = .next t ∧ ClearedBy s t ∧
    (match bootImage 2 0 0 with
      | none => t.ctrl.bootStep = 1 ∧ t.ctrl.bootResult = 2
      | some m => (match bootImages 4 ((List.range 32).map (· + 1)) m with
          | (m2, false) => t.ctrl.bootStep = 3 ∧ t.ctrl.bootResult = 2 ∧ t.vault.devMeas = m2
          | (m2, true) => t.ctrl.bootStep = 5 ∧ t.ctrl.bootResult = 1 ∧ t.vault.devMeas = m2) ∧
        (∀ a < 384 * 2 ^ 30, spWf s.phys.bytes = true → spGet t.phys.bytes a = 0) ∧ t.phys.poison = []) := by
  change ∃ t, execModuleReset s = .next t ∧ _
  unfold execModuleReset
  cases bootImage 2 0 0 with
  | none => exact ⟨_, rfl, ⟨rfl, rfl, rfl, rfl, rfl, rfl, rfl, rfl, rfl, rfl, rfl, rfl, rfl⟩, rfl, rfl⟩
  | some m =>
    dsimp only
    cases bootImages 4 ((List.range 32).map (· + 1)) m with
    | mk m2 good =>
      cases good with
      | true =>
        exact ⟨_, rfl, ⟨rfl, rfl, rfl, rfl, rfl, rfl, rfl, rfl, rfl, rfl, rfl, rfl, rfl⟩, ⟨rfl, rfl, rfl⟩,
          fun a ha hwf => State.afterReset_get hwf ha, rfl⟩
      | false =>
        exact ⟨_, rfl, ⟨rfl, rfl, rfl, rfl, rfl, rfl, rfl, rfl, rfl, rfl, rfl, rfl, rfl⟩, ⟨rfl, rfl, rfl⟩,
          fun a ha hwf => State.afterReset_get hwf ha, rfl⟩

/-- Settles O53: module reset clears the state in each of boot's verdicts, and the reset state lists nothing. -/
theorem resetAndBoot : Obligations.ResetAndBoot := by
  refine ⟨fun s => ?_, ⟨rfl, rfl, rfl⟩, rfl, rfl, by decide, rfl⟩
  obtain ⟨t, hexec, h, hboot⟩ := exec_moduleReset s
  refine ⟨t, hexec, h.cfgState, h.schedEnable, h.debug, h.alarms, h.sessions, h.launches, h.queues, h.cmds, h.nodes, h.worlds, ?_, ?_,
    h.sealNo, hboot⟩
  · intro c hc
    rw [h.cores] at hc
    obtain rfl := List.eq_of_mem_replicate hc
    exact ⟨rfl, rfl, rfl⟩
  · intro k hk
    rw [h.keys] at hk
    obtain rfl := List.eq_of_mem_replicate hk
    rfl

end Sys2Proof.Machine
end

section
/-! PROOFS. Traps (20_traps_preemption.md): records, fragments, delivery and resumes. -/

namespace Sys2Proof

/-- An index that no entry of an array has reads zero. -/
theorem spGet_of_absent {w : Nat} {m : Sparse w} {i : Nat} (h : ∀ e ∈ m, e.1 ≠ i) : spGet m i = 0 := by
  induction m with
  | nil => rfl
  | cons e m ih =>
    have hne : i ≠ e.1 := fun hi => h e List.mem_cons_self hi.symm
    simp only [spGet, hne, if_false, ih fun d hd => h d (List.mem_cons_of_mem e hd), ite_self]

end Sys2Proof

namespace Sys2Proof.Machine

open Sys2Proof

/-! ### Records in the trap ring (20 R341, 22 R437) -/

theorem length_recordBytes (i : Iss) (clock : Dword) (u : UnitInfo) (t : Trap) (vdisc : Bool) : (recordBytes i clock u t vdisc).length = 64 :=
  length_toLE ..

theorem State.ringWrite_noRing {s : State} {x : Session} (h : x.tring = 0) (rec_ : List Byte) : s.ringWrite x rec_ = (s, .noRing) := by
  simp [State.ringWrite, h]

/-- A record put into a ring: the ring has room, the record lies at its place, and the count goes on. -/
theorem State.ringPut_some {s s2 : State} {x : Session} {ring first cap n : Nat} {rec_ : List Byte}
    (h : s.ringPut x ring first cap rec_ = .ok (some (s2, n))) :
    ∃ c s1, s.sxNum x ring 8 = .ok n ∧ s.sxNum x (ring + 8) 8 = .ok c ∧ n - c < cap ∧
      s.sxWrite x (first + rec_.length * (n % cap)) rec_ = .ok s1 ∧ s1.sxWriteNum x ring 8 (n + 1) = .ok s2 := by
  unfold State.ringPut at h
  split at h
  case h_1 w c hw hc =>
    split at h
    · cases h
    next hroom =>
      split at h
      case h_1 s1 hs1 =>
        cases hs2 : s1.sxWriteNum x ring 8 (w + 1) with
        | error t => rw [hs2] at h; cases h
        | ok u =>
          rw [hs2] at h
          cases h
          exact ⟨c, s1, hw, hc, by omega, hs1, hs2⟩
      case h_2 => cases h
  all_goals cases h

theorem State.ringWrite_done {s s2 : State} {x : Session} {n : Nat} {rec_ : List Byte} (h : s.ringWrite x rec_ = (s2, .done n)) :
    s.trapPut x rec_ = .ok (some (s2, n)) := by
  unfold State.ringWrite at h
  split at h
  · cases h
  split at h
  · next t m hput => cases h; exact hput
  · cases h
  split at h
  · split at h <;> cases h
  · cases h

/-! ### Fragments (01 R28, 20 R346) -/

section
variable {b : Band} {part f : LaneMask}

/-- The lanes of a class: runnable lanes of the part at one PC. -/
theorem Band.mem_classes : f ∈ b.classes part ↔ ∃ l < 32, part.getLsbD l = true ∧ (b.lane l).runnable = true ∧
    f = maskOf fun m => ((lanesOf part).filter fun l => (b.lane l).runnable).contains m && (b.lane m).pc == (b.lane l).pc := by
  simp only [Band.classes, List.mem_map, List.mem_dedup, List.mem_filter, mem_lanesOf]
  constructor
  · rintro ⟨p, ⟨l, ⟨⟨hl, hpart⟩, hrun⟩, rfl⟩, rfl⟩
    exact ⟨l, hl, hpart, hrun, rfl⟩
  · rintro ⟨l, hl, hpart, hrun, rfl⟩
    exact ⟨_, ⟨l, ⟨⟨hl, hpart⟩, hrun⟩, rfl⟩, rfl⟩

theorem Band.class_lane {l m : Nat}
    (h : (maskOf fun m => ((lanesOf part).filter fun l => (b.lane l).runnable).contains m && (b.lane m).pc == (b.lane l).pc).getLsbD m = true) :
    (b.lane m).pc = (b.lane l).pc ∧ (b.lane m).runnable = true ∧ part.getLsbD m = true := by
  simp only [getLsbD_maskOf, Bool.and_eq_true, decide_eq_true_eq, List.contains_iff_mem, List.mem_filter, mem_lanesOf, beq_iff_eq] at h
  obtain ⟨-, ⟨⟨-, hpart⟩, hrun⟩, hpc⟩ := h
  exact ⟨hpc, hrun, hpart⟩

/-- Two lanes of a class stand at one PC, and both run. -/
theorem Band.classes_alike (hf : f ∈ b.classes part) {m n : Nat} (hm : f.getLsbD m = true) (hn : f.getLsbD n = true) :
    (b.lane m).pc = (b.lane n).pc ∧ (b.lane m).runnable = true ∧ part.getLsbD m = true := by
  obtain ⟨l, -, -, -, rfl⟩ := Band.mem_classes.mp hf
  obtain ⟨hpcm, hrun, hpart⟩ := Band.class_lane hm
  obtain ⟨hpcn, -, -⟩ := Band.class_lane hn
  exact ⟨hpcm.trans hpcn.symm, hrun, hpart⟩

/-- Every runnable lane of the part is in a class. -/
theorem Band.classes_cover {m : Nat} (hm : m < 32) (hpart : part.getLsbD m = true) (hrun : (b.lane m).runnable = true) :
    ∃ f ∈ b.classes part, f.getLsbD m = true := by
  refine ⟨_, Band.mem_classes.mpr ⟨m, hm, hpart, hrun, rfl⟩, ?_⟩
  simp [getLsbD_maskOf, mem_lanesOf, hm, hpart, hrun]

end

/-! ### Delivery (20 R343, R344) -/

/-- Whether a unit of lanes asks for its handler: the session has one for the code. -/
def Iss.asksHandler (i : Iss) (t : Trap) : Bool :=
  (match i.who with
    | .lanes _ _ => true
    | _ => false) && i.sess.tvec != 0 && i.sess.tdeleg.getLsbD t.code.toNat && decide (t.code.toNat < 0x10)

theorem Iss.asksHandler_true {i : Iss} {t : Trap} {bi : Nat} {m : LaneMask} (hwho : i.who = .lanes bi m) (hvec : i.sess.tvec ≠ 0)
    (hdeleg : i.sess.tdeleg.getLsbD t.code.toNat = true) (hcode : t.code.toNat < 0x10) : i.asksHandler t = true := by
  simp only [Iss.asksHandler, hwho, bne_iff_ne.mpr hvec, hdeleg, hcode, decide_true, Bool.and_self]

theorem Iss.asksHandler_false {i : Iss} {t : Trap}
    (h : i.sess.tvec = 0 ∨ i.sess.tdeleg.getLsbD t.code.toNat = false ∨ 0x10 ≤ t.code.toNat ∨ ∀ b m, i.who ≠ .lanes b m) :
    i.asksHandler t = false := by
  rcases h with h | h | h | h
  · simp [Iss.asksHandler, h]
  · simp [Iss.asksHandler, h]
  · simp [Iss.asksHandler, Nat.not_lt.mpr h]
  · unfold Iss.asksHandler
    split
    · next b m hwho => exact absurd hwho (h b m)
    · simp

/-- What becomes of a trap `t` that is parked under the code of `u`, by how the write of its record went. -/
def State.parkTrap (i : Iss) (unit : LaneMask) (t u : Trap) : State × Ring1 → State
  | (s1, .noRing) => s1.endLaunch i.sess.slot i.launch.number 3
  | (s1, .failed) => s1.endLaunch i.sess.slot i.launch.number 3
  | (s1, .full) => s1.setStatus i unit (.held t none)
  | (s1, .waits k) => s1.setStatus i unit (.held t (some k))
  | (s1, .done n) => s1.setStatus i unit (.trapped u (some n))

/-- The write of a trap's record under the code of `u`. -/
def State.trapWrite (s : State) (i : Iss) (unit acted : LaneMask) (b : Band) (t u : Trap) : State × Ring1 :=
  s.ringWrite i.sess (recordBytes i t.clock (unitInfo i b unit acted) u false)

section
variable {s : State} {i : Iss} {unit acted : LaneMask} {b : Band} {t : Trap} (hplain : i.launch.desc.versioned = false)
  (hver : i.group.ver = none)
include hplain hver

/-- A trap of privileged state is parked as nested. -/
theorem State.deliver_priv (hpriv : i.priv = true) :
    s.deliver i unit acted b t = State.parkTrap i unit t t.nested (s.trapWrite i unit acted b t t.nested) := by
  simp only [State.deliver, hplain, hver, hpriv, Bool.false_and, Bool.false_eq_true, if_false, if_true, Option.any_none]
  rfl

/-- Any other trap: parked where no handler is asked, parked as nested where the handler has no window, else delivered in-stream once
its record is written. -/
theorem State.deliver_user (hpriv : i.priv = false) : s.deliver i unit acted b t =
    if !i.asksHandler t then State.parkTrap i unit t t (s.trapWrite i unit acted b t t)
    else if !b.handlerFits unit i.sess.rsDepth then State.parkTrap i unit t t.nested (s.trapWrite i unit acted b t t.nested)
    else match s.trapWrite i unit acted b t t with
      | (s1, .done n) =>
        match s1.deliverInStream i unit (i.sess.tring + BitVec.ofNat 64 (64 * (1 + n % 2 ^ i.sess.tringcap.toNat))) t acted with
        | some s2 => s2
        | none => State.parkTrap i unit t t.nested (s.trapWrite i unit acted b t t.nested)
      | _ => State.parkTrap i unit t t (s.trapWrite i unit acted b t t) := by
  unfold State.deliver Iss.asksHandler State.trapWrite
  simp only [hplain, hver, hpriv, Bool.false_and, Bool.false_eq_true, if_false, Option.any_none, Bool.not_false, Bool.and_true,
    watchdogCode]
  cases i.who <;> rfl

/-- A trap that is parked, as privileged state or no handler has it. -/
theorem State.deliver_parked {u : Trap} (hu : u = if i.priv then t.nested else t)
    (h : i.priv = true ∨ i.sess.tvec = 0 ∨ i.sess.tdeleg.getLsbD t.code.toNat = false ∨ 0x10 ≤ t.code.toNat ∨ ∀ b m, i.who ≠ .lanes b m) :
    s.deliver i unit acted b t = State.parkTrap i unit t u (s.trapWrite i unit acted b t u) := by
  cases hpriv : i.priv with
  | true => rw [State.deliver_priv hplain hver hpriv, hu, hpriv, if_pos rfl]
  | false =>
    have hno := Iss.asksHandler_false (h.resolve_left (by simp [hpriv]))
    rw [State.deliver_user hplain hver hpriv, hno, hu, hpriv]
    rfl

theorem State.deliver_noRing (h : i.sess.tring = 0) : s.deliver i unit acted b t = s.endLaunch i.sess.slot i.launch.number 3 := by
  have hwrite (u : Trap) : s.trapWrite i unit acted b t u = (s, .noRing) := State.ringWrite_noRing h _
  cases hpriv : i.priv with
  | true => rw [State.deliver_priv hplain hver hpriv, hwrite]; rfl
  | false =>
    rw [State.deliver_user hplain hver hpriv, hwrite, hwrite]
    simp only [State.parkTrap, ite_self]

/-- A record that finds its ring full: the unit holds the trap. -/
theorem State.deliver_full {s1 : State} {u : Trap} (hu : u = if i.priv then t.nested else t)
    (hwrite : s.trapWrite i unit acted b t u = (s1, .full))
    (h : i.priv = true ∨ b.handlerFits unit i.sess.rsDepth = true ∨ i.sess.tvec = 0 ∨ i.sess.tdeleg.getLsbD t.code.toNat = false ∨
      0x10 ≤ t.code.toNat ∨ ∀ b m, i.who ≠ .lanes b m) :
    s.deliver i unit acted b t = s1.setStatus i unit (.held t none) := by
  rcases h with hpriv | hfits | hno
  · rw [State.deliver_parked hplain hver hu (Or.inl hpriv), hwrite]; rfl
  · cases hpriv : i.priv with
    | true => rw [State.deliver_parked hplain hver hu (Or.inl hpriv), hwrite]; rfl
    | false =>
      rw [hpriv, if_neg (by simp)] at hu
      subst hu
      rw [State.deliver_user hplain hver hpriv, hwrite, hfits]
      simp only [State.parkTrap, Bool.not_true, Bool.false_eq_true, if_false, ite_self]
  · rw [State.deliver_parked hplain hver hu (Or.inr hno), hwrite]; rfl

/-- In-stream delivery, once the record is written. -/
theorem State.deliver_handler {s1 s2 : State} {n : Nat} (hpriv : i.priv = false) (hasked : i.asksHandler t = true)
    (hfits : b.handlerFits unit i.sess.rsDepth = true) (hwrite : s.trapWrite i unit acted b t t = (s1, .done n))
    (hin : s1.deliverInStream i unit (i.sess.tring + BitVec.ofNat 64 (64 * (1 + n % 2 ^ i.sess.tringcap.toNat))) t acted = some s2) :
    s.deliver i unit acted b t = s2 := by
  rw [State.deliver_user hplain hver hpriv, hasked, hfits, hwrite]
  simp only [Bool.not_true, Bool.false_eq_true, if_false, hin]

end

/-! ### Taking a trap (20 R346 to R348) -/

/-- The state in which the fragment of a trapping unit is split off. -/
def State.splitUnit (s : State) (i : Iss) : State := match i.who with
  | .lanes b _ => s.modGroupOn i.core i.group.gid fun g => g.modBand b fun x => x.splitFor ((lanesOf i.active).headD 0)
  | _ => s

/-- The lanes of a trap's unit once it is split off. -/
def Iss.trapUnit (j : Iss) : LaneMask := if j.lead then 1 else j.bandOf.unitLanes ((lanesOf j.active).headD 0)

/-- A unit whose page fault is recorded, as number `r` where there is a ring: its trap delivered where there is no service, else the unit
parked on the batch of its pages. -/
def State.parkFault (s : State) (j : Iss) (acted : LaneMask) (t : Trap) (r : Option Nat) : State :=
  if s.fring j.sess == 0 then s.deliver j j.trapUnit acted j.bandOf { t with sub := t.sub ||| 4 }
  else match s.faultBatch j.sess t.pages (t.sub.toNat % 4) false with
    | none => s.setStatus j j.trapUnit (.heldFault t)
    | some (s3, k) => s3.setStatus j j.trapUnit (.faulted k t r)

/-- The number of a record that was written. -/
def Ring1.number : Ring1 → Option Nat
  | .done n => some n
  | _ => none

/-- A page fault taken, by how the write of its record went. -/
def State.takeFault (j : Iss) (acted : LaneMask) (t : Trap) : State × Ring1 → State
  | (s2, .failed) => s2.endLaunch j.sess.slot j.launch.number 3
  | (s2, .full) => s2.setStatus j j.trapUnit (.held t none)
  | (s2, .waits k) => s2.setStatus j j.trapUnit (.held t (some k))
  | (s2, r) => s2.parkFault j acted t r.number

/-- What a unit that is split off does with its trap: a restart, a page fault's record and batch, or a delivery. -/
def State.takeSplit (s : State) (i j : Iss) (acted : LaneMask) (t : Trap) : State :=
  if t.code.toNat == versionCapacity && i.launch.desc.policy then s.restart i.group.gid true
  else if t.code.toNat == pageFault then
    State.takeFault j acted t (s.ringWrite j.sess (recordBytes j t.clock (unitInfo j j.bandOf j.trapUnit acted) t false))
  else s.deliver j j.trapUnit acted j.bandOf t

/-- The unit of a trap as the split leaves it. -/
def Iss.split (i j0 : Iss) : Iss := { j0 with active := i.active, pc := i.pc, priv := i.priv }

theorem State.takeTrap_eq {s : State} {i j0 : Iss} {acted : LaneMask} {t : Trap}
    (hj0 : ((s.tagCheck i.sess t).splitUnit i).issOf i.core i.group.gid i.who = some j0) :
    s.takeTrap i acted t = ((s.tagCheck i.sess t).splitUnit i).takeSplit i (i.split j0) acted (t.taken s i acted) := by
  unfold State.takeTrap State.recordTrap State.takeSplit State.takeFault
  cases hwho : i.who
  all_goals
    simp only [State.splitUnit, hwho] at hj0 ⊢
    simp only [hj0]
    rfl

section
variable {s s1 : State} {i j : Iss} {acted : LaneMask} {t : Trap}

theorem State.takeSplit_deliver (hversion : t.code.toNat ≠ 0x0B) (hfault : t.code.toNat ≠ 8) :
    s.takeSplit i j acted t = s.deliver j j.trapUnit acted j.bandOf t := by
  simp only [State.takeSplit, versionCapacity, pageFault, beq_iff_eq, Bool.and_eq_true, hversion, hfault, false_and, if_false]

theorem State.takeSplit_restart (hversion : t.code.toNat = 0x0B) (hpolicy : i.launch.desc.policy = true) :
    s.takeSplit i j acted t = s.restart i.group.gid true := by
  simp only [State.takeSplit, versionCapacity, hversion, hpolicy, beq_self_eq_true, Bool.and_self, if_true]

theorem State.takeSplit_fault (hfault : t.code.toNat = 8) : s.takeSplit i j acted t =
    State.takeFault j acted t (s.ringWrite j.sess (recordBytes j t.clock (unitInfo j j.bandOf j.trapUnit acted) t false)) := by
  simp [State.takeSplit, versionCapacity, pageFault, hfault]

theorem State.parkFault_served {s3 : State} {k : Nat} {r : Option Nat} (hring : s.fring j.sess ≠ 0)
    (hbatch : s.faultBatch j.sess t.pages (t.sub.toNat % 4) false = some (s3, k)) :
    s.parkFault j acted t r = s3.setStatus j j.trapUnit (.faulted k t r) := by
  simp [State.parkFault, hring, hbatch]

theorem State.parkFault_unserved {r : Option Nat} (hring : s.fring j.sess = 0) :
    s.parkFault j acted t r = s.deliver j j.trapUnit acted j.bandOf { t with sub := t.sub ||| 4 } := by
  simp [State.parkFault, hring]

end

/-! ### The handler's window (20 R344) -/

/-- Emptying a lane's forwarding window changes its banks and what is in flight, and nothing else. -/
theorem Lane.emptyWindow_eq (x : Lane) :
    x.emptyWindow = { x with banks := x.emptyWindow.banks, win := x.emptyWindow.win, issued := x.emptyWindow.issued } := by
  unfold Lane.emptyWindow
  split <;> rfl

/-- The lane of a handler as its window enters: 32 positions above the old ones, no deposit among them. -/
def Lane.handlerWindow (x : Lane) : Lane :=
  (({ x.emptyWindow with
      marks := x.marks.filter fun m => !(decide (x.base + x.size ≤ 8 * m) && decide (8 * m < x.base + x.size + 32)) } : Lane).enterWindow
    (x.base + x.size) (x.base + x.size + 32)).dropBelow x.lo

/-- Where the block has room and every entering position is resident, no position is stored or read. -/
theorem State.raiseTop_resident {s : State} {x : Session} {b : Band} {lane : Nat} {y : Lane} {top hi lo : Nat} (hy : y.lo = lo)
    (hlo : lo ≤ top) : s.raiseTop x b lane y top hi lo = .ok (s, (y.enterWindow top hi).dropBelow lo) := by
  subst hy
  have hnone : min hi y.lo - top = 0 := by omega
  have hself : (y.enterWindow top hi).lo = y.lo := rfl
  simp only [State.raiseTop, State.spillOut, hnone, hself, Nat.sub_self, List.range_zero, List.map_nil, List.filter_nil, foldE, Except.map]
  rfl

/-- The positions of the handler's window read zero. -/
theorem Lane.handlerWindow_zero {x : Lane} (halign : (x.base + x.size) % 8 = 0) {p : Nat} (hlow : x.base + x.size ≤ p)
    (hhigh : p < x.base + x.size + 32) : spGet x.handlerWindow.regs p = 0 := by
  refine spGet_of_absent fun e he hp => ?_
  subst hp
  simp only [Lane.handlerWindow, Lane.dropBelow, spClear, Lane.enterWindow, List.mem_filter, Bool.or_eq_true, decide_eq_true_eq,
    List.contains_iff_mem, Bool.not_eq_true', Bool.and_eq_false_iff, decide_eq_false_iff_not] at he
  omega

/-- The lane `y` of a unit in its handler: `z` is its window, `x` the lane that is saved. -/
def Lane.inHandler (x y : Lane) (i : Iss) (trec : Dword) (t : Trap) (acted : LaneMask) : Lane :=
  { x.handlerWindow with
    txn := y.txn, issued := [], priv := true, trec := trec, status := .running, wait := .none, k := 0, rep := none
    base := x.base + x.size, size := 32, pc := i.sess.tvec
    frame := some { k := x.k, fpflags := x.fpflags, base := x.base, size := x.size, pc := x.pc, code := t.code, lanes := acted, rep := x.rep } }

theorem State.deliverInStream_resident {s : State} {i : Iss} {unit acted : LaneMask} {trec : Dword} {b : Band} {t : Trap}
    (hb : i.group.bands[i.band]? = some b)
    (hroom : ∀ l ∈ lanesOf unit, (b.lane l).base + (b.lane l).size + 32 ≤ (b.lane l).lo + i.launch.desc.blockRegs ∧
      (b.lane l).lo ≤ (b.lane l).base + (b.lane l).size) :
    s.deliverInStream i unit trec t acted = some ((lanesOf unit).foldl (fun u l => u.modGroupOn i.core i.group.gid fun g =>
      g.modLane i.band l fun y => (b.lane l).inHandler y i trec t acted) s) := by
  unfold State.deliverInStream
  rw [hb]
  dsimp only
  rw [foldE_ext (g := fun u l => .ok (u.modGroupOn i.core i.group.gid fun g => g.modLane i.band l fun y =>
    (b.lane l).inHandler y i trec t acted)) s fun u l hl => ?_, foldE_ok]
  obtain ⟨hblock, hlo⟩ := hroom l hl
  unfold Lane.inHandler Lane.handlerWindow
  rw [Lane.emptyWindow_eq]
  dsimp only
  rw [newLo, if_neg (by omega), State.raiseTop_resident ?self hlo]
  case self => rfl

/-! ### Resumes (20 R345) -/

theorem Lane.resume_replay (x : Lane) {rule : Nat} (acted : Bool) (h : rule ≠ 0x0F) :
    x.resume rule 0 acted = { x with status := .running, wait := .none } := by
  simp [Lane.resume, softTrap, h]

/-- Settles O56: a trap's record, its unit and its delivery, each by how the write of the record goes. -/
theorem trapDelivery : Obligations.TrapDelivery := by
  refine ⟨?deliver, ⟨?take, ?split, ?ring⟩, ⟨?handler, ?window⟩, ?resume⟩
  case deliver =>
    intro s i unit acted b t hplain hver tn
    have htn : tn = if i.priv then t.nested else t := rfl
    refine ⟨State.deliver_noRing hplain hver, fun s1 n hwrite h => ?_, fun s1 hwrite h => ?_⟩
    · have hw : s.trapWrite i unit acted b t tn = (s1, .done n) := hwrite
      rw [State.deliver_parked hplain hver htn h, hw]
      rfl
    · exact State.deliver_full hplain hver htn hwrite h
  case take =>
    intro s i j0 acted t l0 tk s0 s1 j unit rec_ hj0
    have hs1 : s1 = s0.splitUnit i := rfl
    rw [hs1] at hj0
    rw [State.takeTrap_eq hj0]
    have hdone {s2 : State} {n : Nat} (hwrite : s1.ringWrite j.sess rec_ = (s2, .done n)) (hfault : t.code.toNat = 8) :
        s1.takeSplit i j acted tk = s2.parkFault j acted tk (some n) :=
      (State.takeSplit_fault (t := tk) hfault).trans (congrArg (State.takeFault j acted tk) hwrite)
    refine ⟨fun hversion hfault => State.takeSplit_deliver hversion hfault, fun hversion hpolicy => State.takeSplit_restart hversion hpolicy,
      fun hfault => ⟨fun s2 s3 n k hwrite hring hbatch => ?_, fun s3 k hnone hring hbatch => ?_, fun s2 n hwrite hring => ?_⟩⟩
    · exact (hdone hwrite hfault).trans (State.parkFault_served hring hbatch)
    · have hwrite : s1.takeSplit i j acted tk = s1.parkFault j acted tk none := by
        rw [State.takeSplit_fault (t := tk) hfault, State.ringWrite_noRing hnone]
        rfl
      exact hwrite.trans (State.parkFault_served hring hbatch)
    · exact (hdone hwrite hfault).trans (State.parkFault_unserved hring)
  case split =>
    intro b l
    refine ⟨fun f hf m n _ _ => Band.classes_alike hf, fun m => Band.classes_cover, fun h => ?_, fun h => ?_⟩
    · simp [Band.splitFor, h]
    · simp [Band.splitFor, Nat.not_le.mpr h]
  case ring =>
    intro s s2 x i clock u t vdisc n h
    have hput := State.ringPut_some (State.ringWrite_done h)
    rw [length_recordBytes, show x.tring.toNat + 64 + 64 * (n % 2 ^ x.tringcap.toNat) =
      x.tring.toNat + 64 * (1 + n % 2 ^ x.tringcap.toNat) by ring] at hput
    exact hput
  case handler =>
    intro s i unit acted b t s1 s2 n bi m hwho hpriv hplain hver hring hvec hdeleg hcode hfits hwrite hin
    exact State.deliver_handler hplain hver hpriv (Iss.asksHandler_true hwho hvec hdeleg hcode) hfits hwrite hin
  case window =>
    intro s i unit acted trec b t hb hroom top z
    exact ⟨State.deliverInStream_resident hb fun l hl => (hroom l hl).2, fun l _ halign p => Lane.handlerWindow_zero halign⟩
  case resume =>
    intro x rule acted
    refine ⟨x.resume_replay acted, fun h => ?_, rfl, rfl, rfl⟩
    rw [h]
    rfl

end Sys2Proof.Machine
end

section
/-! PROOFS. Memory keeps its canonical form: what the results of the model's operations carry, and folds. -/

namespace Sys2Proof.Machine

open Sys2Proof

/-! ### A property of what a result carries -/

/-- Every value that a result gives has a property. -/
def Gives {ε α : Type} (P : α → Prop) : Except ε α → Prop
  | .ok a => P a
  | .error _ => True

/-- The value of an option, if any, has a property. -/
def Maybe {α : Type} (P : α → Prop) : Option α → Prop
  | some a => P a
  | none => True

section
variable {ε α β : Type} {P : α → Prop}

@[simp] theorem Gives.ok {a : α} : Gives (ε := ε) P (.ok a) = P a := rfl
@[simp] theorem Gives.error {e : ε} : Gives P (.error e) = True := rfl
@[simp] theorem Maybe.some {a : α} : Maybe P (some a) = P a := rfl
@[simp] theorem Maybe.none : Maybe P none = True := rfl

@[simp] theorem Gives.map {f : β → α} {r : Except ε β} : Gives P (r.map f) = Gives (fun b => P (f b)) r := by
  cases r <;> rfl

theorem Gives.of_eq {r : Except ε α} (h : ∀ a, r = .ok a → P a) : Gives P r := by
  cases r with
  | ok a => exact h a rfl
  | error e => trivial

theorem Gives.map_of {Q : β → Prop} {f : β → α} {r : Except ε β} (h : Gives Q r) (hf : ∀ b, Q b → P (f b)) : Gives P (r.map f) := by
  cases r with
  | ok b => exact hf b h
  | error e => trivial

theorem Gives.map_any {f : β → α} {r : Except ε β} (hf : ∀ b, P (f b)) : Gives P (r.map f) := by
  cases r with
  | ok b => exact hf b
  | error e => trivial

theorem Gives.of_ok {r : Except ε α} {a : α} (h : Gives P r) (ha : r = .ok a) : P a := by
  subst ha
  exact h

theorem Maybe.of_some {r : Option α} {a : α} (h : Maybe P r) (ha : r = .some a) : P a := by
  subst ha
  exact h

end

/-- Every state that a result gives has its memory in canonical form. -/
abbrev OkMem {ε : Type} (r : Except ε State) : Prop := Gives State.MemOk r

/-- The state that a step answers, if any, has its memory in canonical form. -/
def Answers : Result → Prop
  | .next t => t.MemOk
  | _ => True

@[simp] theorem Answers.next {t : State} : Answers (.next t) = t.MemOk := rfl
@[simp] theorem Answers.fault {e : Fault} : Answers (.fault e) = True := rfl
@[simp] theorem Answers.refused {e : Refusal} : Answers (.refused e) = True := rfl

/-- A body of an instruction keeps the canonical form. -/
def Body.Keeps (body : Body) : Prop := ∀ (i : Iss) (en : LaneMask) (s : State), s.MemOk → OkMem (body i en s)

theorem getD_memOk {o : Option State} {d : State} (ho : Maybe State.MemOk o) (hd : d.MemOk) : (o.getD d).MemOk := by
  cases o with
  | none => exact hd
  | some a => exact ho

theorem elim_memOk {α : Type} {o : Option α} {d : State} {f : α → State} (hd : d.MemOk) (hf : ∀ a, (f a).MemOk) : (o.elim d f).MemOk := by
  cases o with
  | none => exact hd
  | some a => exact hf a

/-! ### Folds -/

section
variable {α β ε : Type} {s : State} {xs : List α}

theorem foldl_memOk {f : State → α → State} (hf : ∀ t a, t.MemOk → (f t a).MemOk) (h : s.MemOk) : (xs.foldl f s).MemOk :=
  foldl_keeps State.MemOk f hf xs s h

theorem foldl_fst_memOk {f : State × β → α → State × β} {b : State × β} (hf : ∀ b a, b.1.MemOk → (f b a).1.MemOk) (h : b.1.MemOk) :
    (xs.foldl f b).1.MemOk := foldl_keeps (fun b : State × β => b.1.MemOk) f hf xs b h

theorem foldE_memOk {f : State → α → Except ε State} (hf : ∀ t a, t.MemOk → OkMem (f t a)) (h : s.MemOk) : OkMem (foldE f s xs) :=
  .of_eq fun t => foldE_keeps State.MemOk f (fun b a _ hb => (hf b a hb).of_ok) xs s t h

theorem foldLanes_memOk {f : State → α → Except Halt State} (hf : ∀ t a, t.MemOk → OkMem (f t a)) (h : s.MemOk) :
    OkMem (foldLanes f s xs) := by
  have hfold : OkMem (foldE f s xs) := foldE_memOk hf h
  unfold foldLanes
  split
  · next t ht => exact hfold.of_ok ht
  · trivial

/-- Reads of every lane, then the writes: the writes decide. -/
theorem perLane_memOk {i : Iss} {en : LaneMask} {read : Nat → Except Halt α} {write : State → Nat → α → Except Halt State}
    (hw : ∀ t l a, t.MemOk → OkMem (write t l a)) (h : s.MemOk) : OkMem (perLane i en s read write) := by
  unfold perLane
  split
  · trivial
  · exact foldLanes_memOk (fun t a ht => hw t a.1 a.2 ht) h

theorem foldl_phys {f : State → α → State} (hf : ∀ t a, (f t a).phys = t.phys) : (xs.foldl f s).phys = s.phys := by
  induction xs generalizing s with
  | nil => rfl
  | cons x xs ih => rw [List.foldl_cons, ih, hf]

end

end Sys2Proof.Machine
end

section
/-! PROOFS. Memory keeps its canonical form: the operations that leave physical memory alone. -/

namespace Sys2Proof.Machine

open Sys2Proof

@[simp] theorem State.freeToken_phys (s : State) (slot : Nat) (r : LaneRef) : (s.freeToken slot r).phys = s.phys := rfl
@[simp] theorem State.modLanes_phys (s : State) (i : Iss) (m : LaneMask) (f : Nat → Lane → Lane) : (s.modLanes i m f).phys = s.phys := rfl
@[simp] theorem State.abortLane_phys (s : State) (i : Iss) (l cause detail : Nat) : (s.abortLane i l cause detail).phys = s.phys := rfl
@[simp] theorem State.abortLanes_phys (s : State) (i : Iss) (m : LaneMask) (cause detail : Nat) :
    (s.abortLanes i m cause detail).phys = s.phys := foldl_phys fun _ _ => by simp
@[simp] theorem State.withdraw_phys (s : State) (p : Nat → Bool) : (s.withdraw p).phys = s.phys := rfl
@[simp] theorem State.tlbDropPage_phys (s : State) (slot va : Nat) : (s.tlbDropPage slot va).phys = s.phys := rfl
@[simp] theorem State.endLaunch_phys (s : State) (sess no status : Nat) : (s.endLaunch sess no status).phys = s.phys := rfl
@[simp] theorem State.setStatus_phys (s : State) (i : Iss) (unit : LaneMask) (st : Status) : (s.setStatus i unit st).phys = s.phys := rfl
@[simp] theorem State.failSerial_phys (s : State) (i : Iss) : (s.failSerial i).phys = s.phys := rfl
@[simp] theorem State.modLead_phys (s : State) (i : Iss) (f : Lead → Lead) : (s.modLead i f).phys = s.phys := rfl
@[simp] theorem State.block_phys (s : State) (i : Iss) (w : Wait) : (s.block i w).phys = s.phys := by unfold State.block; split <;> rfl
@[simp] theorem State.advance_phys (s : State) (i : Iss) (m : LaneMask) : (s.advance i m).phys = s.phys := rfl
@[simp] theorem State.signSpills_phys (s : State) (i : Iss) (en : LaneMask) (us : List Use) :
    (s.signSpills i en us).phys = s.phys := by unfold State.signSpills; split <;> rfl
@[simp] theorem State.kill_phys (s : State) (i : Iss) (en : LaneMask) (us : List Use) :
    (s.kill i en us).phys = s.phys := by unfold State.kill; split <;> rfl
@[simp] theorem State.operands_phys (s : State) (i : Iss) (en : LaneMask) (us : List Use) :
    (s.operands i en us).phys = s.phys := by simp [State.operands]
@[simp] theorem goTo_phys (s : State) (i : Iss) (l : Nat) (pc : Pc) : (goTo s i l pc).phys = s.phys := by unfold goTo; split <;> rfl
@[simp] theorem State.settle_phys (s : State) (i : Iss) (l fl draws : Nat) :
    (s.settle i l fl draws).phys = s.phys := by unfold State.settle; split <;> rfl
@[simp] theorem State.putG_phys (s : State) (i : Iss) (n : Nat) (v : Dword) : (s.putG i n v).phys = s.phys := rfl
@[simp] theorem State.wrK_phys (s : State) (i : Iss) (l n : Nat) (v : Bool) : (s.wrK i l n v).phys = s.phys := by unfold State.wrK; split <;> rfl
@[simp] theorem State.holdLanes_phys (s : State) (i : Iss) (m : LaneMask) (lines : Nat → List Nat) :
    (s.holdLanes i m lines).phys = s.phys := by unfold State.holdLanes; split <;> rfl
@[simp] theorem modTxn_phys (s : State) (i : Iss) (l : Nat) (f : Txn → Txn) : (modTxn s i l f).phys = s.phys := rfl
@[simp] theorem State.dropCmd_phys (s : State) (id : Nat) : (s.dropCmd id).phys = s.phys := rfl
@[simp] theorem State.endNode_phys (s : State) (sess : Nat) (a : Option Dword) (status : Nat) :
    (s.endNode sess a status).phys = s.phys := by unfold State.endNode; split <;> rfl
@[simp] theorem State.holdResult_phys (s : State) (d : Dest) (ws : List Word) (gs : List Dword) (k : Option (Nat × Bool)) :
    (s.holdResult d ws gs k).phys = s.phys := by unfold State.holdResult; split <;> rfl
@[simp] theorem State.modPending_phys (s : State) (d : Dest) (f : List Nat → List Nat) :
    (s.modPending d f).phys = s.phys := by unfold State.modPending; split <;> simp
@[simp] theorem State.addLaunch_phys (s : State) (l : Launch) : (s.addLaunch l).phys = s.phys := rfl
@[simp] theorem State.awaits_phys (s : State) (d : Dest) (n : Nat) (k : Option Nat) :
    (s.awaits d n k).phys = s.phys := by unfold State.awaits; split <;> simp
@[simp] theorem State.joinPort_phys (s : State) (i : Iss) (j : Nat) (reload : Bool) : (s.joinPort i j reload).phys = s.phys := rfl
@[simp] theorem setRsv_phys (s : State) (i : Iss) (l : Nat) (sp : Spec) (r : Rsv) : (setRsv s i l sp r).phys = s.phys := rfl
@[simp] theorem setComp_phys (s : State) (i : Iss) (l : Nat) (sp : Spec) (c : Comp) : (setComp s i l sp c).phys = s.phys := rfl
@[simp] theorem logComp_phys (i : Iss) (l : Nat) (sp : Spec) (s : State) (r : Comp × List (Nat × Nat)) :
    (logComp i l sp s r).phys = s.phys := foldl_phys fun _ _ => by simp
@[simp] theorem State.hold_phys (s : State) (i : Iss) (h : Held) : (s.hold i h).phys = s.phys := rfl
@[simp] theorem State.texForget_phys (s : State) (rs : List LaneRef) : (s.texForget rs).phys = s.phys := rfl
@[simp] theorem State.texEnd_phys (s : State) (i : Iss) : (s.texEnd i).phys = s.phys := rfl
@[simp] theorem State.unkill_phys (s : State) (i : Iss) : (s.unkill i).phys = s.phys := rfl
@[simp] theorem State.modRing_phys (s : State) (r : Ring) (f : Ring → Ring) : (s.modRing r f).phys = s.phys := rfl
@[simp] theorem State.modList_phys (s : State) (sess launch list : Nat) (f : WorkList → WorkList) :
    (s.modList sess launch list f).phys = s.phys := rfl
@[simp] theorem quiesceLead_phys (s : State) (gid : Nat) (v : Word) : (quiesceLead s gid v).phys = s.phys := by simp [quiesceLead]
@[simp] theorem State.writeSession_phys (s : State) (slot n v : Nat) : (s.writeSession slot n v).phys = s.phys := rfl
@[simp] theorem State.endTask_phys (s : State) (gid : Nat) : (s.endTask gid).phys = s.phys := by simp [State.endTask]
@[simp] theorem State.tlbInv_phys (s : State) (kind slot va : Nat) : (s.tlbInv kind slot va).phys = s.phys := by unfold State.tlbInv; split <;> rfl
@[simp] theorem State.addSession_phys (s : State) (x : Session) : (s.addSession x).phys = s.phys := rfl
@[simp] theorem State.petWatchdog_phys (s : State) (sess no : Nat) :
    (s.petWatchdog sess no).phys = s.phys := by unfold State.petWatchdog; split <;> rfl
@[simp] theorem State.dropGroup_phys (s : State) (core gid : Nat) : (s.dropGroup core gid).phys = s.phys := rfl
@[simp] theorem setMet_phys (s : State) (i : Iss) (l : Nat) (v : Dword) : (setMet s i l v).phys = s.phys := by unfold setMet; split <;> rfl
@[simp] theorem State.modLane_phys (s : State) (gid band lane : Nat) (f : Lane → Lane) :
    (s.modLane gid band lane f).phys = s.phys := by simp [State.modLane]
@[simp] theorem State.freeSlot_phys (s : State) (sess launch list addr : Nat) : (s.freeSlot sess launch list addr).phys = s.phys := rfl
@[simp] theorem State.unitClear_phys (s : State) (sess unit : Nat) : (s.unitClear sess unit).phys = s.phys := rfl
@[simp] theorem wakeTexture_phys (s : State) (sess : Nat) (page : Dword) (failed : Bool) : (wakeTexture s sess page failed).phys = s.phys := rfl
@[simp] theorem dropStream_phys (s : State) (t : TexStream) (failed : Bool) : (dropStream s t failed).phys = s.phys := rfl
@[simp] theorem failStream_phys (s : State) (t : TexStream) : (failStream s t).phys = s.phys := rfl
@[simp] theorem State.consume_phys (s : State) (r : Ring) : (s.consume r).phys = s.phys := rfl
@[simp] theorem State.replay_phys (s : State) (b : Bin) (sent : Nat) : (s.replay b sent).phys = s.phys := rfl
@[simp] theorem State.rerun_phys (s : State) (i : Iss) : (s.rerun i).phys = s.phys := rfl
@[simp] theorem State.unload_phys (s : State) (core : Nat) : (s.unload core).phys = s.phys := by unfold State.unload; split <;> rfl
@[simp] theorem State.discard_phys (s : State) (gs : List (Nat × Group)) : (s.discard gs).phys = s.phys := foldl_phys fun _ _ => by simp
@[simp] theorem State.bankOut_phys (s : State) (core : Nat) : (s.bankOut core).phys = s.phys := rfl
@[simp] theorem State.purge_phys (s : State) (slot : Nat) : (s.purge slot).phys = s.phys := rfl
@[simp] theorem State.closeLaunch_phys (s : State) (l : Launch) : (s.closeLaunch l).phys = s.phys := by unfold State.closeLaunch; split <;> simp
@[simp] theorem State.windowed_phys (s : State) : (s.windowed).phys = s.phys := by unfold State.windowed; split <;> rfl
@[simp] theorem State.writeScmd_phys (s : State) (v : Dword) : (s.writeScmd v).phys = s.phys := by unfold State.writeScmd; split <;> rfl
@[simp] theorem State.woken_phys (s : State) (timer : Nat) : (s.woken timer).phys = s.phys := rfl
@[simp] theorem State.keepDoorbell_phys (s : State) (queue wptr : Nat) :
    (s.keepDoorbell queue wptr).phys = s.phys := by unfold State.keepDoorbell; split <;> rfl
@[simp] theorem State.settleTokens_phys (s : State) : (s.settleTokens).phys = s.phys := by unfold State.settleTokens; split <;> rfl
@[simp] theorem State.closeRun_phys (s : State) (core slot : Nat) (broke : Bool) :
    (s.closeRun core slot broke).phys = s.phys := by unfold State.closeRun; split <;> rfl
@[simp] theorem State.turned_phys (s : State) (i : Iss) : (s.turned i).phys = s.phys := by unfold State.turned; split <;> rfl
@[simp] theorem State.captureWord_phys (s : State) (i : Iss) (w : BitVec 96) :
    (s.captureWord i w).phys = s.phys := by unfold State.captureWord; split <;> rfl
@[simp] theorem State.entered_phys (s : State) (i : Iss) : (s.entered i).phys = s.phys := by unfold State.entered; split <;> rfl
@[simp] theorem State.fresh_phys (s : State) : s.fresh.2.phys = s.phys := rfl
@[simp] theorem State.lockable_phys (s : State) (ok : Bool) (f : Ctrl → Ctrl) : (s.lockable ok f).phys = s.phys := by
  unfold State.lockable
  grind [State.setCtrl_phys, State.cfgError_phys]
@[simp] theorem State.restartNow_phys (s : State) (gid : Nat) (serial : Bool) : (s.restartNow gid serial).phys = s.phys := by
  unfold State.restartNow
  grind [State.withdraw_phys, State.modGroupOn_phys, State.modLaunch_phys]
@[simp] theorem State.restart_phys (s : State) (gid : Nat) (serial : Bool) : (s.restart gid serial).phys = s.phys := by
  unfold State.restart
  grind [State.withdraw_phys, State.modGroup_phys, State.restartNow_phys]
@[simp] theorem moveOn_phys (ctl : Bool) (i : Iss) (en : LaneMask) (s : State) : (moveOn ctl i en s).phys = s.phys := by
  unfold moveOn
  grind [State.advance_phys]
@[simp] theorem deadFill_phys (s : State) (i : Iss) (l lo hi : Nat) : (deadFill s i l lo hi).phys = s.phys := foldl_phys fun _ _ => rfl
@[simp] theorem startWaits_phys (s : State) (i : Iss) (x : WCond) (f : MForm) (en : LaneMask) (xs : List (Nat × Dword × Nat)) :
    (startWaits s i x f en xs).phys = s.phys := by
  unfold startWaits
  split
  · exact foldl_phys fun _ _ => rfl
  · exact foldl_phys fun _ _ => rfl
@[simp] theorem State.ctrDec_phys (s : State) (sess launch gid off : Nat) : (s.ctrDec sess launch gid off).phys = s.phys := by
  unfold State.ctrDec
  grind [State.modGroup_phys, State.modLaunch_phys]
@[simp] theorem startStreams_phys (s : State) (x : Session) (t : Tex) (pages : List Nat) : (startStreams s x t pages).phys = s.phys :=
  foldl_phys fun _ _ => by dsimp only; split <;> rfl
@[simp] theorem State.resumeUnit_phys (s : State) (g : Group) (who : Who) (t : Trap) (action : Nat) :
    (s.resumeUnit g who t action).phys = s.phys := by
  unfold State.resumeUnit
  grind [State.restart_phys, State.endTask_phys, State.modGroup_phys]
@[simp] theorem State.writeVbCmd_phys (s : State) (v : Dword) : (s.writeVbCmd v).phys = s.phys := by
  unfold State.writeVbCmd
  grind [State.vbEnd_phys, State.queueStep_phys, State.setCtrl_phys]
@[simp] theorem State.readRegister_phys (s : State) (off n : Nat) : (s.readRegister off n).phys = s.phys := by
  unfold State.readRegister
  grind [State.cfgError_phys, State.setCtrl_phys]
@[simp] theorem State.afterRun_phys (s : State) (i : Iss) (slot : Nat) (stop last : Bool) : (s.afterRun i slot stop last).phys = s.phys := by
  unfold State.afterRun
  grind [State.closeRun_phys, State.modCore_phys]
@[simp] theorem State.wakeUsed_phys (s : State) : s.wakeUsed.phys = s.phys := by
  unfold State.wakeUsed
  dsimp only
  split <;> rfl

end Sys2Proof.Machine
end

section
/-! PROOFS. Memory keeps its canonical form: session memory, rings, traps and the issue of an instruction. -/

namespace Sys2Proof.Machine

open Sys2Proof

section
variable {s : State} (h : s.MemOk)
include h

/-! ### Session memory (05 R89, 21 R374) -/

theorem State.cowPage_ok {x self va subs} : OkMem (s.cowPage x self va subs) := .of_eq fun _ => State.cowPage_wf h

theorem State.cowPlace_ok {x self p} : OkMem (s.cowPlace x self p) := .of_eq fun _ => State.cowPlace_wf h

theorem State.poolTake_wf {base} : (s.poolTake base).MemOk := State.devPutNum_wf _ _ _ h

theorem State.accPut_wf {x priv hint va bs} : OkMem (s.accPut x priv hint va bs) := by
  unfold State.accPut
  grind [State.cowPlace_ok, State.putHint_wf, State.worldWatch_phys, Gives]

theorem State.accWrite_wf {x priv va bs} : OkMem (s.accWrite x priv va bs) := State.accPut_wf h

theorem State.sxWrite_wf {x va bs} : OkMem (s.sxWrite x va bs) := State.accWrite_wf h

theorem State.sxWriteNum_wf {x va n v} : OkMem (s.sxWriteNum x va n v) := State.sxWrite_wf h

/-! ### Rings, fault batches and traps (20 R341 to R348) -/

theorem State.ringPut_wf {x ring first cap rec_} : Gives (Maybe fun r => r.1.MemOk) (s.ringPut x ring first cap rec_) := by
  unfold State.ringPut
  grind [State.sxWrite_wf, State.sxWriteNum_wf, Gives, Maybe, Gives.map_of]

theorem State.trapPut_wf {x rec_} : Gives (Maybe fun r => r.1.MemOk) (s.trapPut x rec_) := State.ringPut_wf h

theorem State.faultBatch_wf {x pages kind engine} : Maybe (fun r => r.1.MemOk) (s.faultBatch x pages kind engine) := by
  unfold State.faultBatch
  grind [State.devPut_wf, State.modSession_phys, State.devPutNum_wf, foldl_fst_memOk, Maybe]

theorem State.tagCheck_wf {x t} : (s.tagCheck x t).MemOk := by
  unfold State.tagCheck
  grind [State.raise_phys]

theorem State.ringWrite_wf {x rec_} : (s.ringWrite x rec_).1.MemOk := by
  unfold State.ringWrite
  grind [State.trapPut_wf, State.faultBatch_wf, State.tagCheck_wf, Gives, Maybe]

theorem State.spillOut_wf {x b lane y lo hi} : OkMem (s.spillOut x b lane y lo hi) :=
  foldE_memOk (fun _ _ ht => State.sxWriteNum_wf ht) h

theorem State.raiseTop_wf {x b lane y top hi lo} : Gives (fun r => r.1.MemOk) (s.raiseTop x b lane y top hi lo) := by
  unfold State.raiseTop
  grind [State.sxWriteNum_wf, State.spillOut_wf, foldE_memOk, Gives, Gives.map_of]

theorem State.deliverInStream_wf {i unit trec t acted} : Maybe State.MemOk (s.deliverInStream i unit trec t acted) := by
  unfold State.deliverInStream
  grind [State.raiseTop_wf, State.modGroupOn_phys, foldE_memOk, Gives, Maybe]

theorem State.deliver_wf {i unit acted b t} : (s.deliver i unit acted b t).MemOk := by
  unfold State.deliver
  grind [State.modGroupOn_phys, State.ringWrite_wf, State.endLaunch_phys, State.setStatus_phys, State.failSerial_phys, State.deliverInStream_wf, Maybe]

theorem State.recordTrap_wf {i acted t} : (s.recordTrap i acted t).MemOk := by
  unfold State.recordTrap
  grind [State.modGroupOn_phys, State.restart_phys, State.ringWrite_wf, State.endLaunch_phys, State.setStatus_phys, State.deliver_wf, State.faultBatch_wf, Maybe]

theorem State.takeTrap_wf {i acted t} : (s.takeTrap i acted t).MemOk := State.recordTrap_wf (State.tagCheck_wf h)

/-! ### Issue (07 R153) -/

theorem issueCore_wf {v post always i} {body : Body} (hb : body.Keeps) (hpost : ∀ j en t, (post j en t).phys = t.phys) :
    (issueCore v post always body i s).MemOk := by
  unfold issueCore
  grind [State.takeTrap_wf, State.abortLanes_phys, State.block_phys, State.advance_phys, State.operands_phys, Body.Keeps, Gives]

theorem issue_wf {v ctl always} {body : Body} (hb : body.Keeps) : Answers (issue s v ctl always body) := by
  unfold issue issueWith
  grind [issueCore_wf, moveOn_phys, State.abortLanes_phys, Answers]

theorem issueHold_wf {v} {body : Body} (hb : body.Keeps) : Answers (issueHold s v body) := by
  unfold issueHold
  grind [issueCore_wf, State.abortLanes_phys, Answers]

end

end Sys2Proof.Machine
end

section
/-! PROOFS. Memory keeps its canonical form: register results and the bodies that compute them. -/

namespace Sys2Proof.Machine

open Sys2Proof

section
variable {s : State} (h : s.MemOk)
include h

/-! ### Writes of registers, spilled ones through session memory (03 R57) -/

theorem areaStore_wf {i l ea bs} : OkMem (areaStore s i l ea bs) := by
  unfold areaStore
  grind [State.cowPlace_ok, State.putAt_wf, Gives]

theorem writePos_wf {i l pos v} : OkMem (writePos s i l pos v) := by
  unfold writePos
  grind [State.modGroupOn_phys, State.cowPlace_ok, State.putAt_wf, Gives]

theorem writeV_wf {i l idx v} : OkMem (writeV s i l idx v) := writePos_wf h

theorem wr1_wf {i l t sp v} : OkMem (wr1 s i l t sp v) := by
  unfold wr1
  grind [State.putG_phys, writeV_wf, Gives]

theorem wr2_wf {i l sp v} : OkMem (wr2 s i l sp v) := by
  unfold wr2
  grind [State.putG_phys, writeV_wf, Gives]

theorem wrT_wf {i l t sp v} : OkMem (wrT s i l t sp v) := by
  unfold wrT
  grind [wr1_wf, wr2_wf]

/-- A write of a result, with what the result settles. -/
theorem wrT_map_wf {i l t sp v} {f : State → State} (hf : ∀ u, (f u).phys = u.phys) : OkMem ((wrT s i l t sp v).map f) :=
  (wrT_wf h).map_of fun u hu => by rw [State.MemOk, hf]; exact hu

theorem pushCall_wf {i l k target} : OkMem (pushCall s i l k target) := by
  unfold pushCall
  grind [areaStore_wf, State.modLanes_phys, foldE_memOk, Gives]

end

theorem wrRun_wf {i l sp j ws} {s : State} (h : s.MemOk) : OkMem (wrRun s i l sp j ws) := by
  induction ws generalizing s j with
  | nil => exact h
  | cons v vs ih =>
    unfold wrRun
    grind [wr1_wf, Gives]

/-! ### Bodies -/

theorem branch_keeps {indirect target} : (branch indirect target).Keeps := fun i en s h => by
  unfold branch
  exact perLane_memOk (fun t l pc ht => by simpa [State.MemOk] using ht) h

theorem callBody_keeps {f indirect target} : (callBody f indirect target).Keeps := fun i en s h => by
  unfold callBody
  exact perLane_memOk (fun t l pc ht => pushCall_wf ht) h

theorem repeatBody_keeps {f count} : (repeatBody f count).Keeps := fun i en s h => by
  unfold repeatBody
  grind [State.modLead_phys, State.modLanes_phys, Gives, Gives.map_any]

theorem compute_keeps {dt d srcs fn} : (compute dt d srcs fn).Keeps := fun i en s h => by
  unfold compute
  exact perLane_memOk (fun t l r ht => wrT_map_wf ht fun u => State.settle_phys ..) h

theorem computeK_keeps {d srcs fn} : (computeK d srcs fn).Keeps := fun i en s h => by
  unfold computeK
  exact perLane_memOk (fun t l r ht => by simpa [State.MemOk] using ht) h

theorem kBody_keeps {f g} : (kBody f g).Keeps := fun i en s h => by
  unfold kBody
  exact perLane_memOk (fun t l r ht => by simpa [State.MemOk] using ht) h

theorem intBody1_keeps {f g} : (intBody1 f g).Keeps := compute_keeps
theorem intBody2_keeps {f g} : (intBody2 f g).Keeps := compute_keeps
theorem intBody3_keeps {f g} : (intBody3 f g).Keeps := compute_keeps
theorem wordBody1_keeps {f g} : (wordBody1 f g).Keeps := compute_keeps
theorem wordBody2_keeps {f g} : (wordBody2 f g).Keeps := compute_keeps
theorem wordBody3_keeps {f g} : (wordBody3 f g).Keeps := compute_keeps
theorem floatBody1_keeps {f g} : (floatBody1 f g).Keeps := compute_keeps
theorem floatBody2_keeps {f g} : (floatBody2 f g).Keeps := by
  unfold floatBody2
  exact compute_keeps
theorem approxBody_keeps {op f} : (approxBody op f).Keeps := compute_keeps

theorem lgetBody_keeps {flip ty seg d a b} : (lgetBody flip ty seg d a b).Keeps := fun i en s h => by
  unfold lgetBody
  exact perLane_memOk (fun t l v ht => wrT_wf ht) h

theorem lgetA_keeps {flip f} : (lgetA flip f).Keeps := by
  unfold lgetA
  split
  · exact lgetBody_keeps
  · exact lgetBody_keeps

theorem lshBody_keeps {up f} : (lshBody up f).Keeps := fun i en s h => by
  unfold lshBody
  exact perLane_memOk (fun t l v ht => wrT_wf ht) h

theorem foldBody_keeps {x f p} : (foldBody x f p).Keeps := fun i en s h => by
  unfold foldBody
  exact perLane_memOk (fun t l r ht => wrT_map_wf ht fun u => State.settle_phys ..) h

theorem barBody_keeps {cluster} : (barBody cluster).Keeps := fun i en s h => by
  unfold barBody
  grind [State.modLead_phys, State.modLanes_phys, Gives]

theorem pushfBody_keeps {f row all} : (pushfBody f row all).Keeps := fun i en s h => by
  unfold pushfBody
  grind [State.modGroupOn_phys, Gives]

end Sys2Proof.Machine
end

section
/-! PROOFS. Memory keeps its canonical form: loads, stores, atomics, fences and transactions. -/

namespace Sys2Proof.Machine

open Sys2Proof

section
variable {s : State} (h : s.MemOk)
include h

/-! ### What an access leaves in caches and signatures (05 R108, 06 R120, 20 R350) -/

theorem State.fillPlace_wf {gid hint p} : (s.fillPlace gid hint p).MemOk := by
  unfold State.fillPlace
  grind [State.cacheRead_wf, foldl_memOk]

theorem State.invalidate_wf {lines} : (s.invalidate lines).MemOk := by
  unfold State.invalidate
  grind

theorem State.note_wf {gid p rd wr} : (s.note gid p rd wr).MemOk := by
  unfold State.note
  grind [State.worldWatch_phys, State.invalidate_wf, State.modAny_phys]

theorem State.sign_wf {gid p rd wr} : (s.sign gid p rd wr).MemOk := by
  unfold State.sign
  grind [State.note_wf, State.fillPlace_wf]

theorem State.stored_wf {i hint l p bs} : (s.stored i hint l p bs).MemOk := State.note_wf (State.putHint_wf _ _ _ _ _ _ h)

theorem State.loaded_wf {i hint p} : (s.loaded i hint p).MemOk := State.fillPlace_wf (State.note_wf h)

theorem State.trace_wf {x gid p wr} : (s.trace x gid p wr).MemOk := by
  have hwatch : (s.worldWatch x gid p wr).MemOk := by simpa [State.MemOk] using h
  unfold State.trace
  grind [State.invalidate_wf, State.cacheRead_wf, foldl_memOk]

theorem State.dropType_wf {type core l2 llc} : (s.dropType type core l2 llc).MemOk := h

theorem State.acquire_wf {core scope} : (s.acquire core scope).MemOk := by
  unfold State.acquire
  grind [State.dropType_wf]

theorem State.acquireFor_wf {i f acc as} : (s.acquireFor i f acc as).MemOk := by
  unfold State.acquireFor
  grind [State.acquire_wf]

theorem State.acquireFor?_wf {gid scope} : (s.acquireFor? gid scope).MemOk := by
  unfold State.acquireFor?
  grind [State.acquire_wf]

theorem State.acquireOn_wf {cores scope} : (s.acquireOn cores scope).MemOk := foldl_memOk (fun _ _ ht => State.acquire_wf ht) h

theorem State.writeType_wf {type core} : (s.writeType type core).MemOk := foldl_memOk (fun _ b ht => State.writeBack_wf b ht) h

theorem State.releaseAt_wf {core scope} : (s.releaseAt core scope).MemOk := by
  unfold State.releaseAt
  grind [State.writeType_wf]

theorem State.releaseFor_wf {i f acc as} : (s.releaseFor i f acc as).MemOk := by
  unfold State.releaseFor
  grind [State.releaseAt_wf]

theorem State.releaseOn_wf {cores scope} : (s.releaseOn cores scope).MemOk := foldl_memOk (fun _ _ ht => State.releaseAt_wf ht) h

theorem State.performAll_wf {core} : (s.performAll core).MemOk := foldl_memOk (fun _ _ ht => State.writeType_wf ht) h

theorem State.prefetch_wf {i f l} : (s.prefetch i f l).MemOk := by
  unfold State.prefetch
  grind [State.invalidate_wf, State.fillPlace_wf]

/-! ### Loads, stores and atomics (08 R186 to R192) -/

theorem prepareStore_wf {i nd n as} : Gives (fun r => r.1.MemOk) (prepareStore s i nd n as) := by
  unfold prepareStore
  grind [State.cowPlace_ok, foldl_fst_memOk, Gives, Gives.map_any]

theorem giveLoad_wf {f t signed i l bs} : OkMem (giveLoad f t signed i s l bs) := wrT_wf h

/-! ### Transactions (09 R206 to R213) -/

theorem settleIntra_wf {i l ms} : (settleIntra s i l ms).1.MemOk := by
  unfold settleIntra
  grind [State.abortLane_phys, foldl_fst_memOk]

theorem txTouch_wf {i l p n hint store} : (txTouch s i l p n hint store).MemOk := by
  unfold txTouch
  grind [modTxn_phys, State.worldWatch_phys, State.note_wf, State.fillPlace_wf]

theorem txAccess_wf {i op n l hint ea store} : Gives (fun r => r.1.MemOk) (txAccess s i op n l hint ea store) := by
  unfold txAccess
  grind [State.abortLane_phys, State.tagCheck_wf, settleIntra_wf, State.holdLanes_phys, State.cowPlace_ok, txTouch_wf, Gives]

theorem beginLane_wf {i l target} : (beginLane s i l target).MemOk := by
  unfold beginLane
  grind [State.abortLane_phys, State.acquire_wf, State.modSession_phys, State.modLanes_phys, State.advance_phys]

theorem commitReady_wf {i l} : OkMem (commitReady s i l) := by
  unfold commitReady
  grind [State.cowPage_ok, foldE_memOk, Gives]

theorem commitBuf_wf {i l x} : (commitBuf s i l x).MemOk := by
  unfold commitBuf
  grind [State.doom_phys, State.modGroup_phys, State.putByte_wf, foldl_memOk]

theorem endLane_wf {i l} : (endLane s i l).MemOk := by
  unfold endLane
  grind [State.abortLane_phys, State.tagCheck_wf, commitReady_wf, commitBuf_wf, State.modLanes_phys, State.freeToken_phys, State.advance_phys, Gives]

end

theorem accessBody_keeps {f op n lg data give} (hgive : ∀ i t l bs, t.MemOk → OkMem (give i t l bs)) :
    (accessBody f op n lg data give).Keeps := fun i en s h => by
  unfold accessBody
  dsimp only
  generalize (if data.isSome = true then Access.write else Access.read) = acc
  split
  · trivial
  split
  · trivial
  next as0 _ =>
    generalize (if data.isSome = true then heldLanes s i n as0 else 0) = held
    split
    · trivial
    split
    · trivial
    generalize hr : (ite (data.isSome = true) _ _ : Except Halt (State × List Acc)) = r
    have hprepared : Gives (fun r => r.1.MemOk) r := by
      rw [← hr]
      split
      · exact prepareStore_wf h
      · exact h
    split
    · trivial
    next s1 as =>
      have hs1 : s1.MemOk := hprepared
      refine Gives.map_of (foldLanes_memOk (fun t x ht => ?_) (State.releaseFor_wf hs1)) fun t ht => ?_
      · grind [txAccess_wf, State.stored_wf, State.loaded_wf, State.advance_phys, Gives, Gives.map_of, Except.map]
      · grind [State.acquireFor_wf, State.holdLanes_phys]

theorem atomBody_keeps {x f ret} : (atomBody x f ret).Keeps := fun i en s h => by
  unfold atomBody
  dsimp only
  split
  · trivial
  split
  · trivial
  split
  · trivial
  split
  · trivial
  split
  · trivial
  split
  · trivial
  next s1 as hprepared =>
    have hs1 : s1.MemOk := by grind [prepareStore_wf, Gives]
    refine Gives.map_of (foldLanes_memOk (fun t y ht => ?_) (State.releaseFor_wf hs1)) fun t ht => ?_
    · grind [State.putAt_wf, State.sign_wf, wrT_wf, State.advance_phys, Gives, Gives.map_of, Except.map]
    · grind [State.acquireFor_wf, State.holdLanes_phys]

theorem noLoad_wf {i s l bs} (h : s.MemOk) : OkMem (noLoad i s l bs) := h

end Sys2Proof.Machine
end

section
/-! PROOFS. Memory keeps its canonical form: results of engines, commands, launches and graph nodes. -/

namespace Sys2Proof.Machine

open Sys2Proof

/-- The state of a start, if it made one. -/
def Started.MemOk : Started → Prop
  | .done s _ => s.MemOk
  | _ => True

/-- The state of a graph operation, if it ended. -/
def GraphRes.MemOk : GraphRes → Prop
  | .status s _ => s.MemOk
  | _ => True

section
variable {s : State} (h : s.MemOk)
include h

/-! ### Results and the engines' accesses (10 R226 to R232) -/

theorem State.putPos_wf {x gid band lane pos v} : (s.putPos x gid band lane pos v).MemOk := by
  unfold State.putPos
  grind [State.modGroupOn_phys, State.sxWriteNum_wf, Gives]

theorem State.giveResult_wf {d ws gs k} : (s.giveResult d ws gs k).MemOk := by
  unfold State.giveResult
  grind [State.holdResult_phys, State.modGroup_phys, State.putPos_wf, State.modPending_phys, foldl_memOk]

theorem State.reply_wf {d w} : (s.reply d w).MemOk := by
  unfold State.reply
  grind [State.giveResult_wf]

theorem State.engFault_wf {x c t} : Maybe State.MemOk (s.engFault x c t) := by
  unfold State.engFault
  grind [State.faultBatch_wf, State.modCmd_phys, Maybe]

theorem State.engSeen_wf {c x va n} : (s.engSeen c x va n).MemOk := by
  unfold State.engSeen
  grind [State.trace_wf, foldl_memOk]

theorem engWrite1_wf {c x va bs} : OkMem (engWrite1 s c x va bs) := by
  unfold engWrite1
  grind [State.cowPlace_ok, State.putHint_wf, State.sign_wf, State.trace_wf, Gives]

theorem engWrite_wf {c x va bs} : OkMem (engWrite s c x va bs) := foldE_memOk (fun _ _ ht => engWrite1_wf ht) h

/-! ### Copies -/

theorem State.writeStatus_wf {x c desc ctr code} : (s.writeStatus x c desc ctr code).MemOk := by
  unfold State.writeStatus
  grind [State.ctrDec_phys, State.endNode_phys, State.dropCmd_phys, State.modCmd_phys, engWrite_wf, State.engFault_wf, State.tagCheck_wf,
    getD_memOk, Gives]

theorem State.endCopy_wf {x c desc ctr status} : (s.endCopy x c desc ctr status).MemOk := by
  unfold State.endCopy
  grind [State.writeStatus_wf, State.modCmd_phys]

theorem State.startCopy_wf {x c fill a} : (s.startCopy x c fill a).MemOk := by
  unfold State.startCopy
  grind [State.reply_wf, State.endNode_phys, State.dropCmd_phys, State.engFault_wf, State.tagCheck_wf, State.engSeen_wf, State.endCopy_wf,
    State.modCmd_phys, getD_memOk]

theorem State.addCopy_wf {x queue node a} : (s.addCopy x queue node a).1.MemOk := by
  unfold State.addCopy
  grind [State.startCopy_wf]

/-! ### Launches (22 R392) and sessions that wake (22 R397) -/

theorem State.postSession_wf {slot} : (s.postSession slot).MemOk := by
  unfold State.postSession
  grind [State.devPutNum_wf, State.devPut_wf]

theorem State.wake_wf {slot} : (s.wake slot).MemOk := by
  unfold State.wake
  grind [State.postSession_wf, State.modSession_phys]

theorem State.pageOf_wf {x pc} : (s.pageOf x pc).1.MemOk := by
  unfold State.pageOf
  grind [State.tagCheck_wf]

theorem State.skipLaunch_wf {x va node declined} : (s.skipLaunch x va node declined).MemOk := by
  unfold State.skipLaunch
  grind [State.addLaunch_phys, State.tagCheck_wf, Started.MemOk]

theorem State.startLaunch_wf {x va grid priv declined queue node} : (s.startLaunch x va grid priv declined queue node).MemOk := by
  have hrefuse (o : Option Trap) : (o.elim s (s.tagCheck x)).MemOk := elim_memOk h fun _ => State.tagCheck_wf h
  unfold State.startLaunch
  dsimp only
  repeat' split
  all_goals grind [State.addLaunch_phys, State.pageOf_wf, State.modSession_phys, State.wake_wf, Started.MemOk]

/-! ### Graph nodes (17 R326 to R332) and commands -/

theorem State.startNode_wf {sess a} : (s.startNode sess a).MemOk := by
  unfold State.startNode
  grind [State.modNode_phys, State.endNode_phys, State.addCopy_wf, State.skipLaunch_wf, State.startLaunch_wf, State.faultBatch_wf,
    State.tagCheck_wf, Started.MemOk, Maybe]

theorem State.submit_wf {x c a} : (s.submit x c a).MemOk := by
  unfold State.submit
  grind [State.engSeen_wf, engWrite1_wf, State.startNode_wf, GraphRes.MemOk, Gives]

theorem State.predDone_wf {sess a bad} : (s.predDone sess a bad).MemOk := by
  unfold State.predDone
  grind [State.startNode_wf, State.modNode_phys]

theorem State.succDone_wf {sess bad x} : (s.succDone sess bad x).MemOk := by
  unfold State.succDone
  grind [State.predDone_wf, State.ctrDec_phys]

theorem State.signal_wf {x a} : (s.signal x a).1.MemOk := by
  unfold State.signal
  grind [State.predDone_wf]

theorem State.watch_wf {x c a off} : (s.watch x c a off).1.MemOk := by
  unfold State.watch
  grind [State.modNode_phys, State.ctrDec_phys]

theorem State.startCollective_wf {x c efn a inst} : (s.startCollective x c efn a inst).MemOk := by
  unfold State.startCollective
  grind [State.modCmd_phys, State.engFault_wf, State.tagCheck_wf, State.engSeen_wf, getD_memOk]

theorem State.startCmd_wf {id} : (s.startCmd id).MemOk := by
  unfold State.startCmd
  grind [State.startCopy_wf, State.reply_wf, State.dropCmd_phys, State.submit_wf, State.engFault_wf, State.tagCheck_wf, State.signal_wf,
    State.watch_wf, State.startCollective_wf, getD_memOk, GraphRes.MemOk]

theorem State.issueCmd_wf {i l reply n kind} : (s.issueCmd i l reply n kind).MemOk := by
  unfold State.issueCmd
  grind [State.releaseAt_wf, State.awaits_phys, State.startCmd_wf]

end

theorem engBody_keeps {f hasB kind} : (engBody f hasB kind).Keeps := fun i en s h => by
  unfold engBody
  grind [State.issueCmd_wf, foldl_memOk, Gives]

theorem collBody_keeps {efn f} : (collBody efn f).Keeps := fun i en s h => by
  unfold collBody
  grind [engBody_keeps, State.modGroupOn_phys, Body.Keeps, Gives]

theorem matBody_keeps {body : Body} (hb : body.Keeps) : (matBody body).Keeps := fun i en s h => by
  unfold matBody
  grind [Body.Keeps, Gives]

end Sys2Proof.Machine
end

section
/-! PROOFS. Memory keeps its canonical form: lists, outputs, textures, rays, streams, placement and FORK. -/

namespace Sys2Proof.Machine

open Sys2Proof

/-- The state of an accepted record. -/
def Accepted.MemOk : Accepted → Prop
  | .ok s => s.MemOk
  | _ => True

/-- The state of an answered atlas request. -/
def AtlasRes.MemOk : AtlasRes → Prop
  | .answer _ s => s.MemOk
  | _ => True

/-- The state of a traversal and of a page-table copy. -/
abbrev Trav.MemOk (t : Trav) : Prop := t.s.MemOk
abbrev ForkCopy.MemOk (c : ForkCopy) : Prop := c.s.MemOk

/-- One position of a deposit: a resident position arrives in its lane, another is stored, and one that the block does not hold is both. -/
def depositPos (x : Session) (l : Launch) (c gid : Nat) (b : Band) (band lane : Nat) (t : State) (p : Nat) (w : Word) : Except Trap State :=
  let t1 := if (b.lane lane).lo ≤ p then t.modGroupOn c gid fun h => h.modLane band lane fun z => z.arrive p w else t
  if (b.lane lane).lo ≤ p && p < (b.lane lane).lo + l.desc.blockRegs then .ok t1 else t1.sxWriteNum x (stackAddr x b p lane) 4 w.toNat

section
variable {s : State} (h : s.MemOk)
include h

/-! ### Matrix and affine streams (11 R240, 10 R225) -/

theorem State.fillLoad_wf {i j e i0 i1 i2 i3 d} : (s.fillLoad i j e i0 i1 i2 i3 d).MemOk := by
  unfold State.fillLoad
  grind [State.modGroupOn_phys, State.sign_wf, foldl_memOk]

theorem reach_wf {i o opn} : OkMem (reach i o opn s) := by
  unfold reach
  grind [State.modCore_phys, State.modGroupOn_phys, Gives]

theorem drainPrepare_wf {i e es i0 i1 i2 i3 n} : Gives (fun r => r.1.MemOk) (drainPrepare s i e es i0 i1 i2 i3 n) := by
  unfold drainPrepare
  dsimp only
  split
  · trivial
  split
  · trivial
  split
  · trivial
  split
  · exact h
  split
  · trivial
  next s1 hs1 =>
    have hcow : s1.MemOk := (foldLanes_memOk (fun t a ht => by grind [State.cowPlace_ok, Gives]) h).of_ok hs1
    exact Gives.map_any fun _ => hcow

theorem streamElem_wf {i x} : Gives (fun r => r.1.MemOk) (streamElem s i x) := by
  unfold streamElem
  grind [State.sign_wf, Gives]

/-! ### Reads of textures and bounding volumes -/

theorem noteRead_wf {i ea n} : (noteRead s i ea n).MemOk := by
  unfold noteRead
  grind [State.sign_wf]

theorem noteDesc_wf {i sp} : (noteDesc s i sp).MemOk := noteRead_wf h

theorem unitRead_wf {i ea n} : (unitRead s i ea n).MemOk := by
  unfold unitRead
  grind [State.trace_wf]

theorem storePage_wf {x t d} : OkMem (storePage s x t d) := by
  unfold storePage
  grind [State.accWrite_wf, dropStream_phys, Gives, Gives.map_of]

theorem spillBlock_wf {e n} : OkMem (spillBlock e s n) := by
  unfold spillBlock
  grind [State.cowPlace_ok, State.sign_wf, State.putAt_wf, Gives]

/-! ### Lists, queues and outputs (14 R294 to R301) -/

theorem State.pqPush_wf {die sess launch key value} : Maybe State.MemOk (s.pqPush die sess launch key value) := by
  unfold State.pqPush
  grind [Maybe]

theorem State.appendItem_wf {x launch list w bs} : Gives (Maybe State.MemOk) (s.appendItem x launch list w bs) := by
  unfold State.appendItem
  grind [State.sxWrite_wf, State.modList_phys, Gives, Gives.map_of, Maybe]

theorem State.takeItem_wf {x launch list w} : Gives (Maybe fun r => r.1.MemOk) (s.takeItem x launch list w) := by
  unfold State.takeItem
  grind [State.freeSlot_phys, State.modList_phys, Gives, Gives.map_any, Maybe]

theorem quiesceLane_wf {x gid band lane v} : (quiesceLane s x gid band lane v).MemOk := by
  unfold quiesceLane
  grind [State.putPos_wf, State.modGroupOn_phys]

theorem State.endQuiesce_wf {sess launch v} : (s.endQuiesce sess launch v).MemOk := by
  unfold State.endQuiesce
  grind [quiesceLane_wf, quiesceLead_phys, foldl_memOk]

theorem State.accept_wf {x priv r out bs self} : (s.accept x priv r out bs self).MemOk := by
  unfold State.accept
  dsimp only
  repeat' split
  all_goals grind [State.accWrite_wf, State.modRing_phys, State.appendItem_wf, State.endQuiesce_wf, Accepted.MemOk, Gives, Maybe]

theorem atlasOne_wf {i q} : (atlasOne s i q).MemOk := by
  unfold atlasOne
  grind [State.acquire_wf, State.accept_wf, State.releaseAt_wf, State.putAt_wf, Accepted.MemOk, AtlasRes.MemOk]

theorem State.serveEmit_wf {x c out bs} : (s.serveEmit x c out bs).MemOk := by
  unfold State.serveEmit
  grind [State.reply_wf, State.dropCmd_phys, State.accept_wf, State.engFault_wf, State.tagCheck_wf, Accepted.MemOk, getD_memOk]

theorem sendRecord_wf {i d l out bs} : (sendRecord s i d l out bs).MemOk := by
  unfold sendRecord
  grind [State.issueCmd_wf, State.serveEmit_wf]

theorem appendAll_wf {x c list item n} : (appendAll s x c list item n).1.MemOk := by
  unfold appendAll
  grind [State.appendItem_wf, foldl_fst_memOk, Gives, Maybe]

theorem drainAll_wf {x c list a n} : (drainAll s x c list a n).1.MemOk := by
  unfold drainAll
  grind [State.takeItem_wf, engWrite_wf, foldl_fst_memOk, Gives, Maybe]

theorem servePop_wf {r} : (servePop s r).MemOk := by
  unfold servePop
  grind [State.giveResult_wf, State.acquireFor?_wf]

theorem finishList_wf {c count status served} : (finishList s c count status served).MemOk := by
  unfold finishList
  grind [State.endQuiesce_wf, State.acquireFor?_wf, State.reply_wf, State.dropCmd_phys]

/-! ### Copies and collectives -/

omit h in
/-- One position of a deposit, resident, stored or both, as `deposit` puts it. -/
theorem deposit_eq {x l gid band lane pos v} : deposit s x l gid band lane pos v =
    match s.find? gid with
    | none => .ok s
    | some (c, g) => match g.bands[band]? with
      | none => .ok s
      | some b =>
        if pos < (b.lane lane).base + (b.lane lane).size || (b.lane lane).marks.contains (pos / 8) then
          depositPos x l c gid b band lane s pos v
        else match foldE (fun t j => depositPos x l c gid b band lane t (pos / 8 * 8 + j) 0) s (List.range 8) with
          | .error t => .error t
          | .ok s1 => (depositPos x l c gid b band lane s1 pos v).map fun t => t.modGroupOn c gid fun h => h.modLane band lane fun z =>
              { z with marks := insNat z.marks (pos / 8) } := rfl

theorem depositPos_wf {x l c gid b band lane p w} : OkMem (depositPos x l c gid b band lane s p w) := by
  unfold depositPos
  grind [State.modGroupOn_phys, State.sxWriteNum_wf, Gives]

theorem deposit_wf {x l gid band lane pos v} : OkMem (deposit s x l gid band lane pos v) := by
  rw [deposit_eq]
  split
  · exact h
  split
  · exact h
  split
  · exact depositPos_wf h
  split
  · trivial
  next s1 hs1 =>
    have hall : s1.MemOk := (foldE_memOk (fun _ _ ht => depositPos_wf ht) h).of_ok hs1
    exact (depositPos_wf hall).map_of fun t ht => by simpa [State.MemOk] using ht

theorem copyBlock_wf {c x fill src dst ctrl o n} : OkMem (copyBlock s c x fill src dst ctrl o n) := by
  unfold copyBlock
  dsimp only
  repeat' split
  all_goals grind [State.engSeen_wf, engWrite_wf, deposit_wf, foldE_memOk, Gives]

theorem collReply_wf {ms status} : (collReply s ms status).MemOk := by
  unfold collReply
  grind [State.reply_wf, State.dropCmd_phys, foldl_memOk]

theorem collFail_wf {x ms m e} : (collFail s x ms m e).MemOk := by
  unfold collFail
  grind [collReply_wf, State.engFault_wf, State.tagCheck_wf, getD_memOk]

theorem State.collOrder_wf {ms} : (s.collOrder ms).MemOk := State.acquireOn_wf (State.releaseOn_wf h)

/-! ### FORK (22 R405) -/

theorem State.copyFrame_wf {x own src dst n} : (s.copyFrame x own src dst n).MemOk := by
  unfold State.copyFrame
  grind [State.copyPhys_wf, State.tagCheck_wf, foldl_memOk]

end

section
variable {s : State}

theorem resolveBody_keeps {f commit} : (resolveBody f commit).Keeps := fun i en s h => by
  unfold resolveBody
  grind [reach_wf, Gives]

theorem notVersioned_wf {i} {r : Except Halt State} (hr : OkMem r) : OkMem (notVersioned i r) := by
  unfold notVersioned
  grind [Gives]

theorem queueMode_wf {i} {r : Except Halt State} (hr : OkMem r) : OkMem (queueMode i r) := by
  unfold queueMode
  grind [Gives]

theorem texBody_keeps {f k lane} : (texBody f k lane).Keeps := fun i en s h => by
  have hfail {e : Halt} {refs : List LaneRef} : OkMem (ε := Halt) (match e with
      | .trap t => .ok ((((s.unkill i).texEnd i).texForget refs).takeTrap i en t)
      | .wait w => .error (.wait w)) := by
    cases e with
    | trap t => exact State.takeTrap_wf (by simpa [State.MemOk] using h)
    | wait w => trivial
  unfold texBody
  dsimp only
  split
  · exact hfail
  next rs _ =>
    have hstart : ∀ s0 : State, s0.MemOk → (rs.foldl (fun (u : State) r => match r.2.2.2 with
        | .done _ _ ps _ => startStreams u i.sess (texOf r.2.1) ps
        | .need ps => startStreams u i.sess (texOf r.2.1) ps) s0).MemOk := fun s0 h0 =>
      foldl_memOk (fun u r hu => by split <;> simpa [State.MemOk] using hu) h0
    have hdesc : State.MemOk (if ((i.lanes en).all fun l => (i.group.lane i.band l).tex.isSome) = true then s else noteDesc s i f.b) := by
      split
      · exact h
      · exact noteDesc_wf h
    split
    · split
      · exact hfail
      next u hu =>
        have hwrites : u.MemOk := by
          refine (foldLanes_memOk (fun t r ht => ?_) (hstart _ hdesc)).of_ok hu
          grind [noteRead_wf, wrRun_wf, State.wrK_phys, foldl_memOk, Gives, Gives.map_of]
        simpa [State.MemOk] using hwrites
    · rw [OkMem, Gives.ok, State.MemOk, State.modLanes_phys, State.unkill_phys]
      exact hstart _ hdesc

theorem atlasAll_wf {f i qs w} (h : s.MemOk) : Gives (fun r => r.1.MemOk) (atlasAll f i qs s w) := by
  induction qs generalizing s w with
  | nil => exact h
  | cons q qs ih =>
    unfold atlasAll
    grind [wr1_wf, State.modLanes_phys, atlasOne_wf, AtlasRes.MemOk, Gives]

theorem streamFill_wf {i n x} (h : s.MemOk) : (streamFill i n s x).1.MemOk := by
  induction n generalizing s x with
  | zero => exact h
  | succ n ih =>
    unfold streamFill
    grind [streamElem_wf, Gives]

theorem copyBlocks_wf {c x fill src dst ctrl bs done} (h : s.MemOk) : (copyBlocks c x fill src dst ctrl bs s done).1.MemOk := by
  induction bs generalizing s done with
  | nil => exact h
  | cons b bs ih =>
    unfold copyBlocks
    grind [copyBlock_wf, Gives]

theorem collWrites_wf {x bs ms} (h : s.MemOk) : (collWrites x bs ms s).1.MemOk := by
  induction ms generalizing s with
  | nil => exact h
  | cons m ms ih =>
    unfold collWrites
    grind [engWrite_wf, Gives]

theorem State.runCopy_wf {x c fill src dst len ctrl ctr desc} (h : s.MemOk) : (s.runCopy x c fill src dst len ctrl ctr desc).MemOk := by
  have hblocks {bs k} := copyBlocks_wf (c := c) (x := x) (fill := fill) (src := src) (dst := dst) (ctrl := ctrl) (bs := bs) (done := k) h
  unfold State.runCopy
  grind [State.endCopy_wf, State.engFault_wf, State.modCmd_phys, State.tagCheck_wf, Maybe]

theorem State.placeAll_wf {x l cores ks} (h : s.MemOk) : Maybe State.MemOk (s.placeAll x l cores ks) := by
  induction ks generalizing s with
  | nil => exact h
  | cons k ks ih =>
    unfold State.placeAll
    grind [State.acquire_wf, State.modCore_phys, Maybe]

theorem State.placeHead_wf {slot cluster sets} (h : s.MemOk) : (s.placeHead slot cluster sets).MemOk := by
  have hall {x l cs ks t} (ht : State.placeAll s x l cs ks = some t) : t.MemOk := (State.placeAll_wf h).of_some ht
  unfold State.placeHead
  dsimp only
  split
  · split
    · exact h
    · split
      next t ht =>
        obtain ⟨cs, -, hcs⟩ := List.exists_of_findSome?_eq_some ht
        simpa [State.MemOk] using hall hcs
      · exact h
  · exact h

theorem listOutcome_wf {x c appends} {r : State × Nat × Nat × Option Trap} (h : r.1.MemOk) : (listOutcome x c appends r).MemOk := by
  unfold listOutcome
  grind [finishList_wf, State.engFault_wf, State.modCmd_phys, State.endQuiesce_wf, State.tagCheck_wf, Maybe]

/-! ### Ray traversal (14 R312, R313) -/

variable {e : TravEnv} {t : Trav}

theorem travPop_wf (h : t.MemOk) : Maybe (fun r => r.2.MemOk) (travPop e t) := by
  unfold travPop
  grind [unitRead_wf, Maybe]

theorem travPush_wf {x} (h : t.MemOk) : (travPush e t x).MemOk := by
  unfold travPush
  grind [spillBlock_wf, Gives]

theorem travTri_wf {v} (h : t.MemOk) : (travTri e t v).MemOk := by
  unfold travTri
  grind

theorem travVisit_wf {x} (h : t.MemOk) : (travVisit e t x).MemOk := by
  have hpush {xs : List StackEntry} {u : Trav} (hu : u.MemOk) : (xs.foldl (travPush e) u).MemOk :=
    foldl_keeps Trav.MemOk _ (fun _ _ ht => travPush_wf ht) xs u hu
  have htri {xs : List Nat} {u : Trav} (hu : u.MemOk) : (xs.foldl (travTri e) u).MemOk :=
    foldl_keeps Trav.MemOk _ (fun _ _ ht => travTri_wf ht) xs u hu
  unfold travVisit
  grind [unitRead_wf, travPush_wf]

theorem travRun_wf {n} (h : t.MemOk) : Maybe Trav.MemOk (travRun e n t) := by
  induction n generalizing t with
  | zero => trivial
  | succ n ih =>
    unfold travRun
    grind [travPop_wf, travVisit_wf, Maybe]

/-! ### FORK's copy of the page tables -/

variable {c : ForkCopy}

theorem ForkCopy.leaf_wf {x own dom e level} (h : c.MemOk) : (c.leaf x own dom e level).1.MemOk := by
  unfold ForkCopy.leaf
  grind [State.copyFrame_wf]

theorem ForkCopy.table_wf {x own dom ns src dst} (h : c.MemOk) : (ForkCopy.table x own dom ns src dst c).MemOk := by
  induction ns generalizing src dst c with
  | nil => exact h
  | cons n ns ih =>
    unfold ForkCopy.table
    refine foldl_keeps ForkCopy.MemOk _ (fun c i hc => ?_) _ _ h
    grind [State.devPutNum_wf, ForkCopy.leaf_wf]

theorem State.forkCreate_wf {v slot t tables frames record} (h : s.MemOk) : (s.forkCreate v slot t tables frames record).MemOk := by
  unfold State.forkCreate
  grind [State.devPut_wf, State.devPutNum_wf, State.postSession_wf, State.addSession_phys, ForkCopy.table_wf, foldl_memOk]

theorem State.fork_wf {x a slot} (h : s.MemOk) : (s.fork x a slot).1.MemOk := by
  unfold State.fork
  grind [State.forkCreate_wf]

end

end Sys2Proof.Machine
end

section
/-! PROOFS. Memory keeps its canonical form: engines, graphics nodes, versions, scheduling, queues, snapshots, sessions and the host. -/

namespace Sys2Proof.Machine

open Sys2Proof

/-- The state of a command that is done. -/
def CpRes.MemOk : CpRes → Prop
  | .done s _ => s.MemOk
  | _ => True

/-- The state of a snapshot operation that ended. -/
def SnapRes.MemOk : SnapRes → Prop
  | .status s _ => s.MemOk
  | _ => True

section
variable {s : State} (h : s.MemOk)
include h

/-! ### The matrix engine (11 R243) -/

theorem drainRow_wf {x g band tile e i0 n factor mode seed r} : (drainRow s x g band tile e i0 n factor mode seed r).MemOk := by
  unfold drainRow
  grind [State.sign_wf, State.putAt_wf, foldl_memOk]

theorem drainStores_wf {g band tile e i0 n factor mode seeds rows} : (drainStores s g band tile e i0 n factor mode seeds rows).MemOk := by
  unfold drainStores
  grind [drainRow_wf, foldl_memOk]

theorem execMatrixEngineEnd_wf {core} : Answers (execMatrixEngineEnd core s) := by
  unfold execMatrixEngineEnd
  grind [State.modCore_phys, State.modGroupOn_phys, Answers]

theorem execMatrixEngineStart_wf {core} : Answers (execMatrixEngineStart core s) := by
  unfold execMatrixEngineStart
  grind [State.modCore_phys, drainStores_wf, Answers]

theorem State.engineTurn_wf {core} : (s.engineTurn core).MemOk := by
  unfold State.engineTurn
  grind [execMatrixEngineEnd_wf, execMatrixEngineStart_wf, Answers]

omit h in
theorem State.finishOps_wf {core gid n} (h : s.MemOk) : (State.finishOps core gid n s).MemOk := by
  induction n generalizing s with
  | zero => exact h
  | succ n ih =>
    unfold State.finishOps
    grind [State.engineTurn_wf]

theorem State.opsDone_wf {core gid} : (s.opsDone core gid).MemOk := State.finishOps_wf h

theorem State.taskDone_wf {gid} : (s.taskDone gid).MemOk := by
  unfold State.taskDone
  grind [State.opsDone_wf]

/-! ### Fixed-function nodes (14 R302 to R317) -/

theorem State.unitRun_wf {x unit act other} (hact : ∀ t, t.MemOk → OkMem (act t)) (hother : ∀ t, t.MemOk → (other t).MemOk) :
    (s.unitRun x unit act other).MemOk := by
  unfold State.unitRun
  grind [State.unitClear_phys, State.faultBatch_wf, State.tagCheck_wf, Gives, Maybe]

theorem State.binRun_wf {x b act} (hact : ∀ t, t.MemOk → OkMem (act t)) : (s.binRun x b act).MemOk := by
  unfold State.binRun
  grind [State.unitClear_phys, State.unitRun_wf, State.replay_phys, Gives]

theorem addCounter_wf {x a n} : OkMem (addCounter s x a n) := by
  unfold addCounter
  grind [State.accWrite_wf, Gives]

omit h in
theorem sendQuads_wf {x q bs n} (h : s.MemOk) : (sendQuads x q bs s n).1.MemOk := by
  induction bs generalizing s n with
  | nil => exact h
  | cons b bs ih =>
    unfold sendQuads
    grind [State.accept_wf, Accepted.MemOk]

theorem runBin_wf {x b} : Gives (fun r => r.1.MemOk) (runBin s x b) := by
  have hfault {t : Trap} : Gives (fun r : State × Nat × BinOut × BinEnv => r.1.MemOk) (besideTile (.error t)) := trivial
  unfold runBin
  dsimp only
  repeat' split
  all_goals grind [sendQuads_wf, Gives]

theorem writeTile_wf {x e tile} : OkMem (writeTile s x e tile) := foldE_memOk (fun _ _ ht => State.accWrite_wf ht) h

theorem binCounts_wf {x b r e} : OkMem (binCounts s x b r e) := foldE_memOk (fun _ _ ht => addCounter_wf ht) h

theorem blendInit_wf {x v} : OkMem (blendInit s x v) := foldE_memOk (fun _ _ ht => State.accWrite_wf ht) h

theorem blendStart_wf {x r v} : OkMem (blendStart s x r v) := by
  unfold blendStart
  grind [blendInit_wf, Gives, Gives.map_of]

theorem flushAll_wf {x v} : OkMem (flushAll s x v) :=
  foldE_memOk (fun _ _ ht => by grind [State.accWrite_wf, Gives]) h

theorem splat_wf {x v bs} : OkMem (splat s x v bs) := by
  unfold splat
  grind [State.accWrite_wf, Gives]

theorem blendRecord_wf {ring flush} : (blendRecord s ring flush).MemOk := by
  unfold blendRecord
  split
  · exact h
  split
  · exact h
  split
  · exact h
  refine State.unitRun_wf h (fun t ht => ?_) fun t ht => by simpa [State.MemOk] using ht
  grind [blendStart_wf, flushAll_wf, splat_wf, State.consume_phys, Gives, Gives.map_of]

theorem writeDone_wf {x v bytes status} : OkMem (writeDone s x v bytes status) := State.accWrite_wf h

theorem encode1_wf {x engine record} : OkMem (encode1 s x engine record) := by
  unfold encode1
  grind [writeDone_wf, State.accWrite_wf, Gives, Gives.map_of]

/-! ### Versions (20 R351 to R356) -/

theorem performHeld_wf {x priv launch k} : (performHeld x priv launch s k).MemOk := by
  unfold performHeld
  grind [State.modLaunch_phys, State.pqPush_wf, State.appendItem_wf, State.endQuiesce_wf, State.accept_wf, getD_memOk, Accepted.MemOk, Gives,
    Maybe]

theorem performBytes_wf {x priv v} : OkMem (performBytes x priv v s) := foldE_memOk (fun _ _ ht => State.accPut_wf ht) h

theorem State.judge_wf {x l gid} : (s.judge x l gid).MemOk := by
  unfold State.judge
  split
  · grind [State.modLaunch_phys]
  split
  · exact h
  next v _ =>
    split
    · simpa [State.MemOk] using h
    split
    · exact h
    refine State.unitRun_wf h (fun t ht => (performBytes_wf ht).map_of fun u hu => ?_) fun t ht => by simpa [State.MemOk] using ht
    simpa [State.MemOk] using foldl_memOk (fun _ _ hw => performHeld_wf hw) hu

/-! ### Traps answered (20 R348, 21 R369) -/

theorem State.retake_wf {i t} : (s.retake i t).MemOk := by
  unfold State.retake
  grind [State.rerun_phys, State.deliver_wf, State.recordTrap_wf]

theorem State.answerUnit_wf {core gid ok w} : (s.answerUnit core gid ok w).MemOk := by
  unfold State.answerUnit
  grind [State.rerun_phys, State.deliver_wf, State.setStatus_phys, State.endLaunch_phys]

/-! ### The scheduler (20 R357 to R361, 22 R396 to R399) -/

theorem State.keepSession_wf {core} : (s.keepSession core).MemOk := by
  unfold State.keepSession
  grind [State.modCore_phys, State.unload_phys, State.postSession_wf]

omit h in
theorem State.settleCluster_wf {first} {acc : State × List (List Nat)} {gs} (h : acc.1.MemOk) : (s.settleCluster first acc gs).1.MemOk := by
  unfold State.settleCluster
  grind [State.discard_phys]

theorem State.startGrace_wf {core next} : (s.startGrace core next).MemOk := by
  unfold State.startGrace
  grind [State.settleCluster_wf, State.modCore_phys, foldl_fst_memOk]

theorem State.saveArea_wf {x gs} : (s.saveArea x gs).MemOk := State.markUnits_wf _ h

theorem State.saveFor_wf {slot gs} : (s.saveFor slot gs).MemOk := by
  unfold State.saveFor
  grind [State.saveArea_wf]

theorem State.savePartner_wf {e} : (s.savePartner e).MemOk := by
  unfold State.savePartner
  grind [State.saveFor_wf, State.performAll_wf, State.modSession_phys, State.modCore_phys]

theorem State.restState_wf {slot} : (s.restState slot).MemOk := by
  unfold State.restState
  grind [State.postSession_wf, State.modSession_phys]

theorem State.releaseCore_wf {core} : (s.releaseCore core).MemOk := by
  unfold State.releaseCore
  grind [State.restState_wf, State.modCore_phys]

theorem State.takeCore_wf {core slot} : (s.takeCore core slot).MemOk := by
  unfold State.takeCore
  grind [State.postSession_wf, State.modSession_phys, State.modCore_phys]

theorem State.exchange_wf {core inc} : (s.exchange core inc).MemOk := by
  unfold State.exchange
  grind [State.bankOut_phys, State.takeCore_wf, State.releaseCore_wf, State.postSession_wf, State.modCore_phys, State.acquire_wf]

theorem State.grantEmpty_wf {core slot} : (s.grantEmpty core slot).MemOk := by
  unfold State.grantEmpty
  grind [State.modCore_phys, State.takeCore_wf]

theorem tryPut_wf {skip r} (hr : Gives (Maybe fun r => r.1.MemOk) r) : Gives (fun r => r.1.MemOk) (tryPut s skip r) := by
  unfold tryPut
  grind [Gives, Maybe]

theorem State.snapshot_wf {x skip bss} : Gives (fun r => r.1.MemOk) (s.snapshot x skip bss) := by
  refine .of_eq fun r => foldE_keeps (fun a : State × Option Nat => a.1.MemOk) _ (fun a bs c ha hc => ?_) _ _ _ h
  have hput := (tryPut_wf (skip := skip) ha (State.ringPut_wf (x := x) (ring := x.snap.toNat) (first := x.snap.toNat + 64)
    (cap := 2 ^ x.snapCap) (rec_ := bs) ha)).map_of (P := fun r => r.1.MemOk) (f := fun r => (r.1, match a.2 with
      | some n => some n
      | none => r.2)) fun _ hr => hr
  exact hput.of_ok hc

theorem State.tryRecord_wf {x skip bs} : OkMem (s.tryRecord x skip bs) := by
  unfold State.tryRecord
  split
  · exact h
  · exact (tryPut_wf h (State.trapPut_wf h)).map_of fun _ ht => ht

theorem State.budgetRecords_wf {x core skip} : OkMem (s.budgetRecords x core skip) := by
  unfold State.budgetRecords
  grind [State.snapshot_wf, State.tryRecord_wf, Gives]

/-! ### Resets of sessions and keys (22 R403, 23 R407) -/

theorem State.setFrozen_wf {x b} : (s.setFrozen x b).MemOk := State.devPutNum_wf _ _ _ h

theorem State.beginReset_wf {slot} : (s.beginReset slot).MemOk := by
  unfold State.beginReset
  grind [State.setFrozen_wf, State.purge_phys, State.modSession_phys, State.postSession_wf]

theorem State.revokeKey_wf {n} : (s.revokeKey n).MemOk := by
  unfold State.revokeKey
  grind [State.modKey_phys, State.beginReset_wf, foldl_memOk]

theorem State.eraseKeys_wf : s.eraseKeys.MemOk := by
  unfold State.eraseKeys
  exact foldl_memOk (fun _ _ ht => by split; exacts [ht, State.revokeKey_wf ht]) h

theorem State.settleAlarms_wf : s.settleAlarms.MemOk :=
  foldl_memOk (fun _ _ ht => by grind [State.eraseKeys_wf, State.beginReset_wf]) h

theorem State.removeSession_wf {x} : (s.removeSession x).MemOk := by
  have hclosed {ls : List Launch} : (ls.foldl State.closeLaunch (s.purge x.slot)).MemOk :=
    foldl_memOk (fun _ _ ht => by simpa [State.MemOk] using ht) h
  unfold State.removeSession
  grind [State.postSession_wf]

/-! ### Queues (22 R388 to R390) -/

theorem State.setQSlot_wf {q slot} : (s.setQSlot q slot).MemOk := State.devPutNum_wf _ _ _ h
theorem State.setQStatus_wf {q st} : (s.setQStatus q st).MemOk := State.devPutNum_wf _ _ _ h
theorem State.setRptr_wf {q n} : (s.setRptr q n).MemOk := State.devPutNum_wf _ _ _ h
theorem State.unmap_wf {queue} : (s.unmap queue).MemOk := State.setQSlot_wf h
theorem State.stopQueue_wf {queue status} : (s.stopQueue queue status).MemOk := State.unmap_wf (State.setQStatus_wf h)
theorem State.stopBad_wf {q} : (s.stopBad q).MemOk := State.stopQueue_wf (State.setRptr_wf h)

theorem State.endReset_wf {x} : (s.endReset x).MemOk := by
  unfold State.endReset
  grind [State.stopQueue_wf, State.postSession_wf, State.modSession_phys, foldl_memOk]

theorem State.goOn_wf {queue f} : (s.goOn queue f).MemOk := by
  unfold State.goOn
  grind [State.modCtx_phys, State.setRptr_wf]

theorem State.cpFault_wf {x q t} : (s.cpFault x q t).MemOk := by
  unfold State.cpFault
  grind [State.faultBatch_wf, State.modCtx_phys, State.stopBad_wf, State.tagCheck_wf, Maybe]

theorem State.cpEnd_wf {x q r} (hr : r.MemOk) : (s.cpEnd x q r).MemOk := by
  unfold State.cpEnd
  grind [State.goOn_wf, State.stopBad_wf, State.cpFault_wf, CpRes.MemOk]

theorem cpRun_wf {opc body} (hbody : ∀ t x q v, t.MemOk → (body t x q v).MemOk) : Answers (cpRun opc body s) := by
  unfold cpRun
  grind [State.stopBad_wf, State.cpEnd_wf, Answers]

theorem cpLaunch_wf {x q va grid} : (cpLaunch s x q va grid).MemOk := by
  unfold cpLaunch
  grind [State.startLaunch_wf, Started.MemOk, CpRes.MemOk]

/-! ### Snapshots (21 R378, R379) -/

theorem snapWrite8_wf {x va v} : OkMem (snapWrite8 s x va v) := by
  unfold snapWrite8
  grind [State.sxWriteNum_wf, Gives]

theorem State.addRef_wf {dom frame} : (s.addRef dom frame).MemOk := by
  unfold State.addRef
  grind

theorem snapOpen_wf {x block base vbase content hd} : (snapOpen s x block base vbase content hd).MemOk := by
  unfold snapOpen
  dsimp only
  repeat' split
  all_goals grind [snapWrite8_wf, State.devPutNum_wf, State.addRef_wf, State.sxWriteNum_wf, State.acquireOn_wf, foldl_memOk, SnapRes.MemOk, Gives]

theorem snapPublish_wf {x base basevw new hd} : (snapPublish s x base basevw new hd).MemOk := by
  unfold snapPublish
  grind [State.releaseOn_wf, snapWrite8_wf, SnapRes.MemOk, Gives]

theorem snapClose_wf {x base vbase basevw hd} : (snapClose s x base vbase basevw hd).MemOk := by
  unfold snapClose
  grind [State.devPutNum_wf, State.tlbDropPage_phys, State.dropRef_wf, snapWrite8_wf, foldl_memOk, SnapRes.MemOk, Gives]

theorem snapDo_wf {x block v} : (snapDo s x block v).MemOk := by
  unfold snapDo
  grind [snapOpen_wf, snapPublish_wf, snapClose_wf, SnapRes.MemOk]

theorem snapRun_wf {x block v} : (snapRun s x block v).MemOk := by
  unfold snapRun
  grind [snapDo_wf, State.fresh_phys, SnapRes.MemOk]

theorem cpSnapshot_wf {p} : Answers (cpSnapshot p s) := by
  unfold cpSnapshot
  dsimp only
  split
  · split
    · split
      · exact cpRun_wf h fun t x q v ht => by grind [CpRes.MemOk]
      · exact h
    · split
      · exact h
      · exact cpRun_wf h fun t x q v ht => by grind [State.sxWriteNum_wf, snapRun_wf, SnapRes.MemOk, CpRes.MemOk, Gives]
  · exact h

/-! ### Merging (21 R366, R371, R372) and flushes -/

theorem State.discardBlock_wf {b} : (s.discardBlock b).MemOk := by
  unfold State.discardBlock
  exact foldl_keeps (fun m => Memory.wf m = true) _ (fun m e hm => spWf_spSet _ _ hm) _ _ (State.writeBack_wf _ h)

theorem State.flush_wf {core op reach frame} : (s.flush core op reach frame).MemOk := by
  unfold State.flush
  grind [State.discardBlock_wf, State.writeBack_wf, foldl_memOk]

theorem State.mergeAt_wf {x l va wafter} : (s.mergeAt x l va wafter).MemOk := by
  unfold State.mergeAt
  grind [State.tagCheck_wf, State.copyPhys_wf, State.poolTake_wf]

theorem State.mergeVisit_wf : s.mergeVisit.MemOk := by
  unfold State.mergeVisit
  grind [State.mergeAt_wf]

theorem State.pushLater_wf {frame} : (s.pushLater frame).MemOk := by
  unfold State.pushLater
  grind [State.release_wf]

theorem State.merged_wf {x m} : (s.merged x m).MemOk := by
  unfold State.merged
  grind [State.pushLater_wf, State.flush_wf, State.follow_phys, State.tlbDropPage_phys]

theorem State.unmerged_wf {x m} : (s.unmerged x m).MemOk := by
  unfold State.unmerged
  grind [State.pushLater_wf]

theorem State.mergeSwap_wf {x m} : (s.mergeSwap x m).MemOk := by
  unfold State.mergeSwap
  grind [State.merged_wf, State.devPutNum_wf, State.unmerged_wf]

/-! ### The host and its commands (22 R400, 23 R407, 24 R420 to R427) -/

theorem State.scmdOn_wf {op ok act} (hact : ∀ t x, t.MemOk → (act t x).MemOk) : Answers (s.scmdOn op ok act) := by
  unfold State.scmdOn
  grind [State.scmdEnd_phys, Answers]

theorem State.vbOn_wf {op ok act} (hact : ∀ t n k, t.MemOk → (act t n k).MemOk) : Answers (s.vbOn op ok act) := by
  unfold State.vbOn
  grind [State.vbEnd_phys, Answers]

theorem State.writable_wf {ok f} (hf : ∀ t, t.MemOk → (f t).MemOk) : (s.writable ok f).MemOk := by
  unfold State.writable
  grind [State.cfgError_phys]

theorem State.inRun_wf {ok f} (hf : ∀ t, t.MemOk → (f t).MemOk) : (s.inRun ok f).MemOk := by
  unfold State.inRun
  grind [State.cfgError_phys]

theorem State.writeRegister_wf {off v} : (s.writeRegister off v).MemOk := by
  unfold State.writeRegister
  dsimp only
  split
  all_goals grind [State.writable_wf, State.queueStep_phys, State.setCtrl_phys, State.lockable_phys, State.inRun_wf, State.writeScmd_phys,
    State.writeVbCmd_phys, State.cfgError_phys]

theorem State.hostPut_wf {a bs} : (s.hostPut a bs).MemOk := State.plainLine_wf _ _ _ h

theorem State.hostRead_wf {pa len} : (s.hostRead pa len).MemOk := by
  unfold State.hostRead
  grind [State.raise_phys, foldl_memOk]

theorem State.gateCache_wf {c} : (s.gateCache c).MemOk := foldl_memOk (fun _ b ht => State.evict_wf b ht) h

theorem State.scrub_wf {l} : (s.scrub l).MemOk :=
  spWf_spClear _ _ (State.cacheWrite_wf _ _ _ (by simpa [State.MemOk] using h))

theorem State.hostLost_wf : s.hostLost.MemOk := h

theorem State.afterReset_wf : s.afterReset.MemOk := spWf_filter _ h

/-! ### The end of a step (entry 2) -/

theorem State.tick_wf : s.tick.MemOk := h

theorem State.finish_wf : s.finish.MemOk := by
  unfold State.finish
  grind [State.tick_wf, State.settleTokens_phys, State.settleAlarms_wf]

end

end Sys2Proof.Machine
end

section
/-! PROOFS. Memory keeps its canonical form: the instructions. -/

namespace Sys2Proof.Machine

open Sys2Proof

section
variable {s : State} (h : s.MemOk)
include h

theorem execNop_wf {f} : Answers (execNop f s) := by
  unfold execNop
  exact issue_wf h fun i en s h => by grind [Gives]

theorem execRet_wf {f} : Answers (execRet f s) := by
  unfold execRet
  exact issue_wf h fun i en s h => perLane_memOk (fun t l v ht => by simpa [State.MemOk] using ht) h

theorem execExit_wf {f} : Answers (execExit f s) := by
  unfold execExit
  exact issue_wf h fun i en s h => by grind [State.modLead_phys, State.modLanes_phys, Gives]

theorem execAlloc_wf {f} : Answers (execAlloc f s) := by
  unfold execAlloc
  exact issue_wf h fun i en s h => perLane_memOk (fun t l v ht => by grind [State.raiseTop_wf, State.modLanes_phys, Gives]) h

theorem execSplit_wf {f} : Answers (execSplit f s) := by
  unfold execSplit
  exact issue_wf h fun i en s h => perLane_memOk (fun t l v ht => writeV_wf ht) h

theorem execRejoin_wf {f} : Answers (execRejoin f s) := by
  unfold execRejoin
  exact issue_wf h fun i en s h => perLane_memOk (fun t l v ht => ht) h

theorem execSel_wf {f} : Answers (execSel f s) := by
  unfold execSel
  exact issue_wf h fun i en s h => perLane_memOk (fun t l v ht => wrT_wf ht) h

theorem execKget_wf {f} : Answers (execKget f s) := by
  unfold execKget
  exact issue_wf h fun i en s h => perLane_memOk (fun t l v ht => wr1_wf ht) h

theorem execKset_wf {f} : Answers (execKset f s) := by
  unfold execKset
  exact issue_wf h fun i en s h => perLane_memOk (fun t l v ht => by simpa [State.MemOk] using ht) h

theorem execKpollAll_wf {f} : Answers (execKpollAll f s) := by
  unfold execKpollAll
  exact issue_wf h fun i en s h => perLane_memOk (fun t l v ht => by simpa [State.MemOk] using ht) h

theorem execKpollAny_wf {f} : Answers (execKpollAny f s) := by
  unfold execKpollAny
  exact issue_wf h fun i en s h => perLane_memOk (fun t l v ht => by simpa [State.MemOk] using ht) h

theorem execKpollWord_wf {f} : Answers (execKpollWord f s) := by
  unfold execKpollWord
  exact issue_wf h fun i en s h => perLane_memOk (fun t l v ht => wr1_wf ht) h

theorem execLpeerEq_wf {f} : Answers (execLpeerEq f s) := by
  unfold execLpeerEq
  exact issue_wf h fun i en s h => perLane_memOk (fun t l v ht => wr1_wf ht) h

theorem execLpeerUni_wf {f} : Answers (execLpeerUni f s) := by
  unfold execLpeerUni
  exact issue_wf h fun i en s h => perLane_memOk (fun t l v ht => wr1_wf ht) h

theorem execPref_wf {f} : Answers (execPref f s) := by
  unfold execPref
  exact issue_wf h fun i en s h => by grind [State.prefetch_wf, foldl_memOk, Gives]

theorem execFence_wf {f} : Answers (execFence f s) := by
  unfold execFence
  exact issue_wf h fun i en s h => by grind [State.acquire_wf, State.releaseAt_wf, Gives]

theorem execFenceUn_wf {f} : Answers (execFenceUn f s) := by
  unfold execFenceUn
  exact issue_wf h fun i en s h => by grind [State.dropType_wf, State.performAll_wf, Gives]

theorem execWaitf_wf {x f} : Answers (execWaitf x f s) := by
  unfold execWaitf
  exact issueHold_wf h fun i en s h => by grind [startWaits_phys, Gives.map_of, Gives]

theorem execXbegin_wf {f} : Answers (execXbegin f s) := by
  unfold execXbegin
  exact issue_wf h fun i en s h => by grind [beginLane_wf, foldl_memOk, Gives]

theorem execXend_wf {f} : Answers (execXend f s) := by
  unfold execXend
  exact issue_wf h fun i en s h => by grind [State.holdLanes_phys, endLane_wf, State.releaseAt_wf, commitReady_wf, foldl_memOk, Gives]

theorem execXabort_wf {f} : Answers (execXabort f s) := by
  unfold execXabort
  refine issue_wf h fun i en s h => ?_
  split
  · trivial
  · exact perLane_memOk (fun t l v ht => ht) h

theorem execXtest_wf {f} : Answers (execXtest f s) := by
  unfold execXtest
  exact issue_wf h fun i en s h => perLane_memOk (fun t l v ht => wr1_wf ht) h

theorem execPopf_wf {f} : Answers (execPopf f s) := by
  unfold execPopf
  refine issue_wf h fun i en s h => ?_
  split
  · trivial
  · exact perLane_memOk (fun t l v ht => wrT_wf ht) h

theorem execPushb_wf {f} : Answers (execPushb f s) := by
  unfold execPushb
  exact issue_wf h fun i en s h => by grind [State.modGroupOn_phys, Gives.map_of, Gives]

theorem execPopb_wf {f} : Answers (execPopb f s) := by
  unfold execPopb
  exact issue_wf h fun i en s h => by grind [State.putG_phys, State.modGroupOn_phys, Gives]

theorem execStreamCfg_wf {f} : Answers (execStreamCfg f s) := by
  unfold execStreamCfg
  exact issue_wf h fun i en s h => by grind [State.modGroupOn_phys, Gives]

theorem execStreamGo_wf {f} : Answers (execStreamGo f s) := by
  unfold execStreamGo
  exact issue_wf h fun i en s h => by grind [State.modGroupOn_phys, Gives]

theorem execMloadb_wf {f} : Answers (execMloadb f s) := by
  unfold execMloadb
  exact issue_wf h (matBody_keeps fun i en s h => by grind [State.joinPort_phys, State.fillLoad_wf, Gives])

theorem execMma_wf {f} : Answers (execMma f s) := by
  unfold execMma
  refine issue_wf h (matBody_keeps fun i en s h => ?_)
  split
  · trivial
  dsimp only
  split
  · trivial
  split
  · trivial
  split
  · trivial
  split
  · trivial
  split
  · exact h
  · exact Gives.map_of (reach_wf h) fun t ht => ht

theorem execMcommit_wf {f} : Answers (execMcommit f s) := by
  unfold execMcommit
  exact issue_wf h (matBody_keeps resolveBody_keeps)

theorem execMdiscard_wf {f} : Answers (execMdiscard f s) := by
  unfold execMdiscard
  exact issue_wf h (matBody_keeps resolveBody_keeps)

theorem execMzero_wf {f} : Answers (execMzero f s) := by
  unfold execMzero
  exact issue_wf h (matBody_keeps fun i en s h => by grind [reach_wf, Gives])

theorem execMdrain_wf {f} : Answers (execMdrain f s) := by
  unfold execMdrain
  exact issue_wf h (matBody_keeps fun i en s h => by grind [drainPrepare_wf, State.modLanes_phys, reach_wf, Gives.map_of, Gives])

theorem execTtld_wf {f} : Answers (execTtld f s) := by
  unfold execTtld
  exact issue_wf h (matBody_keeps fun i en s h => by grind [State.modSession_phys, Gives])

theorem execTtst_wf {f} : Answers (execTtst f s) := by
  unfold execTtst
  exact issue_wf h (matBody_keeps fun i en s h => by grind [prepareStore_wf, State.sign_wf, State.putAt_wf, foldl_memOk, Gives])

theorem execTtinv_wf {f} : Answers (execTtinv f s) := by
  unfold execTtinv
  exact issue_wf h (matBody_keeps fun i en s h => by grind [State.modSession_phys, Gives])

theorem execRsvinit_wf {f} : Answers (execRsvinit f s) := by
  unfold execRsvinit
  exact issue_wf h fun i en s h => perLane_memOk (fun t l v ht => ht) h

theorem execRsvupd_wf {f} : Answers (execRsvupd f s) := by
  unfold execRsvupd
  exact issue_wf h fun i en s h => perLane_memOk (fun t l v ht => ht) h

theorem execRsvmrg_wf {f} : Answers (execRsvmrg f s) := by
  unfold execRsvmrg
  exact issue_wf h fun i en s h => perLane_memOk (fun t l v ht => ht) h

theorem execRsvfin_wf {f} : Answers (execRsvfin f s) := by
  unfold execRsvfin
  exact issue_wf h fun i en s h => perLane_memOk (fun t l v ht => ht) h

theorem execRsvget_wf {x f} : Answers (execRsvget x f s) := by
  unfold execRsvget
  exact issue_wf h fun i en s h => perLane_memOk (fun t l v ht => wrT_wf ht) h

theorem execRsvput_wf {x f} : Answers (execRsvput x f s) := by
  unfold execRsvput
  exact issue_wf h fun i en s h => perLane_memOk (fun t l v ht => ht) h

theorem execRsvseed_wf {f} : Answers (execRsvseed f s) := by
  unfold execRsvseed
  exact issue_wf h fun i en s h => perLane_memOk (fun t l v ht => ht) h

theorem execCainit_wf {f} : Answers (execCainit f s) := by
  unfold execCainit
  exact issue_wf h fun i en s h => perLane_memOk (fun t l v ht => ht) h

theorem execCaadd_wf {f} : Answers (execCaadd f s) := by
  unfold execCaadd
  exact issue_wf h fun i en s h => perLane_memOk (fun t l v ht => by simpa [State.MemOk] using ht) h

theorem execCaflush_wf {f} : Answers (execCaflush f s) := by
  unfold execCaflush
  exact issue_wf h fun i en s h => perLane_memOk (fun t l v ht => by simpa [State.MemOk] using ht) h

theorem execCaresolve_wf {f} : Answers (execCaresolve f s) := by
  unfold execCaresolve
  exact issue_wf h fun i en s h => perLane_memOk (fun t l v ht => wrRun_wf (by simpa [State.MemOk] using ht)) h

theorem execCareplay_wf {f} : Answers (execCareplay f s) := by
  unfold execCareplay
  exact issue_wf h fun i en s h => perLane_memOk (fun t l v ht => wrRun_wf (s := setComp ..) ht) h

theorem execCastat_wf {f} : Answers (execCastat f s) := by
  unfold execCastat
  exact issue_wf h fun i en s h => perLane_memOk (fun t l v ht => wr1_wf ht) h

theorem execFetchwk_wf {f} : Answers (execFetchwk f s) := by
  unfold execFetchwk
  exact issue_wf h fun i en s h => by grind [notVersioned_wf, State.modGroupOn_phys, Gives.map_of, foldl_memOk, Gives]

theorem execPqpush_wf {f} : Answers (execPqpush f s) := by
  unfold execPqpush
  refine issue_wf h fun i en s h => ?_
  refine queueMode_wf (perLane_memOk (fun t l v ht => ?_) h)
  grind [wr1_wf, State.hold_phys, State.pqPush_wf, Maybe]

theorem execPqpop_wf {f} : Answers (execPqpop f s) := by
  unfold execPqpop
  refine issue_wf h fun i en s h => ?_
  refine queueMode_wf (notVersioned_wf (foldl_memOk (fun t l ht => ?_) h))
  simpa [State.MemOk] using ht

theorem execWlpush_wf {f} : Answers (execWlpush f s) := by
  unfold execWlpush
  refine issue_wf h fun i en s h => ?_
  refine perLane_memOk (fun t l v ht => ?_) h
  grind [wr1_wf, State.hold_phys, State.issueCmd_wf, Gives]

theorem execWlpop_wf {f} : Answers (execWlpop f s) := by
  unfold execWlpop
  refine issue_wf h fun i en s h => ?_
  exact notVersioned_wf (perLane_memOk (fun t l v ht => State.issueCmd_wf ht) h)

theorem execQuiesce_wf {f} : Answers (execQuiesce f s) := by
  unfold execQuiesce
  refine issueHold_wf h fun i en s h => ?_
  have hnow (v : Word) : OkMem ((perLane i en s (fun _ => .ok v) fun t l w => wr1 t i l .b32 f.d w).map fun t => t.advance i i.active) :=
    Gives.map_of (perLane_memOk (fun t l w ht => wr1_wf ht) h) fun t ht => ht
  refine notVersioned_wf ?_
  dsimp only
  split
  · exact hnow 1
  split
  · exact hnow 0
  · simpa [State.MemOk] using h

theorem execRayq_wf {f} : Answers (execRayq f s) := by
  unfold execRayq
  refine issue_wf h fun i en s h => ?_
  split
  · trivial
  split
  · trivial
  · exact perLane_memOk (fun t l v ht => wr1_wf (s := t.modLanes ..) ht) (noteDesc_wf h)

theorem execRayres_wf {f} : Answers (execRayres f s) := by
  unfold execRayres
  refine issueHold_wf h fun i en s h => ?_
  split
  · trivial
  dsimp only
  split
  · trivial
  split
  · exact State.takeTrap_wf (s := (s.unkill i).modLanes ..) h
  · trivial
  · exact Gives.map_of (foldLanes_memOk (fun t x ht => wrRun_wf (s := t.modLanes ..) ht) h) fun t ht => ht

theorem execAtlasreq_wf {f} : Answers (execAtlasreq f s) := by
  unfold execAtlasreq
  refine issueHold_wf h fun i en s h => notVersioned_wf ?_
  split
  · trivial
  dsimp only
  split
  · trivial
  split
  · trivial
  split
  · trivial
  split
  · trivial
  next s1 _ hprepared =>
    have hs1 : s1.MemOk := (prepareStore_wf h).of_ok hprepared
    split
    · trivial
    · next s3 _ hall => exact ((atlasAll_wf (s := s1.modLanes ..) hs1).of_ok hall : s3.MemOk)

theorem execEmit_wf {f} : Answers (execEmit f s) := by
  unfold execEmit
  refine issue_wf h fun i en s h => ?_
  dsimp only
  split
  · trivial
  split
  · trivial
  split
  · trivial
  refine foldLanes_memOk (fun t x ht => ?_) h
  grind [wr1_wf, State.hold_phys, sendRecord_wf, Gives]

theorem execTrap_wf {f} : Answers (execTrap f s) := by
  unfold execTrap
  exact issue_wf h fun i en s h => by grind [Gives]

theorem execBrkpt_wf {f} : Answers (execBrkpt f s) := by
  unfold execBrkpt
  exact issue_wf h fun i en s h => by grind [Gives]

theorem execRdsr_wf {f} : Answers (execRdsr f s) := by
  unfold execRdsr
  exact issue_wf h fun i en s h => perLane_memOk (fun t l v ht => by grind [wr2_wf, wr1_wf]) h

theorem execWrsr_wf {f} : Answers (execWrsr f s) := by
  unfold execWrsr
  exact issue_wf h fun i en s h => by grind [State.fresh_phys, State.writeSession_phys, State.modLanes_phys, getD_memOk, foldl_memOk, Gives]

theorem execTret_wf {f} : Answers (execTret f s) := by
  unfold execTret
  exact issueHold_wf h fun i en s h => by grind [State.fresh_phys, deadFill_phys, State.modLanes_phys, State.resumeUnit_phys, Gives.map_of, getD_memOk, foldl_memOk, Gives]

theorem execTlbinv_wf {f} : Answers (execTlbinv f s) := by
  unfold execTlbinv
  exact issue_wf h fun i en s h => perLane_memOk (fun t l v ht => by simpa [State.MemOk] using ht) h

theorem execFork_wf {f} : Answers (execFork f s) := by
  unfold execFork
  exact issue_wf h fun i en s h => perLane_memOk (fun t l v ht => wr1_wf (State.fork_wf ht)) h

theorem execCflush_wf {f} : Answers (execCflush f s) := by
  unfold execCflush
  exact issue_wf h fun i en s h => perLane_memOk (fun t l v ht => by grind [State.flush_wf, State.writeType_wf, Gives]) h

end

end Sys2Proof.Machine
end

section
/-! PROOFS. Memory keeps its canonical form: the steps of other agents. -/

namespace Sys2Proof.Machine

open Sys2Proof

theorem atTile_memOk {r : Except Trap State} (hr : OkMem r) : OkMem (atTile r) := by
  cases r with
  | ok t => exact hr
  | error e => trivial

theorem besideTile_memOk {r : Except Trap State} (hr : OkMem r) : OkMem (besideTile r) := by
  cases r with
  | ok t => exact hr
  | error e => trivial

theorem Answers.ite {c : Prop} [Decidable c] {a b : Result} (ha : Answers a) (hb : Answers b) : Answers (if c then a else b) := by
  split
  · exact ha
  · exact hb

theorem toOption_getD_memOk {ε : Type} {r : Except ε State} {s : State} (hr : OkMem r) (h : s.MemOk) : (r.toOption.getD s).MemOk := by
  cases r with
  | ok t => exact hr
  | error e => exact h

section
variable {s : State} (h : s.MemOk)
include h

theorem execRunStart_wf {core slot} : Answers (execRunStart core slot s) := by
  unfold execRunStart
  grind [State.modCore_phys, State.modGroupOn_phys, Answers, Gives, Maybe]

theorem execResultArrival_wf {u} : Answers (execResultArrival u s) := by
  unfold execResultArrival
  grind [State.modLanes_phys, State.modLead_phys, Answers, Gives, Maybe]

theorem execSpillTransferDone_wf {core rgs band lane} : Answers (execSpillTransferDone core rgs band lane s) := by
  unfold execSpillTransferDone
  split
  · exact h
  split
  · exact h
  dsimp only
  split
  · exact h
  split
  · exact h
  next i _ =>
    generalize hr : foldE _ s _ = r
    have hfill : OkMem r := hr ▸ foldE_memOk (fun t l ht => foldE_memOk (fun u p hu => areaStore_wf hu) ht) h
    split
    · exact hfill
    · exact State.takeTrap_wf h
    · exact h

theorem execQueueProtocolDetect_wf {core rgs} : Answers (execQueueProtocolDetect core rgs s) := by
  unfold execQueueProtocolDetect
  grind [State.takeTrap_wf, Answers, Gives, Maybe]

theorem execPlaceGroup_wf {session} : Answers (execPlaceGroup session s) := by
  unfold execPlaceGroup
  grind [State.placeHead_wf, Answers, Gives, Maybe]

theorem execPlaceCluster_wf {session} : Answers (execPlaceCluster session s) := by
  unfold execPlaceCluster
  grind [State.placeHead_wf, Gives.map_of, Answers, Gives, Maybe]

theorem execFetchwkServe_wf {slot} : Answers (execFetchwkServe slot s) := by
  unfold execFetchwkServe
  grind [State.modGroupOn_phys, State.modLaunch_phys, Gives.map_of, Answers, Gives, Maybe]

theorem execGroupFinish_wf {core rgs} : Answers (execGroupFinish core rgs s) := by
  unfold execGroupFinish
  grind [State.modGroupOn_phys, State.petWatchdog_phys, State.modLaunch_phys, Gives.map_of, Answers, Gives, Maybe]

theorem execRetiringEnd_wf {core gid} : Answers (execRetiringEnd core gid s) := by
  unfold execRetiringEnd
  grind [State.dropGroup_phys, State.performAll_wf, State.opsDone_wf, Answers, Gives, Maybe]

theorem execStreamPush_wf {core rgs stream} : Answers (execStreamPush core rgs stream s) := by
  unfold execStreamPush
  grind [streamFill_wf, State.takeTrap_wf, State.modGroupOn_phys, Answers, Gives, Maybe]

theorem execRejoinRelease_wf {core rgs band} : Answers (execRejoinRelease core rgs band s) := by
  unfold execRejoinRelease
  grind [State.modGroupOn_phys, Answers, Gives, Maybe]

theorem execBarrierComplete_wf {core rgs cluster} : Answers (execBarrierComplete core rgs cluster s) := by
  unfold execBarrierComplete
  grind [State.acquireOn_wf, State.modGroupOn_phys, foldl_memOk, Answers, Gives, Maybe]

theorem finishWaitf_wf {i m} : (finishWaitf s i m).MemOk := by
  unfold finishWaitf
  dsimp only
  split
  · generalize hr : foldLanes _ s _ = r
    have hwrites : OkMem r := hr ▸ foldLanes_memOk (fun t l ht => by grind [wrT_wf, Gives]) h
    split
    · exact State.takeTrap_wf h
    · exact h
    · grind [State.modLead_phys, State.modLanes_phys, Gives]
  · exact h

theorem execWaitfSatisfy_wf {u lane} : Answers (execWaitfSatisfy u lane s) := by
  unfold execWaitfSatisfy
  split
  · exact h
  split
  · dsimp only
    have hfence {p acq k u} : (if Place.fences p acq then s.acquire u (Place.scope p k) else s).MemOk := by
      split
      · exact State.acquire_wf h
      · exact h
    grind [State.takeTrap_wf, setMet_phys, State.sign_wf, finishWaitf_wf, Answers]
  · exact h

theorem execTransactionConflict_wf {core rgs band lane} : Answers (execTransactionConflict core rgs band lane s) := by
  unfold execTransactionConflict
  grind [State.abortLane_phys, Answers, Gives, Maybe]

theorem execCommitTokenGrant_wf {session} : Answers (execCommitTokenGrant session s) := by
  unfold execCommitTokenGrant
  grind [State.modSession_phys, State.modLane_phys, State.acquireFor?_wf, Answers, Gives, Maybe]

theorem execSlotLoadComplete_wf {core} : Answers (execSlotLoadComplete core s) := by
  unfold execSlotLoadComplete
  grind [State.modCore_phys, State.modGroupOn_phys, State.fillLoad_wf, getD_memOk, Answers, Gives, Maybe]

theorem execSlotReload_wf {core rgs band} : Answers (execSlotReload core rgs band s) := by
  unfold execSlotReload
  grind [State.modCore_phys, State.modLanes_phys, State.fillLoad_wf, State.takeTrap_wf, Answers, Gives, Maybe]

theorem execPqPopServe_wf {die} : Answers (execPqPopServe die s) := by
  unfold execPqPopServe
  grind [servePop_wf, foldl_memOk, Gives.map_of, Answers, Gives, Maybe]

theorem execListRequestServe_wf {sess launch list} : Answers (execListRequestServe sess launch list s) := by
  unfold execListRequestServe
  split
  · split
    · exact h
    split
    · exact h
    dsimp only
    split
    · grind [finishList_wf, listOutcome_wf, appendAll_wf, State.engSeen_wf, Answers]
    · grind [finishList_wf, listOutcome_wf, drainAll_wf, Answers]
    · grind [finishList_wf, listOutcome_wf, appendAll_wf, Answers]
    · split
      · grind [State.dropCmd_phys, State.giveResult_wf, Answers]
      · split
        · grind [State.dropCmd_phys, State.giveResult_wf, Answers]
        · next t bs htake =>
          have ht : t.MemOk := (State.takeItem_wf h).of_ok htake
          grind [State.dropCmd_phys, State.giveResult_wf, State.acquireFor?_wf, Answers]
        · refine getD_memOk (State.engFault_wf h) ?_
          grind [State.dropCmd_phys, State.giveResult_wf, State.tagCheck_wf]
    · exact h
  · exact h

theorem execQuiescenceVerdict_wf {sess launch} : Answers (execQuiescenceVerdict sess launch s) := by
  unfold execQuiescenceVerdict
  grind [State.endQuiesce_wf, State.modLaunch_phys, Answers, Gives, Maybe]

theorem execCopyComplete_wf {cmd} : Answers (execCopyComplete cmd s) := by
  unfold execCopyComplete
  grind [State.startCmd_wf, State.writeStatus_wf, State.serveEmit_wf, State.modCmd_phys, State.runCopy_wf, Answers, Gives, Maybe]

theorem execNodeFinish_wf {session node} : Answers (execNodeFinish session node s) := by
  unfold execNodeFinish
  grind [State.modNode_phys, State.succDone_wf, State.startNode_wf, foldl_memOk, Gives.map_of, Answers, Gives, Maybe]

theorem execCollectiveComplete_wf {session cluster} : Answers (execCollectiveComplete session cluster s) := by
  unfold execCollectiveComplete
  split
  · split
    · dsimp only
      split
      · exact h
      split
      · exact collReply_wf h
      split
      · exact collFail_wf h
      split
      · exact h
      generalize hr : collWrites _ _ _ _ = r
      have hwrites : r.1.MemOk := hr ▸ collWrites_wf (foldl_memOk (fun t m ht => State.engSeen_wf ht) h)
      split
      · exact collReply_wf (State.collOrder_wf hwrites)
      · exact collFail_wf hwrites
    · exact h
  · exact h

theorem execHeldEngineWrite_wf {cmd} : Answers (execHeldEngineWrite cmd s) := by
  unfold execHeldEngineWrite
  split
  · exact h
  split
  · exact h
  split
  · exact h
  split
  · grind [State.dropCmd_phys, State.ctrDec_phys, Answers]
  · grind [State.dropCmd_phys, State.giveResult_wf, Answers]
  · exact State.writeStatus_wf (s := s.modCmd ..) h
  · grind [State.modCmd_phys, Answers]
  · grind [State.modCmd_phys, Answers]
  · grind [State.modCmd_phys, State.runCopy_wf, Answers]
  · exact h

theorem execTextureStreamComplete_wf {n} : Answers (execTextureStreamComplete n s) := by
  unfold execTextureStreamComplete
  split
  · exact h
  split
  · exact h
  refine State.unitRun_wf h (fun u hu => ?_) fun u hu => hu
  grind [storePage_wf, failStream_phys, Gives]

theorem execTextureStreamFail_wf {n} : Answers (execTextureStreamFail n s) := by
  unfold execTextureStreamFail
  split
  · exact h
  split
  · exact h
  refine State.unitRun_wf h (fun u hu => ?_) fun u hu => hu
  grind [storePage_wf, failStream_phys, Gives]

theorem execRayTraversed_wf {core rgs band lane handle} : Answers (execRayTraversed core rgs band lane handle s) := by
  unfold execRayTraversed
  grind [travRun_wf, State.modSession_phys, State.modGroup_phys, Gives.map_of, Answers, Gives, Maybe]

theorem execTriangleRecord_wf {ring} : Answers (execTriangleRecord ring s) := by
  unfold execTriangleRecord
  split
  · exact h
  split
  · exact h
  split
  · exact h
  refine State.unitRun_wf h (fun u hu => ?_) fun u hu => hu
  grind [addCounter_wf, State.consume_phys, Gives]

theorem execBinCommit_wf {bin} : Answers (execBinCommit bin s) := by
  unfold execBinCommit
  split
  · exact h
  split
  · exact h
  split
  · exact h
  refine State.binRun_wf h fun u hu => ?_
  split
  · trivial
  next u1 n r e hrun =>
  have hu1 : u1.MemOk := (runBin_wf hu).of_ok hrun
  split
  · exact hu
  split
  · trivial
  next u2 htile =>
  have hu2 : u2.MemOk := (atTile_memOk (writeTile_wf hu1)).of_ok htile
  exact Gives.map_of (besideTile_memOk (binCounts_wf hu2)) fun u3 hu3 => hu3

theorem execBinReplay_wf {bin} : Answers (execBinReplay bin s) := by
  unfold execBinReplay
  grind [State.binRun_wf, runBin_wf, State.replay_phys, Answers, Gives, Maybe]

theorem execSplatRecord_wf {ring} : Answers (execSplatRecord ring s) := by
  unfold execSplatRecord
  grind [blendRecord_wf, Answers, Gives, Maybe]

theorem execFlushRecord_wf {ring} : Answers (execFlushRecord ring s) := by
  unfold execFlushRecord
  grind [blendRecord_wf, Answers, Gives, Maybe]

theorem execFrameRecord_wf {ring} : Answers (execFrameRecord ring s) := by
  unfold execFrameRecord
  split
  · exact h
  split
  · exact h
  split
  · exact h
  · split
    · exact h
    · exact State.unitRun_wf h (fun u hu => trivial) fun u hu => hu
  · split
    · exact h
    · exact State.unitRun_wf h (fun u hu => Gives.map_any fun bs => hu) fun u hu => hu

theorem execEncodeDone_wf {engine} : Answers (execEncodeDone engine s) := by
  unfold execEncodeDone
  split
  · exact h
  dsimp only
  split
  · exact h
  refine State.unitRun_wf h (fun u hu => Gives.map_of (encode1_wf hu) fun t ht => ht) fun u hu => ?_
  split
  · next u1 hdone =>
    have hu1 : u1.MemOk := (writeDone_wf hu).of_ok hdone
    exact hu1
  · exact hu

theorem execAtlasRecordAccept_wf {core rgs band lane} : Answers (execAtlasRecordAccept core rgs band lane s) := by
  unfold execAtlasRecordAccept
  split
  · exact h
  dsimp only
  split
  · split
    · exact h
    generalize hr : atlasOne s _ _ = r
    have hone : r.MemOk := hr ▸ atlasOne_wf h
    split
    · exact h
    · simpa [State.MemOk] using h
    · exact State.putPos_wf hone
    · exact State.unitRun_wf h (fun u hu => trivial) fun u hu => State.putPos_wf hu
  · exact h

theorem execVersionCommit_wf {session launch} : Answers (execVersionCommit session launch s) := by
  unfold execVersionCommit
  grind [State.restartNow_phys, State.judge_wf, State.taskDone_wf, Answers, Gives, Maybe]

theorem execSerialTokenGrant_wf {session launch} : Answers (execSerialTokenGrant session launch s) := by
  unfold execSerialTokenGrant
  grind [State.modLaunch_phys, State.modGroupOn_phys, Gives.map_of, getD_memOk, Answers, Gives, Maybe]

theorem execTrapRecordWrite_wf {u} : Answers (execTrapRecordWrite u s) := by
  unfold execTrapRecordWrite
  grind [State.retake_wf, Answers, Gives, Maybe]

theorem execFaultServiceResult_wf {session batch} : Answers (execFaultServiceResult session batch s) := by
  unfold execFaultServiceResult
  grind [State.answerUnit_wf, foldl_memOk, Gives.map_of, Answers, Gives, Maybe]

theorem execTlbWalk_wf {core session va} : Answers (execTlbWalk core session va s) := by
  unfold execTlbWalk
  grind [State.modCore_phys, Gives.map_of, Answers, Gives, Maybe]

theorem execCopyOnWrite_wf {session va subs} : Answers (execCopyOnWrite session va subs s) := by
  unfold execCopyOnWrite
  grind [State.cowPage_ok, Answers, Gives, Maybe]

theorem execSliceEnd_wf {core} : Answers (execSliceEnd core s) := by
  unfold execSliceEnd
  grind [State.keepSession_wf, State.startGrace_wf, State.postSession_wf, Answers, Gives, Maybe]

theorem execSliceHalfway_wf {core} : Answers (execSliceHalfway core s) := by
  unfold execSliceHalfway
  grind [State.modCore_phys, Answers, Gives, Maybe]

theorem execGraceExpire_wf {core} : Answers (execGraceExpire core s) := by
  unfold execGraceExpire
  split
  · exact foldl_fst_memOk (b := (s, [])) (fun acc gs hacc => State.settleCluster_wf hacc) h
  · exact h

theorem execContextQuiesce_wf {core} : Answers (execContextQuiesce core s) := by
  unfold execContextQuiesce
  grind [State.modCore_phys, State.performAll_wf, State.savePartner_wf, State.modSession_phys, foldl_memOk, Gives.map_of, Answers, Gives, Maybe]

theorem execContextExchange_wf {core} : Answers (execContextExchange core s) := by
  unfold execContextExchange
  grind [State.unload_phys, State.modCore_phys, State.releaseCore_wf, State.bankOut_phys, State.exchange_wf, Answers, Gives, Maybe]

theorem execContextSpill_wf {core} : Answers (execContextSpill core s) := by
  unfold execContextSpill
  grind [State.modSession_phys, State.modCore_phys, State.saveFor_wf, Answers, Gives, Maybe]

theorem execContextPreload_wf {core} : Answers (execContextPreload core s) := by
  unfold execContextPreload
  grind [State.unload_phys, State.modCore_phys, State.modSession_phys, Answers, Gives, Maybe]

theorem execCoreGrant_wf {core} : Answers (execCoreGrant core s) := by
  unfold execCoreGrant
  grind [State.modCore_phys, State.releaseCore_wf, State.unload_phys, State.grantEmpty_wf, Answers, Gives, Maybe]

theorem execWaitBudgetExpire_wf {core} : Answers (execWaitBudgetExpire core s) := by
  unfold execWaitBudgetExpire
  dsimp only
  split
  · exact h
  refine Answers.ite h ?_
  refine State.unitRun_wf h (fun u hu => Gives.map_of (State.budgetRecords_wf hu) fun t ht => State.postSession_wf ht) fun u hu => ?_
  exact State.postSession_wf (toOption_getD_memOk (State.budgetRecords_wf hu) hu)

theorem execWatchdogFire_wf {queue} : Answers (execWatchdogFire queue s) := by
  unfold execWatchdogFire
  split
  · exact h
  split
  · exact h
  refine State.unitRun_wf h (fun u hu => Gives.map_of (State.tryRecord_wf hu) fun t ht => State.beginReset_wf (s := t.modSession ..) ht) fun u hu => ?_
  exact State.beginReset_wf (s := State.modSession ..) (toOption_getD_memOk (State.tryRecord_wf hu) hu)

theorem execResetComplete_wf {session} : Answers (execResetComplete session s) := by
  unfold execResetComplete
  grind [State.endReset_wf, Answers, Gives, Maybe]

theorem execLaunchComplete_wf {session launch} : Answers (execLaunchComplete session launch s) := by
  unfold execLaunchComplete
  grind [State.closeLaunch_phys, State.sxWrite_wf, State.faultBatch_wf, State.modLaunch_phys, State.tagCheck_wf, Answers, Gives, Maybe]

theorem execErrorCorrected_wf {region} : Answers (execErrorCorrected region s) := by
  unfold execErrorCorrected
  grind [State.windowed_phys, State.settleAlarms_wf, State.raise_phys, Answers, Gives, Maybe]

theorem execErrorUncorrected_wf {site} : Answers (execErrorUncorrected site s) := by
  unfold execErrorUncorrected
  grind [State.takeTrap_wf, Answers, Gives, Maybe]

theorem execRegisterWrite_wf {a v} : Answers (execRegisterWrite a v s) := by
  unfold execRegisterWrite
  grind [State.cfgError_phys, State.writeRegister_wf, Answers, Gives, Maybe]

theorem execHostWrite_wf {pa data} : Answers (execHostWrite pa data s) := by
  unfold execHostWrite
  grind [State.cfgError_phys, State.settleAlarms_wf, State.hostPut_wf, foldl_memOk, Answers, Gives, Maybe]

theorem execHostRead_wf {a len} : Answers (execHostRead a len s) := by
  unfold execHostRead
  grind [State.readRegister_phys, State.settleAlarms_wf, State.hostRead_wf, Answers, Gives, Maybe]

theorem execLinkRequestTimeout_wf {req} : Answers (execLinkRequestTimeout req s) := by
  unfold execLinkRequestTimeout
  grind [failStream_phys, Answers, Gives, Maybe]

theorem execPowerGate_wf {d} : Answers (execPowerGate d s) := by
  unfold execPowerGate
  grind [State.setCtrl_phys, State.modCore_phys, State.gateCache_wf, Answers, Gives, Maybe]

theorem execPowerWake_wf {d} : Answers (execPowerWake d s) := by
  unfold execPowerWake
  grind [State.setCtrl_phys, State.woken_phys, Answers, Gives, Maybe]

theorem execUnassignedOpcode_wf {w} : Answers (execUnassignedOpcode w s) := by
  unfold execUnassignedOpcode
  grind [State.abortLanes_phys, State.takeTrap_wf, Answers, Gives, Maybe]

theorem execHostAtomic_wf {op pa wide operand compare} : Answers (execHostAtomic op pa wide operand compare s) := by
  unfold execHostAtomic
  grind [State.cfgError_phys, State.settleAlarms_wf, State.tagLine_bytes, State.hostPut_wf, Answers, Gives, Maybe]

theorem execFaultRecordWrite_wf {u} : Answers (execFaultRecordWrite u s) := by
  unfold execFaultRecordWrite
  grind [State.faultBatch_wf, State.setStatus_phys, Answers, Gives, Maybe]

theorem execMergePage_wf : Answers (execMergePage s) := by
  unfold execMergePage
  grind [State.mergeVisit_wf, State.mergeSwap_wf, Answers, Gives, Maybe]

theorem execDoorbell_wf : Answers (execDoorbell s) := by
  unfold execDoorbell
  grind [State.keepDoorbell_phys, State.stopQueue_wf, State.modCtx_phys, Answers, Gives, Maybe]

theorem execQueueMap_wf : Answers (execQueueMap s) := by
  unfold execQueueMap
  split
  · exact h
  split
  · dsimp only
    split
    · exact State.stopQueue_wf h
    · exact State.setQSlot_wf h
  · exact h

theorem execQueueUnmapIdle_wf : Answers (execQueueUnmapIdle s) := by
  unfold execQueueUnmapIdle
  grind [State.unmap_wf, Answers, Gives, Maybe]

theorem execCpNop_wf : Answers (execCpNop s) := by
  unfold execCpNop
  have hrun : Answers (cpRun 0 (fun t _ _ w => if zeroFrom w 8 then .done t nextCmdOf else .bad) s) :=
    cpRun_wf h fun t x q v ht => by grind [CpRes.MemOk]
  grind [State.goOn_wf, State.stopQueue_wf, State.cpFault_wf, State.stopBad_wf, Answers]

theorem execLaunch_wf : Answers (execLaunch s) := by
  unfold execLaunch
  refine cpRun_wf h fun t x q v ht => ?_
  grind [cpLaunch_wf, CpRes.MemOk]

theorem execLaunchi_wf : Answers (execLaunchi s) := by
  unfold execLaunchi
  refine cpRun_wf h fun t x q v ht => ?_
  grind [cpLaunch_wf, CpRes.MemOk]

theorem execCpCopy_wf : Answers (execCpCopy s) := by
  unfold execCpCopy
  refine cpRun_wf h fun t x q v ht => ?_
  have hcopy {node a} := State.addCopy_wf (x := x) (queue := some q.queue) (node := node) (a := a) ht
  dsimp only
  grind [CpRes.MemOk]

theorem execCpWait_wf : Answers (execCpWait s) := by
  unfold execCpWait
  refine cpRun_wf h fun t x q v ht => ?_
  grind [CpRes.MemOk]

theorem execSignal_wf : Answers (execSignal s) := by
  unfold execSignal
  refine cpRun_wf h fun t x q v ht => ?_
  grind [State.sxWriteNum_wf, State.endLaunch_phys, State.resumeUnit_phys, CpRes.MemOk, Gives]

theorem execLoop_wf : Answers (execLoop s) := by
  unfold execLoop
  refine cpRun_wf h fun t x q v ht => ?_
  grind [CpRes.MemOk]

theorem execEndloop_wf : Answers (execEndloop s) := by
  unfold execEndloop
  refine cpRun_wf h fun t x q v ht => ?_
  grind [CpRes.MemOk]

theorem execCond_wf : Answers (execCond s) := by
  unfold execCond
  refine cpRun_wf h fun t x q v ht => ?_
  grind [CpRes.MemOk]

theorem execGraph_wf : Answers (execGraph s) := by
  unfold execGraph
  refine cpRun_wf h fun t x q v ht => ?_
  dsimp only
  split
  · trivial
  generalize hr : t.submit x _ _ = r
  have hsubmit : r.MemOk := hr ▸ State.submit_wf ht
  split
  · exact hsubmit
  · exact hsubmit
  · trivial
  · trivial

theorem execSnapshotOpen_wf : Answers (execSnapshotOpen s) := by
  unfold execSnapshotOpen
  grind [cpSnapshot_wf, Answers, Gives, Maybe]

theorem execSnapshotPublish_wf : Answers (execSnapshotPublish s) := by
  unfold execSnapshotPublish
  grind [cpSnapshot_wf, Answers, Gives, Maybe]

theorem execSnapshotClose_wf : Answers (execSnapshotClose s) := by
  unfold execSnapshotClose
  grind [cpSnapshot_wf, Answers, Gives, Maybe]

theorem execResume_wf : Answers (execResume s) := by
  unfold execResume
  refine cpRun_wf h fun t x q v ht => ?_
  grind [State.sxWriteNum_wf, State.endLaunch_phys, State.resumeUnit_phys, CpRes.MemOk, Gives]

theorem execWorldFree_wf : Answers (execWorldFree s) := by
  unfold execWorldFree
  grind [Answers, Gives, Maybe]

theorem execCreate_wf : Answers (execCreate s) := by
  unfold execCreate
  grind [State.scmdEnd_phys, State.postSession_wf, State.addSession_phys, Answers, Gives, Maybe]

theorem execDestroy_wf : Answers (execDestroy s) := by
  unfold execDestroy
  grind [State.scmdEnd_phys, State.removeSession_wf, Answers, Gives, Maybe]

theorem execFreeze_wf : Answers (execFreeze s) := by
  unfold execFreeze
  grind [State.scmdOn_wf, State.postSession_wf, State.modSession_phys, State.setFrozen_wf, Answers, Gives, Maybe]

theorem execThaw_wf : Answers (execThaw s) := by
  unfold execThaw
  grind [State.scmdOn_wf, State.wake_wf, State.postSession_wf, State.modSession_phys, State.setFrozen_wf, Answers, Gives, Maybe]

theorem execScmdReset_wf : Answers (execScmdReset s) := by
  unfold execScmdReset
  grind [State.scmdOn_wf, State.beginReset_wf, Answers, Gives, Maybe]

theorem execProvision_wf : Answers (execProvision s) := by
  unfold execProvision
  grind [State.vbOn_wf, State.vbEnd_phys, State.modKey_phys, Answers, Gives, Maybe]

theorem execActivate_wf : Answers (execActivate s) := by
  unfold execActivate
  grind [State.vbOn_wf, State.vbEnd_phys, State.modKey_phys, Answers, Gives, Maybe]

theorem execBind_wf : Answers (execBind s) := by
  unfold execBind
  grind [State.vbOn_wf, State.vbEnd_phys, State.modKey_phys, State.modSession_phys, Answers, Gives, Maybe]

theorem execRetire_wf : Answers (execRetire s) := by
  unfold execRetire
  grind [State.vbOn_wf, State.vbEnd_phys, State.modKey_phys, Answers, Gives, Maybe]

theorem execRevoke_wf : Answers (execRevoke s) := by
  unfold execRevoke
  grind [State.vbOn_wf, State.vbEnd_phys, State.revokeKey_wf, Answers, Gives, Maybe]

theorem execClear_wf : Answers (execClear s) := by
  unfold execClear
  grind [State.vbOn_wf, State.vbEnd_phys, State.modKey_phys, Answers, Gives, Maybe]

theorem execEvidence_wf : Answers (execEvidence s) := by
  unfold execEvidence
  grind [State.vbEnd_phys, State.devPut_wf, Answers, Gives, Maybe]

theorem execUnlock_wf : Answers (execUnlock s) := by
  unfold execUnlock
  grind [State.vbEnd_phys, State.newNonce_phys, State.raise_phys, State.settleAlarms_wf, State.beginReset_wf, State.eraseKeys_wf, foldl_memOk, Answers, Gives, Maybe]

theorem execDomainKey_wf : Answers (execDomainKey s) := by
  unfold execDomainKey
  grind [State.vbOn_wf, State.vbEnd_phys, State.modKey_phys, Answers, Gives, Maybe]

theorem execKeySlotEmpty_wf : Answers (execKeySlotEmpty s) := by
  unfold execKeySlotEmpty
  grind [State.modKey_phys, Answers, Gives, Maybe]

theorem execAlarmpolWrite_wf : Answers (execAlarmpolWrite s) := by
  unfold execAlarmpolWrite
  grind [State.cfgError_phys, Answers, Gives, Maybe]

theorem execEuWindowEnd_wf : Answers (execEuWindowEnd s) := by
  unfold execEuWindowEnd
  grind [Answers, Gives, Maybe]

theorem execLock_wf : Answers (execLock s) := by
  unfold execLock
  grind [State.cfgError_phys, State.setCtrl_phys, Answers, Gives, Maybe]

theorem execRun_wf : Answers (execRun s) := by
  unfold execRun
  grind [State.setCtrl_phys, State.cfgError_phys, Answers, Gives, Maybe]

theorem execHlScrub_wf : Answers (execHlScrub s) := by
  unfold execHlScrub
  grind [State.scrub_wf, foldl_memOk, Answers, Gives, Maybe]

theorem execHhDrop_wf : Answers (execHhDrop s) := by
  unfold execHhDrop
  grind [State.dropRef_wf, Answers, Gives, Maybe]

theorem execDbmSwap_wf : Answers (execDbmSwap s) := by
  unfold execDbmSwap
  grind [Answers, Gives, Maybe]

theorem execDbmSwapComplete_wf : Answers (execDbmSwapComplete s) := by
  unfold execDbmSwapComplete
  grind [Answers, Gives, Maybe]

theorem execLinkDown_wf : Answers (execLinkDown s) := by
  unfold execLinkDown
  grind [State.hostLost_wf, failStream_phys, foldl_memOk, Answers, Gives, Maybe]

theorem execModuleReset_wf : Answers (execModuleReset s) := by
  unfold execModuleReset
  grind [State.afterReset_wf, State.newNonce_phys, Answers, Gives, Maybe]

theorem execReleasedFramePush_wf : Answers (execReleasedFramePush s) := by
  unfold execReleasedFramePush
  grind [State.release_wf, Answers, Gives, Maybe]

theorem execSensorAlarm_wf : Answers (execSensorAlarm s) := by
  unfold execSensorAlarm
  grind [State.settleAlarms_wf, State.raise_phys, Answers, Gives, Maybe]

theorem execKeystoreAlarm_wf : Answers (execKeystoreAlarm s) := by
  unfold execKeystoreAlarm
  grind [State.settleAlarms_wf, State.raise_phys, Answers, Gives, Maybe]

theorem execLinkUp_wf : Answers (execLinkUp s) := by
  unfold execLinkUp
  grind [State.setCtrl_phys, Answers, Gives, Maybe]

end

end Sys2Proof.Machine
end

section
/-! PROOFS. Memory keeps its canonical form: the instructions that share a body. -/

namespace Sys2Proof.Machine

open Sys2Proof

theorem load_keeps {f op n lg data g t signed} : (accessBody f op n lg data (giveLoad g t signed)).Keeps :=
  accessBody_keeps fun _ _ _ _ ht => giveLoad_wf ht

theorem store_keeps {f op n lg data} : (accessBody f op n lg data noLoad).Keeps := accessBody_keeps fun _ _ _ _ ht => noLoad_wf ht

section
variable {s : State} (h : s.MemOk)
include h

theorem execBra_wf {f} : Answers (execBra f s) := issue_wf h branch_keeps
theorem execJmp_wf {f} : Answers (execJmp f s) := issue_wf h branch_keeps
theorem execBrx_wf {f} : Answers (execBrx f s) := issue_wf h branch_keeps

theorem execCall_wf {f} : Answers (execCall f s) := issue_wf h callBody_keeps
theorem execCalli_wf {f} : Answers (execCalli f s) := issue_wf h callBody_keeps

theorem execRepeatImm_wf {f} : Answers (execRepeatImm f s) := issue_wf h repeatBody_keeps
theorem execRepeatReg_wf {f} : Answers (execRepeatReg f s) := issue_wf h repeatBody_keeps

theorem execIadd_wf {f} : Answers (execIadd f s) := issue_wf h fun i en s hs => intBody2_keeps i en s hs
theorem execIsub_wf {f} : Answers (execIsub f s) := issue_wf h fun i en s hs => intBody2_keeps i en s hs
theorem execImul_wf {f} : Answers (execImul f s) := issue_wf h fun i en s hs => intBody2_keeps i en s hs
theorem execImulhi_wf {f} : Answers (execImulhi f s) := issue_wf h fun i en s hs => intBody2_keeps i en s hs
theorem execImin_wf {f} : Answers (execImin f s) := issue_wf h fun i en s hs => intBody2_keeps i en s hs
theorem execImax_wf {f} : Answers (execImax f s) := issue_wf h fun i en s hs => intBody2_keeps i en s hs
theorem execIdiv_wf {f} : Answers (execIdiv f s) := issue_wf h fun i en s hs => intBody2_keeps i en s hs
theorem execIrem_wf {f} : Answers (execIrem f s) := issue_wf h fun i en s hs => intBody2_keeps i en s hs

theorem execImad_wf {f} : Answers (execImad f s) := issue_wf h fun i en s hs => intBody3_keeps i en s hs
theorem execIadd3_wf {f} : Answers (execIadd3 f s) := issue_wf h fun i en s hs => intBody3_keeps i en s hs
theorem execAddmin_wf {f} : Answers (execAddmin f s) := issue_wf h fun i en s hs => intBody3_keeps i en s hs
theorem execAddmax_wf {f} : Answers (execAddmax f s) := issue_wf h fun i en s hs => intBody3_keeps i en s hs
theorem execMin3_wf {f} : Answers (execMin3 f s) := issue_wf h fun i en s hs => intBody3_keeps i en s hs
theorem execMax3_wf {f} : Answers (execMax3 f s) := issue_wf h fun i en s hs => intBody3_keeps i en s hs
theorem execIsad_wf {f} : Answers (execIsad f s) := issue_wf h fun i en s hs => intBody3_keeps i en s hs

theorem execIabs_wf {f} : Answers (execIabs f s) := issue_wf h fun i en s hs => intBody1_keeps i en s hs
theorem execIneg_wf {f} : Answers (execIneg f s) := issue_wf h fun i en s hs => intBody1_keeps i en s hs

theorem execLand_wf {f} : Answers (execLand f s) := issue_wf h fun i en s hs => wordBody2_keeps i en s hs
theorem execLor_wf {f} : Answers (execLor f s) := issue_wf h fun i en s hs => wordBody2_keeps i en s hs
theorem execLxor_wf {f} : Answers (execLxor f s) := issue_wf h fun i en s hs => wordBody2_keeps i en s hs
theorem execLandn_wf {f} : Answers (execLandn f s) := issue_wf h fun i en s hs => wordBody2_keeps i en s hs
theorem execLorn_wf {f} : Answers (execLorn f s) := issue_wf h fun i en s hs => wordBody2_keeps i en s hs
theorem execShl_wf {f} : Answers (execShl f s) := issue_wf h fun i en s hs => wordBody2_keeps i en s hs
theorem execShr_wf {f} : Answers (execShr f s) := issue_wf h fun i en s hs => wordBody2_keeps i en s hs
theorem execSar_wf {f} : Answers (execSar f s) := issue_wf h fun i en s hs => wordBody2_keeps i en s hs
theorem execRol_wf {f} : Answers (execRol f s) := issue_wf h fun i en s hs => wordBody2_keeps i en s hs
theorem execRor_wf {f} : Answers (execRor f s) := issue_wf h fun i en s hs => wordBody2_keeps i en s hs
theorem execBfx_wf {f} : Answers (execBfx f s) := issue_wf h fun i en s hs => wordBody2_keeps i en s hs

theorem execLnot_wf {f} : Answers (execLnot f s) := issue_wf h fun i en s hs => wordBody1_keeps i en s hs
theorem execPopc_wf {f} : Answers (execPopc f s) := issue_wf h fun i en s hs => wordBody1_keeps i en s hs
theorem execClz_wf {f} : Answers (execClz f s) := issue_wf h fun i en s hs => wordBody1_keeps i en s hs
theorem execCtz_wf {f} : Answers (execCtz f s) := issue_wf h fun i en s hs => wordBody1_keeps i en s hs
theorem execBrev_wf {f} : Answers (execBrev f s) := issue_wf h fun i en s hs => wordBody1_keeps i en s hs

theorem execFshl_wf {f} : Answers (execFshl f s) := issue_wf h fun i en s hs => wordBody3_keeps i en s hs
theorem execFshr_wf {f} : Answers (execFshr f s) := issue_wf h fun i en s hs => wordBody3_keeps i en s hs
theorem execBfi_wf {f} : Answers (execBfi f s) := issue_wf h fun i en s hs => wordBody3_keeps i en s hs

theorem execIcmp_wf {x f} : Answers (execIcmp x f s) := issue_wf h fun i en s hs => computeK_keeps i en s hs
theorem execFcmp_wf {x f} : Answers (execFcmp x f s) := issue_wf h fun i en s hs => computeK_keeps i en s hs

theorem execMov_wf {f} : Answers (execMov f s) := issue_wf h fun i en s hs => compute_keeps i en s hs
theorem execLea_wf {f} : Answers (execLea f s) := issue_wf h fun i en s hs => compute_keeps i en s hs
theorem execFfma_wf {f} : Answers (execFfma f s) := issue_wf h fun i en s hs => compute_keeps i en s hs
theorem execFdiv_wf {f} : Answers (execFdiv f s) := issue_wf h fun i en s hs => compute_keeps i en s hs
theorem execFrsq_wf {f} : Answers (execFrsq f s) := issue_wf h fun i en s hs => compute_keeps i en s hs
theorem execFclass_wf {f} : Answers (execFclass f s) := issue_wf h fun i en s hs => compute_keeps i en s hs
theorem execCvt_wf {x f} : Answers (execCvt x f s) := issue_wf h fun i en s hs => compute_keeps i en s hs
theorem execCvtq_wf {x f} : Answers (execCvtq x f s) := issue_wf h fun i en s hs => compute_keeps i en s hs
theorem execCvtw_wf {x f} : Answers (execCvtw x f s) := issue_wf h fun i en s hs => compute_keeps i en s hs
theorem execDot2_wf {f} : Answers (execDot2 f s) := issue_wf h fun i en s hs => compute_keeps i en s hs
theorem execDot4_wf {f} : Answers (execDot4 f s) := issue_wf h fun i en s hs => compute_keeps i en s hs
theorem execPack_wf {f} : Answers (execPack f s) := issue_wf h fun i en s hs => compute_keeps i en s hs
theorem execBsel_wf {f} : Answers (execBsel f s) := issue_wf h fun i en s hs => compute_keeps i en s hs

theorem execKand_wf {f} : Answers (execKand f s) := issue_wf h fun i en s hs => kBody_keeps i en s hs
theorem execKor_wf {f} : Answers (execKor f s) := issue_wf h fun i en s hs => kBody_keeps i en s hs
theorem execKxor_wf {f} : Answers (execKxor f s) := issue_wf h fun i en s hs => kBody_keeps i en s hs
theorem execKandn_wf {f} : Answers (execKandn f s) := issue_wf h fun i en s hs => kBody_keeps i en s hs
theorem execKnot_wf {f} : Answers (execKnot f s) := issue_wf h fun i en s hs => kBody_keeps i en s hs

theorem execFadd_wf {f} : Answers (execFadd f s) := issue_wf h fun i en s hs => floatBody2_keeps i en s hs
theorem execFsub_wf {f} : Answers (execFsub f s) := issue_wf h fun i en s hs => floatBody2_keeps i en s hs
theorem execFmul_wf {f} : Answers (execFmul f s) := issue_wf h fun i en s hs => floatBody2_keeps i en s hs
theorem execFmin_wf {f} : Answers (execFmin f s) := issue_wf h fun i en s hs => floatBody2_keeps i en s hs
theorem execFmax_wf {f} : Answers (execFmax f s) := issue_wf h fun i en s hs => floatBody2_keeps i en s hs

theorem execFabs_wf {f} : Answers (execFabs f s) := issue_wf h fun i en s hs => floatBody1_keeps i en s hs
theorem execFsqrt_wf {f} : Answers (execFsqrt f s) := issue_wf h fun i en s hs => floatBody1_keeps i en s hs
theorem execFrcp_wf {f} : Answers (execFrcp f s) := issue_wf h fun i en s hs => floatBody1_keeps i en s hs

theorem execFexp2_wf {f} : Answers (execFexp2 f s) := issue_wf h fun i en s hs => approxBody_keeps i en s hs
theorem execFlog2_wf {f} : Answers (execFlog2 f s) := issue_wf h fun i en s hs => approxBody_keeps i en s hs
theorem execFsin_wf {f} : Answers (execFsin f s) := issue_wf h fun i en s hs => approxBody_keeps i en s hs
theorem execFcos_wf {f} : Answers (execFcos f s) := issue_wf h fun i en s hs => approxBody_keeps i en s hs
theorem execFtanh_wf {f} : Answers (execFtanh f s) := issue_wf h fun i en s hs => approxBody_keeps i en s hs

theorem execLgetAt_wf {f} : Answers (execLgetAt f s) := issue_wf h fun i en s hs => lgetA_keeps i en s hs
theorem execLgetFlip_wf {f} : Answers (execLgetFlip f s) := issue_wf h fun i en s hs => lgetA_keeps i en s hs

theorem execLshup_wf {f} : Answers (execLshup f s) := issue_wf h fun i en s hs => lshBody_keeps i en s hs
theorem execLshdn_wf {f} : Answers (execLshdn f s) := issue_wf h fun i en s hs => lshBody_keeps i en s hs

theorem execLfold_wf {x f} : Answers (execLfold x f s) := issue_wf h fun i en s hs => foldBody_keeps i en s hs
theorem execLpfx_wf {x f} : Answers (execLpfx x f s) := issue_wf h fun i en s hs => foldBody_keeps i en s hs

theorem execLd_wf {f} : Answers (execLd f s) := issue_wf h fun i en s hs => load_keeps i en s hs
theorem execLdN8_wf {f} : Answers (execLdN8 f s) := issue_wf h fun i en s hs => load_keeps i en s hs
theorem execLdS8_wf {f} : Answers (execLdS8 f s) := issue_wf h fun i en s hs => load_keeps i en s hs
theorem execLdN16_wf {f} : Answers (execLdN16 f s) := issue_wf h fun i en s hs => load_keeps i en s hs
theorem execLdS16_wf {f} : Answers (execLdS16 f s) := issue_wf h fun i en s hs => load_keeps i en s hs
theorem execSt_wf {f} : Answers (execSt f s) := issue_wf h fun i en s hs => store_keeps i en s hs
theorem execStB8_wf {f} : Answers (execStB8 f s) := issue_wf h fun i en s hs => store_keeps i en s hs
theorem execStB16_wf {f} : Answers (execStB16 f s) := issue_wf h fun i en s hs => store_keeps i en s hs

theorem execAtom_wf {x f} : Answers (execAtom x f s) := issue_wf h fun i en s hs => atomBody_keeps i en s hs
theorem execRed_wf {x f} : Answers (execRed x f s) := issue_wf h fun i en s hs => atomBody_keeps i en s hs

theorem execBarGrp_wf {f} : Answers (execBarGrp f s) := issueHold_wf h barBody_keeps
theorem execBarClu_wf {f} : Answers (execBarClu f s) := issueHold_wf h barBody_keeps

theorem execPushf_wf {f} : Answers (execPushf f s) := issue_wf h pushfBody_keeps
theorem execPushfRow_wf {f} : Answers (execPushfRow f s) := issue_wf h pushfBody_keeps
theorem execPushfAll_wf {f} : Answers (execPushfAll f s) := issue_wf h pushfBody_keeps
theorem execPushfAllRow_wf {f} : Answers (execPushfAllRow f s) := issue_wf h pushfBody_keeps

theorem execEngCopy_wf {f} : Answers (execEngCopy f s) := issue_wf h engBody_keeps
theorem execEngFill_wf {f} : Answers (execEngFill f s) := issue_wf h engBody_keeps
theorem execEngGsubmit_wf {f} : Answers (execEngGsubmit f s) := issue_wf h engBody_keeps
theorem execEngGsignal_wf {f} : Answers (execEngGsignal f s) := issue_wf h engBody_keeps
theorem execEngGwatch_wf {f} : Answers (execEngGwatch f s) := issue_wf h engBody_keeps
theorem execEngDappend_wf {f} : Answers (execEngDappend f s) := issue_wf h engBody_keeps
theorem execEngDdrain_wf {f} : Answers (execEngDdrain f s) := issue_wf h engBody_keeps

theorem execEngAllreduce_wf {f} : Answers (execEngAllreduce f s) := issue_wf h collBody_keeps
theorem execEngAllgather_wf {f} : Answers (execEngAllgather f s) := issue_wf h collBody_keeps
theorem execEngBcast_wf {f} : Answers (execEngBcast f s) := issue_wf h collBody_keeps

theorem execTex_wf {f} : Answers (execTex f s) := issueHold_wf h texBody_keeps
theorem execTexWait_wf {f} : Answers (execTexWait f s) := issueHold_wf h texBody_keeps
theorem execTld_wf {f} : Answers (execTld f s) := issueHold_wf h texBody_keeps

end

end Sys2Proof.Machine
end

section
/-! PROOFS. Memory keeps its canonical form: every instruction and every step. -/

namespace Sys2Proof.Machine

open Sys2Proof

theorem pick_memOk {n} {ts : List State} (hts : ∀ t ∈ ts, t.MemOk) : Maybe State.MemOk (pick n ts) := by
  unfold pick
  split
  · cases ts with
    | nil => trivial
    | cons t ts => exact hts t List.mem_cons_self
  · generalize hg : ts[Config.freeNat n % ts.length]? = o
    cases o with
    | none => trivial
    | some t => exact hts t (List.mem_of_getElem? hg)

section
variable {s : State} (h : s.MemOk)
include h

/-- Every instruction and event, by the body it shares or its own lemma. -/
theorem exec_wf {i : Instr} : Answers (exec i s) := by
  cases i with
  | nop f => exact execNop_wf h
  | bra f => exact execBra_wf h
  | jmp f => exact execJmp_wf h
  | brx f => exact execBrx_wf h
  | call f => exact execCall_wf h
  | calli f => exact execCalli_wf h
  | ret f => exact execRet_wf h
  | exit f => exact execExit_wf h
  | alloc f => exact execAlloc_wf h
  | split f => exact execSplit_wf h
  | rejoin f => exact execRejoin_wf h
  | repeatImm f => exact execRepeatImm_wf h
  | repeatReg f => exact execRepeatReg_wf h
  | iadd f => exact execIadd_wf h
  | isub f => exact execIsub_wf h
  | imul f => exact execImul_wf h
  | imulhi f => exact execImulhi_wf h
  | imad f => exact execImad_wf h
  | iadd3 f => exact execIadd3_wf h
  | addmin f => exact execAddmin_wf h
  | addmax f => exact execAddmax_wf h
  | imin f => exact execImin_wf h
  | imax f => exact execImax_wf h
  | min3 f => exact execMin3_wf h
  | max3 f => exact execMax3_wf h
  | iabs f => exact execIabs_wf h
  | ineg f => exact execIneg_wf h
  | isad f => exact execIsad_wf h
  | idiv f => exact execIdiv_wf h
  | irem f => exact execIrem_wf h
  | land f => exact execLand_wf h
  | lor f => exact execLor_wf h
  | lxor f => exact execLxor_wf h
  | landn f => exact execLandn_wf h
  | lorn f => exact execLorn_wf h
  | lnot f => exact execLnot_wf h
  | shl f => exact execShl_wf h
  | shr f => exact execShr_wf h
  | sar f => exact execSar_wf h
  | rol f => exact execRol_wf h
  | ror f => exact execRor_wf h
  | fshl f => exact execFshl_wf h
  | fshr f => exact execFshr_wf h
  | bfx f => exact execBfx_wf h
  | bfi f => exact execBfi_wf h
  | popc f => exact execPopc_wf h
  | clz f => exact execClz_wf h
  | ctz f => exact execCtz_wf h
  | brev f => exact execBrev_wf h
  | icmp x f => exact execIcmp_wf h
  | mov f => exact execMov_wf h
  | sel f => exact execSel_wf h
  | kand f => exact execKand_wf h
  | kor f => exact execKor_wf h
  | kxor f => exact execKxor_wf h
  | kandn f => exact execKandn_wf h
  | knot f => exact execKnot_wf h
  | kget f => exact execKget_wf h
  | kset f => exact execKset_wf h
  | lea f => exact execLea_wf h
  | fadd f => exact execFadd_wf h
  | fsub f => exact execFsub_wf h
  | fmul f => exact execFmul_wf h
  | ffma f => exact execFfma_wf h
  | fmin f => exact execFmin_wf h
  | fmax f => exact execFmax_wf h
  | fabs f => exact execFabs_wf h
  | fdiv f => exact execFdiv_wf h
  | fsqrt f => exact execFsqrt_wf h
  | frcp f => exact execFrcp_wf h
  | frsq f => exact execFrsq_wf h
  | fexp2 f => exact execFexp2_wf h
  | flog2 f => exact execFlog2_wf h
  | fsin f => exact execFsin_wf h
  | fcos f => exact execFcos_wf h
  | ftanh f => exact execFtanh_wf h
  | fcmp x f => exact execFcmp_wf h
  | fclass f => exact execFclass_wf h
  | cvt x f => exact execCvt_wf h
  | cvtq x f => exact execCvtq_wf h
  | cvtw x f => exact execCvtw_wf h
  | dot2 f => exact execDot2_wf h
  | dot4 f => exact execDot4_wf h
  | pack f => exact execPack_wf h
  | bsel f => exact execBsel_wf h
  | lgetAt f => exact execLgetAt_wf h
  | lgetFlip f => exact execLgetFlip_wf h
  | lshup f => exact execLshup_wf h
  | lshdn f => exact execLshdn_wf h
  | kpollAll f => exact execKpollAll_wf h
  | kpollAny f => exact execKpollAny_wf h
  | kpollWord f => exact execKpollWord_wf h
  | lpeerEq f => exact execLpeerEq_wf h
  | lpeerUni f => exact execLpeerUni_wf h
  | lfold x f => exact execLfold_wf h
  | lpfx x f => exact execLpfx_wf h
  | ld f => exact execLd_wf h
  | ldN8 f => exact execLdN8_wf h
  | ldS8 f => exact execLdS8_wf h
  | ldN16 f => exact execLdN16_wf h
  | ldS16 f => exact execLdS16_wf h
  | st f => exact execSt_wf h
  | stB8 f => exact execStB8_wf h
  | stB16 f => exact execStB16_wf h
  | pref f => exact execPref_wf h
  | atom x f => exact execAtom_wf h
  | red x f => exact execRed_wf h
  | fence f => exact execFence_wf h
  | fenceUn f => exact execFenceUn_wf h
  | waitf x f => exact execWaitf_wf h
  | barGrp f => exact execBarGrp_wf h
  | barClu f => exact execBarClu_wf h
  | xbegin f => exact execXbegin_wf h
  | xend f => exact execXend_wf h
  | xabort f => exact execXabort_wf h
  | xtest f => exact execXtest_wf h
  | pushf f => exact execPushf_wf h
  | pushfRow f => exact execPushfRow_wf h
  | pushfAll f => exact execPushfAll_wf h
  | pushfAllRow f => exact execPushfAllRow_wf h
  | popf f => exact execPopf_wf h
  | pushb f => exact execPushb_wf h
  | popb f => exact execPopb_wf h
  | streamCfg f => exact execStreamCfg_wf h
  | streamGo f => exact execStreamGo_wf h
  | engCopy f => exact execEngCopy_wf h
  | engFill f => exact execEngFill_wf h
  | engGsubmit f => exact execEngGsubmit_wf h
  | engGsignal f => exact execEngGsignal_wf h
  | engGwatch f => exact execEngGwatch_wf h
  | engDappend f => exact execEngDappend_wf h
  | engDdrain f => exact execEngDdrain_wf h
  | engAllreduce f => exact execEngAllreduce_wf h
  | engAllgather f => exact execEngAllgather_wf h
  | engBcast f => exact execEngBcast_wf h
  | mloadb f => exact execMloadb_wf h
  | mma f => exact execMma_wf h
  | mcommit f => exact execMcommit_wf h
  | mdiscard f => exact execMdiscard_wf h
  | mzero f => exact execMzero_wf h
  | mdrain f => exact execMdrain_wf h
  | ttld f => exact execTtld_wf h
  | ttst f => exact execTtst_wf h
  | ttinv f => exact execTtinv_wf h
  | rsvinit f => exact execRsvinit_wf h
  | rsvupd f => exact execRsvupd_wf h
  | rsvmrg f => exact execRsvmrg_wf h
  | rsvfin f => exact execRsvfin_wf h
  | rsvget x f => exact execRsvget_wf h
  | rsvput x f => exact execRsvput_wf h
  | rsvseed f => exact execRsvseed_wf h
  | cainit f => exact execCainit_wf h
  | caadd f => exact execCaadd_wf h
  | caflush f => exact execCaflush_wf h
  | caresolve f => exact execCaresolve_wf h
  | careplay f => exact execCareplay_wf h
  | castat f => exact execCastat_wf h
  | fetchwk f => exact execFetchwk_wf h
  | pqpush f => exact execPqpush_wf h
  | pqpop f => exact execPqpop_wf h
  | wlpush f => exact execWlpush_wf h
  | wlpop f => exact execWlpop_wf h
  | quiesce f => exact execQuiesce_wf h
  | tex f => exact execTex_wf h
  | texWait f => exact execTexWait_wf h
  | tld f => exact execTld_wf h
  | rayq f => exact execRayq_wf h
  | rayres f => exact execRayres_wf h
  | atlasreq f => exact execAtlasreq_wf h
  | emit f => exact execEmit_wf h
  | trap f => exact execTrap_wf h
  | brkpt f => exact execBrkpt_wf h
  | rdsr f => exact execRdsr_wf h
  | wrsr f => exact execWrsr_wf h
  | tret f => exact execTret_wf h
  | tlbinv f => exact execTlbinv_wf h
  | fork f => exact execFork_wf h
  | cflush f => exact execCflush_wf h
  | runStart core slot => exact execRunStart_wf h
  | resultArrival u => exact execResultArrival_wf h
  | spillTransferDone core rgs band lane => exact execSpillTransferDone_wf h
  | queueProtocolDetect core rgs => exact execQueueProtocolDetect_wf h
  | placeGroup session => exact execPlaceGroup_wf h
  | placeCluster session => exact execPlaceCluster_wf h
  | fetchwkServe session => exact execFetchwkServe_wf h
  | groupFinish core rgs => exact execGroupFinish_wf h
  | retiringEnd core gid => exact execRetiringEnd_wf h
  | streamPush core rgs stream => exact execStreamPush_wf h
  | rejoinRelease core rgs band => exact execRejoinRelease_wf h
  | barrierComplete core rgs cluster => exact execBarrierComplete_wf h
  | waitfSatisfy u lane => exact execWaitfSatisfy_wf h
  | transactionConflict core rgs band lane => exact execTransactionConflict_wf h
  | commitTokenGrant session => exact execCommitTokenGrant_wf h
  | matrixEngineStart core => exact execMatrixEngineStart_wf h
  | matrixEngineEnd core => exact execMatrixEngineEnd_wf h
  | slotLoadComplete core => exact execSlotLoadComplete_wf h
  | slotReload core rgs band => exact execSlotReload_wf h
  | pqPopServe die => exact execPqPopServe_wf h
  | listRequestServe session launch list => exact execListRequestServe_wf h
  | quiescenceVerdict session launch => exact execQuiescenceVerdict_wf h
  | copyComplete cmd => exact execCopyComplete_wf h
  | nodeFinish session node => exact execNodeFinish_wf h
  | collectiveComplete session cluster => exact execCollectiveComplete_wf h
  | heldEngineWrite cmd => exact execHeldEngineWrite_wf h
  | textureStreamComplete stream => exact execTextureStreamComplete_wf h
  | textureStreamFail stream => exact execTextureStreamFail_wf h
  | rayTraversed core rgs band lane handle => exact execRayTraversed_wf h
  | triangleRecord ring => exact execTriangleRecord_wf h
  | binCommit bin => exact execBinCommit_wf h
  | binReplay bin => exact execBinReplay_wf h
  | splatRecord ring => exact execSplatRecord_wf h
  | flushRecord ring => exact execFlushRecord_wf h
  | frameRecord ring => exact execFrameRecord_wf h
  | encodeDone engine => exact execEncodeDone_wf h
  | atlasRecordAccept core rgs band lane => exact execAtlasRecordAccept_wf h
  | versionCommit session launch => exact execVersionCommit_wf h
  | serialTokenGrant session launch => exact execSerialTokenGrant_wf h
  | trapRecordWrite u => exact execTrapRecordWrite_wf h
  | faultServiceResult session batch => exact execFaultServiceResult_wf h
  | tlbWalk core session va => exact execTlbWalk_wf h
  | copyOnWrite session va subs => exact execCopyOnWrite_wf h
  | sliceEnd core => exact execSliceEnd_wf h
  | sliceHalfway core => exact execSliceHalfway_wf h
  | graceExpire core => exact execGraceExpire_wf h
  | contextQuiesce core => exact execContextQuiesce_wf h
  | contextExchange core => exact execContextExchange_wf h
  | contextSpill core => exact execContextSpill_wf h
  | contextPreload core => exact execContextPreload_wf h
  | coreGrant core => exact execCoreGrant_wf h
  | waitBudgetExpire core => exact execWaitBudgetExpire_wf h
  | watchdogFire queue => exact execWatchdogFire_wf h
  | resetComplete session => exact execResetComplete_wf h
  | launchComplete session launch => exact execLaunchComplete_wf h
  | errorCorrected region => exact execErrorCorrected_wf h
  | errorUncorrected site => exact execErrorUncorrected_wf h
  | registerWrite off value => exact execRegisterWrite_wf h
  | hostWrite pa data => exact execHostWrite_wf h
  | hostRead pa len => exact execHostRead_wf h
  | linkRequestTimeout req => exact execLinkRequestTimeout_wf h
  | powerGate d => exact execPowerGate_wf h
  | powerWake d => exact execPowerWake_wf h
  | unassignedOpcode word => exact execUnassignedOpcode_wf h
  | hostAtomic op pa wide operand compare => exact execHostAtomic_wf h
  | faultRecordWrite u => exact execFaultRecordWrite_wf h
  | mergePage => exact execMergePage_wf h
  | doorbell => exact execDoorbell_wf h
  | queueMap => exact execQueueMap_wf h
  | queueUnmapIdle => exact execQueueUnmapIdle_wf h
  | cpNop => exact execCpNop_wf h
  | launch => exact execLaunch_wf h
  | launchi => exact execLaunchi_wf h
  | cpCopy => exact execCpCopy_wf h
  | cpWait => exact execCpWait_wf h
  | signal => exact execSignal_wf h
  | loop => exact execLoop_wf h
  | endloop => exact execEndloop_wf h
  | cond => exact execCond_wf h
  | graph => exact execGraph_wf h
  | snapshotOpen => exact execSnapshotOpen_wf h
  | snapshotPublish => exact execSnapshotPublish_wf h
  | snapshotClose => exact execSnapshotClose_wf h
  | resume => exact execResume_wf h
  | worldFree => exact execWorldFree_wf h
  | create => exact execCreate_wf h
  | destroy => exact execDestroy_wf h
  | freeze => exact execFreeze_wf h
  | thaw => exact execThaw_wf h
  | scmdReset => exact execScmdReset_wf h
  | provision => exact execProvision_wf h
  | activate => exact execActivate_wf h
  | bind => exact execBind_wf h
  | retire => exact execRetire_wf h
  | revoke => exact execRevoke_wf h
  | clear => exact execClear_wf h
  | evidence => exact execEvidence_wf h
  | unlock => exact execUnlock_wf h
  | domainKey => exact execDomainKey_wf h
  | keySlotEmpty => exact execKeySlotEmpty_wf h
  | alarmpolWrite => exact execAlarmpolWrite_wf h
  | euWindowEnd => exact execEuWindowEnd_wf h
  | lock => exact execLock_wf h
  | run => exact execRun_wf h
  | hlScrub => exact execHlScrub_wf h
  | hhDrop => exact execHhDrop_wf h
  | dbmSwap => exact execDbmSwap_wf h
  | dbmSwapComplete => exact execDbmSwapComplete_wf h
  | linkDown => exact execLinkDown_wf h
  | moduleReset => exact execModuleReset_wf h
  | releasedFramePush => exact execReleasedFramePush_wf h
  | sensorAlarm => exact execSensorAlarm_wf h
  | keystoreAlarm => exact execKeystoreAlarm_wf h
  | linkUp => exact execLinkUp_wf h

theorem State.mayFill_wf {core} : (s.mayFill core).MemOk := by
  unfold State.mayFill
  grind [execTlbWalk_wf, Answers]

theorem State.issueTurn_wf {t} : Answers (s.issueTurn t) := by
  unfold State.issueTurn
  dsimp only
  split
  · cases t.slot with
    | none => exact h
    | some k => simpa [State.MemOk] using h
  split
  · cases t.slot with
    | none => exact h
    | some k => simpa [State.MemOk] using h
  split
  · have htrap {i m e} : (({ s with issuer := some t.unit } : State).takeTrap i m e).MemOk :=
      State.takeTrap_wf (s := { s with issuer := some t.unit }) h
    cases t.slot with
    | none => simpa [State.MemOk] using htrap
    | some k => simpa [State.MemOk] using htrap
  · generalize hr : exec _ _ = r
    have hexec : Answers r := hr ▸ exec_wf (by simpa [State.MemOk] using h)
    split
    · cases t.slot with
      | none => simpa [State.MemOk] using hexec
      | some k => simpa [State.MemOk] using hexec
    · trivial
    · trivial

theorem State.issueStep_wf {t} : Answers (s.issueStep t) := by
  unfold State.issueStep
  grind [State.issueTurn_wf, State.finish_wf, State.mayFill_wf, Answers]

theorem State.takeNext_wf {kept is} : Maybe Answers (s.takeNext kept is) := by
  induction is generalizing kept with
  | nil => trivial
  | cons i rest ih =>
    unfold State.takeNext
    have hexec : Answers (exec i { s with agenda := kept ++ rest }) := exec_wf (s := { s with agenda := kept ++ rest }) h
    grind [State.finish_wf, Answers, Maybe]

/-! ### The steps that are open (02 R29) -/

theorem cpMoves_memOk {p} : ∀ m ∈ s.cpMoves p, m.1.MemOk := by
  intro m hm
  unfold State.cpMoves at hm
  dsimp only at hm
  generalize hfound : List.findSome? _ _ = found at hm
  cases found with
  | none => exact absurd hm List.not_mem_nil
  | some ms =>
    obtain ⟨k, -, hk⟩ := List.exists_of_findSome?_eq_some hfound
    split at hk
    · cases hk
    · cases hk
      obtain ⟨i, -, rfl⟩ := List.mem_map.mp (List.mem_filter.mp hm).1
      exact h

theorem queueMoves_memOk : ∀ m ∈ s.queueMoves, m.1.MemOk := by
  intro m hm
  simp only [State.queueMoves, List.mem_append, List.mem_flatMap] at hm
  rcases hm with ((hm | hm) | ⟨q, -, hm⟩) | ⟨p, -, hm⟩
  · grind
  · grind
  · grind
  · exact cpMoves_memOk h m hm

theorem moves_memOk : ∀ m ∈ s.moves, m.1.MemOk := by
  intro m hm
  unfold State.moves at hm
  rcases List.mem_append.mp hm with hm | hm
  · obtain ⟨i, -, rfl⟩ := List.mem_map.mp hm
    exact h
  · exact queueMoves_memOk h m hm

omit h in
theorem Move.opens_memOk {m : Move} (hm : m.1.MemOk) : Maybe State.MemOk m.opens := by
  have hexec : Answers (exec m.2 m.1) := exec_wf hm
  unfold Move.opens
  grind [Answers, Maybe]

theorem State.open_memOk : ∀ t ∈ s.open_, t.MemOk := by
  intro t ht
  simp only [State.open_, List.mem_map, List.mem_filter, List.mem_filterMap] at ht
  obtain ⟨e, ⟨⟨m, hm, hopens⟩, -⟩, rfl⟩ := ht
  obtain ⟨u, hu, rfl⟩ := Option.map_eq_some_iff.mp hopens
  exact (Move.opens_memOk (moves_memOk h m hm)).of_some hu

theorem State.internal_wf : Answers s.internal := by
  unfold State.internal
  split
  · split
    · exact State.finish_wf h
    · exact State.issueStep_wf h
  · split
    · exact State.finish_wf (getD_memOk (pick_memOk (State.open_memOk h)) h)
    · split
      · exact State.finish_wf h
      · exact State.issueStep_wf h

theorem State.cycle_wf : Answers s.cycle := by
  unfold State.cycle
  cases hnext : s.takeNext [] s.agenda with
  | none => exact State.internal_wf h
  | some r => exact (State.takeNext_wf h).of_some hnext

end

/-- Settles O55: the answer of every instruction and event of the model keeps the canonical form of memory (`exec_wf`),
and a step is such answers and the settling after them. -/
theorem stepKeepsMemoryForm : Obligations.StepKeepsMemoryForm := by
  intro s t h hstep
  have hcycle : Answers s.cycle := State.cycle_wf h
  rw [show s.cycle = .next t from hstep] at hcycle
  exact hcycle

end Sys2Proof.Machine
end
